-- ==== Sys2Proof/Word.lean ====
section
/-! DEFINITION. The word types of the model and the shape of its sparse maps. -/

namespace Sys2Proof

/-- A 32-bit register, step number or packet payload. -/
abbrev Word := BitVec 32

/-- A byte of local data memory, of the depot or of a command payload. -/
abbrev Byte := BitVec 8

/-- A 512-bit row-store line, ring slot or bale (spec/05_synapse_storage.md R167,
spec/13_host_interface.md R407). -/
abbrev Line := BitVec 512

/-- A sparse map from a number to a value: pairs with rising keys, none of which holds the value
that an unlisted key reads as. A memory is the case `α = Byte`, which is a list of `Host.Cell`. -/
abbrev NMap (α : Type) := List (Nat × α)

end Sys2Proof
end

