-- ==== Sys2Proof/Syntax.lean ====
section
/-! DEFINITION. The commands of the block: one constructor of `Instr` for each row of
spec/opcode_table.json. The table gives its rows no operand fields, so the operands are the model's
(assumption 1): what an outside party or the environment brings to the step. -/

namespace Sys2Proof

/-- A fabric packet (spec/11_fabric_tolls.md R346-R349): the 128-bit head, the 256-bit data flits of a
long packet, and what travels beside them: the activity class (R356), the dateline class (R391),
the master identity that the port of origin stamped (spec/01_device_organisation.md R37), and for depot data the bursts whose
ECC reported an uncorrectable error (spec/05_synapse_storage.md R181). -/
structure Packet where
  head  : BitVec 128
  flits : List (BitVec 256) := []
  cls   : BitVec 3 := 0
  dc    : Bool := false
  mid   : BitVec 4 := 0xB
  ue    : List Nat := []
  deriving DecidableEq, Repr

/-- A request that reaches a lane of the depot (spec/11_fabric_tolls.md R348) and the bursts at which a fault makes the ECC report an
uncorrectable error (spec/05_synapse_storage.md R181). -/
structure DepotRequest where
  pkt     : Packet
  failing : List Nat
  deriving DecidableEq, Repr

/-- A run of a core's handler unit and the instructions at which it meets an uncorrectable ECC error
(spec/08_handler_unit.md R267). -/
structure HandlerRun where
  core    : Nat
  failing : List Nat
  deriving DecidableEq, Repr

/-- A convoy action record: its 16-byte header and its data bytes (spec/10_convoys.md R327). -/
structure ActionRecord where
  header : BitVec 128
  data   : List Byte := []
  deriving DecidableEq, Repr

/-- A member of a convoy: a core or the hub of a device (spec/10_convoys.md R324). -/
inductive Member where
  | core (n : Nat)
  | hub
  deriving DecidableEq, Repr

/-- A member's answer to PREPARE (spec/10_convoys.md R337, R338). -/
inductive Answer where
  | ready (h : Word)
  | abort (code : BitVec 8) (reason : BitVec 8)
  deriving DecidableEq, Repr

/-- One failure that a test of a physical tile finds (spec/19_bringup_selftest.md R544, R547); `mem` 15
is a logic failure, 7 the waystation buffers. -/
structure TestFailure where
  px    : Nat
  py    : Nat
  mem   : Nat
  array : Nat
  row   : Nat
  deriving DecidableEq, Repr

/-- The wake sources of spec/17_power.md R504. -/
inductive WakeSource where
  | host
  | sdio
  | trigger (pin : Nat)
  | timer
  | link
  deriving DecidableEq, Repr

/-- The triggers of a warm reset (spec/14_contexts_recovery.md R448, R449). -/
inductive WarmCause where
  | register
  | functionLevel
  | clock
  | tamper
  | extest
  deriving DecidableEq, Repr

/-- The triggers of a compute reset (spec/14_contexts_recovery.md R448, R449). -/
inductive ComputeCause where
  | register
  | brownOut
  | drain
  deriving DecidableEq, Repr

/-- The causes of a management restart, as MBX_RCAUSE.CAUSE codes them
(spec/15_management_mailboxes.md R476). -/
inductive RestartCause where
  | watchdog
  | sramError
  | parity
  | selfCheck
  | register
  deriving DecidableEq, Repr

/-- The TAP instructions of spec/18_security_debug.md R531. -/
inductive JtagIns where
  | idcode
  | bypass
  | samplePreload
  | extest
  | dap
  deriving DecidableEq, Repr

/-- A link frame (spec/12_osust_links.md R378): header, 25 slot controls, 25 slots, CRC. -/
structure Frame where
  hdr   : BitVec 48
  ctls  : List (BitVec 16)
  slots : List (BitVec 256)
  crc   : BitVec 32
  deriving DecidableEq, Repr

/-- A frame as the sixteen lanes deliver it: 430 data bits of each lane in [429:0] and its 18 parity bits in [447:430], with
whatever bit errors the channel made (spec/12_osust_links.md R379). -/
structure RxFrame where
  lanes : List (BitVec 448)
  deriving DecidableEq, Repr

/-- What a peer sends in PARAM (spec/12_osust_links.md R385). -/
structure PeerParams where
  dev      : BitVec 9
  port     : BitVec 3
  shape    : Word
  frontEnd : Bool
  deriving DecidableEq, Repr

/-- The commands of the block, in the order of spec/opcode_table.json. An operand `h` is the handle of
a fetched host command (spec/13_host_interface.md R410), `core` a logical core number, `pkt` a packet that
arrives, `mid` the master of a register access. -/
inductive Instr where
  /-- SQ_DOORBELL (R409). A host write to an SQ doorbell publishes a new tail, or is discarded with DBERR and a customs log entry. -/
  | sqDoorbell (n : Nat) (value : Word)
  /-- CQ_DOORBELL (R415). A host write to a CQ doorbell publishes a new head, which frees completion entries. -/
  | cqDoorbell (n : Nat) (value : Word)
  /-- COMMAND_FETCH (R410). The hub serves an enabled SQ in round robin, reads one manifest with its bales, advances the head and checks the manifest. -/
  | commandFetch (slots : List Line)
  /-- COMPLETION_HOLD_RELEASE (R415). A group held for lack of free CQ entries is written once entries free. -/
  | completionHoldRelease (cq : Nat)
  /-- CQ_COALESCE_TIMER (R415). COAL_US expires after the first unsignalled entry and the ring's MSI-X vector is raised. -/
  | cqCoalesceTimer (cq : Nat)
  /-- COMMAND_TIMEOUT (R418). A command's timer expires: the command completes with TIMEOUT, and its context is reset when RESET_ON_TIMEOUT is set. -/
  | commandTimeout (h : Nat)
  /-- MGMT_COMMAND_TAKE (R456). Hart 0 or hart 1 takes the next management-path command of its group from the hardware queue. -/
  | mgmtCommandTake (hart : Nat) (waitedUs : Nat)
  /-- NOP (R421). Completes with RESULT equal to W0. -/
  | nop (h : Nat)
  /-- CONTEXT_CREATE (R421). Creates a shard with its W, overrun policy, pacing, notice CQ, depot regions, keys and toll shares, and increments its generation. -/
  | contextCreate (h : Nat)
  /-- CONTEXT_DESTROY (R439). Zeroes the memories of a stopped shard, unbinds its cores and releases its regions, keys, pace timer and toll shares. -/
  | contextDestroy (h : Nat)
  /-- CONTEXT_RESET (R444). Starts the removal, generation and drain stages of a context reset. -/
  | contextReset (h : Nat)
  /-- CONTEXT_RESET_DRAIN_DONE (R444). No buffer holds packets of the old generation any more; the shard enters STOPPED and CONTEXT_RESET completes with the new generation. -/
  | contextResetDrainDone (ctx : Nat)
  /-- CONTEXT_RESET_DRAIN_TIMEOUT (R444). The drain still reports after 20 µs: the command completes with UNCORRECTABLE and a compute reset starts. -/
  | contextResetDrainTimeout (ctx : Nat)
  /-- LOAD_SECTION_DATA (R421). Moves bales through the depot DMA into the context's north region at the given offset. -/
  | loadSectionData (h : Nat)
  /-- LOAD_SECTION_COMMIT (R438). Checks a section image against everything already loaded, and then binds its cores, applies its records and extends the measurement, or refuses it whole. -/
  | loadSectionCommit (h : Nat)
  /-- LOAD_SECTION_COMPACT (R221). Firmware empties every fully dormant learned S4 row in one IMMEDIATE convoy and reports the number of rows removed. -/
  | loadSectionCompact (h : Nat)
  /-- START (R440). Seeds every LFSR, resets step, credit and stream state, sets streams to RUNNING and starts the pace timer. -/
  | start (h : Nat)
  /-- STOP (R441). Writes the run limit H + 1 to every core of the shard. -/
  | stop (h : Nat)
  /-- STOP_DONE (R441). All cores wait at H + 1: the pace stops, streams return to OPEN or CLOSED, run-time channels close and STOP completes. -/
  | stopDone (ctx : Nat)
  /-- STEP_RUN (R141). The command router writes the run limit and FREE to every core of the shard. -/
  | stepRun (h : Nat)
  /-- STEP_RUN_WAIT_DONE (R421). Every core of the shard waits at STEP = L, and a STEP_RUN with WAIT completes. -/
  | stepRunWaitDone (h : Nat)
  /-- PACE_SET (R485). Puts a timer into pace mode for the context with P, O and T0, or moves the pace to another timer. -/
  | paceSet (h : Nat)
  /-- MODULATOR_SET (R207). Delivers a modulator write, with a named step or NOW, to every core of the shard. -/
  | modulatorSet (h : Nat)
  /-- STREAM_OPEN (R232). Checks a stream descriptor and opens the ingest stream, through an IMMEDIATE convoy when the context runs. -/
  | streamOpen (h : Nat)
  /-- STREAM_PUSH (R235). The ingest engine takes the rows of a push, gives each its step, quantises and encodes it, and sends its events. -/
  | streamPush (h : Nat)
  /-- STREAM_CLOSE (R230). Closes an OPEN stream at once, or moves a RUNNING stream to IDLE once its rows are processed. -/
  | streamClose (h : Nat)
  /-- RESULT_OPEN (R247). Checks a result descriptor and its ranges and opens the result stream. -/
  | resultOpen (h : Nat)
  /-- RESULT_CLOSE (R421). Closes a result stream and discards its held records. -/
  | resultClose (h : Nat)
  /-- QUEUE_SEND (R305). The router lands a host message in an INBOX queue and completes when the handler chain ends or the message is dropped. -/
  | queueSend (h : Nat)
  /-- CONVOY_BEGIN (R326). Opens a convoy record at the coordinator with its id, commit step or IMMEDIATE, timeout and AUTO flag. -/
  | convoyBegin (h : Nat)
  /-- CONVOY_STAGE (R327). Stages action records at their members. -/
  | convoyStage (h : Nat)
  /-- CONVOY_RECORD_STAGE (R336). A member takes a staged record, locks its object, or refuses it and reports CONFLICT. -/
  | convoyRecordStage (mid : Nat) (record : ActionRecord)
  /-- CONVOY_PREPARE (R337). The coordinator sends PREPARE to every member and relay. -/
  | convoyPrepare (h : Nat)
  /-- CONVOY_COMMIT (R337). The coordinator decides to commit a READY convoy and sends COMMIT. -/
  | convoyCommit (h : Nat)
  /-- CONVOY_ABORT (R341). Host software aborts an open or prepared convoy. -/
  | convoyAbort (h : Nat)
  /-- PREPARE_RECEIVE (R338). A member arms its barrier, performs its FILLs and checks, and answers READY or ABORT. -/
  | prepareReceive (m : Member) (tag : Nat) (sc : Option Word)
  /-- CONVOY_FILL_DONE (R340). A FILL copy from the depot into free row-store lines ends and the member's checks complete. -/
  | convoyFillDone (m : Member) (tag : Nat)
  /-- CONVOY_ANSWER (R337). The coordinator counts a READY or REFUSE answer and decides when the set completes or fails. -/
  | convoyAnswer (tag : Nat) (dev : Nat) (m : Member) (answer : Answer)
  /-- COMMIT_RECEIVE (R338). A member acknowledges COMMIT and moves its barrier to s_c. -/
  | commitReceive (m : Member) (tag : Nat) (sc : Word)
  /-- ABORT_RECEIVE (R338). A member acknowledges ABORT, releases its barrier and discards its records. -/
  | abortReceive (m : Member) (tag : Nat)
  /-- CONVOY_APPLY (R332). A member applies its committed records at the boundary before INTEGRATE of s_c. -/
  | convoyApply (m : Member)
  /-- CONVOY_ACK (R335). The coordinator counts an acknowledgement and frees the record when every member has acknowledged. -/
  | convoyAck (tag : Nat) (dev : Nat) (m : Member)
  /-- JOIN (R330). A core that staged its first record joins the convoy, or is answered ABORT after the decision. -/
  | join (tag : Nat) (dev : Nat) (core : Nat)
  /-- QUERY (R337). The coordinator answers a member's QUERY with COMMIT, ABORT or PENDING. -/
  | query (tag : Nat) (dev : Nat) (m : Member)
  /-- CONFLICT (R336). The coordinator of the convoy that staged second aborts it with CONVOY_CONFLICT. -/
  | conflict (tag : Nat) (first : Nat)
  /-- CONVOY_COORDINATOR_TIMEOUT (R337). TC expires before the decision, and the coordinator aborts with CONVOY_TIMEOUT. -/
  | convoyCoordinatorTimeout (tag : Nat)
  /-- CONVOY_MEMBER_TIMER (R338). A READY member's timer expires, and the member sends QUERY and restarts the timer. -/
  | convoyMemberTimer (m : Member) (tag : Nat)
  /-- WEIGHT_SAVE (R223). Each shard core with learned lines writes its image into the slot that does not hold Nc and then its marker, in power waves. -/
  | weightSave (h : Nat)
  /-- WEIGHT_SAVE_DONE (R225). The last keep wave ends, the save barrier is released and the command completes. -/
  | weightSaveDone (ctx : Nat)
  /-- WEIGHT_RESTORE (R226). Checks the markers and reads the newest common committed images into the row store and the depot. -/
  | weightRestore (h : Nat)
  /-- STATE_READ (R107). Returns state of a space between CLOSE and INTEGRATE and reports the step. -/
  | stateRead (h : Nat)
  /-- STATE_WRITE (R108). Writes state words or other spaces at a step boundary, or while the context is stopped. -/
  | stateWrite (h : Nat)
  /-- STATS_READ (R422). Returns tile counters, stream registers, a convoy record, the health block, the energy table or the attestation report. -/
  | statsRead (h : Nat)
  /-- FIRMWARE_UPDATE (R524). Writes one part of the inactive firmware copy, and verifies it and writes its copy record at the LAST part. -/
  | firmwareUpdate (h : Nat)
  /-- ATTEST (R526). Hart 1 builds a report with the nonce and the measurements and signs it with both identity keys. -/
  | attest (h : Nat)
  /-- LOCK (R366). Checks every toll gate and takes set-up lock, or refuses with BAD_STATE. -/
  | lock (h : Nat)
  /-- BIST_RUN (R552). Runs a memory, logic, field or full-device test on one core or on every free core. -/
  | bistRun (h : Nat)
  /-- BST_CTL_GO (R551). A GO write to BST_CTL starts a test as BIST_RUN would, in full reach. -/
  | bstCtlGo (mid : Nat) (value : Word)
  /-- BIST_DONE (R558). A test ends, appends its failures to the ledger and completes with its status. -/
  | bistDone (failures : List TestFailure)
  /-- BIST_LIMIT_STOP (R557). The thermal limit or a brown-out moves the device out of test limits and the engine stops. -/
  | bistLimitStop (completed : Nat) (failures : List TestFailure)
  /-- POWER_SET_PL (R499). POWER_SET with PL only changes PL_REQ, or completes with POWER_LIMIT. -/
  | powerSetPl (h : Nat)
  /-- POWER_SET_STATE (R502). POWER_SET enters S0 to S4 after its checks and the entry sequence. -/
  | powerSetState (h : Nat)
  /-- SLEEP_ENTRY_DONE (R503). The entry sequence of a lower power state ends and the state is reached. -/
  | sleepEntryDone
  /-- WAKE (R504). A wake source fires in S1, S2 or S3 and the device returns to S0 at WAKE_PL. -/
  | wake (source : WakeSource)
  /-- PL_CHANGE_DONE (R498). The VCORE ramp and the divisor change of a level change end. -/
  | plChangeDone
  /-- THERMAL_POLL (R500). Hart 3 reads the temperature sensors every 1 ms and moves PL_THERM. -/
  | thermalPoll (hottest : Int)
  /-- THERMAL_HW_LIMIT (R500). A sensor reads 105 °C and the effective level is forced to PL3. -/
  | thermalHwLimit
  /-- THERMAL_HW_RELEASE (R500). Every sensor reads below 100 °C and the hardware force ends. -/
  | thermalHwRelease
  /-- BROWN_OUT (R507). A rail stays below 90 % for 200 ns: compute reset, zeroisation and PL_REQ set to PL3. -/
  | brownOut (rail : Nat)
  /-- POWER_FAIL_WARNING (R494). The input falls below 39 V and the device takes the removal actions. -/
  | powerFailWarning
  /-- CURRENT_LIMIT_TRIP (R493). The 14 A limit holds for 1 ms and the hot-swap output turns off. -/
  | currentLimitTrip
  /-- CURRENT_LIMIT_RETRY (R493). The hot-swap output turns on again 1 s after a current-limit trip. -/
  | currentLimitRetry
  /-- INPUT_LOCKOUT (R493). An undervoltage or overvoltage lockout turns the hot-swap output off or back on. -/
  | inputLockout (vinCentivolt : Nat) (rising : Bool)
  /-- PRESENCE_SEATED (R568). All three sensed presence contacts read seated for 20 ms and the hot-swap output turns on. -/
  | presenceSeated
  /-- PRESENCE_OPEN (R569). A sensed presence contact opens: the removal actions run and the output turns off 100 µs later. -/
  | presenceOpen (contact : Nat)
  /-- PERST (R574). PERST# held low for 10 µs or more causes a cold reset. -/
  | perst
  /-- COLD_RESET (R540). Runs the cold-start sequence from regulator start to Ready. -/
  | coldReset (refclkPresent : Bool) (failures : List TestFailure)
  /-- DDR_TRAINING_DONE (R540). DDR4 initialisation and training end, or a channel fails and the module reports UNCORRECTABLE. -/
  | ddrTrainingDone (failed : Bool)
  /-- WARM_RESET (R448). Resets everything except the PCIe link state and reruns the cold start from boot verification, without the start test. -/
  | warmReset (cause : WarmCause) (refclkPresent : Bool)
  /-- COMPUTE_RESET (R448). Resets every tile and the pace, stream and convoy state, and drops every context's sections. -/
  | computeReset (cause : ComputeCause)
  /-- MANAGEMENT_RESTART (R462). Holds the harts in reset, checks or reloads firmware, and resumes the command queue. -/
  | managementRestart (hart : Nat) (cause : RestartCause) (hashMatches : Bool)
  /-- MGMT_WATCHDOG_EXPIRE (R461). A hart's 10 ms watchdog expires and starts a management restart. -/
  | mgmtWatchdogExpire (hart : Nat)
  /-- MGMT_SCRUB (R464). The 10 ms SRAM scrub corrects errors, or restarts management on an uncorrectable error. -/
  | mgmtScrub (hart : Nat) (corrected : Nat) (uncorrectable : Bool)
  /-- MGMT_SELF_CHECK (R464). Firmware hashes its code regions every 100 ms and restarts on a mismatch. -/
  | mgmtSelfCheck (hart : Nat) (hashMatches : Bool)
  /-- MGP_BUSY_TIMER (R460). A queued command's wait passes 100 µs and MGP_BUSY is set. -/
  | mgpBusyTimer
  /-- HEARTBEAT (R476). Hart 2 increments HEARTBEAT every 1 ms. -/
  | heartbeat
  /-- REFCLK_LOSS (R35). The selected reference stops for more than 1 µs: zeroisation and a warm reset. -/
  | refclkLoss
  /-- TAMPER_TRIP (R529). The PLL monitor, the glitch detector or the temperature sensor trips: zeroisation, a cause bit and a warm reset. -/
  | tamperTrip (pll glitch temp : Bool)
  /-- DEBUG_OPEN (R535). An OPEN write to SEC_DBG_CTL opens a level permitted without token. -/
  | debugOpen (mid : Nat) (value : Word)
  /-- DEBUG_CLOSE (R536). A CLOSE write to SEC_DBG_CTL ends the debug session. -/
  | debugClose (mid : Nat) (value : Word)
  /-- PRESENT (R535). A PRESENT write submits the token in the buffer for checking. -/
  | present (mid : Nat) (value : Word)
  /-- TOKEN_CHECK_DONE (R535). Hart 1 ends the token checks and opens the level, starts the transition, or records AUTH_FAILED. -/
  | tokenCheckDone
  /-- GO_PRODUCTION (R513). The owner requests the DEVELOP to PRODUCTION transition. -/
  | goProduction (mid : Nat) (value : Word)
  /-- LC_TRANSITION_DONE (R513). The fuses of a life-cycle transition verify and GLB_LC takes the new state. -/
  | lcTransitionDone (interrupted : Bool)
  /-- EXTEST_EXIT (R531). Leaving EXTEST forces a warm reset. -/
  | extestExit
  /-- JTAG_INSTRUCTION (R531). The TAP takes IDCODE, BYPASS, SAMPLE/PRELOAD, EXTEST or DAP, within the reach of the level. -/
  | jtagInstruction (ins : JtagIns)
  /-- LEDGER_CLEAR (R549). A BST_CLR write in RMA clears both ledger copies. -/
  | ledgerClear (mid : Nat) (value : Word)
  /-- CUSTOMS_LOG_CLEAR (R320). A CLEAR write clears VALID in every customs log entry. -/
  | customsLogClear (mid : Nat) (value : Word)
  /-- CUSTOMS_LOG_RECORD (R319). A CLOG_A/CLOG_B pair arrives at GLB and is written into the ring log. -/
  | customsLogRecord (a b : Packet)
  /-- REGISTER_WRITE (R43). A write to a register with no row of its own, with its byte-enable, access-code, lock and arbitration rules. -/
  | registerWrite (mid : Nat) (addr : Nat) (bytes : Nat) (value : BitVec 64)
  /-- SDIO_GO (R425). A GO write runs the command in the SDIO submission buffer, or is ignored with GOERR. -/
  | sdioGo (len : Nat)
  /-- SDIO_RDATA_ACCESS (R425). A read or write of SDIO_RDATA performs a 32-bit BAR0 access at SDIO_RADDR. -/
  | sdioRdataAccess (write : Option Word)
  /-- TILE_TOLL_WRITE (R366). A write to a tile toll gate is checked against the lock rules and takes effect at the next window boundary. -/
  | tileTollWrite (mid : Nat) (core : Nat) (offset : Nat) (value : Word)
  /-- TOLL_WINDOW_BOUNDARY (R363). A 4,096-NCLK toll window ends and every gate clears its used counts. -/
  | tollWindowBoundary
  /-- LINK_SHAPE_WRITE (R388). A write to LNK_SHAPE is checked against size and wrap limits. -/
  | linkShapeWrite (mid : Nat) (value : Word)
  /-- PORT_ENABLE (R384). EN written to 1 or 0 moves a port to DETECT or DISABLED. -/
  | portEnable (mid : Nat) (port : Nat) (value : Word)
  /-- PORT_RETRAIN_REQUEST (R382). A RETRAIN write moves an ACTIVE port to RETRAIN. -/
  | portRetrainRequest (mid : Nat) (port : Nat)
  /-- MAILBOX_DATA_WRITE (R468). The sender writes DATA, or the write is discarded with OVERWRITE while bits pend. -/
  | mailboxDataWrite (mid : Nat) (n : Nat) (word : Nat) (value : Word)
  /-- MAILBOX_SET (R468). The sender makes doorbell bits pending, which interrupts the receiver and starts the acknowledge timer. -/
  | mailboxSet (mid : Nat) (n : Nat) (bits : Word)
  /-- MAILBOX_PEND_CLEAR (R468). The receiver clears pending bits; clearing the last empties the channel and interrupts the sender. -/
  | mailboxPendClear (mid : Nat) (n : Nat) (bits : Word)
  /-- MAILBOX_ACK_TIMEOUT (R470). TMO_US passes without the channel emptying; TMO is set and the sender is interrupted. -/
  | mailboxAckTimeout (n : Nat)
  /-- MAILBOX_BIND (R474). A write to MBX_BIND changes a binding, empties the channel and clears its STAT bits. -/
  | mailboxBind (mid : Nat) (n : Nat) (value : Word)
  /-- TIMER_CTL_WRITE (R477). A write to TMR_i_CTL sets EN, PRE, MODE and the other fields, or is discarded and logged. -/
  | timerCtlWrite (mid : Nat) (i : Nat) (value : Word)
  /-- TIMER_RELOAD_NOW (R481). RELOAD_NOW loads COUNT from the reload buffer with no zero event. -/
  | timerReloadNow (mid : Nat) (i : Nat)
  /-- TIMER_RELOAD_WRITE (R480). A write to the reload buffer, taken by a load in the same cycle. -/
  | timerReloadWrite (mid : Nat) (i : Nat) (value : Word)
  /-- TIMER_COMPARE_WRITE (R483). A compare write takes effect from the next tick and may set CMP_BEHIND. -/
  | timerCompareWrite (mid : Nat) (i : Nat) (k : Nat) (value : Word)
  /-- TIMER_TB_READ (R478). A read of TBLO snapshots TB for the following TBHI reads. -/
  | timerTbRead (i : Nat)
  /-- TIMER_CAPLO_READ (R489). A read of CAPLO returns the capture, snapshots CAPHI and CAPCNT and clears CAP_NEW. -/
  | timerCaploRead (i : Nat)
  /-- TIMER_TICK (R480). A prescaled tick advances TB and steps COUNT, which may give zero, match or overflow events. -/
  | timerTick (i : Nat)
  /-- TIMER_LINK_ACTION (R484). A linked start or reset lands on its target a cycle or a tick after the event. -/
  | timerLinkAction (i : Nat)
  /-- TRIGGER_CAPTURE (R487). An edge on a trigger input captures TB and COUNT, 2 BCLK cycles after synchronisation. -/
  | triggerCapture (pin : Nat) (rising : Bool)
  /-- PACE_RELEASE (R486). TB reaches D(s) and the timer block sends RELEASE for the highest due step to the shard. -/
  | paceRelease (ctx : Nat)
  /-- RELEASE (R143). A core records a RELEASE in TILE_RELEASED and may count an overrun and send a late notice. -/
  | release (core : Nat) (pkt : Packet)
  /-- INTEGRATE_BEGIN (R118). Every opening condition holds and the core opens INTEGRATE of the step, forced under FOLD or DROP where permitted. -/
  | integrateBegin (core : Nat)
  /-- EVENT (R127). A core accepts an event, looks up its descriptors, and places each match in the ring, in integration, in the pen, or as a late fold or drop. -/
  | event (core : Nat) (pkt : Packet)
  /-- INTEGRATE_END (R117). The bucket is empty, the pipeline is drained and no depot read is outstanding, so INTEGRATE ends. -/
  | integrateEnd (core : Nat)
  /-- REARGUARD (R136). A core counts an arriving rearguard and advances its completed step c. -/
  | rearguard (core : Nat) (pkt : Packet)
  /-- CREDIT (R137). A core counts an arriving step credit. -/
  | credit (core : Nat) (pkt : Packet)
  /-- FIRE_BEGIN (R137). INTEGRATE has ended and the credit set is complete, so the core begins FIRE. -/
  | fireBegin (core : Nat)
  /-- FIRE_END (R110). The last event is formed and the rearguard for the step is sent along the out-list; LEARN begins. -/
  | fireEnd (core : Nat)
  /-- LEARN_END (R117). The sweep and the rule work, including depot learned reads, are done or carried, and CLOSE begins. -/
  | learnEnd (core : Nat)
  /-- CLOSE_END (R114). Membranes are requantised, pending lines commit, STEP increments and credits are granted upstream. -/
  | closeEnd (core : Nat)
  /-- EAGER_EVALUATE (R217). A row of the eager queue is evaluated in free row-store cycles and written line by line. -/
  | eagerEvaluate (core : Nat)
  /-- STEP_WATCHDOG_EXPIRE (R156). A core's step watchdog reaches its limit, sets WDOG_EXP and sends WDOG_NOTICE. -/
  | stepWatchdogExpire (core : Nat)
  /-- OUTRIDER_PREFETCH (R183). The outrider issues a queued row prefetch once buffer lines are free. -/
  | outriderPrefetch (core : Nat)
  /-- DREQ (R348). A depot read or write request reaches the lane and the channel. -/
  | dreq (request : DepotRequest)
  /-- DDATA (R181). Depot data returns to the outrider; uncorrectable bursts are not used and are reported. -/
  | ddata (core : Nat) (pkt : Packet)
  /-- PEN_RETURN (R189). The outrider returns pen entries to the ring when room frees, evicting later entries when needed. -/
  | penReturn (core : Nat)
  /-- PEN_SPILL_WRITE (R188). The outrider writes a full pen line to the depot. -/
  | penSpillWrite (core : Nat)
  /-- WAYSTATION_FORWARD (R354). A waystation takes a packet or flit, checks ECC, routes it by lookahead and forwards it under tolls and flow control. -/
  | waystationForward (tile : Nat) (port : Nat) (vc : Nat) (flips : List Nat)
  /-- REG_WR (R371). The hub writes a tile register by CTRL packet, and the tile answers REG_RSP. -/
  | regWr (core : Nat) (pkt : Packet)
  /-- REG_RD (R371). The hub reads a tile register by CTRL packet, and the tile answers REG_RSP. -/
  | regRd (core : Nat) (pkt : Packet)
  /-- REG_RSP (R371). The hub receives a tile register response. -/
  | regRsp (pkt : Packet)
  /-- LINK_FRAME_TRANSMIT (R378). A port sends a data or idle frame every 4 ns with its ACK, NAK and OFF state, replaying after a NAK. -/
  | linkFrameTransmit (port : Nat)
  /-- LINK_FRAME_RECEIVE (R381). A port decodes a frame, accepts the in-order good frame or discards it, and takes ACK, NAK, OFF and RESET. -/
  | linkFrameReceive (port : Nat) (frame : RxFrame)
  /-- LINK_ACK_TIMEOUT (R382). No ACK advances for 2 µs and the port enters RETRAIN. -/
  | linkAckTimeout (port : Nat)
  /-- LINK_REPLAY_LIMIT (R382). A frame replayed 8 times without acknowledgement sends the port to RETRAIN. -/
  | linkReplayLimit (port : Nat)
  /-- LINK_LANE_UE_LIMIT (R382). A lane uncorrectable in 4 consecutive frames sends the port to RETRAIN. -/
  | linkLaneUeLimit (port : Nat)
  /-- TRANSIT_RESERVE (R387). A transit packet leaves the receive buffer once the exit transmit buffer reserves an entry. -/
  | transitReserve (port : Nat) (buffer : Nat)
  /-- PORT_DETECT_LOCK (R384). Signal and lock on all 16 lanes move the port to TRAIN_EQ. -/
  | portDetectLock (port : Nat)
  /-- PORT_TRAIN_EQ_DONE (R384). All lanes meet their targets and the port moves to ALIGN. -/
  | portTrainEqDone (port : Nat)
  /-- PORT_TRAIN_EQ_TIMEOUT (R384). TRAIN_EQ does not finish within 50 ms and the port goes DOWN. -/
  | portTrainEqTimeout (port : Nat)
  /-- PORT_ALIGN_DONE (R384). Deskew and frame lock end and the port moves to PARAM. -/
  | portAlignDone (port : Nat)
  /-- PORT_ALIGN_TIMEOUT (R384). ALIGN does not finish within 10 µs and the port goes DOWN. -/
  | portAlignTimeout (port : Nat)
  /-- PARAM_EXCHANGE (R385). The parameter exchange matches and the port goes ACTIVE, or it mismatches and goes MISWIRED. -/
  | paramExchange (port : Nat) (peer : PeerParams)
  /-- PORT_RETRAIN_TIMEOUT (R384). RETRAIN does not reach ACTIVE within 200 µs and the port goes DOWN, returning its packets. -/
  | portRetrainTimeout (port : Nat)
  /-- PORT_DOWN_RETRY (R384). 10 ms after DOWN with EN set, the port returns to DETECT. -/
  | portDownRetry (port : Nat)
  /-- MISWIRED_PARAM_RETRY (R384). A MISWIRED port exchanges parameters again every 1 ms. -/
  | miswiredParamRetry (port : Nat) (peer : PeerParams)
  /-- LOSS_OF_SIGNAL (R384). Loss of signal sends the port DOWN and returns its packets. -/
  | lossOfSignal (port : Nat) (removed : Bool)
  /-- LPI_WAKE (R399). A WAKE from either side takes a port out of LPI through ALIGN. -/
  | lpiWake (port : Nat) (fromPeer : Bool)
  /-- FRONT_END_COMMAND (R401). A front-end peer's run of BULK packets delivers a STREAM_PUSH command and receives its completion as a MSG. -/
  | frontEndCommand (port : Nat) (run : List Packet)
  /-- HANDLER_DISPATCH (R265). The free handler unit takes the earliest queue head, checks the table entry and starts the handler, or refuses with BAD_STATE. -/
  | handlerDispatch (start : HandlerRun)
  /-- HANDLER_CYCLE_LIMIT (R267). A handler's cycle count reaches its limit and it faults with TIMEOUT. -/
  | handlerCycleLimit (core : Nat)
  /-- ALU (R271). Register-register scalar operation selected by FUNC. -/
  | alu (core rd ra rb func : Nat)
  /-- ADDI (R271). Adds a sign-extended immediate. -/
  | addi (core rd ra imm : Nat)
  /-- ANDI (R271). ANDs a zero-extended immediate. -/
  | andi (core rd ra imm : Nat)
  /-- ORI (R271). ORs a zero-extended immediate. -/
  | ori (core rd ra imm : Nat)
  /-- XORI (R271). XORs a zero-extended immediate. -/
  | xori (core rd ra imm : Nat)
  /-- LUI (R271). Loads an immediate into the upper half of a register. -/
  | lui (core rd ra imm : Nat)
  /-- SLTI (R271). Sets a register when RA is below the immediate. -/
  | slti (core rd ra imm : Nat)
  /-- SHI (R271). Shifts by an immediate amount. -/
  | shi (core rd ra imm : Nat)
  /-- BEQ (R271). Branches when RA equals RB. -/
  | beq (core ra rb off : Nat)
  /-- BNE (R271). Branches when RA differs from RB. -/
  | bne (core ra rb off : Nat)
  /-- BLT (R271). Branches on signed less-than. -/
  | blt (core ra rb off : Nat)
  /-- BGE (R271). Branches on signed greater-or-equal. -/
  | bge (core ra rb off : Nat)
  /-- BLTU (R271). Branches on unsigned less-than. -/
  | bltu (core ra rb off : Nat)
  /-- BGEU (R271). Branches on unsigned greater-or-equal. -/
  | bgeu (core ra rb off : Nat)
  /-- JAL (R271). Jumps and links. -/
  | jal (core rd off : Nat)
  /-- JR (R271). Jumps to the address in a register. -/
  | jr (core rd ra rb func : Nat)
  /-- LOOP (R274). Starts a hardware loop over the following instructions. -/
  | loop (core rd ra imm : Nat)
  /-- END (R293). Ends the handler, frees its slot and sends any QCREDIT or tally release. -/
  | endHandler (core rest : Nat)
  /-- YIELD (R268). Ends the handler and writes a continuation into queue 0, or faults when it is full. -/
  | yieldTo (core rd ra imm : Nat)
  /-- LDW (R271). Loads a word. -/
  | ldw (core rd ra imm : Nat)
  /-- STW (R271). Stores a word. -/
  | stw (core rd ra imm : Nat)
  /-- LDH (R271). Loads a halfword. -/
  | ldh (core rd ra imm : Nat)
  /-- STH (R271). Stores a halfword. -/
  | sth (core rd ra imm : Nat)
  /-- LDB (R271). Loads a byte. -/
  | ldb (core rd ra imm : Nat)
  /-- STB (R271). Stores a byte. -/
  | stb (core rd ra imm : Nat)
  /-- VLD (R271). Loads a vector from local memory or the row store. -/
  | vld (core rd ra imm : Nat)
  /-- VST (R271). Stores a vector. -/
  | vst (core rd ra imm : Nat)
  /-- ACCLD (R271). Loads an accumulator. -/
  | accld (core rd ra imm : Nat)
  /-- ACCST (R271). Stores an accumulator. -/
  | accst (core rd ra imm : Nat)
  /-- VMAC (R272). Lane-wise multiply-accumulate with saturation. -/
  | vmac (core d va vb za zb n clr neg : Nat)
  /-- VMACB (R272). Multiply-accumulate with a broadcast lane. -/
  | vmacb (core d va vb za zb n clr neg : Nat)
  /-- VMACM (R272). Multiply-accumulate from memory, with optional increment. -/
  | vmacm (core d ra vb rn za zb inc clr : Nat)
  /-- VDOT (R271). Exact dot product into a scalar register. -/
  | vdot (core rd va vb za zb rest : Nat)
  /-- ACCOP (R271). Accumulator add, shift or clear. -/
  | accop (core rd ra rb func : Nat)
  /-- VRQ (R273). Requantises an accumulator into a vector with draws from the handler LFSR. -/
  | vrq (core rd ra rb func : Nat)
  /-- VFUN (R271). Funnel-shifts two vectors. -/
  | vfun (core d va vb za zb n clr neg : Nat)
  /-- VPERM (R271). Permutes lanes by index. -/
  | vperm (core d va vb za zb n clr neg : Nat)
  /-- VSELM (R271). Selects lanes by mask. -/
  | vselm (core d va vb za zb n clr neg : Nat)
  /-- VSPLAT (R271). Broadcasts a nibble to every lane. -/
  | vsplat (core rd ra imm : Nat)
  /-- VEXT (R271). Extracts one lane into a scalar register. -/
  | vext (core rd ra imm : Nat)
  /-- VINS (R271). Inserts a nibble into one lane. -/
  | vins (core rd ra imm : Nat)
  /-- SEND (R275). Sends a message or reply on a channel, waiting for a credit up to SEND_WAIT. -/
  | send (core rd ra rb func : Nat)
  /-- TALLYC (R275). Sends a tally contribution on a tally channel. -/
  | tallyc (core rd ra rb func : Nat)
  /-- WAITNE (R276). Waits while a word equals a value. -/
  | waitne (core rd ra rb func : Nat)
  /-- CSTG (R277). Stages an action record into a convoy at its own core. -/
  | cstg (core rd ra rb func : Nat)
  /-- QRY (R277). Reads a step, generation or status item. -/
  | qry (core rd ra imm : Nat)
  /-- MODW (R277). Sends a modulator write to the hub. -/
  | modw (core rd ra rb func : Nat)
  /-- SEND_WAIT_EXPIRE (R311). A send's wait expires without a credit and it returns QUEUE_FULL. -/
  | sendWaitExpire (core : Nat)
  /-- WAITNE_TIMEOUT (R276). The WAITNE bound expires and the handler resumes. -/
  | waitneTimeout (core : Nat)
  /-- MSG (R302). A core checks an arriving message under customs and lands it in a queue slot, or drops it with a NACK. -/
  | msg (core : Nat) (pkt : Packet)
  /-- TALLY (R308). A core checks a tally contribution, adds it to its round, and writes a completion when the count reaches E. -/
  | tally (core : Nat) (pkt : Packet)
  /-- QCREDIT (R298). A sender updates a channel's credits, OWED and FREED from a QCREDIT. -/
  | qcredit (core : Nat) (pkt : Packet)
  /-- NACK (R303). A sender records a NACK and changes the channel state or returns the credit. -/
  | nack (core : Nat) (pkt : Packet)
  /-- OPEN (R296). A peer allocates a REQ or TALLY queue for an opener, runs any notice handler and answers OPEN_ACK or NACK. -/
  | openChannel (core : Nat) (pkt : Packet)
  /-- OPEN_ACK (R296). The opener sets its credits and makes the channel OPEN. -/
  | openAck (core : Nat) (pkt : Packet)
  /-- CLOSE (R299). An end takes CLOSE, closes its queue or channel and answers once drained. -/
  | closeChannel (core : Nat) (pkt : Packet)
  /-- CLOSE_ACK (R299). The closing end frees its reply queue and the channel becomes FREE. -/
  | closeAck (core : Nat) (pkt : Packet)
  /-- CLOSE_DRAIN_DONE (R299). A closed queue has drained and its end sends CLOSE or CLOSE_ACK. -/
  | closeDrainDone (core q : Nat)
  /-- MOD_WRITE (R277). The hub delivers a handler's modulator write to every core of the shard. -/
  | modWrite (pkt : Packet)
  /-- MOD_DELIVER (R207). A core sets the pending modulator value with its step or NOW. -/
  | modDeliver (core : Nat) (pkt : Packet)
  /-- STEP_NOTICE (R246). The ingest engine lowers F by the noticed step and sends held rearguards; a watching timer captures. -/
  | stepNotice (pkt : Packet)
  /-- INGEST_GRACE_EXPIRE (R244). The time base passes a window's end plus GRACE and the window completes. -/
  | ingestGraceExpire (stream : Nat)
  /-- LATE_NOTICE (R251). The readout engine marks the windows containing a late step. -/
  | lateNotice (pkt : Packet)
  /-- READOUT_PACKET (R251). The readout engine receives a range packet for a window. -/
  | readoutPacket (pkt : Packet)
  /-- READOUT_HOLD_EXPIRE (R251). The late-notice hold ends and a complete window is decoded, quantised and delivered or held. -/
  | readoutHoldExpire (stream : Nat) (window : Nat) (latencyUs : Nat)
  /-- READOUT_PEER_RETRY (R305). A record refused with QUEUE_FULL is retried once per toll window. -/
  | readoutPeerRetry (stream : Nat)
  /-- RESULT_LOSS_MARK (R254). A loss report marks the affected record, a held record, or the next delivered one with LOSS. -/
  | resultLossMark (ctx : Nat) (step : Word)
  /-- WDOG_NOTICE (R443). Firmware turns a step watchdog notice into a TIMEOUT context notice. -/
  | wdogNotice (pkt : Packet)
  /-- LOSS_NOTICE (R443). Firmware reports EVENT_LOSS and marks the results. -/
  | lossNotice (pkt : Packet)
  /-- UE_NOTICE (R443). Firmware reports UNCORRECTABLE for a depot burst, slot or handler. -/
  | ueNotice (pkt : Packet)
  /-- FAULT_NOTICE (R443). Firmware reports a tally-completion handler fault. -/
  | faultNotice (pkt : Packet)
  /-- ORPHAN_NOTICE (R342). Firmware reports CONVOY_TIMEOUT for an orphaned member. -/
  | orphanNotice (pkt : Packet)
  /-- PEER_RESET_NOTICE (R447). A reset notice from a peer device becomes a CONTEXT_RESET context notice. -/
  | peerResetNotice (pkt : Packet)
  /-- NOTICE_FOLD_TIMER (R443). The 1 ms notice period ends and folded notices are written. -/
  | noticeFoldTimer (ctx : Nat)
  /-- REGISTER_READ (R11). A read of a register with RC fields returns the value and clears it, with the coinciding-event rule of R11. -/
  | registerRead (mid : Nat) (addr : Nat) (bytes : Nat)
  /-- WEIGHT_RESTORE_DONE (R226). Every core has read its keep image into the row store and the depot, the save barrier is released and WEIGHT_RESTORE completes. -/
  | weightRestoreDone (ctx : Nat)
  /-- PMBUS_COMMAND (R572). The PM bus target takes an OPERATION or CLEAR_FAULTS command, which turns the output off through a power-fail warning, turns it on under R568, or clears STATUS_WORD. -/
  | pmbusCommand (code : Nat) (data : Nat)
  /-- MGMT_PARITY_FAILURE (R464). Parity fails on a hart datapath, a bus or a command-queue entry: the failing queued command completes with UNCORRECTABLE, or a management restart starts with MBX_MERR.PARITY. -/
  | mgmtParityFailure (hart : Nat) (entry : Option Nat)
  deriving DecidableEq, Repr

end Sys2Proof
end

