-- ==== Sys2Proof/Decode.lean ====
section
/-! DEFINITION. The bits of commands. No row of spec/opcode_table.json gives bits, so no word of the table
spells a command. -/

namespace Sys2Proof

/-- The command that a word of the opcode table spells: none, since the table gives its rows no bits. -/
def decodeTableWord (_nbits _w : Nat) : Option Instr := none

end Sys2Proof
end

