-- ==== Sys2Proof/Config.lean ====
section
/-! DEFINITION. The values that the spec leaves open and the functions it takes from other standards,
as opaque constants: no proof can see what they are. -/

namespace Sys2Proof.Config

/-- What byte `addr` of an edge space reads as through key pair `key` at place `rel` of a region, when the burst was not written
under that key at that place: unrelated data, one value for each content number (spec/05_synapse_storage.md R180;
spec/18_security_debug.md R518). Free value, assumption 5. -/
opaque freeByte : Nat → Nat → Nat → Nat → Byte

/-- Line `i` of a keep image that was encrypted in identity epoch `key` and is read in epoch `now` (spec/06_learning.md R222):
unrelated data. The third argument is what the slot holds. Free value, assumption 5. -/
opaque keepLine : Nat → Nat → BitVec 512 → Nat → BitVec 512

/-- How many full lines the write queue of an outrider holds (spec/05_synapse_storage.md R188): the spec gives no figure. Free
value, assumption 6. -/
opaque writeQueue : Nat

/-- The check bits that SECDED adds to a group of `n` data bits (spec/11_fabric_tolls.md R351): the spec names no code. Free
value, assumption 6. -/
opaque secded : Nat → Nat → Nat

/-- A free 512-bit value for the `n`-th time one is taken: a row-store line after an aborted FILL
(spec/10_convoys.md R340). Assumption 6. -/
opaque freeLine : Nat → BitVec 512

/-- The `n`-th request to the DRBG (spec/18_security_debug.md R517): random by design. Assumption 6. -/
opaque drbg : Nat → BitVec 256

/-- The `n`-th reading of a sensor or of a measurement kernel (spec/17_power.md R509, R511;
spec/20_module_electrical.md R572): the spec gives no figure to compute it from. Assumption 6. -/
opaque measured : Nat → Word

/-- The source-block code that UE_NOTICE carries in [63:48] (spec/11_fabric_tolls.md R371): 0 for the depot, 1 for a
waystation, 2 for a handler's line. The spec gives no code. Free value, assumption 6. -/
opaque sourceBlock : Nat → BitVec 16

/-- The factor that the reserved factor code 111 of a rule term stands for (spec/06_learning.md R208). Free value, assumption
6. -/
opaque reservedFactor : Nat → BitVec 4

/-- SHA-384 of a byte string, in the order the bytes are given (spec/14_contexts_recovery.md R438,
spec/18_security_debug.md R521). Assumption 7. -/
opaque sha384 : List Byte → BitVec 384

/-- HMAC-SHA-384 truncated to 128 bits under the keep key of identity epoch `key`, over an image and the
marker bits [383:0] (spec/06_learning.md R222). Assumption 7. -/
opaque keepTag : Nat → List (BitVec 512) → BitVec 384 → BitVec 128

/-- RSASSA-PSS verification of a message under a key block (spec/18_security_debug.md R521). Assumption 7. -/
opaque rsaPssVerify : List Byte → List Byte → List Byte → Bool

/-- SLH-DSA-SHA2-192s verification (spec/18_security_debug.md R521). Assumption 7. -/
opaque slhDsaVerify : List Byte → List Byte → List Byte → Bool

/-- The RSA signature that the device makes over a report with the identity key of epoch `key`
(spec/18_security_debug.md R526). Assumption 7. -/
opaque rsaSign : Nat → List Byte → List Byte

/-- The SLH-DSA signature over a report (spec/18_security_debug.md R526). Assumption 7. -/
opaque slhSign : Nat → List Byte → List Byte

/-- The key block of the identity public keys generated in epoch `key` (spec/18_security_debug.md R514,
R525). Assumption 7. -/
opaque identityKeyBlock : Nat → List Byte

/-- The SHA-384 key-slot hashes in fuses, slot 0 to 3 (spec/18_security_debug.md R517). Assumption 7. -/
opaque slotHash : Nat → BitVec 384

/-- Byte `i` of the vendor certificate region of flash (spec/18_security_debug.md R519, R525). -/
opaque certificateByte : Nat → Byte

/-- BODY_HASH of the firmware image that the module ships with (spec/18_security_debug.md R520; assumption 51). -/
opaque shippedHash : BitVec 384

/-- Whether the `n`-th VRQ that a fault may find in flight has not yet written its register (spec/08_handler_unit.md R267): the
spec leaves open how the stalls of the instructions after it fall. Free value, assumption 6. -/
opaque vrqLost : Nat → Bool

/-- Whether the `n`-th value that is interpolated between two measurements rounds up (spec/17_power.md R509): the spec gives no
rounding. Free value, assumption 6. -/
opaque roundUp : Nat → Bool

end Sys2Proof.Config
end

