-- ==== Sys2Proof/Machine/State.lean ====
section
/-! DEFINITION. The state of the block as plain data: every register, store, queue and mode that the
spec gives the device, the queue of waiting commands, and `State.reset`. Registers that are only a view
of other state (WAIT_RG, RING_USED, BL_DEPTH, GLB_CORES, …) are computed where they are read, never
stored twice. -/

namespace Sys2Proof.Machine

/-! ### Tiles and cores -/

/-- TILE_STEP_STAT.PHASE (spec/04_step_time.md R157). Code 6, applying a convoy, is a view of a core that waits with a committed
share due, and has no phase of its own. -/
inductive Phase where
  | waiting | integrate | waitCredit | fire | learn | close | notRunning
  deriving DecidableEq, Repr

/-- The step engine of a core (spec/04_step_time.md R114, R136, R137, R149, R157). Numbers of steps are
32-bit and wrap; `rg`, `cr` are the sixteen 20-bit counters. -/
structure StepState where
  step       : Word := 0
  phase      : Phase := .notRunning
  dmax       : BitVec 4 := 0
  paced      : Bool := false
  free       : Bool := false
  overrun    : BitVec 2 := 0
  w          : BitVec 4 := 4
  wdogExp    : Bool := false
  forceHalt  : Bool := false
  haltStep   : Option Word := none
  c          : Word := 0xFFFFFFFF
  rg         : NMap (BitVec 20) := []
  cr         : NMap (BitVec 20) := []
  g          : Word := 0
  released   : Word := 0xFFFFFFFF
  runLimit   : Word := 0
  inCount    : BitVec 20 := 0
  outCount   : BitVec 20 := 0
  outEntries : BitVec 9 := 0
  inEntries  : BitVec 9 := 0
  wdogEn     : Bool := false
  wdogLimit  : BitVec 16 := 0
  saveBarrier : Option Word := none
  deriving DecidableEq, Repr

/-- The neuron store of a core and its step LFSR (spec/03_neuron_model.md R82-R91, spec/06_learning.md R204,
spec/02_narrow_arithmetic.md R75, R80). The maps are ascending lists of slots; `folded` lists the slots that
a folded late term reached in the step (R98, LATEIN), `loaded` the slot ranges, first and count, that sections gave
(R191). `started` says that a START has set LAST of every slot to 0xFF: what a slot that `words` does not list holds
(R84). -/
structure NeuronStore where
  started     : Bool := false
  words       : NMap (BitVec 64) := []
  accs        : NMap (BitVec 24) := []
  groups      : NMap (BitVec 1024) := []
  touch       : List Nat := []
  fired       : List Nat := []
  learnedIn   : List Nat := []
  folded      : List Nat := []
  loaded      : List (Nat × Nat) := []
  lfsr        : Word := 0
  lfsrAtClose : Word := 0
  deriving DecidableEq, Repr

/-- Where the row of a ring entry is (spec/05_synapse_storage.md R183, R184): in the row store, waiting for
buffer room, read under a tag into lines of the outrider buffer, held in those lines, or lost to an uncorrectable burst. A
line of the buffer is named by its number; its bytes lie in local data memory. -/
inductive Fetch where
  | none
  | queued
  | issued (tag : Nat) (room : List Nat)
  | held (room : List Nat)
  | bad
  deriving DecidableEq, Repr

/-- A delay-ring entry (spec/04_step_time.md R126) with its full due step and the outrider's note of it. -/
structure RingEnt where
  entry : BitVec 64
  due   : Word
  fetch : Fetch := .none
  deriving DecidableEq, Repr

/-- Where a pen entry is (spec/05_synapse_storage.md R187, R189): in a partly filled line of the outrider, in a full line
that waits for its write, in the depot at a line of its bin, in a line whose read is outstanding, or read back and
waiting for room in the ring. -/
inductive PenStage where
  | partly
  | queued
  | stored (slot : Nat)
  | reading (slot : Nat) (tag : Nat)
  | inHand
  deriving DecidableEq, Repr

/-- An entry of the overflow pen (spec/05_synapse_storage.md R187-R190). -/
structure PenEnt where
  entry : BitVec 64
  due   : Word
  stage : PenStage
  deriving DecidableEq, Repr

/-- What an outstanding depot read of an outrider is for (DREQ.KIND, spec/11_fabric_tolls.md R348): a row prefetch, a
demand read, a pen line, a FILL of row-store lines for a convoy, or a learned row. -/
inductive ReadFor where
  | prefetch
  | demand
  | pen
  | fill (convoy : Nat) (line : Nat)
  | learned (didx : Nat)
  deriving DecidableEq, Repr

/-- An outstanding depot read (spec/05_synapse_storage.md R182-R184): its first burst in the edge space, the bursts
asked for, those that have arrived, and the lines of the outrider buffer that a learned row occupies (spec/06_learning.md
R216). -/
structure DepotRead where
  tag    : Nat
  what   : ReadFor
  edge   : Bool
  burst  : Nat
  count  : Nat
  room   : List Nat := []
  got    : List (Nat × Line) := []
  bad    : Bool := false
  deriving DecidableEq, Repr

/-- Source index, row store, delay ring, outrider and pen of a core (spec/05_synapse_storage.md R159, R167,
R182-R190; spec/04_step_time.md R126). `ring` holds the entries in the order they were placed; `setAside` the
entries whose demand read is outstanding, `hint` the DIDX loaded with the graded hint (R580). -/
structure SynStore where
  index    : NMap (BitVec 128) := []
  rows     : NMap Line := []
  ring     : List RingEnt := []
  setAside : List RingEnt := []
  pen      : List PenEnt := []
  reads    : List DepotRead := []
  nextTag  : Nat := 0
  hint     : List Nat := []
  deriving DecidableEq, Repr

/-- A depot row that LEARN has come to (spec/06_learning.md R210, R213, R216): its DIDX, its hit, whether it is evaluated and
whether it is checked for pruning, the LFSR state with which its draws begin, and the tag of its read; none while the outrider
buffer lacks room. -/
structure LearnRow where
  didx  : Nat
  hit   : Bool
  eval  : Bool
  prune : Bool
  lfsr  : Word
  tag   : Option Nat := none
  deriving DecidableEq, Repr

/-- LEARN at work (spec/06_learning.md R97, R210, R216): whether the sweep slice has run, whether the pass has begun, the DIDX it
scans next, the lines left of the budget, whether DEFERRED evaluation has stopped for this step, and the depot rows whose lines
it waits for, in order. -/
structure LearnWork where
  swept  : Bool := false
  pass   : Bool := false
  next   : Nat := 0
  budget : Nat := 0
  stop   : Bool := false
  waits  : List LearnRow := []
  deriving DecidableEq, Repr

/-- The learning engine (spec/06_learning.md R196, R210-R217): its LFSR, the pointers of the two queues whose
entries lie in local data memory, the hits of queued eager rows, the eager row at work (its DIDX, its hit and the line that it
evaluates next), the pending row-store lines, LEARN at work, and the depot lines to write at CLOSE. -/
structure LearnState where
  lfsr      : Word := 0
  backHead  : Nat := 0
  backLen   : Nat := 0
  eagerHead : Nat := 0
  eagerLen  : Nat := 0
  eagerHits : List (Nat × Bool) := []
  eagerNow  : Option (Nat × Bool × Nat) := none
  pending   : List Nat := []
  work      : Option LearnWork := none
  depotOut  : List (Nat × List Line) := []
  deriving DecidableEq, Repr

/-- A handler chain: what the message that began it was, and what the chain has done (spec/08_handler_unit.md R264, R268,
spec/09_queues_active_messages.md R293, R298, R301, R305). `entry` is the queue entry as it stood when the message was
dispatched, `host` the handle of the QUEUE_SEND behind the chain, `reply` the payload kept for it. -/
structure Chain where
  sender  : Word := 0
  s4      : Word := 0
  mid     : BitVec 4 := 0xB
  schan   : Nat := 0
  cgen    : Nat := 0
  isReq   : Bool := false
  entry   : BitVec 128 := 0
  host    : Option Nat := none
  replied : Bool := false
  yielded : Bool := false
  reply   : List Byte := []
  deriving DecidableEq, Repr

/-- A message that waits in its slot or is handled (spec/09_queues_active_messages.md R290, R293, R296, R309): its queue
and slot, its kind (0 message, 1 tally completion, 2 continuation), its chain, the round of a tally
completion, whether it is the notice of an open, and the handler index and argument of a continuation, whose slot
holds s16 to s31 instead of a descriptor. -/
structure QMsg where
  queue   : Nat := 0
  slot    : Nat := 0
  kind    : Nat := 0
  chain   : Chain := {}
  round   : Nat := 0
  notice  : Bool := false
  hidx    : Nat := 0
  arg     : Word := 0
  deriving DecidableEq, Repr

/-- What holds a running handler (spec/08_handler_unit.md R276, spec/09_queues_active_messages.md R311). -/
inductive HandlerWait where
  | none
  | waitne (rd : Nat) (addr : Nat) (old : Word) (bounded : Bool)
  | credit (chan : Nat) (rd : Nat)
  deriving DecidableEq, Repr

/-- The handler unit of a core (spec/08_handler_unit.md R259-R268, R283). `sc` holds s1 to s31 (s0 reads 0),
`loopState` the first and last instruction of the active loop and the iterations left, `cur` the message that is
handled, `loaded` the instruction ranges, first and count, that sections and convoys loaded, `claimed` the table entries
that sections gave (R282), `failing` the instructions at which the handler meets an uncorrectable ECC error (R267), `flight`
the vector registers that a VRQ may still have to write, with the instructions issued since and the value before (R273, R281). -/
structure HandlerState where
  sc        : NMap Word := []
  v         : NMap (BitVec 512) := []
  acc       : NMap (BitVec 2048) := []
  pc        : BitVec 13 := 0
  lfsr      : Word := 0
  loopState : Option (Nat × Nat × Nat) := none
  run       : Bool := false
  wait      : HandlerWait := .none
  hidx      : BitVec 6 := 0
  cur       : QMsg := {}
  store     : NMap Word := []
  loaded    : List (Nat × Nat) := []
  claimed   : List Nat := []
  table     : NMap (BitVec 64) := []
  deflim    : BitVec 5 := 16
  en        : Bool := false
  tidx      : BitVec 6 := 0
  asat      : Bool := false
  rqclamp   : Bool := false
  fValid    : Bool := false
  fCode     : BitVec 3 := 0
  fHidx     : BitVec 6 := 0
  fPc       : BitVec 13 := 0
  fSrc      : Word := 0
  failing   : List Nat := []
  flight    : List (Nat × Nat × BitVec 512) := []
  deriving DecidableEq, Repr

/-- The queues and channels of a core (spec/09_queues_active_messages.md R286, R294, R307, R321). The status words,
slots, tally buffers and contributor lists lie in local data memory. `msgs` holds the waiting messages in arrival
order, `counts` the contributors that a round has counted, as their list words, keyed by 2 × queue + round, `listed` the contributors that a queue's list names, `cgens` the last CGEN that each queue has had,
`lists` and `declared` the contributor lists and the channel records as the loader or a convoy declared them (R296, R333),
`draining` the closed queues that drain, with whether CLOSE_ACK answers, `release` the channels whose reply queue waits
to be freed, with whether the channel then becomes FREE (R299). -/
structure QueueState where
  table    : NMap (BitVec 128) := []
  chans    : NMap (BitVec 128) := []
  sendWait : BitVec 16 := 0x0100
  qIdx     : BitVec 8 := 0
  chIdx    : BitVec 8 := 0
  msgs     : List QMsg := []
  counts   : NMap (List Word) := []
  listed   : NMap Nat := []
  cgens    : NMap Nat := []
  lists    : NMap (List Word) := []
  declared : NMap (BitVec 128) := []
  draining : List (Nat × Bool) := []
  release  : List (Nat × Bool) := []
  deriving DecidableEq, Repr

/-- A convoy as one of its members holds it (spec/10_convoys.md R325, R334, R336, R338); `sc` is the commit step as far as the
member knows it. -/
structure MemberConvoy where
  tag      : Nat
  ctx      : Nat
  records  : List ActionRecord := []
  failed   : Option (BitVec 8) := none
  sc       : Option Word := none
  barrier  : Option Word := none
  prepared : Bool := false
  commit   : Option Word := none
  filling  : Bool := false
  deriving DecidableEq, Repr

/-- The DP and MEM toll gates of a core at work (spec/11_fabric_tolls.md R362, R365, R368): the cycles that each class has taken
in this window, and the held cycles of each gate. The words of these gates lie with the other tile gates. -/
structure CorePorts where
  dp      : NMap Nat := []
  mem     : NMap Nat := []
  dpHeld  : Word := 0
  memHeld : Word := 0
  deriving DecidableEq, Repr

/-- A core of the logical array: its binding and its engines. `cnt` holds the counter range 0x0800-0x0FFF of
the tile window as words, each 0 at reset: TILE_SAT_g, TILE_ARITH_STAT, TILE_CVY_CNT, TILE_CVY_LJ, ORPHAN,
TILE_GRP_g, TILE_STEP_OVR, _LATE, _SPILL, TILE_LD_CNT, TILE_SYN_CNT0-2, LOSS_FLAG, TILE_SYN_LOSS_STEP,
TILE_LRN_CNT0-2, TILE_HND_CNT0-2, TILE_HND_DPWAIT and TILE_Q_CNT0-3 (spec/02_narrow_arithmetic.md R80,
spec/03_neuron_model.md R112, spec/04_step_time.md R158, spec/05_synapse_storage.md R193, spec/06_learning.md R229,
spec/08_handler_unit.md R284, spec/09_queues_active_messages.md R322, spec/10_convoys.md R345, spec/12_osust_links.md
R404). `ldm` is the 256 KiB local data memory; `arrived` the packets at the core port. -/
structure Core where
  bound   : Bool := false
  ctx     : Nat := 0
  gen     : BitVec 4 := 0
  st      : StepState := {}
  nrn     : NeuronStore := {}
  syn     : SynStore := {}
  lrn     : LearnState := {}
  hnd     : HandlerState := {}
  q       : QueueState := {}
  cvy     : List MemberConvoy := []
  ldm     : List Host.Cell := []
  cnt     : NMap Word := []
  ports   : CorePorts := {}
  watch   : Bool := false
  arrived : List Packet := []
  deriving DecidableEq, Repr

/-! ### Fabric and links -/

/-- A toll gate: the A and B words, the held count, a write that waits for the boundary, and what each class
has used and carries in 64ths of a unit (spec/11_fabric_tolls.md R363, R366, R368). -/
structure Gate where
  a       : Word := 0
  b       : Word := 0
  held    : Word := 0
  pendA   : Option Word := none
  pendB   : Option Word := none
  used    : NMap Nat := []
  carry   : NMap Nat := []
  deriving DecidableEq, Repr

/-- A packet in a waystation input buffer (spec/11_fabric_tolls.md R354, R358, R364). `route` is none until the
injecting waystation has routed it; then the physical tile it makes for, the output port there, and its
leg: 0 a single copy, 1 a line multicast on its way to the entry tile, 2 its half that runs up the line, 3 its half
that runs down. `age` numbers the entries in order. -/
structure Flight where
  pkt   : Packet
  route : Option (Nat × Nat × Nat) := none
  age   : Nat := 0
  deriving DecidableEq, Repr

/-- The fabric (spec/11_fabric_tolls.md R361-R373). `buf` holds the input buffers, keyed by physical tile, port and
VC; `ages` numbers their entries; `lanes` holds the depot requests that a lane has taken; `off` their OFF states; `gates` the tile gates keyed by logical core and gate number; `ddr`, `cmd`,
`cvy` the device gates; `wire` holds the slots, with their sidebands, in which the packet that was forwarded last crossed its
link (R350); `rbBuilt` says that the route book holds the values of the present remap, with
REACHABLE per device in `reachable`. -/
structure Fabric where
  buf       : NMap (List Flight) := []
  ages      : Nat := 0
  lanes     : List Packet := []
  off       : List Nat := []
  gates     : NMap Gate := []
  ddr       : NMap Gate := []
  cmd       : Gate := { b := 0x90B0 }
  cvy       : Gate := { b := 0xB010 }
  win       : Word := 0
  ce        : BitVec 16 := 0
  ue        : BitVec 8 := 0
  badPkt    : BitVec 4 := 0
  absent    : BitVec 4 := 0
  rbBuilt   : Bool := false
  reachable : List Nat := []
  hub       : List Packet := []
  wire      : List (BitVec 256 × BitVec 52) := []
  deriving DecidableEq, Repr

/-- LNK_Pp_STAT.STATE (spec/12_osust_links.md R384). -/
inductive PortState where
  | disabled | detect | trainEq | align | param | active | retrain | lpi | down | miswired
  deriving DecidableEq, Repr

/-- A frame in the retry buffer and how often it was replayed (spec/12_osust_links.md R381, R382). -/
structure RetryFrame where
  seq     : BitVec 12
  frame   : Frame
  packets : List Packet
  replays : Nat := 0
  sent    : Bool := true
  deriving DecidableEq, Repr

/-- An Osust port (spec/12_osust_links.md R381-R387, R403). `tx` and `rx` are keyed by buffer number: VC × 2 +
dateline class; `retraining` says that the 200 µs of a RETRAIN run (R384); `line` is what the sixteen lanes carried for the
frame sent last (R379), `sentPar` the parameters that this side sent in its last PARAM (R385), `inReset` that a compute reset of
the device lasts at the port (R398). -/
structure Port where
  en        : Bool := false
  fe        : Bool := false
  fedev     : BitVec 9 := 0
  wakeEn    : Bool := true
  state     : PortState := .disabled
  peerReset : Bool := false
  lanes     : BitVec 16 := 0
  peerFe    : Bool := false
  peerBook  : BitVec 8 := 0
  peerPort  : BitVec 3 := 0
  peerDev   : BitVec 9 := 0
  corr      : BitVec 16 := 0
  replay    : BitVec 16 := 0
  retrains  : BitVec 16 := 0
  ldnack    : BitVec 16 := 0
  downs     : BitVec 16 := 0
  feDrop    : BitVec 16 := 0
  nextSeq   : BitVec 12 := 1
  lastGood  : BitVec 12 := 0
  sendNak   : Bool := false
  nakTaken  : Option (BitVec 12) := none
  peerOff   : BitVec 6 := 0
  ourOff    : BitVec 6 := 0
  retry     : List RetryFrame := []
  tx        : NMap (List Packet) := []
  rx        : NMap (List Packet) := []
  reserved  : NMap Nat := []
  laneUe    : NMap Nat := []
  partialRx : NMap (Packet × Nat) := []
  retraining : Bool := false
  lastTx    : Option Frame := none
  line      : List (BitVec 448) := []
  sentPar   : Option PeerParams := none
  inReset   : Bool := false
  deriving DecidableEq, Repr

/-! ### Host interface -/

/-- Where a host command came from (spec/13_host_interface.md R410, R425; spec/12_osust_links.md R401). -/
inductive Origin where
  | sq (n : Nat)
  | sdio
  | frontEnd (port : Nat)
  deriving DecidableEq, Repr

/-- A fetched command that has not completed (spec/13_host_interface.md R410, R416-R418). `taken` says that its hart
or the router has started it; `begun` that its row has run and its completion waits for an engine;
`held` counts it as timed out, its completion suppressed. -/
structure Fetched where
  handle   : Nat
  origin   : Origin
  manifest : Line
  bales    : List Line
  taken    : Bool := false
  begun    : Bool := false
  held     : Bool := false
  qdelay   : BitVec 16 := 0
  deriving DecidableEq, Repr

/-- The registers of a submission ring (spec/13_host_interface.md R406, R429); `tail` is the last value accepted by
the doorbell. -/
structure SqRegs where
  base  : BitVec 64 := 0
  en    : Bool := false
  log2  : BitVec 4 := 4
  cq    : BitVec 8 := 0
  head  : BitVec 16 := 0
  tail  : BitVec 16 := 0
  dberr : Bool := false
  skip  : Bool := false
  deriving DecidableEq, Repr

/-- A completion group: its entries without PHASE, in order (spec/13_host_interface.md R413, R414). -/
structure Group where
  entries : List (BitVec 256)
  deriving DecidableEq, Repr

/-- The registers of a completion ring (spec/13_host_interface.md R406, R415, R429), its hold queue, the unsignalled
entries and the interrupts raised. -/
structure CqRegs where
  base      : BitVec 64 := 0
  en        : Bool := false
  log2      : BitVec 4 := 4
  vector    : BitVec 8 := 0
  coalCnt   : BitVec 8 := 0
  coalUs    : BitVec 8 := 0
  tail      : BitVec 16 := 0
  phase     : Bool := true
  head      : BitVec 16 := 0
  dberr     : Bool := false
  hold      : List Group := []
  unsig     : Nat := 0
  deriving DecidableEq, Repr

/-- The host interface (spec/13_host_interface.md R406-R429). `written` records the entries that the hub wrote into
host memory (ring, slot, entry), `msix` the vectors it raised: the block's outputs. `msixTable` and
`msixPba` are the MSI-X table and pending array of R405. -/
structure Hif where
  en         : Bool := false
  sqs        : NMap SqRegs := []
  cqs        : NMap CqRegs := []
  rr         : Nat := 0
  fetched    : List Fetched := []
  nextHandle : Nat := 0
  written    : List (Nat × Nat × BitVec 256) := []
  msix       : List Nat := []
  msixTable  : NMap Word := []
  deriving DecidableEq, Repr

/-- The SDIO function (spec/13_host_interface.md R425). -/
structure Sdio where
  len      : BitVec 17 := 0
  busy     : Bool := false
  cmpl     : Bool := false
  goerr    : Bool := false
  ready    : Bool := false
  recovery : Bool := false
  intMbx   : Bool := false
  intCmpl  : Bool := false
  intEn    : BitVec 2 := 0
  raddr    : BitVec 26 := 0
  cbuf     : List (BitVec 256) := []
  sbuf     : List Line := []
  deriving DecidableEq, Repr

/-- An entry of the customs log (spec/09_queues_active_messages.md R319). -/
structure LogEntry where
  valid  : Bool := false
  mid    : BitVec 4 := 0
  sdev   : BitVec 9 := 0
  score  : BitVec 10 := 0
  status : BitVec 8 := 0
  tcore  : BitVec 10 := 0
  ctx    : BitVec 6 := 0
  addr   : Word := 0
  seq    : Word := 0
  deriving DecidableEq, Repr

/-- The GLB block: customs log, set-up lock, reset causes, clock view (spec/09_queues_active_messages.md R319, R320;
spec/13_host_interface.md R428; spec/14_contexts_recovery.md R449; spec/01_device_organisation.md R49). -/
structure Glb where
  log      : NMap LogEntry := []
  overwrote : Bool := false
  next     : BitVec 6 := 0
  total    : BitVec 16 := 0
  seq      : Word := 0
  locked   : Bool := false
  failed   : Bool := false
  lockMid  : BitVec 4 := 0
  failRule : BitVec 8 := 0
  failGate : BitVec 16 := 0
  cause    : BitVec 11 := 0x080
  pllLock  : Bool := true
  refsrc   : Bool := false
  sparesFree : Nat := 0
  deriving DecidableEq, Repr

/-! ### Contexts -/

/-- The state of a shard (spec/14_contexts_recovery.md R433). -/
inductive ShardState where
  | free | stopped | running | stopping | resetting
  deriving DecidableEq, Repr

/-- A pace change committed by convoy (spec/04_step_time.md R145): its first step, counted from START without wrapping, W of that
step, and the new P and O. -/
structure PaceChange where
  sc : Nat
  w  : BitVec 64
  p  : BitVec 64
  o  : BitVec 64
  deriving DecidableEq, Repr

/-- A context notice, with the occurrences folded into it (spec/14_contexts_recovery.md R443). -/
structure Notice where
  status  : BitVec 8
  result  : Word
  payload : BitVec 96
  folded  : Nat := 0
  deriving DecidableEq, Repr

/-- A shard (spec/14_contexts_recovery.md R430-R443, R450). `limit` and `free` are what the last STEP_RUN while STOPPED
set (R440), `waiters` the STEP_RUNs that wait, `stopAt` the limit that STOP wrote, `nextRel` the next step to release, counted
from START without wrapping, `sent` the notice statuses written in the present 1 ms. -/
structure Shard where
  state     : ShardState := .free
  paced     : Bool := false
  overrun   : BitVec 2 := 0
  w         : BitVec 4 := 0
  gen       : BitVec 4 := 0
  noticeCq  : BitVec 8 := 0
  shares    : NMap (BitVec 7) := []
  measure   : BitVec 384 := 0
  sections  : Nat := 0
  seed      : Word := 0
  limit     : Word := 0
  free      : Bool := false
  waiters   : List (Nat × Word) := []
  stopAt    : Option Word := none
  stopCmd   : Option Nat := none
  resetCmds : List Nat := []
  timer     : Option Nat := none
  pacedSet  : Bool := false
  p         : BitVec 64 := 0
  o         : BitVec 64 := 0
  t0        : BitVec 64 := 0
  nextRel   : Nat := 0
  changes   : List PaceChange := []
  ranSince  : Bool := false
  notices   : List Notice := []
  sent      : List (BitVec 8) := []
  saving    : Option (Nat × BitVec 16 × Option Word) := none
  restoring : Option (Nat × BitVec 16 × Option Word) := none
  deriving DecidableEq, Repr

/-- How a 64-byte burst of the depot was encrypted (spec/05_synapse_storage.md R180): the number of the key pair, the burst's
place in its context's region, which fixes the tweak, and the number of the write. -/
structure Seal where
  key : Nat
  rel : Nat
  at_ : Nat
  deriving DecidableEq, Repr

/-- The depot (spec/05_synapse_storage.md R176, R178, R180, R181): the region registers keyed by 2 × context + edge, the number of
the key pair that each context holds (0 for none) and the number that the next pair takes, the plain bytes of the two edge
spaces as they were written, how each burst was encrypted, the number of writes made, the write number of all that is not
sealed, and the bursts that read as uncorrectable. An edge space is keyed with the south space above 2 to the 40. -/
structure Depot where
  rgn     : NMap Word := []
  keys    : NMap Nat := []
  nextKey : Nat := 1
  bytes   : List Host.Cell := []
  seals   : NMap Seal := []
  writes  : Nat := 0
  base    : Nat := 0
  bad     : List Nat := []
  deriving DecidableEq, Repr

/-! ### Streams -/

/-- STR_IN_STAT.STATE (spec/07_streams_ingest_readout.md R230). -/
inductive StreamState where
  | closed | opened | running | idle
  deriving DecidableEq, Repr

/-- A row of a push: its timestamp and its samples as raw codes of the stream's format; an address-event record has
one sample, the event word (spec/07_streams_ingest_readout.md R235). -/
structure Row where
  ts      : BitVec 64
  samples : List Word
  deriving DecidableEq, Repr

/-- An ingest stream (spec/07_streams_ingest_readout.md R230-R246, R258). `stats` holds the extremes of the last rows as
scaled integers, `notices` the steps noticed by the out-list cores, keyed by device and core, `held` the rows
kept until START or until a pace decision, `later` the LATENCY events not yet sent, `window` the last
completed window. -/
structure Ingest where
  state    : StreamState := .closed
  ctx      : Nat := 0
  desc     : BitVec 256 := 0
  outlist  : List (BitVec 64) := []
  rowIdx   : Nat := 0
  stats    : List (Int × Int) := []
  fallback : Bool := false
  quiet    : Nat := 0
  clampWin : Nat := 0
  winRows  : Nat := 0
  prev     : NMap (BitVec 4) := []
  primed   : Bool := false
  frameAt  : Option Word := none
  lfsr     : Word := 0
  held     : List Row := []
  later    : List (Word × BitVec 32 × BitVec 2) := []
  window   : Word := 0xFFFFFFFF
  done     : Word := 0xFFFFFFFF
  doneReg  : Word := 0xFFFFFFFF
  startF   : Word := 0xFFFFFFFF
  notices  : NMap Word := []
  heldRg   : Bool := false
  closeAt  : Option Word := none
  clamp    : BitVec 16 := 0
  lateRow  : BitVec 16 := 0
  switches : BitVec 16 := 0
  badAddr  : BitVec 16 := 0
  rows     : Word := 0
  deriving DecidableEq, Repr

/-- A decoded result record that waits for room: its bytes, window and marks (spec/07_streams_ingest_readout.md R252,
R254, R256). -/
structure Record where
  window : Word
  header : BitVec 64
  values : List Byte
  loss   : Bool
  late   : Bool
  deriving DecidableEq, Repr

/-- STR_RES_STAT.STATE (spec/07_streams_ingest_readout.md R258). -/
inductive ResultState where
  | closed | opened | running
  deriving DecidableEq, Repr

/-- A result stream (spec/07_streams_ingest_readout.md R247-R258). `parts` holds the readout packets received, by window and
32 × range + piece: for each slot COUNT, FIRST and membrane; `held` the decoded records that have not been sent, `sent` the last
records sent to a peer queue with their transaction indices, `again` those of them that the queue refused with QUEUE_FULL
(spec/09_queues_active_messages.md R305). -/
structure ResultStream where
  state   : ResultState := .closed
  ctx     : Nat := 0
  desc    : BitVec 64 := 0
  ranges  : List (BitVec 64) := []
  first   : Word := 0
  parts   : List (Word × Nat × List (Nat × Nat × Int)) := []
  lateWin : List Word := []
  lossWin : List Word := []
  lossNext : Bool := false
  dropped : Bool := false
  held    : List Record := []
  win     : Word := 0xFFFFFFFF
  lastDec : Word := 0xFFFFFFFF
  rclamp  : BitVec 16 := 0
  rdrop   : BitVec 16 := 0
  late    : BitVec 16 := 0
  loss    : BitVec 16 := 0
  maxUs   : BitVec 16 := 0
  lastUs  : BitVec 16 := 0
  sent    : List (Nat × Record) := []
  again   : List (Nat × Record) := []
  deriving DecidableEq, Repr

/-! ### Convoys -/

/-- The states of a convoy at its coordinator (spec/10_convoys.md R335). -/
inductive ConvoyPhase where
  | opened | preparing | ready | committing | aborted
  deriving DecidableEq, Repr

/-- A convoy record of the convoy unit (spec/10_convoys.md R323-R341). `ownerCmd` and `result` are the command behind a convoy of
firmware and the RESULT that it completes with (R326). `extra` lists the parties to which PREPARE went again because a core of
theirs joined (R335), `asks` counts the PREPAREs that a relay has not answered, `wsets` names the cores of other devices to which a
record that changes W went (R339). -/
structure Convoy where
  tag       : Nat
  ctx       : Nat
  phase     : ConvoyPhase := .opened
  sc        : Option Word := none
  auto      : Bool := false
  tc        : Nat := 0
  relay     : Bool := false
  members   : List (Nat × Member) := []
  ready     : Nat := 0
  answered  : List (Nat × Member) := []
  extra     : List (Nat × Member) := []
  asks      : Nat := 0
  wsets     : List (Nat × Nat) := []
  h         : Option Word := none
  acks      : List (Nat × Member) := []
  status    : BitVec 8 := 0
  badMember : Option (Nat × Nat × BitVec 8) := none
  preCmd    : Option Nat := none
  comCmd    : Option Nat := none
  ownerCmd  : Option Nat := none
  result    : Nat := 0
  deriving DecidableEq, Repr

/-! ### Management, mailboxes, timers, power, security, self-test -/

/-- A mailbox channel and its binding entry (spec/15_management_mailboxes.md R473, R474). -/
structure Mailbox where
  data      : NMap Word := []
  pend      : Word := 0
  mask      : Word := 0
  empty     : Bool := false
  tmo       : Bool := false
  overwrite : Bool := false
  seq       : BitVec 16 := 0
  tmoUs     : BitVec 16 := 0
  timing    : Bool := false
  en        : Bool := false
  secure    : Bool := false
  vector    : BitVec 8 := 0xFF
  smid      : BitVec 4 := 0
  rmid      : BitVec 4 := 0
  deriving DecidableEq, Repr

/-- The management complex (spec/15_management_mailboxes.md R456-R465, R476). `queue` holds the handles of management
commands that no hart has taken, oldest first; `late` those of them that have waited over 100 µs; `hart0`, `hart1` the command each serves; `notices` the
hub buffer of R463; `irq` the interrupts raised to harts, in order (R471). -/
structure Mgmt where
  queue      : List Nat := []
  hart0      : Option Nat := none
  hart1      : Option Nat := none
  late       : List Nat := []
  restarting : Bool := false
  flashReload : Bool := false
  restarts   : BitVec 8 := 0
  heartbeat  : BitVec 8 := 0
  maxUs      : BitVec 16 := 0
  ce         : BitVec 16 := 0
  ue         : BitVec 8 := 0
  parity     : BitVec 4 := 0
  selfchk    : BitVec 4 := 0
  hart       : BitVec 2 := 0
  cause      : BitVec 4 := 0
  notices    : List Packet := []
  irq        : List Nat := []
  running    : Bool := false
  deriving DecidableEq, Repr

/-- TMR_i_CTL.MODE (spec/16_timers.md R491). -/
inductive TimerMode where
  | native | compat | pace
  deriving DecidableEq, Repr

/-- A timer (spec/16_timers.md R477-R491). `linkNow` says that an event of this timer fired its link, which has not
landed yet; `resetNext` that a link reset replaces the step of its next tick. -/
structure Timer where
  en       : Bool := false
  mode     : TimerMode := .native
  oneshot  : Bool := false
  wake     : Bool := false
  ie       : Bool := false
  vector   : BitVec 8 := 0
  pre      : BitVec 4 := 0
  zero     : Bool := false
  ovf      : Bool := false
  matches_ : BitVec 4 := 0
  behind   : BitVec 4 := 0
  capNew   : Bool := false
  capOver  : Bool := false
  pctx     : BitVec 6 := 0
  count    : Word := 0
  reload   : Word := 0
  cmp      : NMap Word := []
  tb       : BitVec 64 := 0
  tbHi     : Word := 0
  capTb    : BitVec 64 := 0
  capCount : Word := 0
  snapHi   : Word := 0
  snapCnt  : Word := 0
  src      : BitVec 3 := 0
  edge     : BitVec 2 := 0
  pin      : BitVec 3 := 0
  index    : BitVec 10 := 0
  levt     : BitVec 2 := 0
  lcsel    : BitVec 2 := 0
  lact     : BitVec 2 := 0
  ltarget  : BitVec 5 := 0
  linkNow  : Bool := false
  resetNext : Bool := false
  deriving DecidableEq, Repr

/-- PWR_STAT.STATE and S4 (spec/17_power.md R501). -/
inductive PowerState where
  | s0 | s1 | s2 | s3 | s4
  deriving DecidableEq, Repr

/-- Power control (spec/17_power.md R493-R511) and the supply side of the module (spec/20_module_electrical.md R567-R573).
`belowMs` counts the milliseconds below THROTTLE_C - 5, `aboveMs` those above THROTTLE_C since the last
change, `plCmds` the POWER_SETs that wait for the level to settle. -/
structure Power where
  capW      : BitVec 16 := 0x01E0
  wakePl    : BitVec 2 := 0
  state     : PowerState := .s0
  target    : Option PowerState := none
  entryCmd  : Option Nat := none
  changing  : Bool := false
  plReq     : BitVec 2 := 0
  plTherm   : BitVec 2 := 0
  pl        : BitVec 2 := 0
  hwlimit   : Bool := false
  brownout  : Bool := false
  boRail    : BitVec 2 := 0
  armed     : Bool := true
  wakeEn    : BitVec 8 := 0
  wakeStat  : BitVec 13 := 0
  latched   : BitVec 13 := 0
  plCmds    : List Nat := []
  throttleC : BitVec 8 := 100
  tjMax     : BitVec 8 := 0
  tj        : BitVec 8 := 0
  belowMs   : Nat := 0
  aboveMs   : Nat := 0
  vin       : BitVec 16 := 0
  iin       : BitVec 16 := 0
  pAvg      : BitVec 16 := 0
  pMax      : BitVec 16 := 0
  rails     : NMap Word := []
  output    : Bool := true
  seated    : BitVec 3 := 7
  pfail     : Bool := false
  limitOff  : Bool := false
  lockUv    : Bool := false
  lockOv    : Bool := false
  pmOff     : Bool := false
  status    : BitVec 4 := 0
  energy    : NMap (BitVec 64) := []
  energyTj  : NMap (BitVec 16) := []
  energyMeas : NMap (BitVec 16) := []
  deriving DecidableEq, Repr

/-- What SEC_DBG_CTL is checking (spec/18_security_debug.md R513, R535). -/
inductive SecRequest where
  | none
  | token
  | transition (target : BitVec 3)
  deriving DecidableEq, Repr

/-- The security block, its debug session and boot state (spec/18_security_debug.md R512-R539). -/
structure Sec where
  recovery  : Bool := false
  pufFail   : Bool := false
  zeroised  : Bool := false
  fwSvn     : BitVec 7 := 0
  fwSlot    : BitVec 2 := 0
  fwCopy    : Bool := false
  tamperCnt : BitVec 8 := 0
  tamper    : BitVec 5 := 0
  level     : BitVec 2 := 0
  everFull  : Bool := false
  everNs    : Bool := false
  request   : SecRequest := .none
  result    : BitVec 8 := 0
  nonce     : BitVec 256 := 0
  idhash    : BitVec 384 := 0
  token     : List Host.Cell := []
  report    : List Byte := []
  reports   : Word := 0
  fwHash    : BitVec 384 := 0
  jtag      : JtagIns := .bypass
  updateAt  : Option Nat := none
  haltedHarts : List Nat := []
  deriving DecidableEq, Repr

/-- A test that runs (spec/19_bringup_selftest.md R551-R558). -/
structure BistRun where
  test    : BitVec 2
  cores   : List Nat
  partly  : Bool := false
  cmd     : Option Nat := none
  deriving DecidableEq, Repr

/-- The BIST controller (spec/19_bringup_selftest.md R551-R559). -/
structure Bst where
  sliceUs   : BitVec 10 := 200
  vset      : BitVec 8 := 0
  running   : Option BistRun := none
  test      : BitVec 2 := 0
  hwstop    : Bool := false
  status    : BitVec 8 := 0
  tiles     : BitVec 11 := 0
  full      : Bool := false
  mismatch  : Bool := false
  held      : List Nat := []
  spared    : List Nat := []
  fail      : Option TestFailure := none
  deriving DecidableEq, Repr

/-- A keep slot: the image lines, the identity epoch of the device keep key that they are encrypted under, and the marker
(spec/06_learning.md R222). -/
structure KeepSlot where
  image   : List Line := []
  key     : Nat := 0
  marker  : BitVec 512 := 0
  writing : Bool := false
  deriving DecidableEq, Repr

/-- A firmware copy in flash with its copy record (spec/18_security_debug.md R519, R524). `shipped` says that it is the image with
which the module came, whose bytes the spec does not give (assumption 51). -/
structure FwCopy where
  shipped : Bool := false
  seq   : Word := 0
  valid : Bool := false
  bytes : List Byte := []
  deriving DecidableEq, Repr

/-- How far the start sequence has come (spec/19_bringup_selftest.md R540): no power, a cold or a warm reset whose sequence has
not run, steps 1 to 8 run while DDR training goes on, Ready, ended before Ready, or ended by a defect that the module reports
as UNCORRECTABLE through the SDIO function (R20 of spec/01_device_organisation.md). -/
inductive Boot where
  | off | coldPending | warmPending | training | ready | stopped | defective
  deriving DecidableEq, Repr

/-- The module variants (spec/00_scope.md R2). -/
inductive Part where
  | m256 | m128 | dk
  deriving DecidableEq, Repr

/-- The life-cycle state in which a part leaves the factory (spec/00_scope.md R2; codes of spec/18_security_debug.md R512). -/
def Part.shipState : Part → BitVec 3
  | .m256 => 3
  | .m128 => 3
  | .dk => 2

/-- What survives a cold reset (spec/14_contexts_recovery.md R448): part and stepping, fuses, flash, defect ledger with
its copies and cold-start count, weight keep, the save counter, and the count of DRBG requests. `keyEpoch` numbers
the PUF-derived keys: RMA and SCRAPPED entry destroy those of the epoch before. -/
structure NonVolatile where
  part      : Part := .m256
  stepMajor : BitVec 4 := 0
  stepMinor : BitVec 4 := 0
  lcState   : BitVec 3 := part.shipState
  slotValid : BitVec 4 := 1
  slotRevoked : BitVec 4 := 0
  rollback  : BitVec 7 := 0
  torn      : Bool := false
  identity  : Bool := true
  keyEpoch  : Nat := 0
  copyA     : FwCopy := { seq := 1, valid := true, shipped := true }
  copyB     : FwCopy := {}
  ledgerA   : List (BitVec 128) := []
  ledgerB   : List (BitVec 128) := []
  coldCount : BitVec 24 := 0
  keep      : NMap KeepSlot := []
  saveSeq   : BitVec 16 := 0
  deriving DecidableEq, Repr

/-- The remap of one row: the physical column of each logical x that is present (spec/01_device_organisation.md R18). -/
abbrev RowMap := List Nat

/-- The bindings that a cold or warm reset sets (spec/15_management_mailboxes.md R475). -/
def resetBindings : NMap Mailbox :=
  [(0, { en := true, secure := true, smid := 0, rmid := 2 }), (1, { en := true, secure := true, smid := 2, rmid := 0 }),
   (2, { en := true, secure := true, smid := 1, rmid := 2 }), (3, { en := true, secure := true, smid := 2, rmid := 1 }),
   (4, { en := true, secure := false, smid := 1, rmid := 3 }), (5, { en := true, secure := false, smid := 3, rmid := 1 })]

/-- A request of the hub to a tile that has not been answered (spec/11_fabric_tolls.md R371): its core, and the bytes [lo, lo + n) of
the value that go to byte `at_` of the read's answer (spec/01_device_organisation.md R43); n is 0 for a write. -/
structure TileAsk where
  core : Nat
  lo   : Nat
  n    : Nat
  at_  : Nat
  deriving DecidableEq, Repr

/-- The machine. `cores` is keyed by logical core number, `remap` by row, `ingest` and `results` by stream,
`timers`, `ports`, `mailboxes`, `shards` by their numbers, `asked` holds the tile requests of the hub that wait for
their answer, `free` counts the free values taken
(assumption 6, the model's own field), `rdata` is the value that the last register read returned
(the model's output), `pending` the commands that wait, first in, first out. -/
structure State where
  nv      : NonVolatile := {}
  remap   : NMap RowMap := []
  glb     : Glb := {}
  hif     : Hif := {}
  sdio    : Sdio := {}
  mgmt    : Mgmt := {}
  mbx     : NMap Mailbox := resetBindings
  tmr     : NMap Timer := []
  pwr     : Power := {}
  sec     : Sec := {}
  bst     : Bst := {}
  fab     : Fabric := {}
  shape   : Word := 0
  ports   : NMap Port := []
  dep     : Depot := {}
  ingest  : NMap Ingest := []
  results : NMap ResultStream := []
  convoys : List Convoy := []
  hubCvy  : List MemberConvoy := []
  shards  : NMap Shard := []
  cores   : NMap Core := []
  boot    : Boot := .coldPending
  ddrDone : Bool := false
  asked   : List TileAsk := []
  free    : Nat := 0
  rdata   : BitVec 64 := 0
  pending : List Instr := []
  deriving DecidableEq, Repr

/-- The reasons for which the block would stop. No meaning of this model stops; the type keeps the
place that Host.Core asks for. -/
inductive Fault where
  /-- Raised by no command: kept so that the type is inhabited. Safe. -/
  | stuck
  deriving DecidableEq, Repr

/-- The refusals. -/
inductive Refusal where
  /-- Raised only by an arm of `exec` whose command has no meaning yet. Safe: no false claim can be proved
  from a step that is refused. -/
  | notModelled (mnemonic : String)
  deriving DecidableEq, Repr

/-- A module of a part right after reset (assumption 3): every register at the value that its table gives. -/
def Part.reset (p : Part) : State := { nv := { part := p }, sec := { nonce := Config.drbg 0 }, free := 1 }

/-- The block right after reset: an HVX-E1024-M256 (assumption 3). -/
def State.reset : State := Part.reset .m256

end Sys2Proof.Machine
end

