-- ==== Sys2Proof/Machine/Operands.lean ====
section
/-! DEFINITION. Operand forms: bit fields, packets, manifests, and the narrow arithmetic of
spec/02_narrow_arithmetic.md. -/

namespace Sys2Proof.Machine

/-! ### Bit fields -/

/-- The field [hi:lo] of a value as a number (spec/00_scope.md R8). -/
def fld {n : Nat} (x : BitVec n) (hi lo : Nat) : Nat := x.toNat / 2 ^ lo % 2 ^ (hi + 1 - lo)

/-- Bit `i` of a value. -/
def bit {n : Nat} (x : BitVec n) (i : Nat) : Bool := x.getLsbD i

/-- A value with the field [hi:lo] replaced by `v`. -/
def setFld {n : Nat} (x : BitVec n) (hi lo v : Nat) : BitVec n :=
  (x &&& ~~~(BitVec.ofNat n ((2 ^ (hi + 1 - lo) - 1) * 2 ^ lo))) |||
    BitVec.ofNat n (v % 2 ^ (hi + 1 - lo) * 2 ^ lo)

/-- A truth value as a bit. -/
def b1 (b : Bool) : Nat := if b then 1 else 0

/-- A field of `n` bits read as two's complement. -/
def signed (n v : Nat) : Int := if v < 2 ^ (n - 1) then v else (v : Int) - 2 ^ n

/-- An integer as an `n`-bit field, modulo `2 ^ n`. -/
def wrap (n : Nat) (v : Int) : Nat := (v % (2 ^ n : Int)).toNat

/-- Whether step `a` lies before step `b` in 32-bit wrapping order (spec/04_step_time.md R114). -/
def stepLt (a b : Word) : Bool := a ≠ b ∧ (b - a).toNat < 2 ^ 31

/-- Whether step `a` is at or before step `b`. -/
def stepLe (a b : Word) : Bool := (b - a).toNat < 2 ^ 31

/-- The bytes of a value, lowest first (spec/00_scope.md R8). -/
def bytesOf (n v : Nat) : List Byte := (List.range n).map fun i => BitVec.ofNat 8 (v / 256 ^ i)

/-- The number that a list of bytes spells, lowest first. -/
def ofBytes : List Byte → Nat
  | [] => 0
  | b :: bs => b.toNat + 256 * ofBytes bs

/-- The bytes of a list of 512-bit lines, in order. -/
def linesBytes (ls : List Line) : List Byte := ls.flatMap fun l => bytesOf 64 l.toNat

/-- A list of bytes cut into 512-bit lines, the last filled up with zeros. -/
def bytesLines (bs : List Byte) : List Line :=
  (List.range ((bs.length + 63) / 64)).map fun i => BitVec.ofNat 512 (ofBytes ((bs.drop (64 * i)).take 64))

/-! ### CRC-32C (spec/12_osust_links.md R380; spec/19_bringup_selftest.md R545) -/

/-- One bit through the CRC-32C register, whose bit 0 holds the highest power: the generator 0x1EDC_6F41 with its bits
reversed (assumption 48). -/
def crcStep (r : Word) (b : Bool) : Word :=
  if r.getLsbD 0 != b then (r >>> 1) ^^^ 0x82F63B78 else r >>> 1

/-- The register after the `n` lowest bits of a number, from bit 0 upward. -/
def crcRun : Nat → Nat → Word → Word
  | 0, _, r => r
  | n + 1, v, r => crcRun n (v / 2) (crcStep r (v % 2 = 1))

/-- CRC-32C over a list of fields, each a width and a value, in order. -/
def crc32c (fs : List (Nat × Nat)) : Word := ~~~(fs.foldl (fun r f => crcRun f.1 f.2 r) 0xFFFFFFFF)

/-! ### Packets (spec/11_fabric_tolls.md R346-R349) -/

/-- A short packet's head from its fields, in the layout of R347. -/
def mkHead (typ : BitVec 4) (vc : BitVec 2) (ddev : BitVec 9) (dcore : BitVec 10) (mcast : BitVec 2)
    (span : BitVec 5) (src : BitVec 32) (stamp : BitVec 16) (ctx : BitVec 6) (gen : BitVec 4)
    (sub : BitVec 6) (payload : BitVec 32) : BitVec 128 :=
  typ ++ vc ++ ddev ++ dcore ++ mcast ++ span ++ src ++ stamp ++ ctx ++ gen ++ sub ++ payload

/-- TYPE [127:124]. -/
def typ (p : Packet) : Nat := fld p.head 127 124
/-- VC [123:122]: 0 VC-H, 1 VC-E, 2 VC-B. -/
def vcOf (p : Packet) : Nat := fld p.head 123 122
/-- DDEV [121:113]. -/
def ddev (p : Packet) : Nat := fld p.head 121 113
/-- DCORE [112:103]. -/
def dcore (p : Packet) : Nat := fld p.head 112 103
/-- MCAST [102:101]. -/
def mcast (p : Packet) : Nat := fld p.head 102 101
/-- SPAN [100:96]. -/
def span (p : Packet) : Nat := fld p.head 100 96
/-- SRC [95:64]. -/
def srcOf (p : Packet) : Nat := fld p.head 95 64
/-- The device of SRC, [95:87]. -/
def srcDev (p : Packet) : Nat := fld p.head 95 87
/-- The core of SRC, [86:77]. -/
def srcCore (p : Packet) : Nat := fld p.head 86 77
/-- The neuron of SRC, [76:64]. -/
def srcNeuron (p : Packet) : Nat := fld p.head 76 64
/-- STAMP [63:48]. -/
def stamp (p : Packet) : Nat := fld p.head 63 48
/-- CTX [47:42]. -/
def pctx (p : Packet) : Nat := fld p.head 47 42
/-- GEN [41:38]. -/
def pgen (p : Packet) : Nat := fld p.head 41 38
/-- MULT [37:36] of an event. -/
def mult (p : Packet) : Nat := fld p.head 37 36
/-- The subtype [37:32] of a CTRL or CONVOY packet, COUNT of a DREQ, the flit count of a BULK. -/
def subtype (p : Packet) : Nat := fld p.head 37 32
/-- PAYLOAD [31:0]. -/
def payload (p : Packet) : Nat := fld p.head 31 0

/-- The source address word of device, core and neuron (R347). -/
def srcWord (dev core neuron : Nat) : BitVec 32 := BitVec.ofNat 32 (dev % 512 * 2 ^ 23 + core % 1024 * 2 ^ 13 + neuron % 8192)

/-- A packet built from numbers, with its activity class (R356) and the MID of its origin. -/
def mkPkt (t vc dev core mc sp : Nat) (src : BitVec 32) (st ctx gen sub pay : Nat) (cls : Nat) (mid : Nat := 0xB)
    (flits : List (BitVec 256) := []) : Packet :=
  { head := mkHead (BitVec.ofNat 4 t) (BitVec.ofNat 2 vc) (BitVec.ofNat 9 dev) (BitVec.ofNat 10 core) (BitVec.ofNat 2 mc)
      (BitVec.ofNat 5 sp) src (BitVec.ofNat 16 st) (BitVec.ofNat 6 ctx) (BitVec.ofNat 4 gen)
      (BitVec.ofNat 6 sub) (BitVec.ofNat 32 pay)
    flits := flits, cls := BitVec.ofNat 3 cls, mid := BitVec.ofNat 4 mid }

/-- The two flits that carry a 64-byte burst, lower half first (R348). -/
def burstFlits (l : Line) : List (BitVec 256) := [l.extractLsb' 0 256, l.extractLsb' 256 256]

/-- The bursts that a packet's flits carry (R348). -/
def flitLines : List (BitVec 256) → List Line
  | lo :: hi :: r => (hi ++ lo) :: flitLines r
  | _ => []

/-- The bytes of a packet's flits, in order. -/
def flitBytes (fs : List (BitVec 256)) : List Byte := fs.flatMap fun f => bytesOf 32 f.toNat

/-- Bytes as data flits, the last filled up with zeros. -/
def bytesFlits (bs : List Byte) : List (BitVec 256) :=
  (List.range ((bs.length + 31) / 32)).map fun i => BitVec.ofNat 256 (ofBytes ((bs.drop (32 * i)).take 32))

/-! ### Manifests (spec/13_host_interface.md R411) -/

/-- Word Wk of a manifest. -/
def mw (m : Line) (k : Nat) : Nat := fld m (159 + 32 * k) (128 + 32 * k)
/-- Two words of a manifest as one 64-bit value, the lower word first. -/
def mw2 (m : Line) (k : Nat) : Nat := mw m k + 2 ^ 32 * mw m (k + 1)
/-- TDEV. -/
def mTdev (m : Line) : Nat := fld m 127 119
/-- TCORE. -/
def mTcore (m : Line) : Nat := fld m 118 109
/-- TOBJ. -/
def mTobj (m : Line) : Nat := fld m 108 96
/-- BALES. -/
def mBales (m : Line) : Nat := fld m 95 85
/-- TIMEOUT. -/
def mTimeout (m : Line) : Nat := fld m 84 80
/-- TAG. -/
def mTag (m : Line) : Nat := fld m 79 64
/-- CTX. -/
def mCtx (m : Line) : Nat := fld m 63 58
/-- FENCE. -/
def mFence (m : Line) : Bool := bit m 33
/-- RESET_ON_TIMEOUT. -/
def mReset (m : Line) : Bool := bit m 32
/-- OPCODE. -/
def mOp (m : Line) : Nat := fld m 15 8
/-- VERSION. -/
def mVersion (m : Line) : Nat := fld m 7 0

/-! ### Narrow arithmetic (spec/02_narrow_arithmetic.md) -/

/-- The formats of R54. -/
inductive Fmt where
  | q4 | q2 | t2 | b1 | q8
  deriving DecidableEq, Repr

/-- The width of a code in bits; a Q8 membrane is held in two nibbles (R54). -/
def Fmt.width : Fmt → Nat
  | .q4 => 4
  | .q2 => 2
  | .t2 => 2
  | .b1 => 1
  | .q8 => 8

/-- The number of levels N (R54, R71). -/
def Fmt.levels : Fmt → Nat
  | .q4 => 16
  | .q2 => 4
  | .t2 => 3
  | .b1 => 2
  | .q8 => 256

/-- The value of a code relative to its zero point, in scale units: q - z, t or the sign; sixteenths of a
unit for Q8 (R54, R61). Code 11 of T2 counts as 0 (R57). -/
def Fmt.factor (f : Fmt) (z code : Nat) : Int :=
  match f with
  | .q4 => (code : Int) - z
  | .q2 => (code : Int) - z
  | .t2 => if code = 1 then 1 else if code = 2 then -1 else 0
  | .b1 => if code = 1 then 1 else -1
  | .q8 => (code : Int) - 16 * z

/-- The exponent e of a scale code (R58). -/
def scExp (sc : Nat) : Int := signed 4 (sc / 16 % 16)

/-- The factor (16 + m) × 2^(e + 8) of a scale code, in A units (R58, R61). -/
def scUnit (sc : Nat) : Nat := (16 + sc % 16) * 2 ^ (scExp sc + 8).toNat

/-- The value of a code in A units (R61). A Q8 value has 2^(e + 4), which R56 keeps whole. -/
def dequant (f : Fmt) (sc z code : Nat) : Int :=
  match f with
  | .q8 => f.factor z code * (scUnit sc / 16 : Nat)
  | _ => f.factor z code * scUnit sc

/-- The level index of a code (R54); the reserved T2 code has index 1 (R57). -/
def Fmt.level (f : Fmt) (code : Nat) : Nat :=
  match f with
  | .t2 => if code = 2 then 0 else if code = 1 then 2 else 1
  | _ => code

/-- The code of a level index (R54). -/
def Fmt.code (f : Fmt) (j : Nat) : Nat :=
  match f with
  | .t2 => if j = 0 then 2 else if j = 1 then 0 else 1
  | _ => j

/-- The lowest level L0 in A units (R71). -/
def Fmt.low (f : Fmt) (sc z : Nat) : Int :=
  match f with
  | .t2 => -(scUnit sc : Int)
  | .b1 => -(scUnit sc : Int)
  | _ => -((z * scUnit sc : Nat) : Int)

/-- The level spacing D in A units (R71). -/
def Fmt.spacing (f : Fmt) (sc : Nat) : Nat :=
  match f with
  | .b1 => 2 * scUnit sc
  | .q8 => scUnit sc / 16
  | _ => scUnit sc

/-- One advance of an LFSR (R75). -/
def lfsrStep (x : Word) : Word :=
  (x <<< 1) ||| (BitVec.ofBool (x.getLsbD 31 ^^ x.getLsbD 21 ^^ x.getLsbD 1 ^^ x.getLsbD 0)).setWidth 32

/-- `n` advances of an LFSR. -/
def lfsrRun : Nat → Word → Word
  | 0, x => x
  | n + 1, x => lfsrRun n (lfsrStep x)

/-- One draw: 16 advances; the draw is bits [15:0] of the new state (R75). -/
def draw (x : Word) : Nat × Word := let y := lfsrRun 16 x; (fld y 15 0, y)

/-- The result of a requantisation: the level index, its code and the two saturation flags (R72, R73). -/
structure Requant where
  j     : Nat
  code  : Nat
  satLo : Bool
  satHi : Bool
  deriving DecidableEq, Repr

/-- The requantiser with the draw `u`; SATHI tells a value above the top level as well as a round-up past it (R72, R73). -/
def requantWith (f : Fmt) (sc z : Nat) (x : Int) (u : Nat) : Requant :=
  let y := x - f.low sc z
  if y < 0 then { j := 0, code := f.code 0, satLo := true, satHi := false }
  else
    let d := f.spacing sc
    let n0 := y.toNat / d
    let r := y.toNat % d
    let n := if u * d < r * 2 ^ 16 then n0 + 1 else n0
    let top := f.levels - 1
    { j := min n top, code := f.code (min n top), satLo := false, satHi := n > top || y.toNat > top * d }

/-- The requantiser, taking its draw from an LFSR in every case (R72). -/
def requant (f : Fmt) (sc z : Nat) (x : Int) (l : Word) : Requant × Word :=
  let (u, l') := draw l
  (requantWith f sc z x u, l')

/-- A value clamped to the 24 bits of a step accumulator, and whether it was clamped (R65). -/
def clamp24 (x : Int) : Int × Bool :=
  if x > 2 ^ 23 - 1 then (2 ^ 23 - 1, true) else if x < -(2 ^ 23) then (-(2 ^ 23), true) else (x, false)

/-- A value clamped to a range. -/
def clampTo (lo hi x : Int) : Int := if x < lo then lo else if x > hi then hi else x

/-- Element `n` of a line in a format's packing (R60). -/
def lineElem (f : Fmt) (l : Line) (n : Nat) : Nat := fld l (f.width * n + f.width - 1) (f.width * n)

/-- A line with element `n` replaced (R60). -/
def setLineElem (f : Fmt) (l : Line) (n code : Nat) : Line := setFld l (f.width * n + f.width - 1) (f.width * n) code

/-- The seed of a core's step LFSR at START (R76). -/
def seedCore (seed : Word) (dev core : Nat) : Word :=
  let x := seed ^^^ BitVec.ofNat 32 ((dev * 1024 + core) * 0x9E3779B9)
  if x = 0 then 1 else x

end Sys2Proof.Machine
end

