-- ==== Sys2Proof/Machine/Flags.lean ====
section
/-! DEFINITION. Status codes (spec/13_host_interface.md R423), counters that stop at their limit, and the
access codes of spec/00_scope.md R11. -/

namespace Sys2Proof.Machine

/-- The status codes of R423. -/
abbrev Status := BitVec 8

def stOk : Status := 0x00
def stOkLate : Status := 0x01
def stPartial : Status := 0x02
def stBadManifest : Status := 0x10
def stBadOpcode : Status := 0x11
def stBadLength : Status := 0x12
def stNoResource : Status := 0x13
def stDoesNotFit : Status := 0x14
def stNoContext : Status := 0x15
def stBadState : Status := 0x16
def stAccess : Status := 0x20
def stLocked : Status := 0x21
def stAuthFailed : Status := 0x22
def stTimeout : Status := 0x30
def stContextReset : Status := 0x31
def stStaleGen : Status := 0x32
def stPeerClosed : Status := 0x33
def stQueueFull : Status := 0x34
def stLinkDown : Status := 0x35
def stEventLoss : Status := 0x36
def stConvoyLate : Status := 0x40
def stConvoyConflict : Status := 0x41
def stConvoyMember : Status := 0x42
def stConvoyTimeout : Status := 0x43
def stUncorrectable : Status := 0x50
def stDeviceRemoved : Status := 0x51
def stBistFail : Status := 0x60
def stBistLimit : Status := 0x61
def stPowerLimit : Status := 0x62

/-- A count of `w` bits after `k` more events: it stops at its largest value. -/
def satAdd {w : Nat} (x : BitVec w) (k : Nat) : BitVec w := BitVec.ofNat w (min (2 ^ w - 1) (x.toNat + k))

/-- A word with its upper 16-bit count advanced; it stops at 0xFFFF. -/
def bumpHi (x : Word) (k : Nat) : Word := setFld x 31 16 (min 0xFFFF (fld x 31 16 + k))

/-- A word with its lower 16-bit count advanced; it stops at 0xFFFF. -/
def bumpLo (x : Word) (k : Nat) : Word := setFld x 15 0 (min 0xFFFF (fld x 15 0 + k))

/-- A word count that stops at 0xFFFF_FFFF. -/
def bumpWord (x : Word) (k : Nat) : Word := satAdd x k

/-- A W1C bit after a write of `w` to it (R11). -/
def w1c (old w : Bool) : Bool := old && !w

end Sys2Proof.Machine
end

