-- ==== Sys2Proof/Machine/Ops.lean ====
section
/-! DEFINITION. The named operations over the parts of the state: sparse maps, memories, cores, toll gates, packets on
the fabric, customs reports, completions and context notices. -/

namespace Sys2Proof.Machine

/-! ### Sparse maps -/

/-- The value of a key: the listed one, else the default `d`. -/
def nget {α : Type} (d : α) : NMap α → Nat → α
  | [], _ => d
  | (k', v) :: m, k => if k' = k then v else nget d m k

/-- A map without a key. -/
def nerase {α : Type} (k : Nat) (m : NMap α) : NMap α := m.filter fun p => p.1 ≠ k

/-- A map with an entry put before the first larger key. -/
def nput {α : Type} (k : Nat) (v : α) : NMap α → NMap α
  | [] => [(k, v)]
  | (k', v') :: m => if k < k' then (k, v) :: (k', v') :: m else (k', v') :: nput k v m

/-- The one way a map is written: the value that an unlisted key reads as removes the entry. -/
def nset {α : Type} [DecidableEq α] (d : α) (m : NMap α) (k : Nat) (v : α) : NMap α :=
  if v = d then nerase k m else nput k v (nerase k m)

/-- The canonical form of a map: rising keys, no entry equal to the default of its key. -/
def nwf {α : Type} [DecidableEq α] (d : Nat → α) (m : NMap α) : Bool :=
  decide ((m.map Prod.fst).Pairwise (· < ·)) && m.all fun p => p.2 ≠ d p.1

/-- A map with the value of a key changed by a function. -/
def nmod {α : Type} [DecidableEq α] (d : α) (m : NMap α) (k : Nat) (f : α → α) : NMap α := nset d m k (f (nget d m k))

/-- A map with a list of values written at consecutive keys. -/
def nsetList {α : Type} [DecidableEq α] (d : α) (m : NMap α) (k : Nat) : List α → NMap α
  | [] => m
  | v :: vs => nsetList d (nset d m k v) (k + 1) vs

/-- The values at `n` consecutive keys. -/
def ngetList {α : Type} (d : α) (m : NMap α) (k n : Nat) : List α := (List.range n).map fun i => nget d m (k + i)

/-! ### Local data memory (spec/01_device_organisation.md R28; little-endian, spec/00_scope.md R8) -/

/-- `n` bytes of a byte memory as one number. An unlisted byte reads 0 (assumption 4). -/
def memGet (m : List Host.Cell) (a n : Nat) : Nat := ofBytes (ngetList (0 : Byte) m a n)

/-- A byte memory with `n` bytes written. -/
def memSet (m : List Host.Cell) (a n v : Nat) : List Host.Cell := nsetList (0 : Byte) m a (bytesOf n v)

/-- `n` bytes of the local data memory of a core as one number. -/
def ldmGet (c : Core) (a n : Nat) : Nat := memGet c.ldm a n

/-- A core with `n` bytes of its local data memory written. -/
def ldmSet (c : Core) (a n v : Nat) : Core := { c with ldm := memSet c.ldm a n v }

/-- The bits of a byte of local data memory that hold a field; the others are reserved, read 0 and discard writes
(spec/04_step_time.md R132; spec/05_synapse_storage.md R192; spec/06_learning.md R196, R228). `learned` tells a core that holds
a learned descriptor. -/
def ldmRw (learned : Bool) (a : Nat) : Byte :=
  if a ≥ 0x3F000 then (match a % 8 with | 0 => 0 | 1 => 0 | 2 => 0 | 3 => 0xC0 | _ => 0xFF)
  else match a with
    | 0x3EFF1 => 0x07
    | 0x3EFF3 => 0x3F
    | 0x3EFF6 => 0x03
    | 0x3EFF7 => 0
    | 0x3EFFA => 0x01
    | 0x3EFFB => 0x80
    | 0x3E500 => 0
    | 0x3E501 => 0
    | 0x3E503 => 0x1F
    | 0x3E505 => 0x03
    | 0x3E506 => 0
    | 0x3E507 => 0
    | _ => if (0x3EFFC ≤ a ∧ a < 0x3F000) ∨ (learned ∧ 0x3E50C ≤ a ∧ a < 0x3E520) then 0 else 0xFF

/-- Whether a core holds a learned descriptor (spec/06_learning.md R196). -/
def holdsLearned (c : Core) : Bool := c.syn.index.any fun p => bit p.2 85 && fld p.2 91 89 != 7

/-- A core with one byte of its local data memory written, its reserved bits left 0. -/
def ldmPutByte (c : Core) (a : Nat) (b : Byte) : Core :=
  { c with ldm := nset 0 c.ldm a (b &&& ldmRw (holdsLearned c) a) }

/-- A core with `n` bytes of its local data memory written by a program, a host or a record: reserved bits stay 0. -/
def ldmPut (c : Core) (a n v : Nat) : Core :=
  (bytesOf n v).zipIdx.foldl (fun c x => ldmPutByte c (a + x.2) x.1) c

/-! ### A waiting handler -/

/-- The instruction after `pc` in a handler, with the loop state after it (spec/08_handler_unit.md R274). -/
def nextPc (h : HandlerState) : HandlerState :=
  match h.loopState with
  | some (a, b, k) =>
      if h.pc.toNat = b then
        if k > 1 then { h with pc := BitVec.ofNat 13 a, loopState := some (a, b, k - 1) }
        else { h with pc := h.pc + 1, loopState := none }
      else { h with pc := h.pc + 1 }
  | none => { h with pc := h.pc + 1 }

/-- A handler with scalar register `r` written; s0 stays 0 (spec/08_handler_unit.md R259). -/
def setS (h : HandlerState) (r : Nat) (v : Word) : HandlerState :=
  if r = 0 then h else { h with sc := nset 0 h.sc r v }

/-- A core whose handler waits for a word resumes when hardware has changed it (spec/08_handler_unit.md R276). -/
def wakeWord (c : Core) : Core :=
  match c.hnd.wait with
  | .waitne rd addr old _ =>
      let w := BitVec.ofNat 32 (ldmGet c addr 4)
      if w = old then c else { c with hnd := { nextPc (setS c.hnd rd w) with wait := .none } }
  | _ => c

/-! ### Parts of the state -/

/-- A logical core. -/
def getCore (s : State) (n : Nat) : Core := nget {} s.cores n
/-- The state with a core replaced. -/
def setCore (s : State) (n : Nat) (c : Core) : State := { s with cores := nset {} s.cores n c }
/-- The state with a core changed. -/
def modCore (s : State) (n : Nat) (f : Core → Core) : State := setCore s n (f (getCore s n))
/-- A shard. -/
def getShard (s : State) (c : Nat) : Shard := nget {} s.shards c
/-- The state with a shard replaced. -/
def setShard (s : State) (c : Nat) (x : Shard) : State := { s with shards := nset {} s.shards c x }
/-- The state with a shard changed. -/
def modShard (s : State) (c : Nat) (f : Shard → Shard) : State := setShard s c (f (getShard s c))
/-- An Osust port. -/
def getPort (s : State) (p : Nat) : Port := nget {} s.ports p
/-- The state with a port replaced. -/
def setPort (s : State) (p : Nat) (x : Port) : State := { s with ports := nset {} s.ports p x }
/-- The state with a port changed. -/
def modPort (s : State) (p : Nat) (f : Port → Port) : State := setPort s p (f (getPort s p))
/-- A submission ring. -/
def getSq (s : State) (n : Nat) : SqRegs := nget {} s.hif.sqs n
/-- The state with a submission ring replaced. -/
def setSq (s : State) (n : Nat) (x : SqRegs) : State := { s with hif := { s.hif with sqs := nset {} s.hif.sqs n x } }
/-- A completion ring. -/
def getCq (s : State) (n : Nat) : CqRegs := nget {} s.hif.cqs n
/-- The state with a completion ring replaced. -/
def setCq (s : State) (n : Nat) (x : CqRegs) : State := { s with hif := { s.hif with cqs := nset {} s.hif.cqs n x } }
/-- An ingest stream. -/
def getIn (s : State) (n : Nat) : Ingest := nget {} s.ingest n
/-- The state with an ingest stream replaced. -/
def setIn (s : State) (n : Nat) (x : Ingest) : State := { s with ingest := nset {} s.ingest n x }
/-- A result stream. -/
def getRes (s : State) (n : Nat) : ResultStream := nget {} s.results n
/-- The state with a result stream replaced. -/
def setRes (s : State) (n : Nat) (x : ResultStream) : State := { s with results := nset {} s.results n x }
/-- A timer. -/
def getTmr (s : State) (n : Nat) : Timer := nget {} s.tmr n
/-- The state with a timer replaced. -/
def setTmr (s : State) (n : Nat) (x : Timer) : State := { s with tmr := nset {} s.tmr n x }
/-- A mailbox channel. -/
def getMbx (s : State) (n : Nat) : Mailbox := nget {} s.mbx n
/-- The state with a mailbox channel replaced. -/
def setMbx (s : State) (n : Nat) (x : Mailbox) : State := { s with mbx := nset {} s.mbx n x }

/-- The counter word of a core at a tile-window offset (spec/01_device_organisation.md R51). -/
def cntGet (c : Core) (off : Nat) : Word := nget 0 c.cnt off
/-- A core with the upper 16-bit count at an offset advanced. -/
def cntHi (c : Core) (off k : Nat) : Core := { c with cnt := nset 0 c.cnt off (bumpHi (cntGet c off) k) }
/-- A core with the lower 16-bit count at an offset advanced. -/
def cntLo (c : Core) (off k : Nat) : Core := { c with cnt := nset 0 c.cnt off (bumpLo (cntGet c off) k) }
/-- A core with the word at an offset written. -/
def cntSet (c : Core) (off : Nat) (v : Word) : Core := { c with cnt := nset 0 c.cnt off v }

/-! ### Placement (spec/01_device_organisation.md R13-R18, R22) -/

/-- This device's number (spec/12_osust_links.md R388). -/
def devNo (s : State) : Nat := fld s.shape 16 14 * 64 + fld s.shape 13 11 * 8 + fld s.shape 10 8

/-- The physical column of logical core `n`, when it is present. -/
def colOf (s : State) (n : Nat) : Option Nat := (nget [] s.remap (n / 32))[n % 32]?

/-- Whether logical core `n` is present. -/
def present (s : State) (n : Nat) : Bool := n < 1024 ∧ (colOf s n).isSome

/-- The physical tile, py × 34 + px, of logical core `n`, when it is present. -/
def tileOf (s : State) (n : Nat) : Option Nat := (colOf s n).map fun px => n / 32 * 34 + px

/-- The logical core at a physical tile, when there is one. -/
def coreAt (s : State) (tile : Nat) : Option Nat :=
  let x := (nget [] s.remap (tile / 34)).idxOf (tile % 34)
  if x < (nget [] s.remap (tile / 34)).length then some (tile / 34 * 32 + x) else none

/-- The present logical cores bound to a context, in ascending order (spec/14_contexts_recovery.md R432). -/
def shardCores (s : State) (ctx : Nat) : List Nat :=
  (s.cores.filter fun p => p.2.bound && p.2.ctx == ctx).map Prod.fst

/-- The state with every core of a shard changed. -/
def modShardCores (s : State) (ctx : Nat) (f : Nat → Core → Core) : State :=
  (shardCores s ctx).foldl (fun s n => modCore s n (f n)) s

/-- The generation of a context (spec/14_contexts_recovery.md R435). -/
def genOf (s : State) (ctx : Nat) : Nat := (getShard s ctx).gen.toNat

/-! ### Toll gates and their budgets (spec/11_fabric_tolls.md R356, R362-R369) -/

/-- A class budget as its 8-bit field: LEND and SLOTS. -/
def budget (lend : Bool) (slots : Nat) : Nat := b1 lend * 128 + slots

/-- The A and B words of a gate from the budgets of the eight classes, in the order of R369. -/
def mkGate (ev dep lrn hnd host mgmt bist dbg : Nat) : Gate :=
  { a := BitVec.ofNat 32 (hnd * 2 ^ 24 + lrn * 2 ^ 16 + dep * 2 ^ 8 + ev)
    b := BitVec.ofNat 32 (dbg * 2 ^ 24 + bist * 2 ^ 16 + mgmt * 2 ^ 8 + host) }

/-- A waystation output or attachment gate at cold reset (R369). -/
def gateWay : Gate := mkGate (budget true 24) 8 4 (budget true 12) 8 4 2 2
/-- The tile gate `g` at cold reset (R368, R369). -/
def gateReset (g : Nat) : Gate :=
  match g with
  | 0 => mkGate 0 0 0 (budget true 48) 4 2 8 2
  | 1 => mkGate 0 0 (budget true 24) (budget true 24) 4 2 8 2
  | 7 => mkGate 0 (budget true 48) 8 0 4 2 1 1
  | _ => gateWay
/-- A DDR channel gate at cold reset (R369). -/
def gateDdr : Gate := mkGate 0 (budget true 48) 4 0 8 2 1 1
/-- The command router's gate at cold reset (R369). -/
def gateCmd : Gate := mkGate 0 0 0 0 (budget true 48) (budget true 16) 0 0
/-- The convoy unit's gate at cold reset (R369). -/
def gateCvy : Gate := mkGate 0 0 0 0 16 (budget true 48) 0 0

/-- Gate `g` of a core. -/
def tileGate (s : State) (core g : Nat) : Gate := nget (gateReset g) s.fab.gates (core * 16 + g)
/-- The state with a tile gate replaced. -/
def setTileGate (s : State) (core g : Nat) (x : Gate) : State :=
  { s with fab := { s.fab with gates := nset (gateReset g) s.fab.gates (core * 16 + g) x } }

/-- SLOTS of class `k` in the words of a gate (R356, R368). -/
def slotsOf (a b : Word) (k : Nat) : Nat := if k < 4 then fld a (8 * k + 6) (8 * k) else fld b (8 * (k - 4) + 6) (8 * (k - 4))
/-- LEND of class `k` in the words of a gate. -/
def lendOf (a b : Word) (k : Nat) : Bool := if k < 4 then bit a (8 * k + 7) else bit b (8 * (k - 4) + 7)

/-- Whether a class may take a cycle at the DP or MEM gate: SLOTS cap it at C × SLOTS / 64 cycles a window, and integration, which
is never held, leaves cycles free (R363, R365). LEND, with which R364 lends at the other gates, does not raise the cap:
DEDUCED (86). -/
def mayTake (g : Gate) (used : NMap Nat) (k : Nat) : Bool :=
  nget 0 used k < 64 * slotsOf g.a g.b k && (used.map Prod.snd).sum < 4096

/-- A core with cycles of a class charged at its DP and MEM gates (R362, R365). -/
def chargePorts (c : Core) (k dp mem : Nat) : Core :=
  { c with ports := { c.ports with
    dp := nmod 0 c.ports.dp k (· + dp)
    mem := nmod 0 c.ports.mem k (· + mem) } }

/-- A cycle that the MEM gate held (R368). -/
def holdMem (c : Core) : Core := { c with ports := { c.ports with memHeld := bumpWord c.ports.memHeld 1 } }

/-- A cycle that the DP gate held (R368). -/
def holdDp (c : Core) : Core := { c with ports := { c.ports with dpHeld := bumpWord c.ports.dpHeld 1 } }

/-- The cycles of the command router and of the convoy unit in a toll window (R362). -/
def hubCap (pl : Nat) : Nat := match pl with | 0 => 2048 | 1 => 2560 | 2 => 4096 | _ => 8192

/-- Whether a class may take a cycle at the gate of the command router or the convoy unit: within its budget, or by LEND in a cycle
that the window still has (R363, R364). -/
def hubMay (pl : Nat) (g : Gate) (k : Nat) : Bool :=
  (g.used.map Prod.snd).sum < hubCap pl &&
    (nget 0 g.used k < hubCap pl / 64 * slotsOf g.a g.b k || lendOf g.a g.b k)

/-- A gate with units charged to a class. -/
def Gate.take (g : Gate) (k n : Nat) : Gate := { g with used := nmod 0 g.used k (· + n) }

/-! ### Packets into the fabric (spec/11_fabric_tolls.md R354, R361) -/

/-- The key of the input buffer of a physical tile, port and VC. Ports: 0 north, 1 south, 2 east, 3 west, 4 core,
5 lane, 6 attachment. -/
def bufKey (tile port vc : Nat) : Nat := (tile * 8 + port) * 4 + vc

/-- The entries of 256 bits that a packet takes in a buffer (R361). -/
def entriesOf (p : Packet) : Nat := 1 + p.flits.length

/-- The OFF mark of a waystation input buffer (R361). -/
def offMark (vc : Nat) : Nat := if vc = 0 then 8 else if vc = 1 then 16 else 32
/-- The ON mark of a waystation input buffer (R361). -/
def onMark (vc : Nat) : Nat := if vc = 0 then 4 else if vc = 1 then 12 else 24

/-- The occupancy of a buffer in entries. -/
def occupancy (fs : List Flight) : Nat := (fs.map fun f => entriesOf f.pkt).sum

/-- The OFF list after the occupancy of buffer `k` became `occ` (R361). -/
def offAfter (off : List Nat) (k vc occ : Nat) : List Nat :=
  if occ ≥ offMark vc then (if off.contains k then off else k :: off)
  else if occ ≤ onMark vc then off.erase k else off

/-- A buffer replaced, with its OFF state following (R361). -/
def setBuf (fb : Fabric) (k vc : Nat) (fs : List Flight) : Fabric :=
  { fb with buf := nset [] fb.buf k fs, off := offAfter fb.off k vc (occupancy fs) }

/-- A packet put at the end of an input buffer, with its route when it is known. The buffer of a core port, a lane or an attachment
lists also what its sender has formed and holds back while the buffer is OFF (assumption 92). -/
def enterBuf (fb : Fabric) (tile port : Nat) (p : Packet) (route : Option (Nat × Nat × Nat)) : Fabric :=
  let k := bufKey tile port (vcOf p)
  setBuf { fb with ages := fb.ages + 1 } k (vcOf p) (nget [] fb.buf k ++ [{ pkt := p, route := route, age := fb.ages }])

/-- The copies of one packet that cross a link together put at the end of an input buffer: they share one age (R359). -/
def enterCopies (fb : Fabric) (tile port : Nat) (fs : List Flight) : Fabric :=
  match fs with
  | [] => fb
  | f :: _ =>
      let k := bufKey tile port (vcOf f.pkt)
      setBuf { fb with ages := fb.ages + 1 } k (vcOf f.pkt) (nget [] fb.buf k ++ fs.map fun g => { g with age := fb.ages })

/-- A packet formed by a core, given to its own waystation (R354). -/
def coreSend (s : State) (core : Nat) (p : Packet) : State :=
  match tileOf s core with
  | none => s
  | some t => { s with fab := enterBuf s.fab t 4 p none }

/-- The packets that a core forms in one phase, in order. -/
def coreSendAll (s : State) (core : Nat) (ps : List Packet) : State := ps.foldl (fun s p => coreSend s core p) s

/-- A packet of the corner hub: the hub attachment at column x mod 4 of its destination core
(spec/01_device_organisation.md R17; spec/12_osust_links.md R390). -/
def hubSend (s : State) (p : Packet) : State :=
  { s with fab := enterBuf s.fab (31 * 34 + dcore p % 4) 6 p none }

/-- The packets of the corner hub, in order. -/
def hubSendAll (s : State) (ps : List Packet) : State := ps.foldl hubSend s

/-- The packet for the corner hub from a core: DCORE 0x3FF (spec/12_osust_links.md R390). The sender is named in
SRC with the neuron field 0 (spec/11_fabric_tolls.md R371). -/
def toHub (s : State) (core ty vc sub st pay cls : Nat) (flits : List (BitVec 256) := []) : Packet :=
  let c := getCore s core
  mkPkt ty vc (devNo s) 0x3FF 0 0 (srcWord (devNo s) core 0) st c.ctx c.gen.toNat sub pay cls 0xB flits

/-- A CTRL notice of a core to the hub (spec/11_fabric_tolls.md R371). -/
def ctrlNotice (s : State) (core sub st pay cls : Nat) : State := coreSend s core (toHub s core 7 0 sub st pay cls)

/-- A packet of the hub or of an engine to a core of this device: MID in [67:64] (spec/11_fabric_tolls.md R371). -/
def fromHub (s : State) (mid core ty vc sub st ctx pay cls : Nat) (flits : List (BitVec 256) := []) : Packet :=
  mkPkt ty vc (devNo s) core 0 0 (BitVec.ofNat 32 mid) st ctx (genOf s ctx) sub pay cls mid flits

/-! ### Customs reports (spec/09_queues_active_messages.md R319, spec/11_fabric_tolls.md R371) -/

/-- CLOG_A of a refused access. -/
def clogA (src : BitVec 32) (ctx gen dev mid : Nat) (status : Status) (addr : Nat) : Packet :=
  mkPkt 7 0 dev 0x3FF 0 0 src (mid % 16 * 2 ^ 12 + status.toNat) ctx gen 0x25 addr 5 mid

/-- CLOG_B of the same access. -/
def clogB (src : BitVec 32) (ctx gen dev mid sdev score tcore : Nat) : Packet :=
  mkPkt 7 0 dev 0x3FF 0 0 src 0 ctx gen 0x26 (sdev % 512 * 2 ^ 20 + score % 1024 * 2 ^ 10 + tcore % 1024) 5 mid

/-- The register arbiter reports a refused register access: the pair reaches GLB (R319). -/
def clogBar (s : State) (mid addr : Nat) (status : Status) : State :=
  let d := devNo s
  { s with fab := { s.fab with hub := s.fab.hub ++ [clogA 0 0 0 d mid status addr, clogB 0 0 0 d mid d 0 0x3FF] } }

/-- The customs checker of a core reports a refused access of a packet (R319). -/
def clogTile (s : State) (core mid sdev score : Nat) (status : Status) (addr : Nat) : State :=
  let c := getCore s core
  let src := srcWord (devNo s) core 0
  coreSendAll s core [clogA src c.ctx c.gen.toNat (devNo s) mid status addr,
    clogB src c.ctx c.gen.toNat (devNo s) mid sdev score core]

/-- A customs violation at a tile: counted in TILE_Q_CNT1.VIOL and reported (R319, R322). -/
def violTile (s : State) (core mid sdev score : Nat) (status : Status) (addr : Nat) : State :=
  clogTile (modCore s core fun c => cntLo c 0xF04 1) core mid sdev score status addr

/-! ### Completions (spec/13_host_interface.md R413-R415) -/

/-- A completion entry without SQHEAD and PHASE, which its write fills in (R413). -/
def mkEntry (pay : BitVec 128) (result tag : Nat) (status : Status) (sqid qdelay part parts kind ctx op : Nat) : BitVec 256 :=
  pay ++ BitVec.ofNat 32 result ++ BitVec.ofNat 16 tag ++ status ++ BitVec.ofNat 8 sqid ++ (0 : BitVec 16) ++
    BitVec.ofNat 16 qdelay ++ BitVec.ofNat 4 part ++ BitVec.ofNat 4 parts ++ BitVec.ofNat 2 kind ++ BitVec.ofNat 6 ctx ++
    BitVec.ofNat 8 op ++ (0 : BitVec 8)

/-- The slots of a ring (R407). -/
def ringSize (log2 : BitVec 4) : Nat := if log2 = 0 then 2 ^ 16 else 2 ^ log2.toNat

/-- The entries of a completion ring that host software has not consumed. -/
def cqUsed (c : CqRegs) : Nat := (c.tail.toNat + ringSize c.log2 - c.head.toNat) % ringSize c.log2

/-- The free entries of a completion ring: at most S - 1 are unconsumed (R414). -/
def cqFree (c : CqRegs) : Nat := ringSize c.log2 - 1 - cqUsed c

/-- One entry written into a completion ring with the ring's phase, and SQHEAD for a command (R413, R414). -/
def cqWriteOne (s : State) (n : Nat) (e : BitVec 256) : State :=
  let c := getCq s n
  let e1 := if fld e 23 22 = 0 then setFld e 63 48 (getSq s (fld e 71 64)).head.toNat else e
  let wrapped := c.tail.toNat + 1 = ringSize c.log2
  let s1 := setCq s n { c with
    tail := if wrapped then 0 else c.tail + 1
    phase := if wrapped then !c.phase else c.phase }
  { s1 with hif := { s1.hif with written := s1.hif.written ++ [(n, c.tail.toNat, setFld e1 0 0 (b1 c.phase))] } }

/-- The interrupt rule after `k` entries were written (R415). -/
def cqSignal (s : State) (n k : Nat) : State :=
  let c := getCq s n
  if c.coalCnt = 0 ∨ c.unsig + k ≥ c.coalCnt.toNat then
    let s1 := setCq s n { c with unsig := 0 }
    { s1 with hif := { s1.hif with msix := s1.hif.msix ++ [c.vector.toNat] } }
  else setCq s n { c with unsig := c.unsig + k }

/-- A group written into consecutive entries, then signalled (R414, R415). -/
def cqWrite (s : State) (n : Nat) (es : List (BitVec 256)) : State :=
  cqSignal (es.foldl (fun s e => cqWriteOne s n e) s) n es.length

/-- Whether a group may be written now: the ring is enabled, has room, and no group waits (R415, R429). -/
def cqRoom (s : State) (n k : Nat) : Bool := let c := getCq s n; c.en && c.hold.isEmpty && k ≤ cqFree c

/-- A command group to a completion ring: it is written, or waits in the hold queue (R415). -/
def cqPost (s : State) (n : Nat) (es : List (BitVec 256)) : State :=
  if cqRoom s n es.length then cqWrite s n es
  else let c := getCq s n; setCq s n { c with hold := c.hold ++ [{ entries := es }] }

/-- The fetched command of a handle. -/
def findCmd (s : State) (h : Nat) : Option Fetched := s.hif.fetched.find? fun f => f.handle == h

/-- The state with a fetched command changed. -/
def modCmd (s : State) (h : Nat) (f : Fetched → Fetched) : State :=
  { s with hif := { s.hif with fetched := s.hif.fetched.map fun x => if x.handle = h then f x else x } }

/-- A command leaves the fetched list, the management queue and the hart that serves it. -/
def dropCmd (s : State) (h : Nat) : State :=
  { s with
    hif := { s.hif with fetched := s.hif.fetched.filter fun f => f.handle != h }
    mgmt := { s.mgmt with
      queue := s.mgmt.queue.filter (· != h)
      hart0 := if s.mgmt.hart0 = some h then none else s.mgmt.hart0
      hart1 := if s.mgmt.hart1 = some h then none else s.mgmt.hart1 } }

/-- The entries of a command's completion group (R413, R414). -/
def groupOf (f : Fetched) (sqid : Nat) (st : Status) (result : Nat) (pays : List (BitVec 128)) : List (BitVec 256) :=
  pays.zipIdx.map fun (p, i) =>
    mkEntry p result (mTag f.manifest) st sqid f.qdelay.toNat i (pays.length - 1) 0 (mCtx f.manifest) (mOp f.manifest)

/-- A completion returned to a front-end peer: a MSG with REPLY 1, QUEUE 0, CGEN 0 and length 32 for each entry
(spec/12_osust_links.md R401), addressed to FEDEV. -/
def feReply (s : State) (port : Nat) (es : List (BitVec 256)) : State :=
  let d := (getPort s port).fedev.toNat
  hubSendAll s (es.map fun e =>
    mkPkt 4 2 d 0x3FF 0 0 (BitVec.ofNat 32 (2 ^ 31 + devNo s * 2 ^ 22)) 0 (fld e 21 16) (genOf s (fld e 21 16)) 0
      (32 * 2 ^ 10) 4 0x2 [e])

/-- A completion group goes where its command came from: the CQ of its SQ, the SDIO completion buffer (R425) or a
front-end peer (R401). -/
def answer (s : State) (f : Fetched) (st : Status) (result : Nat) (pays : List (BitVec 128)) : State :=
  match f.origin with
  | .sq n => cqPost s (getSq s n).cq.toNat (groupOf f n st result pays)
  | .sdio =>
      { s with sdio := { s.sdio with
          busy := false, cmpl := true, intCmpl := true
          cbuf := (groupOf f 0xFF st result pays).map fun e => setFld e 0 0 1 } }
  | .frontEnd p => feReply s p (groupOf f 0 st result pays)

/-- A command completes: one group, unless its timeout has already answered for it (R418). -/
def complete (s : State) (h : Nat) (st : Status) (result : Nat := 0) (pays : List (BitVec 128) := [0]) : State :=
  match findCmd s h with
  | none => s
  | some f => if f.held then dropCmd s h else answer (dropCmd s h) f st result pays

/-- A command whose completion waits for an engine: its row has run and its hart is free
(spec/15_management_mailboxes.md R457; assumption 12). -/
def begun (s : State) (h : Nat) : State :=
  let s1 := modCmd s h fun f => { f with begun := true }
  { s1 with mgmt := { s1.mgmt with
      hart0 := if s1.mgmt.hart0 = some h then none else s1.mgmt.hart0
      hart1 := if s1.mgmt.hart1 = some h then none else s1.mgmt.hart1 } }

/-! ### Context notices (spec/14_contexts_recovery.md R443) -/

/-- The completion entry of a notice: PAYLOAD bytes 12-15 count the folded occurrences. -/
def noticeEntry (ctx : Nat) (x : Notice) : BitVec 256 :=
  mkEntry (BitVec.ofNat 32 x.folded ++ x.payload) x.result.toNat 0 x.status 0 0 0 0 2 ctx 0

/-- A notice folded into one of the same STATUS, or added while fewer than 16 wait (R443). -/
def holdNotice (xs : List Notice) (x : Notice) : List Notice :=
  match xs with
  | [] => [x]
  | y :: ys => if y.status = x.status then { y with folded := y.folded + 1 + x.folded } :: ys else y :: holdNotice ys x

/-- A context notice: at most one of a STATUS in each 1 ms, the rest folded into the next; held while the notice CQ
has no room and while management restarts (R443; spec/15_management_mailboxes.md R463). The distinct statuses are fewer than the 16 that firmware holds. -/
def notice (s : State) (ctx : Nat) (x : Notice) : State :=
  let sh := getShard s ctx
  let q := sh.noticeCq.toNat
  if s.mgmt.restarting || sh.sent.contains x.status || !cqRoom s q 1 then setShard s ctx { sh with notices := holdNotice sh.notices x }
  else cqWrite (setShard s ctx { sh with sent := x.status :: sh.sent }) q [noticeEntry ctx x]

/-- A wake source that fires: PWR_WAKE_STAT records it by its bit, and it is latched while a lower state is being entered
(spec/17_power.md R504, R506). -/
def wakeFires (s : State) (b : Nat) : State :=
  let m := BitVec.ofNat 13 (2 ^ b)
  { s with pwr := { s.pwr with
      wakeStat := s.pwr.wakeStat ||| m
      latched := if s.pwr.target.isSome then s.pwr.latched ||| m else s.pwr.latched } }

/-- The same notice to each context of a list. -/
def noticeAll (s : State) (cs : List Nat) (x : Notice) : State := cs.foldl (fun s c => notice s c x) s

/-- The contexts whose shards are in a state. -/
def ctxsIn (s : State) (p : Shard → Bool) : List Nat := (s.shards.filter fun q => p q.2).map Prod.fst

/-- A packet of a core or of a waystation for the hub that needs no mesh crossing. -/
def hubTake (s : State) (p : Packet) : State := { s with fab := { s.fab with hub := s.fab.hub ++ [p] } }

/-- A packet that a hub engine has taken leaves the list of arrivals. -/
def hubDone (s : State) (p : Packet) : State := { s with fab := { s.fab with hub := s.fab.hub.erase p } }

/-- A packet that a core has taken leaves its core port. -/
def portDone (s : State) (core : Nat) (p : Packet) : State :=
  modCore s core fun c => { c with arrived := c.arrived.erase p }

/-- Whether it is a packet's turn at a core port: no packet of its VC arrived before it and still waits, so that packets of one VC
are taken in the order of their arrival (spec/04_step_time.md R135). -/
def portTurn (s : State) (core : Nat) (p : Packet) : Bool :=
  match (getCore s core).arrived.find? fun q => vcOf q == vcOf p with
  | none => true
  | some q => q == p

/-- What a core does with a packet at its port: nothing before the packet's turn (spec/04_step_time.md R135); then the packet
leaves the port and `f` acts. -/
def fromPort (s : State) (core : Nat) (p : Packet) (f : State → State) : State :=
  if portTurn s core p then f (portDone s core p) else s

end Sys2Proof.Machine
end

