-- ==== Sys2Proof/Machine/Hif.lean ====
section
/-! DEFINITION. The host interface: doorbells, fetch and manifest checks, the order of commands, completions
(spec/13_host_interface.md), and the harts' taking of commands (spec/15_management_mailboxes.md R456-R460). -/

namespace Sys2Proof.Machine

/-! ### The opcode table (R421, R457) -/

/-- What the hub knows of an opcode: whether it names a context, a core or an object, whether it runs on the fast
path (R417) or on hart 1 (R457), and the bits that each word may hold. -/
structure OpRule where
  ctx  : Bool
  core : Bool := false
  obj  : Bool := false
  fast : Bool := false
  hart1 : Bool := false
  masks : List Nat := []
  deriving DecidableEq, Repr

/-- A word with no reserved bit. -/
def m32 : Nat := 0xFFFFFFFF

/-- The rule of an opcode; none for an unassigned one (R421). -/
def opRule : Nat → Option OpRule
  | 0x00 => some { ctx := false, masks := [m32] }
  | 0x01 => some { ctx := true, masks := [0xFF7F, 0xFFF, 0xFFF, 0x7F7F7F7F, 0x7F7F7F7F] }
  | 0x02 => some { ctx := true }
  | 0x03 => some { ctx := true }
  | 0x08 => some { ctx := true, masks := [3, m32, m32, m32, m32] }
  | 0x09 => some { ctx := true, masks := [m32] }
  | 0x0A => some { ctx := true }
  | 0x10 => some { ctx := true, fast := true, masks := [m32, 3] }
  | 0x11 => some { ctx := true, masks := [0x1F, m32, m32, m32, m32, m32, m32] }
  | 0x12 => some { ctx := true, fast := true, masks := [0x1F, m32] }
  | 0x18 => some { ctx := true, obj := true }
  | 0x19 => some { ctx := true, obj := true, fast := true }
  | 0x1A => some { ctx := true, obj := true }
  | 0x1B => some { ctx := true }
  | 0x1C => some { ctx := true, obj := true }
  | 0x20 => some { ctx := true, core := true, obj := true, fast := true, masks := [0xFFFF, m32] }
  | 0x28 => some { ctx := true, hart1 := true, masks := [0x1FFF, m32] }
  | 0x29 => some { ctx := true, hart1 := true, masks := [0x3F] }
  | 0x2A => some { ctx := true, hart1 := true, masks := [0x3F] }
  | 0x2B => some { ctx := true, hart1 := true, masks := [0x3F] }
  | 0x2C => some { ctx := true, hart1 := true, masks := [0x3F] }
  | 0x30 => some { ctx := true, hart1 := true, masks := [1, m32] }
  | 0x31 => some { ctx := true, hart1 := true, masks := [1, m32] }
  | 0x38 => some { ctx := true, core := true, fast := true, masks := [7, m32, 0x1FF] }
  | 0x39 => some { ctx := true, core := true, masks := [7, m32, 0x1FF] }
  | 0x3A => some { ctx := true, core := true, obj := true, fast := true, masks := [0xF, m32, 0x1FF, 0x7FFF] }
  | 0x40 => some { ctx := false, hart1 := true, masks := [1, m32] }
  | 0x41 => some { ctx := false, hart1 := true, masks := [m32, m32, m32, m32] }
  | 0x42 => some { ctx := false, hart1 := true }
  | 0x48 => some { ctx := false, core := true, hart1 := true, masks := [7] }
  | 0x49 => some { ctx := false, hart1 := true, masks := [0x77] }
  | _ => none

/-- Whether an opcode runs on the fast path (R417). -/
def isFast (op : Nat) : Bool := match opRule op with | some r => r.fast | none => false

/-- Whether a manifest names a context. STATS_READ names one for sources 0 and 1 only, whose target lies in a
context (R422; assumption 13). -/
def namesCtx (m : Line) : Bool :=
  match opRule (mOp m) with
  | some r => r.ctx && !(mOp m == 0x3A && mw m 0 % 8 ≥ 2)
  | none => false

/-- Whether a manifest names a core of its context (R420, R422). -/
def namesCore (m : Line) : Bool :=
  mOp m == 0x20 || mOp m == 0x38 || mOp m == 0x39 || (mOp m == 0x3A && mw m 0 % 8 == 0)

/-! ### The manifest checks (R408, R412) -/

/-- The units of the state spaces in bytes (R422). -/
def spaceUnit (sp : Nat) : Nat := match sp with | 0 => 8 | 3 => 64 | 4 => 16 | _ => 4

/-- The bale counts that an opcode's words and payload call for (R412 check 4, R421, R231, R247). -/
def balesOk (m : Line) (bales : List Line) : Bool :=
  let n := mBales m
  let exactly (bytes : Nat) : Bool := n == (bytes + 63) / 64
  match mOp m with
  | 0x08 => if mw m 0 % 4 = 0 then 1 ≤ n && n ≤ 1024 else n == 0
  | 0x18 => exactly (32 + 8 * fld (bales.headD 0) 45 39)
  | 0x19 => 1 ≤ n
  | 0x1B => exactly (8 + 8 * fld (bales.headD 0) 10 4)
  | 0x20 => exactly (fld m 143 134)
  | 0x29 => 1 ≤ n
  | 0x39 => exactly (mw m 2 % 512)
  | 0x40 => 1 ≤ n
  | _ => n == 0

/-- The rules of an opcode's words that need no state (R412 check 5, R421, R139, R422). -/
def wordsOk (m : Line) : Bool :=
  let w := mw m
  match mOp m with
  | 0x01 => (2 ≤ w 0 % 16 && w 0 % 16 ≤ 8) && fld m 133 132 != 3 &&
      [0, 8, 16, 24].all fun b => w 3 / 2 ^ b % 128 ≤ 64 && w 4 / 2 ^ b % 128 ≤ 64
  | 0x08 =>
      if w 0 = 0 then w 1 % 64 == 0 && w 3 == 0 && w 4 == 0
      else if w 0 = 1 then w 1 % 64 == 0
      else w 0 == 2 && w 1 == 0 && w 2 == 0 && w 3 == 0 && w 4 == 0
  | 0x11 => mw2 m 1 != 0 && mw2 m 3 < mw2 m 1
  | 0x18 => mTobj m < 64
  | 0x19 => mTobj m < 64
  | 0x1A => mTobj m < 64
  | 0x1C => mTobj m < 64
  | 0x20 => mTobj m < 256 && fld m 143 134 ≤ 512 && (fld m 143 134 == 0 || w 1 == 0)
  | 0x28 => fld m 140 136 != 31
  | 0x38 => w 0 % 8 != 7 && 1 ≤ w 2 && w 2 ≤ 256 && w 2 % spaceUnit (w 0) == 0
  | 0x39 => w 0 % 8 < 6 && 1 ≤ w 2 && w 2 ≤ 256 && w 2 % spaceUnit (w 0) == 0
  | 0x3A => w 0 % 8 < 6 && 1 ≤ w 2 && w 2 ≤ 256 && (w 0 % 8 == 2 || w 3 == 0) &&
      (w 0 % 8 == 0 || mTcore m == 0) && (if w 0 % 8 = 1 then mTobj m < 128 else mTobj m == 0)
  | 0x49 => w 0 % 8 ≤ 4
  | _ => true

/-- No reserved bit is set in the words, in TCORE or in TOBJ (R411, R421). -/
def wordsReserved (m : Line) (r : OpRule) : Bool :=
  (List.range 12).all (fun k => mw m k &&& ((r.masks[k]?).getD 0) == mw m k) &&
    (r.core || mTcore m == 0) && (r.obj || mTobj m == 0)

/-- The checks of R412 in their order: the status of the first that fails. -/
def manifestCheck (s : State) (m : Line) (bales : List Line) : Option Status :=
  if mVersion m ≠ 1 ∨ fld m 57 34 ≠ 0 ∨ fld m 31 16 ≠ 0 ∨ mBales m > 1024 ∨ mTdev m ≠ devNo s then some stBadManifest
  else match opRule (mOp m) with
    | none => some stBadOpcode
    | some r =>
        if namesCtx m ∧ mOp m ≠ 0x01 ∧ (getShard s (mCtx m)).state = .free then some stNoContext
        else if !namesCtx m ∧ mCtx m ≠ 0 then some stBadManifest
        else if !balesOk m bales then some stBadLength
        else if !wordsReserved m r || !wordsOk m then some stBadManifest
        else none

/-- A command that passed the checks of R412 while its context resets completes with CONTEXT_RESET (R419). -/
def resetCheck (s : State) (m : Line) : Option Status :=
  if namesCtx m ∧ mOp m ≠ 0x03 ∧ (getShard s (mCtx m)).state = .resetting then some stContextReset else none

/-- A command enters the hub: it completes with the first failed check, or waits, in the management queue where
it runs on the management path (R412, R417). -/
def accept (s : State) (o : Origin) (m : Line) (bales : List Line) (extra : Option Status) : State :=
  let f : Fetched := { handle := s.hif.nextHandle, origin := o, manifest := m, bales := bales }
  match (manifestCheck s m bales).or (extra.or (resetCheck s m)) with
  | some st => answer { s with hif := { s.hif with nextHandle := s.hif.nextHandle + 1 } } f st 0 [0]
  | none =>
      { s with
        hif := { s.hif with nextHandle := s.hif.nextHandle + 1, fetched := s.hif.fetched ++ [f] }
        mgmt := if isFast (mOp m) then s.mgmt else { s.mgmt with queue := s.mgmt.queue ++ [f.handle] } }

/-! ### Doorbells (R406, R409, R415) -/

/-- The occupied slots of a submission ring. -/
def sqUsed (q : SqRegs) : Nat := (q.tail.toNat + ringSize q.log2 - q.head.toNat) % ringSize q.log2

/-- Whether an SQ doorbell value is discarded: S or more, or inside the occupied span (R409). -/
def sqBad (q : SqRegs) (v : Nat) : Bool :=
  v ≥ ringSize q.log2 || (v + ringSize q.log2 - q.head.toNat) % ringSize q.log2 < sqUsed q

/-- Whether a CQ doorbell value is discarded: S or more, or past the hub's tail (R415). -/
def cqBad (c : CqRegs) (v : Nat) : Bool :=
  v ≥ ringSize c.log2 || (v + ringSize c.log2 - c.head.toNat) % ringSize c.log2 > cqUsed c

/-- A write to SQ doorbell n (R409), a wake source (spec/17_power.md R504). -/
def sqBell (s0 : State) (n : Nat) (value : Word) : State :=
  let s := wakeFires s0 9
  let q := getSq s n
  let v := fld value 15 0
  if n ≥ 256 then s0
  else if sqBad q v then clogBar (setSq s n { q with dberr := true }) 0 (8 * n) stAccess
  else setSq s n { q with tail := BitVec.ofNat 16 v }

/-- SQ_DOORBELL (R409). -/
def execSqDoorbell (n : Nat) (value : Word) (s : State) : Host.Outcome State Fault Refusal := .next (sqBell s n value)

/-! ### Fetch (R408, R410, R415, R417, R429) -/

/-- The commands of an SQ that have been fetched and not completed (R410, HIF_SQ_STAT.INFLIGHT). -/
def inflight (s : State) (n : Nat) : Nat :=
  (s.hif.fetched.filter fun f => f.origin == .sq n && !f.held).length

/-- Whether the hub may fetch from an SQ (R410, R415, R429). -/
def sqEligible (s : State) (n : Nat) : Bool :=
  let q := getSq s n
  let c := getCq s q.cq.toNat
  q.en && c.en && c.hold.isEmpty && sqUsed q != 0 && inflight s n < 64

/-- The next SQ of the round robin (R410). -/
def nextSq (s : State) : Option Nat :=
  ((List.range 256).map fun i => (s.hif.rr + i) % 256).find? fun n => sqEligible s n

/-- The class HOST (spec/11_fabric_tolls.md R356). -/
def hostClass : Nat := 4

/-- The fetch of a command's slots charged to the HOST toll at the command router's gate, one cycle for each slot (R410;
spec/11_fabric_tolls.md R362). DESIGN CHOICE (101). -/
def chargeFetch (s : State) (slots : Nat) : State := { s with fab := { s.fab with cmd := s.fab.cmd.take hostClass slots } }

/-- COMMAND_FETCH with the slots that the hub reads from the ring's head on (R408, R410, R412). The hub fetches when
it is enabled, the device is Ready in S0, and the command router's gate leaves the HOST class a cycle. -/
def execCommandFetch (slots : List Line) (s : State) : Host.Outcome State Fault Refusal :=
  if s.hif.en ∧ s.sdio.ready ∧ s.pwr.state = .s0 ∧ hubMay s.pwr.pl.toNat s.fab.cmd hostClass then
    match nextSq s, slots with
    | some n, m :: rest =>
        let q := getSq s n
        let s1 := { s with hif := { s.hif with rr := (n + 1) % 256 } }
        let size := ringSize q.log2
        if mBales m + 1 > size - 1 then
          let s2 := setSq s1 n { q with head := q.tail, skip := true }
          .next (answer s2 { handle := 0, origin := .sq n, manifest := m, bales := [] } stBadLength 0 [0])
        else if !isFast (mOp m) ∧ s.mgmt.queue.length ≥ 256 then .next s1
        else if mBales m + 1 > sqUsed q then .next s1
        else
          let s2 := setSq s1 n { q with head := BitVec.ofNat 16 ((q.head.toNat + mBales m + 1) % size) }
          .next (accept (chargeFetch s2 (mBales m + 1)) (.sq n) m ((List.range (mBales m)).map fun i => (rest[i]?).getD 0) none)
    | _, _ => .next s
  else .next s

/-- COMPLETION_HOLD_RELEASE: the oldest group in the hold queue is written once entries are free (R415). -/
def execCompletionHoldRelease (cq : Nat) (s : State) : Host.Outcome State Fault Refusal :=
  let c := getCq s cq
  match c.hold with
  | [] => .next s
  | g :: gs =>
      if c.en ∧ g.entries.length ≤ cqFree c then .next (cqWrite (setCq s cq { c with hold := gs }) cq g.entries)
      else .next s

/-- CQ_COALESCE_TIMER: COAL_US expires after the first unsignalled entry (R415). -/
def execCqCoalesceTimer (cq : Nat) (s : State) : Host.Outcome State Fault Refusal :=
  let c := getCq s cq
  if c.unsig = 0 then .next s
  else
    let s1 := setCq s cq { c with unsig := 0 }
    .next { s1 with hif := { s1.hif with msix := s1.hif.msix ++ [c.vector.toNat] } }

/-! ### The order of commands (R416) and their start -/

/-- Whether an earlier command holds a later one of its SQ (R416): an earlier command that has not completed, when
the later one carries FENCE, or when both name one context and one of them is on the management path or the earlier
one has not started. -/
def holds (earlier later : Fetched) : Bool :=
  earlier.origin == later.origin && !earlier.held &&
    (mFence later.manifest ||
      (namesCtx later.manifest && namesCtx earlier.manifest && mCtx later.manifest == mCtx earlier.manifest &&
        (!isFast (mOp later.manifest) || !isFast (mOp earlier.manifest) || !earlier.taken)))

/-- Whether R416 holds a fetched command. -/
def isHeld (s : State) (f : Fetched) : Bool :=
  (s.hif.fetched.takeWhile fun e => e.handle != f.handle).any fun e => holds e f

/-- The group of a management-path opcode: the hart that takes it (R457). -/
def hartOf (op : Nat) : Nat := match opRule op with | some r => if r.hart1 then 1 else 0 | none => 0

/-- Whether a hart serves no command. -/
def hartFree (s : State) (hart : Nat) : Bool :=
  if hart = 0 then s.mgmt.hart0.isNone else hart = 1 && s.mgmt.hart1.isNone

/-- The next command of a hart's group that R416 does not hold, in queue order (R456; assumption 14). -/
def nextFor (s : State) (hart : Nat) : Option Fetched :=
  (s.mgmt.queue.filterMap (findCmd s)).find? fun f => hartOf (mOp f.manifest) == hart && !isHeld s f

/-- MGMT_COMMAND_TAKE: a free hart takes the next command of its group; its wait becomes QDELAY
(R413, R456, R460, R476). Firmware runs once it is loaded, and a hart that a restart holds or a debug session halts takes none
(R462; spec/18_security_debug.md R532). -/
def execMgmtCommandTake (hart waitedUs : Nat) (s : State) : Host.Outcome State Fault Refusal :=
  if s.mgmt.running ∧ !s.mgmt.restarting ∧ !s.sec.haltedHarts.contains hart ∧ hartFree s hart then
    match nextFor s hart with
    | none => .next s
    | some f =>
        let d := min waitedUs 0xFFFF
        let s1 := modCmd s f.handle fun x => { x with taken := true, qdelay := BitVec.ofNat 16 d }
        .next { s1 with mgmt := { s1.mgmt with
          queue := s1.mgmt.queue.erase f.handle
          late := s1.mgmt.late.erase f.handle
          hart0 := if hart = 0 then some f.handle else s1.mgmt.hart0
          hart1 := if hart = 1 then some f.handle else s1.mgmt.hart1
          maxUs := BitVec.ofNat 16 (max s1.mgmt.maxUs.toNat d) } }
  else .next s

/-- MGP_BUSY_TIMER: the wait of the oldest command that is not yet marked passes 100 µs (R460). -/
def execMgpBusyTimer (s : State) : Host.Outcome State Fault Refusal :=
  match s.mgmt.queue.find? fun h => !s.mgmt.late.contains h with
  | none => .next s
  | some h => .next { s with mgmt := { s.mgmt with late := s.mgmt.late ++ [h] } }

/-- MBX_HEALTH.MGP_BUSY (R460). -/
def mgpBusy (s : State) : Bool := !s.mgmt.late.isEmpty || s.mgmt.queue.length ≥ 192

/-- Whether a context's state permits a command (R433); R421 names other statuses in the rows themselves. -/
def permitted (st : ShardState) (m : Line) : Bool :=
  match st with
  | .free => mOp m == 0x01
  | .stopped => mOp m != 0x0A
  | .running => !([0x02, 0x09, 0x11].contains (mOp m)) && !(mOp m == 0x08 && mw m 0 != 2)
  | .stopping => [0x01, 0x03, 0x10].contains (mOp m)
  | .resetting => mOp m == 0x03 || mOp m == 0x01

/-- The checks of a command as it starts: its context and core (R412, R419, R420, R433). -/
def startCheck (s : State) (m : Line) : Option Status :=
  if !namesCtx m then none
  else
    let st := (getShard s (mCtx m)).state
    if st = .free ∧ mOp m ≠ 0x01 then some stNoContext
    else if st = .resetting ∧ mOp m ≠ 0x03 ∧ mOp m ≠ 0x01 then some stContextReset
    else if namesCore m ∧ ¬ (present s (mTcore m) ∧ (getCore s (mTcore m)).bound ∧ (getCore s (mTcore m)).ctx = mCtx m) then
      some stAccess
    else if !permitted st m then some stBadState
    else none

/-- The command of handle `h` when its row may run: it has the opcode, has not run, and has started: taken by its
hart, or on the fast path with no hold of R416. -/
def runnable (s : State) (h op : Nat) : Option Fetched :=
  match findCmd s h with
  | none => none
  | some f =>
      if mOp f.manifest = op ∧ f.begun = false ∧ (if isFast op then isHeld s f = false else f.taken = true) then some f
      else none

/-- The row of a host command: its start checks, then its effect. A handle that names no such command leaves the
state as it is (assumption 2). -/
def withCmd (s : State) (h op : Nat) (k : State → Fetched → State) : State :=
  match runnable s h op with
  | none => s
  | some f =>
      match startCheck s f.manifest with
      | some st => complete s h st
      | none => k (modCmd s h fun x => { x with taken := true }) f

/-- NOP: completes with RESULT equal to W0 (R421). -/
def execNop (h : Nat) (s : State) : Host.Outcome State Fault Refusal :=
  .next (withCmd s h 0x00 fun s f => complete s h stOk (mw f.manifest 0))

/-! ### SDIO and front-end commands (R425, R426; spec/12_osust_links.md R401) -/

/-- The status of a command that the SDIO function refuses outside Ready (R426): UNCORRECTABLE on a module whose start a defect ended
(spec/01_device_organisation.md R20; spec/19_bringup_selftest.md R540; assumption 78). -/
def sdioCheck (s : State) (m : Line) : Option Status :=
  if (s.sdio.ready ∧ !s.sdio.recovery) ∨ mOp m = 0x00 ∨ mOp m = 0x40 ∨ mOp m = 0x41 ∨
      (mOp m = 0x3A ∧ (mw m 0 % 8 = 3 ∨ mw m 0 % 8 = 5)) then none
  else if s.boot = .defective then some stUncorrectable
  else some stBadState

/-- A GO write, a wake source (spec/17_power.md R504), runs the command in the submission buffer, or is ignored with
GOERR (R425). A LEN other than the command's own length is a bad length (assumption 15). -/
def sdioGo (s : State) (len : Nat) : State :=
  let s0 := wakeFires { s with sdio := { s.sdio with len := BitVec.ofNat 17 len } } 10
  if s.boot = .off then s
  else if s.sdio.busy ∨ s.sdio.cmpl then { s0 with sdio := { s0.sdio with goerr := true } }
  else
    let m := s.sdio.sbuf.headD 0
    let bales := (List.range (mBales m)).map fun i => (s.sdio.sbuf[i + 1]?).getD 0
    let extra := if len ≠ 64 * (1 + mBales m) then some stBadLength else sdioCheck s m
    accept { s0 with sdio := { s0.sdio with busy := true } } .sdio m bales extra

/-- SDIO_GO (R425). -/
def execSdioGo (len : Nat) (s : State) : Host.Outcome State Fault Refusal := .next (sdioGo s len)

/-- FRONT_END_COMMAND: the run of BULK packets of kind 1 that share one transfer tag carries a manifest and its bales;
only STREAM_PUSH is accepted (R401). -/
def execFrontEndCommand (port : Nat) (run : List Packet) (s : State) : Host.Outcome State Fault Refusal :=
  let s1 := run.foldl hubDone s
  match bytesLines (flitBytes (run.flatMap fun p => p.flits)) with
  | [] => .next s1
  | m :: bales =>
      let extra := if mOp m = 0x19 then none else some stBadOpcode
      .next (accept s1 (.frontEnd port) m (bales.take (mBales m)) extra)

end Sys2Proof.Machine
end

