-- ==== Sys2Proof/Machine/Synapse.lean ====
section
/-! DEFINITION. Source lookup, rows, integration, the delay ring, the outrider and the overflow pen
(spec/05_synapse_storage.md; spec/04_step_time.md R122-R128, R150). -/

namespace Sys2Proof.Machine

/-! ### What a core does in one phase -/

/-- What the engines of a core see of the rest of the device: its device and core numbers, the bases of its context's
regions in 64 MiB units (R178), N and DEC of each result stream (spec/07_streams_ingest_readout.md R247), and the words of its
MEM gate (spec/11_fabric_tolls.md R365). -/
structure Env where
  dev   : Nat
  me    : Nat
  baseN : Nat := 0
  baseS : Nat := 0
  wins  : NMap (Nat × Nat) := []
  mem   : Gate := {}
  deriving DecidableEq, Repr

/-- A core after some work, with the packets that the work formed, in order. -/
structure Eff where
  core : Core
  out  : List Packet := []
  deriving DecidableEq, Repr

/-- The environment of a core. -/
def envOf (s : State) (n : Nat) : Env :=
  let ctx := (getCore s n).ctx
  { dev := devNo s, me := n
    baseN := fld (nget 0 s.dep.rgn (2 * ctx)) 10 0
    baseS := fld (nget 0 s.dep.rgn (2 * ctx + 1)) 10 0
    wins := s.results.map fun p => (p.1, fld p.2.desc 53 48, fld p.2.desc 57 56)
    mem := tileGate s n 1 }

/-- The state after a core's work; a word that the work changed wakes a handler that waits for it (spec/08_handler_unit.md
R276). -/
def applyEff (s : State) (n : Nat) (e : Eff) : State := coreSendAll (setCore s n (wakeWord e.core)) n e.out

/-- A packet of a core to a core list entry of its context (spec/04_step_time.md R132, R134). -/
def listPkt (c : Core) (ty vc : Nat) (entry : Nat) (src : BitVec 32) (st sub pay : Nat) : Packet :=
  mkPkt ty vc (entry / 2 ^ 55 % 512) (entry / 2 ^ 45 % 1024) (entry / 2 ^ 43 % 4) (entry / 2 ^ 38 % 32) src st c.ctx
    c.gen.toNat sub pay 0

/-- A CTRL packet of a core to the hub of a device (spec/11_fabric_tolls.md R371). -/
def ctrlPkt (v : Env) (c : Core) (dev sub st pay cls : Nat) : Packet :=
  mkPkt 7 0 dev 0x3FF 0 0 (srcWord v.dev v.me 0) st c.ctx c.gen.toNat sub pay cls

/-! ### Row descriptors (R159-R165) -/

/-- SDEV. -/
def dSdev (d : BitVec 128) : Nat := fld d 127 119
/-- SCORE. -/
def dScore (d : BitVec 128) : Nat := fld d 118 109
/-- SBASE. -/
def dSbase (d : BitVec 128) : Nat := fld d 108 96
/-- G. -/
def dG (d : BitVec 128) : Nat := fld d 95 92
/-- FMT. -/
def dFmt (d : BitVec 128) : Nat := fld d 91 89
/-- CONT. -/
def dCont (d : BitVec 128) : Bool := bit d 88
/-- DEPOT. -/
def dDepot (d : BitVec 128) : Bool := bit d 87
/-- RELAY. -/
def dRelay (d : BitVec 128) : Bool := bit d 86
/-- LRN. -/
def dLrn (d : BitVec 128) : Bool := bit d 85
/-- DELAY. -/
def dDelay (d : BitVec 128) : Nat := fld d 84 81
/-- SCALE. -/
def dScale (d : BitVec 128) : Nat := fld d 80 73
/-- ZERO. -/
def dZero (d : BitVec 128) : Nat := fld d 72 69
/-- XTRACE. -/
def dXtrace (d : BitVec 128) : Nat := fld d 68 65
/-- ADDR. -/
def dAddr (d : BitVec 128) : Nat := fld d 64 36
/-- TBASE. -/
def dTbase (d : BitVec 128) : Nat := fld d 35 23
/-- LEN. -/
def dLen (d : BitVec 128) : Nat := fld d 22 11
/-- STRIDE. -/
def dStride (d : BitVec 128) : Nat := fld d 10 3
/-- The distance of consecutive targets, 1 + TSTEP. -/
def dStep (d : BitVec 128) : Nat := 1 + fld d 2 2
/-- PRUNE. -/
def dPrune (d : BitVec 128) : Nat := fld d 1 0

/-- What an unlisted way of the index reads as: an empty descriptor, FMT 111 with every other field 0 (R165). -/
def emptyDesc : BitVec 128 := BitVec.ofNat 128 (7 * 2 ^ 89)

/-- Descriptor DIDX of a core. -/
def descOf (c : Core) (i : Nat) : BitVec 128 := nget emptyDesc c.syn.index i

/-- A core with descriptor DIDX written. -/
def setDesc (c : Core) (i : Nat) (d : BitVec 128) : Core :=
  { c with syn := { c.syn with index := nset emptyDesc c.syn.index i d } }

/-- Whether a descriptor that is not empty covers a source address (R160, R162). -/
def covers (d : BitVec 128) (dev core n : Nat) : Bool :=
  dFmt d != 7 && dSdev d == dev && dScore d == core && n / 2 ^ dG d * 2 ^ dG d == dSbase d

/-- Whether a descriptor covers the source address word of an entry (R166). -/
def coversSrc (d : BitVec 128) (src : Nat) : Bool := covers d (src / 2 ^ 23 % 512) (src / 2 ^ 13 % 1024) (src % 8192)

/-- The home bucket of a descriptor (R161). -/
def homeBucket (dev core base g : Nat) : Nat :=
  ((((dev * 1024 + core) * 8192 + base) ^^^ (g * 0x11111111)) * 0x9E3779B9) % 2 ^ 32 / 2 ^ 21

/-- The block exponents present in the index: GSET of SYN_CFG (R162, R192). -/
def gset (c : Core) : List Nat := (List.range 14).filter fun g => ldmGet c 0x3EFF0 4 / 2 ^ (16 + g) % 2 = 1

/-- GSET made the set of G values present in the index, after descriptors were written (R162). DEDUCED (75). -/
def syncGset (c : Core) : Core :=
  let gs := ((c.syn.index.filter fun p => dFmt p.2 != 7).map fun p => dG p.2).eraseDups
  ldmSet c 0x3EFF0 4 (setFld (BitVec.ofNat 32 (ldmGet c 0x3EFF0 4)) 29 16 (gs.map fun g => 2 ^ g).sum).toNat

/-- The matches from bucket `b` on, over at most `k` buckets (R162). -/
def scanBuckets (c : Core) (dev core n g : Nat) : Nat → Nat → List Nat
  | 0, _ => []
  | k + 1, b =>
      let ways := [2 * b, 2 * b + 1]
      let m := ways.filter fun i => dG (descOf c i) == g && covers (descOf c i) dev core n
      if ways.any fun i => dCont (descOf c i) then m ++ scanBuckets c dev core n g k ((b + 1) % 2048) else m

/-- The lookup of R162: the DIDX of every match, in its fixed order. -/
def lookup (c : Core) (dev core n : Nat) : List Nat :=
  (gset c).flatMap fun g => scanBuckets c dev core n g 4 (homeBucket dev core (n / 2 ^ g * 2 ^ g) g)

/-! ### Rows (R167-R171) -/

/-- A quotient rounded up. -/
def cdiv (a b : Nat) : Nat := (a + b - 1) / b

/-- The format of the weights of a dense row; S4 and K hold Q4 weights (R168). -/
def rowFmt (d : BitVec 128) : Fmt :=
  match dFmt d with
  | 1 => .q2
  | 2 => .b1
  | 3 => .t2
  | _ => .q4

/-- The elements of a dense row in one line (R168). -/
def perLine (d : BitVec 128) : Nat := 512 / (rowFmt d).width

/-- The kernel header's KW × KH (R171). -/
def kernelSize (hdr : Line) : Nat := (fld hdr 3 0 + 1) * (fld hdr 7 4 + 1)

/-- The first row-store line of the row of source `i` of the block (R167). -/
def rowLine (d : BitVec 128) (i : Nat) : Nat := dAddr d % 2 ^ 14 + i * dStride d

/-- LINES of a row that is no kernel (R168). -/
def denseLines (d : BitVec 128) : Nat :=
  if dFmt d = 4 then cdiv (dLen d + 1) 32 + cdiv (dLen d + 1) 512 else cdiv (dLen d + 1) (perLine d)

/-- LINES of the row of source `i` in the row store (R168). -/
def rowLines (c : Core) (d : BitVec 128) (i : Nat) : Nat :=
  if dFmt d = 5 then 1 + cdiv (kernelSize (nget 0 c.syn.rows (rowLine d i))) 128 else denseLines d

/-- The lines of the row of source `i` in the row store (R167). -/
def rowOf (c : Core) (d : BitVec 128) (i : Nat) : List Line := ngetList 0 c.syn.rows (rowLine d i) (rowLines c d i)

/-- Entry `n` of an S4 row (R169). -/
def s4Entry (ls : List Line) (n : Nat) : Nat := fld (ls.getD (n / 32) 0) (16 * (n % 32) + 15) (16 * (n % 32))

/-- Whether entry `n` of an S4 row of descriptor `d` is dormant (R169). -/
def s4Dormant (d : BitVec 128) (ls : List Line) (n : Nat) : Bool :=
  bit (ls.getD (cdiv (dLen d + 1) 32 + n / 512) 0) (n % 512)

/-- An element that the datapath applies: its target slot and its weight code. -/
abbrev Applied := Nat × Nat

/-- The applied elements of a dense row, one list for each line (R168). -/
def denseCycles (d : BitVec 128) (ls : List Line) : List (List Applied) :=
  ls.zipIdx.map fun (l, j) =>
    (List.range (min (perLine d) (dLen d + 1 - perLine d * j))).map fun m =>
      (dTbase d + (perLine d * j + m) * dStep d, lineElem (rowFmt d) l m)

/-- The applied entries of an S4 row, one list for each entry line; a dormant entry applies nothing (R168, R169). -/
def s4Cycles (d : BitVec 128) (ls : List Line) : List (List Applied) :=
  (List.range (cdiv (dLen d + 1) 32)).map fun j =>
    ((List.range (min 32 (dLen d + 1 - 32 * j))).filter fun m => !s4Dormant d ls (32 * j + m)).map fun m =>
      (dTbase d + s4Entry ls (32 * j + m) / 16 * dStep d, s4Entry ls (32 * j + m) % 16)

/-- The applied elements of a kernel at source position `i`, one list for each kernel row (R171, R172). -/
def kernelCycles (d : BitVec 128) (ls : List Line) (i : Nat) : List (List Applied) :=
  let h := ls.headD 0
  let kw := fld h 3 0 + 1
  let sw := fld h 27 20 + 1
  let x0 : Int := (i % sw * (fld h 9 8 + 1) : Nat) + signed 4 (fld h 15 12)
  let y0 : Int := (i / sw * (fld h 11 10 + 1) : Nat) + signed 4 (fld h 19 16)
  (List.range (fld h 7 4 + 1)).map fun (ky : Nat) =>
    (List.range kw).filterMap fun (kx : Nat) =>
      let tx : Int := x0 + (kx : Nat)
      let ty : Int := y0 + (ky : Nat)
      let p : Nat := ky * kw + kx
      if 0 ≤ tx ∧ tx ≤ fld h 35 28 ∧ 0 ≤ ty ∧ ty ≤ fld h 43 36 then
        some (dTbase d + ty.toNat * fld h 56 44 + tx.toNat, lineElem .q4 (ls.getD (1 + p / 128) 0) (p % 128))
      else none

/-- The cycles of a row and the elements that each applies (R168-R172). -/
def rowCycles (d : BitVec 128) (ls : List Line) (i : Nat) : List (List Applied) :=
  match dFmt d with
  | 4 => s4Cycles d ls
  | 5 => kernelCycles d ls i
  | _ => denseCycles d ls

/-! ### Accumulation (R57, R61-R66, R91, R174, R204) -/

/-- An ascending list with a number put in. -/
def ins (l : List Nat) (n : Nat) : List Nat := l.filter (· < n) ++ n :: l.filter (n < ·)

/-- Accumulator `t` of a core. -/
def accOf (c : Core) (t : Nat) : Int := (nget 0 c.nrn.accs t).toInt

/-- A neuron store with an accumulator written. -/
def setAcc (x : NeuronStore) (t : Nat) (v : Int) : NeuronStore := { x with accs := nset 0 x.accs t (BitVec.ofInt 24 v) }

/-- Stage A for one accumulator: the exact sum, clamped to 24 bits and counted once (R65); the touch, and the
learned-input and folded marks of the entry (R91, R98, R204). -/
def addTerm (lrn late : Bool) (c : Core) (t : Nat) (x : Int) : Core :=
  let r := clamp24 (accOf c t + x)
  let n := setAcc c.nrn t r.1
  let c1 := { c with nrn := { n with
    touch := ins n.touch t
    learnedIn := if lrn then ins n.learnedIn t else n.learnedIn
    folded := if late then ins n.folded t else n.folded } }
  if r.2 then cntHi c1 0x900 1 else c1

/-- The terms that one cycle delivers, summed for each accumulator (R65, R66). -/
def sumTerms (ts : List (Nat × Int)) : List (Nat × Int) :=
  ts.foldl (fun m p => nput p.1 (nget 0 m p.1 + p.2) (nerase p.1 m)) []

/-- One cycle of the datapath: the terms of its elements, with code 11 of T2 counted (R57) and the multiplicity `k`
applied (R63). -/
def addCycle (d : BitVec 128) (k : Nat) (late : Bool) (c : Core) (es : List Applied) : Core :=
  let terms := es.map fun e => (e.1, dequant (rowFmt d) (dScale d) (dZero d) e.2 * k)
  let c1 := (sumTerms terms).foldl (fun c p => addTerm (dLrn d) late c p.1 p.2) c
  if rowFmt d = .t2 then cntLo c1 0x900 (es.filter fun e => e.2 == 3).length else c1

/-- A row applied to the accumulators (R174). -/
def addRow (d : BitVec 128) (ls : List Line) (i k : Nat) (late : Bool) (c : Core) : Core :=
  (rowCycles d ls i).foldl (addCycle d k late) c

/-- The byte address of the sidecar entry of a descriptor (spec/06_learning.md R196). -/
def sideAddr (didx : Nat) : Nat := 0x3C000 + 2 * didx

/-- HITS of a learned descriptor raised by the multiplicity, stopping at 15 (spec/06_learning.md R205). -/
def addHits (c : Core) (didx k : Nat) : Core :=
  let q := ldmGet c (sideAddr didx) 2
  ldmSet c (sideAddr didx) 2 (q - q / 16 % 16 * 16 + min 15 (q / 16 % 16 + k) * 16)

/-! ### Ring entries (spec/04_step_time.md R126) -/

/-- LATE of a ring entry. -/
def rLate (e : BitVec 64) : Bool := bit e 63
/-- MULT of a ring entry. -/
def rMult (e : BitVec 64) : Nat := fld e 62 61
/-- DIDX of a ring entry. -/
def rDidx (e : BitVec 64) : Nat := fld e 58 47
/-- SRC of a ring entry. -/
def rSrc (e : BitVec 64) : Nat := fld e 31 0

/-- A ring entry from its fields. -/
def mkRing (late : Bool) (mult didx : Nat) (due : Word) (src : Nat) : BitVec 64 :=
  BitVec.ofNat 64 (b1 late * 2 ^ 63 + mult % 4 * 2 ^ 61 + didx % 4096 * 2 ^ 47 + due.toNat % 16 * 2 ^ 32 + src % 2 ^ 32)

/-- The copy that a relay entry sends in step `u` (R124, R173; spec/11_fabric_tolls.md R360). -/
def relayCopy (v : Env) (c : Core) (d : BitVec 128) (e : BitVec 64) (u : Word) : Packet :=
  mkPkt 1 1 v.dev (v.me + 32) 2 (dAddr d % 32) (BitVec.ofNat 32 (rSrc e)) (u.toNat % 2 ^ 16) c.ctx c.gen.toNat (rMult e * 16) 0 0

/-- An entry integrated in step `u` from the lines of its row (R174). A descriptor that has become empty or no longer
covers the source discards the entry and counts STALE (R166). Each cycle of the row takes the datapath, and each line of the row
store its port, as EVENT; integration is never held (spec/11_fabric_tolls.md R356, R365). -/
def integrateWith (v : Env) (c : Core) (e : BitVec 64) (u : Word) (ls : List Line) : Eff :=
  let d := descOf c (rDidx e)
  if !coversSrc d (rSrc e) then { core := cntLo c 0xC00 1 }
  else if dRelay d then { core := c, out := if v.me < 992 then [relayCopy v c d e u] else [] }
  else
    let i := rSrc e % 8192 - dSbase d
    let c0 := chargePorts c 0 (rowCycles d ls i).length (if dDepot d then 0 else ls.length)
    let c1 := addRow d ls i (rMult e + 1) (rLate e) c0
    { core := if dLrn d then addHits c1 (rDidx e) (rMult e + 1) else c1 }

/-! ### Depot requests (R176-R184; spec/11_fabric_tolls.md R348) -/

/-- The key of a 64-byte burst of an edge space. -/
def burstKey (edge : Bool) (burst : Nat) : Nat := b1 edge * 2 ^ 34 + burst

/-- The first burst of a context's region on an edge (R177, R178). -/
def regionBurst (v : Env) (edge : Bool) : Nat := (if edge then v.baseS else v.baseN) * 2 ^ 20

/-- The edge of a depot descriptor's rows (R179). -/
def dEdge (d : BitVec 128) : Bool := dAddr d / 2 ^ 28 % 2 = 1

/-- The first burst of the row of source `i` of a depot descriptor (R179). -/
def rowBurst (v : Env) (d : BitVec 128) (i : Nat) : Nat :=
  regionBurst v (dEdge d) + dAddr d % 2 ^ 28 * 8 + i * dStride d

/-- A depot request (R348). -/
def dreqPkt (v : Env) (c : Core) (edge : Bool) (kind burst tag count cls : Nat) : Packet :=
  mkPkt 0xA 2 v.dev v.me 0 (b1 edge * 16 + kind) (BitVec.ofNat 32 burst) tag c.ctx c.gen.toNat (count - 1) 0 cls

/-- The requests for `n` bursts, at most 64 in each (R348). -/
def dreqAll (v : Env) (c : Core) (edge : Bool) (kind burst tag n cls : Nat) : List Packet :=
  (List.range (cdiv n 64)).map fun j => dreqPkt v c edge kind (burst + 64 * j) tag (min 64 (n - 64 * j)) cls

/-- A depot write of lines from one burst on, at most 8 in each packet (R348). -/
def dwriteAll (v : Env) (c : Core) (edge : Bool) (kind burst cls : Nat) (ls : List Line) : List Packet :=
  (List.range (cdiv ls.length 8)).map fun j =>
    let part := (ls.drop (8 * j)).take 8
    mkPkt 0xB 2 v.dev v.me 0 (b1 edge * 16 + kind) (BitVec.ofNat 32 (burst + 8 * j)) 0 c.ctx c.gen.toNat
      (part.length - 1) 0 cls 0xB (part.flatMap burstFlits)

/-- A read issued by the outrider: it is noted under a new tag and its requests are formed. `room` are the lines of the outrider
buffer that a learned row takes. -/
def issueRead (v : Env) (c : Core) (what : ReadFor) (edge : Bool) (kind burst n cls : Nat) (room : List Nat := []) : Eff :=
  let tag := c.syn.nextTag
  { core := { c with syn := { c.syn with
      nextTag := (tag + 1) % 2 ^ 16
      reads := c.syn.reads ++ [{ tag := tag, what := what, edge := edge, burst := burst, count := n, room := room }] } }
    out := dreqAll v c edge kind burst tag n cls }

/-! ### The outrider buffer (R183, R192) -/

/-- OBUF_LINES of SYN_CFG (R192). -/
def bufLines (c : Core) : Nat := ldmGet c 0x3EFF0 2 % 2 ^ 11

/-- The byte address of a line of the outrider buffer: OBUF_BASE of SYN_OBUF (R192). -/
def bufAddr (c : Core) (k : Nat) : Nat := ldmGet c 0x3EFF4 4 % 2 ^ 18 + 64 * k

/-- Some lines of the outrider buffer, read from local data memory. -/
def bufGet (c : Core) (room : List Nat) : List Line := room.map fun k => BitVec.ofNat 512 (ldmGet c (bufAddr c k) 64)

/-- A core with lines written into its outrider buffer. -/
def bufPut (c : Core) (room : List Nat) (ls : List Line) : Core :=
  (room.zip ls).foldl (fun c p => ldmSet c (bufAddr c p.1) 64 p.2.toNat) c

/-- The lines of the outrider buffer in use: those of ring entries whose read is outstanding or done, and of learned rows
(R183; spec/06_learning.md R216). -/
def bufUsed (c : Core) : List Nat :=
  (c.syn.ring.flatMap fun r => match r.fetch with
    | .issued _ room => room
    | .held room => room
    | _ => []) ++ c.syn.reads.flatMap fun x => x.room

/-- `n` free lines of the outrider buffer, the lowest ones; none while the buffer lacks room (R183). -/
def bufRoom (c : Core) (n : Nat) : Option (List Nat) :=
  let used := bufUsed c
  let free := (List.range (bufLines c)).filter fun k => !used.contains k
  if n ≤ free.length then some (free.take n) else none

/-- Whether a ring entry waits for the read of a tag. -/
def RingEnt.awaits (e : RingEnt) (tag : Nat) : Bool := match e.fetch with | .issued t _ => t == tag | _ => false

/-- The source position of an entry in its descriptor's block. -/
def srcPos (d : BitVec 128) (e : BitVec 64) : Nat := rSrc e % 8192 - dSbase d

/-- An entry set aside for a demand read (R184). An earlier read of the entry is given up. -/
def demandRead (v : Env) (c : Core) (r : RingEnt) : Eff :=
  let d := descOf c (rDidx r.entry)
  let tag := c.syn.nextTag
  let reads := match r.fetch with
    | .issued old _ => c.syn.reads.filter fun x => x.tag != old
    | _ => c.syn.reads
  let c1 := cntHi { c with syn := { c.syn with
    reads := reads, setAside := c.syn.setAside ++ [{ r with fetch := .issued tag [] }] } } 0xC08 1
  issueRead v c1 .demand (dEdge d) 0 (rowBurst v d (srcPos d r.entry)) (denseLines d) 1

/-- An entry whose turn has come in step `u`: integrated from the row store or from the outrider buffer, set aside for a
demand read, or discarded (R166, R174, R181, R184). -/
def integrateEnt (v : Env) (c : Core) (r : RingEnt) (u : Word) : Eff :=
  let d := descOf c (rDidx r.entry)
  if !coversSrc d (rSrc r.entry) || dRelay d || !dDepot d then
    integrateWith v c r.entry u (rowOf c d (srcPos d r.entry))
  else match r.fetch with
    | .held room => integrateWith v c r.entry u (bufGet c room)
    | .bad => { core := c }
    | _ => demandRead v c r

/-- Some entries integrated in order (R174). -/
def integrateAll (v : Env) (u : Word) (e : Eff) (rs : List RingEnt) : Eff :=
  rs.foldl (fun e r => let f := integrateEnt v e.core r u; { core := f.core, out := e.out ++ f.out }) e

/-! ### The pen and losses (R187-R190) -/

/-- The delay ring's capacity (spec/04_step_time.md R126). -/
def ringCap : Nat := 8192

/-- The bin of a due step (R187). -/
def binOf (due : Word) : Nat := due.toNat % 32

/-- Entries lost: LOSS counts each, and the first since LOSS_FLAG was cleared sets the flag, records its due step and
sends LOSS_NOTICE (R190, R193). -/
def lose (v : Env) (c : Core) (due : Word) (n : Nat) : Eff :=
  if n = 0 then { core := c }
  else
    let c1 := cntLo c 0xC04 n
    if bit (cntGet c1 0xC0C) 31 then { core := c1 }
    else { core := cntSet (cntSet c1 0xC0C (1 <<< 31)) 0xC10 due, out := [ctrlPkt v c v.dev 0x21 0 due.toNat 5] }

/-- A pen whose bin holds eight entries in its partly filled line: the line is full and waits for its write (R187). -/
def fillLine (bin : Nat) (pen : List PenEnt) : List PenEnt :=
  if (pen.filter fun p => binOf p.due == bin && p.stage == .partly).length ≥ 8 then
    pen.map fun p => if binOf p.due = bin ∧ p.stage = .partly then { p with stage := .queued } else p
  else pen

/-- An entry to its pen bin; it is lost when the bin holds 4,096 (R187, R190). -/
def toPen (v : Env) (c : Core) (e : BitVec 64) (due : Word) : Eff :=
  if (c.syn.pen.filter fun p => binOf p.due == binOf due).length ≥ 4096 then lose v c due 1
  else { core := { c with syn := { c.syn with
    pen := fillLine (binOf due) (c.syn.pen ++ [{ entry := e, due := due, stage := .partly }]) } } }

/-- An entry placed in the ring; a depot row queues a prefetch (R183). -/
def toRing (c : Core) (e : BitVec 64) (due : Word) : Core :=
  let d := descOf c (rDidx e)
  let f : Fetch := if coversSrc d (rSrc e) && dDepot d && !dRelay d then .queued else .none
  { c with syn := { c.syn with ring := c.syn.ring ++ [{ entry := e, due := due, fetch := f }] } }

/-- An entry due at STEP to STEP + 15 to the ring, or to the pen when the ring is full (R127, R188). An entry that is set aside for
a demand read holds no place of the ring any more: DESIGN CHOICE (82). -/
def ringOrPen (v : Env) (c : Core) (e : BitVec 64) (due : Word) : Eff :=
  if c.syn.ring.length ≥ ringCap then toPen v (cntHi c 0xC04 1) e due else { core := toRing c e due }

/-! ### Arriving events (R123, R127, R150, R162-R164) -/

/-- The step nearest to STEP that a stamp abbreviates (R123). -/
def stepAt (s : Word) (st : Nat) : Word := s + BitVec.ofInt 32 (signed 16 ((st + 2 ^ 16 - s.toNat % 2 ^ 16) % 2 ^ 16))

/-- Whether FIRE of STEP has begun (R150). -/
def fireBegun (p : Phase) : Bool := p == .fire || p == .learn || p == .close

/-- Whether INTEGRATE of STEP is open, or ended with FIRE not begun (R117, R127). -/
def integrating (p : Phase) : Bool := p == .integrate || p == .waitCredit

/-- Whether a due step is late at a core (R150). -/
def isLate (c : Core) (u : Word) : Bool := if fireBegun c.st.phase then stepLe u c.st.step else stepLt u c.st.step

/-- Whether a core folds late events: the context is paced and its policy is FOLD (R147, R150). -/
def folds (c : Core) : Bool := c.st.paced && c.st.overrun == 1

/-- An entry integrated in the step that is open; INTEGRATE reopens when it has ended (R117, R127). An event due at the
open step that matches a depot row takes a demand read (R184). -/
def integrateNow (v : Env) (c : Core) (e : BitVec 64) (due : Word) : Eff :=
  integrateEnt v { c with st := { c.st with phase := .integrate } } { entry := e, due := due } c.st.step

/-- One match of an event placed (R127, R150). FOLDED, DROPPED and FAR_SPILL rise by one for each match, not for each packet:
DESIGN CHOICE (83). -/
def placeMatch (v : Env) (t : Word) (mult src : Nat) (c : Core) (didx : Nat) : Eff :=
  let s := c.st.step
  let u := t + BitVec.ofNat 32 (dDelay (descOf c didx))
  if isLate c u then
    if folds c then
      let c1 := cntHi c 0xB04 1
      if integrating c.st.phase then integrateNow v c1 (mkRing true mult didx s src) s
      else
        let u1 := if fireBegun c.st.phase then s + 1 else s
        ringOrPen v c1 (mkRing true mult didx u1 src) u1
    else { core := cntLo c 0xB04 1 }
  else if u = s ∧ integrating c.st.phase then integrateNow v c (mkRing false mult didx u src) u
  else if (u - s).toNat ≥ 16 then toPen v (cntLo c 0xB08 1) (mkRing false mult didx u src) u
  else ringOrPen v c (mkRing false mult didx u src) u

/-- An accepted event: its matches in lookup order, or NOMATCH (R162, R164). -/
def acceptEvent (v : Env) (c : Core) (p : Packet) : Eff :=
  let t := stepAt c.st.step (stamp p)
  match lookup c (srcDev p) (srcCore p) (srcNeuron p) with
  | [] => { core := cntHi c 0xC00 1 }
  | ms => ms.foldl (fun e i =>
      let f := placeMatch v t (mult p) (srcOf p) e.core i; { core := f.core, out := e.out ++ f.out }) { core := c }

/-- Whether a core takes a step packet: it is bound to the packet's context and generation, and its step engine runs
(R134; spec/14_contexts_recovery.md R435). A step packet of the right context and generation that reaches a core before its
START (PHASE 7), an event, a rearguard, a credit or a release, is dropped and counted nowhere: DESIGN CHOICE (79). -/
def takesStep (c : Core) (p : Packet) : Bool :=
  c.bound && c.ctx == pctx p && c.gen.toNat == pgen p && c.st.phase != .notRunning

/-- A step packet whose turn has come at its core: its copy leaves the core port, and the work is done unless the packet is of
another context or generation (R134, R135). -/
def stepPacket (s : State) (core : Nat) (pkt : Packet) (f : Env → Core → Eff) : State :=
  fromPort s core pkt fun s1 =>
    let c := getCore s1 core
    if takesStep c pkt then applyEff s1 core (f (envOf s1 core) c) else s1

/-- Whether the write queue of a core's outrider is full: the core then accepts no event (R188). -/
def writesFull (c : Core) : Bool := (c.syn.pen.filter fun p => p.stage == .queued).length / 8 > Config.writeQueue

/-- EVENT (R127); it waits while the outrider cannot take a spill (R188). -/
def execEvent (core : Nat) (pkt : Packet) (s : State) : Host.Outcome State Fault Refusal :=
  if writesFull (getCore s core) then .next s else .next (stepPacket s core pkt fun v c => acceptEvent v c pkt)

/-! ### The outrider (R182-R189) -/

/-- Whether a pen entry due at STEP waits for its return (R182, second in priority). -/
def returnWaits (c : Core) : Bool :=
  c.syn.pen.any fun p => p.due == c.st.step && match p.stage with | .reading _ _ => false | _ => true

/-- Whether a full pen line waits for its write (R182, third in priority). -/
def spillWaits (c : Core) : Bool := c.syn.pen.any fun p => p.stage == .queued

/-- The first entry that matches a test, changed. -/
def modFirst {α : Type} (p : α → Bool) (f : α → α) : List α → List α
  | [] => []
  | x :: xs => if p x then f x :: xs else x :: modFirst p f xs

/-- Whether the oldest queued prefetch can be served: its lines fit the buffer, or its descriptor covers its entry no longer
(R182, R183). -/
def prefetchReady (c : Core) : Bool :=
  match c.syn.ring.find? fun r => r.fetch == .queued with
  | none => false
  | some r =>
      let d := descOf c (rDidx r.entry)
      !coversSrc d (rSrc r.entry) || !dDepot d || dRelay d || (bufRoom c (denseLines d)).isSome

/-- The prefetch of the oldest queued row, once its lines fit the buffer and no pen work of a higher priority waits (R182, R183).
A descriptor that no longer covers its entry fetches nothing. -/
def prefetch (v : Env) (c : Core) : Eff :=
  match c.syn.ring.find? fun r => r.fetch == .queued with
  | none => { core := c }
  | some r =>
      let d := descOf c (rDidx r.entry)
      if !coversSrc d (rSrc r.entry) || !dDepot d || dRelay d then
        { core := { c with syn := { c.syn with
          ring := modFirst (fun x => x.fetch == .queued) (fun x => { x with fetch := .none }) c.syn.ring } } }
      else if returnWaits c || spillWaits c then { core := c }
      else match bufRoom c (denseLines d) with
        | none => { core := c }
        | some room =>
            let tag := c.syn.nextTag
            let c1 := { c with syn := { c.syn with
              ring := modFirst (fun x => x.fetch == .queued) (fun x => { x with fetch := .issued tag room }) c.syn.ring } }
            issueRead v c1 .prefetch (dEdge d) 0 (rowBurst v d (srcPos d r.entry)) (denseLines d) 1

/-- The edge of a core's pen: EDGE of SYN_PEN (R192). -/
def penEdge (c : Core) : Bool := ldmGet c 0x3EFF8 4 / 2 ^ 31 = 1

/-- The burst of a line of a pen bin (R187, R192). -/
def penBurst (v : Env) (c : Core) (bin slot : Nat) : Nat :=
  regionBurst v (penEdge c) + ldmGet c 0x3EFF8 4 % 2 ^ 17 * 2 ^ 14 + bin * 512 + slot

/-- The line of a bin that a pen entry lies in or is read from. -/
def slotOf (p : PenEnt) : Option Nat :=
  match p.stage with
  | .stored k => some k
  | .reading k _ => some k
  | _ => none

/-- The lowest line of a bin that holds no entry. -/
def freeSlot (c : Core) (bin : Nat) : Nat :=
  let used := (c.syn.pen.filter fun p => binOf p.due == bin).filterMap slotOf
  ((List.range 512).find? fun k => !used.contains k).getD 0

/-- The full pen line that has waited longest, written to the depot once no return for STEP waits (R182, R187, R188). -/
def spillLine (v : Env) (c : Core) : Eff :=
  match c.syn.pen.find? fun p => p.stage == .queued with
  | none => { core := c }
  | some q =>
      if returnWaits c then { core := c } else
      let bin := binOf q.due
      let slot := freeSlot c bin
      let es := (c.syn.pen.filter fun p => binOf p.due == bin && p.stage == .queued).take 8
      let pen := es.foldl (fun pen e => modFirst (fun p => p == e) (fun p => { p with stage := .stored slot }) pen) c.syn.pen
      let line : Line := BitVec.ofNat 512 (ofBytes (es.flatMap fun e => bytesOf 8 e.entry.toNat))
      { core := { c with syn := { c.syn with pen := pen } }
        out := dwriteAll v c (penEdge c) 2 (penBurst v c bin slot) 1 [line] }

/-- Of two pen entries, the one that is due first; the earlier one of two due together (R189). -/
def earlier (s : Word) (a b : PenEnt) : PenEnt := if (b.due - s).toNat < (a.due - s).toNat then b else a

/-- The pen entry to return next: the earliest due at or before STEP + 15 whose line is not being read (R189). -/
def nextReturn (c : Core) : Option PenEnt :=
  match c.syn.pen.filter fun p => (p.due - c.st.step).toNat ≤ 15 &&
      (match p.stage with | .reading _ _ => false | _ => true) with
  | [] => none
  | p :: ps => some (ps.foldl (earlier c.st.step) p)

/-- The ring entry to evict: the one placed last in the latest-due bucket, unless that bucket is STEP's (R189). -/
def evictee (c : Core) : Option RingEnt :=
  match c.syn.ring with
  | [] => none
  | r :: rs =>
      let x := rs.foldl (fun a b => if (a.due - c.st.step).toNat ≤ (b.due - c.st.step).toNat then b else a) r
      if x.due = c.st.step then none else some x

/-- The last occurrence of a value in a list taken out. -/
def eraseLast {α : Type} [DecidableEq α] (x : α) (l : List α) : List α := (l.reverse.erase x).reverse

/-- A pen entry that the outrider holds goes to the ring. -/
def penToRing (c : Core) (p : PenEnt) : Core :=
  toRing { c with syn := { c.syn with pen := c.syn.pen.erase p } } p.entry p.due

/-- The return of one pen entry (R189, R190): a stored line is read; an entry in hand takes a free place of the ring, or,
when it is due at STEP and the ring is full, the place of an evicted entry; when the ring holds only entries due at STEP,
the entries of the bin that are due at STEP are lost. A return for a later step waits for spill writes and prefetches (R182). -/
def penReturn (v : Env) (c : Core) : Eff :=
  match nextReturn c with
  | none => { core := c }
  | some p =>
      let full := c.syn.ring.length ≥ ringCap
      if p.due ≠ c.st.step ∧ (full ∨ spillWaits c ∨ prefetchReady c) then { core := c }
      else if full ∧ (evictee c).isNone then
        let gone := c.syn.pen.filter fun q => q.due == c.st.step
        lose v { c with syn := { c.syn with pen := c.syn.pen.filter fun q => q.due != c.st.step } } c.st.step gone.length
      else match p.stage with
        | .stored k =>
            let tag := c.syn.nextTag
            let bin := binOf p.due
            let pen := c.syn.pen.map fun q =>
              if binOf q.due = bin ∧ q.stage = .stored k then { q with stage := .reading k tag } else q
            issueRead v { c with syn := { c.syn with pen := pen } } .pen (penEdge c) 1 (penBurst v c bin k) 1 1
        | _ =>
            if full then
              match evictee c with
              | none => { core := c }
              | some x =>
                  let c1 := { c with syn := { c.syn with ring := eraseLast x c.syn.ring } }
                  let e := toPen v (penToRing c1 p) x.entry x.due
                  e
            else { core := penToRing c p }

/-! ### Depot data (R181) -/

/-- The lines of a read in burst order. -/
def readLines (r : DepotRead) : List Line := (List.range r.count).map fun i => nget 0 r.got i

/-- The entries of one read line of the pen, back in the outrider; an uncorrectable line loses them (R181, R190). -/
def penData (v : Env) (c : Core) (tag : Nat) (bad : Bool) : Eff :=
  let mine (p : PenEnt) : Bool := match p.stage with | .reading _ t => t == tag | _ => false
  if bad then
    (c.syn.pen.filter mine).foldl (fun e p => let f := lose v e.core p.due 1; { core := f.core, out := e.out ++ f.out })
      { core := { c with syn := { c.syn with pen := c.syn.pen.filter fun p => !mine p } } }
  else { core := { c with syn := { c.syn with
    pen := c.syn.pen.map fun p => if mine p then { p with stage := .inHand } else p } } }

/-- A prefetched row in the buffer: its lines go to the room that was taken for them; a row with an uncorrectable burst frees it
(R181, R183). -/
def fetched (r : DepotRead) (c : Core) : Core :=
  match c.syn.ring.find? fun e => e.awaits r.tag with
  | none => c
  | some e =>
      let (room, f) : List Nat × Fetch := match e.fetch with
        | .issued _ room => if r.bad then ([], .bad) else (room, .held room)
        | _ => ([], .bad)
      let c1 := bufPut c room (readLines r)
      { c1 with syn := { c1.syn with ring := c1.syn.ring.map fun e => if e.awaits r.tag then { e with fetch := f } else e } }

/-- What the outrider does with a read whose bursts have all arrived. The lines of a learned row wait in the buffer until LEARN
comes to the row (spec/06_learning.md R216). -/
def readDone (v : Env) (c : Core) (r : DepotRead) : Eff :=
  let c1 := { c with syn := { c.syn with reads := c.syn.reads.filter fun x => x.tag != r.tag } }
  match r.what with
  | .prefetch => { core := fetched r c1 }
  | .demand =>
      match c1.syn.setAside.find? fun e => e.awaits r.tag with
      | none => { core := c1 }
      | some e =>
          let c2 := { c1 with syn := { c1.syn with setAside := c1.syn.setAside.erase e } }
          if r.bad then { core := c2 } else integrateWith v c2 e.entry c.st.step (readLines r)
  | .pen => penData v c1 r.tag r.bad
  | .fill _ _ => { core := c }
  | .learned _ => { core := bufPut c r.room (readLines r) }

/-- The bursts of a depot packet: offset in the read, burst number and line. -/
def ddataBursts (r : DepotRead) (p : Packet) : List (Nat × Line) :=
  (flitLines p.flits).zipIdx.map fun (l, i) => (srcOf p + i - r.burst, l)

/-- Depot data at the outrider: uncorrectable bursts are not used, counted in DEPOT_UE and reported (R181); the last burst
of a read hands its lines over. Data of a read that is no longer known is dropped. -/
def takeData (v : Env) (c : Core) (p : Packet) (badBursts : List Nat) : Eff :=
  match c.syn.reads.find? fun r => r.tag == stamp p with
  | none => { core := c }
  | some r =>
      let got := (ddataBursts r p).foldl (fun m q => nput q.1 q.2 (nerase q.1 m)) r.got
      let r1 := { r with got := got, bad := r.bad || !badBursts.isEmpty }
      let c1 := { c with syn := { c.syn with reads := c.syn.reads.map fun x => if x.tag = r.tag then r1 else x } }
      let c2 := if badBursts.isEmpty then c1 else cntLo c1 0xC08 badBursts.length
      let notes := badBursts.map fun b => ctrlPkt v c v.dev 0x22 (Config.sourceBlock 0).toNat b 5
      if got.length ≥ r.count then let e := readDone v c2 r1; { core := e.core, out := notes ++ e.out }
      else { core := c2, out := notes }

/-- The bursts of a depot data packet that their ECC reported as uncorrectable (R181). -/
def badOf (p : Packet) : List Nat :=
  ((List.range (p.flits.length / 2)).map fun i => srcOf p + i).filter p.ue.contains

end Sys2Proof.Machine
end

