-- ==== Sys2Proof/Machine/Queues.lean ====
section
/-! DEFINITION. Queues, channels, active messages and tallies (spec/09_queues_active_messages.md R285-R315). -/

namespace Sys2Proof.Machine

/-! ### Queue entries and status words (R286, R288) -/

/-- Entry of queue `q`. -/
def qEnt (c : Core) (q : Nat) : BitVec 128 := nget 0 c.q.table q
/-- VALID. -/
def qValid (e : BitVec 128) : Bool := bit e 127
/-- KIND: 0 CONT, 1 REQ, 2 REP, 3 TALLY, 4 INBOX. -/
def qKind (e : BitVec 128) : Nat := fld e 126 124
/-- CLASS. -/
def qClass (e : BitVec 128) : Nat := fld e 123 120
/-- The slots of a queue, DEPTH + 1. -/
def qSlots (e : BitVec 128) : Nat := fld e 119 114 + 1
/-- BASE. -/
def qBase (e : BitVec 128) : Nat := fld e 113 104
/-- The first byte of the landing window. -/
def qWin (e : BitVec 128) : Nat := fld e 103 92 * 64
/-- The bytes of the landing window. -/
def qWinLen (e : BitVec 128) : Nat := (fld e 91 80 + 1) * 64
/-- TMODE. -/
def qTmode (e : BitVec 128) : Nat := fld e 79 78
/-- TZERO. -/
def qTzero (e : BitVec 128) : Nat := fld e 77 74
/-- The expected count E of a tally. -/
def qExpect (e : BitVec 128) : Nat := fld e 72 64 + 1
/-- PDEV. -/
def qPdev (e : BitVec 128) : Nat := fld e 58 50
/-- PCORE. -/
def qPcore (e : BitVec 128) : Nat := fld e 49 40
/-- PCHAN. -/
def qPchan (e : BitVec 128) : Nat := fld e 39 32
/-- RQUEUE of a REQ queue. -/
def qRqueue (e : BitVec 128) : Nat := fld e 31 24
/-- RQCGEN of a REQ queue. -/
def qRqcgen (e : BitVec 128) : Nat := fld e 23 16
/-- The completion handler of a TALLY queue. -/
def qThandler (e : BitVec 128) : Nat := fld e 15 10

/-- The byte address of slot `i` (R285). -/
def slotAddr (i : Nat) : Nat := 0x2C000 + 64 * i

/-- Status word of queue `q` (R285, R288). -/
def qSt (c : Core) (q : Nat) : BitVec 64 := BitVec.ofNat 64 (ldmGet c (0x2B000 + 8 * q) 8)
/-- A core with the status word of a queue written. -/
def setQSt (c : Core) (q : Nat) (w : BitVec 64) : Core := ldmSet c (0x2B000 + 8 * q) 8 w.toNat
/-- CGEN of a queue. -/
def qCgen (c : Core) (q : Nat) : Nat := fld (qSt c q) 63 56
/-- STATE of a queue: 0 FREE, 1 OPEN, 2 CLOSED. -/
def qState (c : Core) (q : Nat) : Nat := fld (qSt c q) 52 51
/-- PENDING of a queue. -/
def qPending (c : Core) (q : Nat) : Nat := fld (qSt c q) 15 8
/-- A core with STATE of a queue written. -/
def setQState (c : Core) (q st : Nat) : Core := setQSt c q (setFld (qSt c q) 52 51 st)
/-- A core with ARRIVED and PENDING of a queue raised (R288, R291). -/
def arrive (c : Core) (q arrived pending : Nat) : Core :=
  let w := qSt c q
  setQSt c q (setFld (setFld w 31 16 (fld w 31 16 + arrived)) 15 8 (fld w 15 8 + pending))
/-- A core with one message of a queue gone: PENDING falls, and DONE counts an ended handler (R293). -/
def depart (c : Core) (q done : Nat) : Core :=
  let w := qSt c q
  setQSt c q (setFld (setFld w 15 8 (fld w 15 8 - 1)) 7 0 (fld w 7 0 + done))

/-- A core with KIND of a queue's status word made a copy of its entry's KIND; a queue that is not carved shows 0 (R288). -/
def syncKind (c : Core) (q : Nat) : Core :=
  let e := qEnt c q
  setQSt c q (setFld (qSt c q) 55 53 (if qValid e then qKind e else 0))

/-- The status word of a queue that a channel claims or that START opens: KIND, STATE OPEN, context and generation are
written and CGEN is raised by `bump` from the last one that the queue has had (R288, R289, R314). -/
def openQueue (c : Core) (q bump : Nat) : Core :=
  let g := (nget 0 c.q.cgens q + bump) % 256
  let c1 := syncKind { c with q := { c.q with cgens := nset 0 c.q.cgens q g } } q
  setQSt c1 q (setFld (setFld (setFld (setFld (qSt c1 q) 63 56 g) 52 51 1) 47 42 c.ctx) 41 38 c.gen.toNat)

/-! ### Channels (R294, R295) -/

/-- Record of channel `n`. -/
def chan (c : Core) (n : Nat) : BitVec 128 := nget 0 c.q.chans n
/-- PDEV. -/
def chPdev (r : BitVec 128) : Nat := fld r 127 119
/-- PCORE. -/
def chPcore (r : BitVec 128) : Nat := fld r 118 109
/-- PQUEUE. -/
def chPqueue (r : BitVec 128) : Nat := fld r 108 101
/-- PCGEN. -/
def chPcgen (r : BitVec 128) : Nat := fld r 100 93
/-- The bytes of the peer's window. -/
def chWin (r : BitVec 128) : Nat := (fld r 92 81 + 1) * 64
/-- RQUEUE. -/
def chRqueue (r : BitVec 128) : Nat := fld r 80 73
/-- KIND: 0 REQ, 1 TALLY, 2 LINE. -/
def chKind (r : BitVec 128) : Nat := fld r 72 70
/-- STATE: 0 FREE, 1 OPENING, 2 OPEN, 3 CLOSING, 4 CLOSED, 5 STALE. -/
def chState (r : BitVec 128) : Nat := fld r 69 67
/-- CREDITS. -/
def chCredits (r : BitVec 128) : Nat := fld r 66 60
/-- OWED. -/
def chOwed (r : BitVec 128) : Nat := fld r 59 53
/-- FREED. -/
def chFreed (r : BitVec 128) : Nat := fld r 52 46
/-- ROUND. -/
def chRound (r : BitVec 128) : Nat := fld r 45 45
/-- A record with STATE written. -/
def withState (r : BitVec 128) (st : Nat) : BitVec 128 := setFld r 69 67 st
/-- A record with CREDITS written. -/
def withCredits (r : BitVec 128) (k : Nat) : BitVec 128 := setFld r 66 60 k

/-- Status word of channel `n` (R285, R295). -/
def chSt (c : Core) (n : Nat) : BitVec 64 := BitVec.ofNat 64 (ldmGet c (0x2B800 + 8 * n) 8)

/-- A core with a channel record written and its status word following: the copied fields, LAST when it is given, and
CHANGES and NACKS raised (R295). -/
def setChan (c : Core) (n : Nat) (r : BitVec 128) (last : Option Status) (changes nacks : Nat) : Core :=
  let w := chSt c n
  let w1 := setFld (setFld (setFld w 63 56 (chPcgen r)) 55 53 (chKind r)) 52 50 (chState r)
  let w2 := match last with | some st => setFld w1 47 40 st.toNat | none => w1
  let w3 := setFld (setFld w2 39 32 (chPqueue r)) 31 16 (fld w2 31 16 + changes)
  let w4 := setFld (setFld w3 15 8 (chCredits r)) 7 0 (fld w3 7 0 + nacks)
  ldmSet { c with q := { c.q with chans := nset 0 c.q.chans n r } } (0x2B800 + 8 * n) 8 w4.toNat

/-- A channel with one credit more (R298). -/
def giveCredit (c : Core) (n : Nat) : Core :=
  let r := chan c n
  setChan c n (withCredits r (chCredits r + 1)) none 1 0

/-- OWED and FREED of a channel matched: every pair is a credit (R298). -/
def matchFreed (c : Core) (n : Nat) : Core :=
  let r := chan c n
  let k := min (chOwed r) (chFreed r)
  setChan c n (withCredits (setFld (setFld r 59 53 (chOwed r - k)) 52 46 (chFreed r - k)) (chCredits r + k)) none k 0

/-- The channel that owns REP queue `q` (R296). -/
def ownerOf (c : Core) (q : Nat) : Option Nat :=
  (c.q.chans.find? fun p => chState p.2 != 0 && chKind p.2 == 0 && chRqueue p.2 == q).map Prod.fst

/-- A reply slot of a channel freed (R298). -/
def replySlotFreed (c : Core) (q : Nat) : Core :=
  match ownerOf c q with
  | none => c
  | some n =>
      let r := chan c n
      matchFreed (setChan c n (setFld r 52 46 (chFreed r + 1)) none 0 0) n

/-- Whether a channel has taken a reply queue: a REQ channel has, and so has a TALLY channel that was opened at run time, whose
opener takes the queue before the peer says which it is (R296). -/
def hasReply (c : Core) (n : Nat) : Bool :=
  qKind (qEnt c (chRqueue (chan c n))) == 2 &&
    (chKind (chan c n) == 0 || (chKind (chan c n) == 1 && !(c.q.declared.any fun p => p.1 == n)))

/-- The reply queue of a channel freed when it has one (R299). -/
def freeReply (c : Core) (n : Nat) : Core := if hasReply c n then setQState c (chRqueue (chan c n)) 0 else c

/-- Whether the reply slots of a channel are empty. -/
def repliesDone (c : Core) (n : Nat) : Bool := !hasReply c n || qPending c (chRqueue (chan c n)) == 0

/-- The closed channels whose reply slots are empty let their reply queue go, and become FREE where a close ended
(R299). -/
def settle (c : Core) : Core :=
  c.q.release.foldl (fun c x =>
    if repliesDone c x.1 then
      let c1 := freeReply c x.1
      let c2 := if x.2 then setChan c1 x.1 (withCredits (withState (chan c1 x.1) 0) 0) none 1 0 else c1
      { c2 with q := { c2.q with release := c2.q.release.erase x } }
    else c) c

/-- A channel whose close has ended on its side (R299). -/
def releaseChan (c : Core) (n : Nat) (free : Bool) : Core :=
  settle { c with q := { c.q with release := (c.q.release.filter fun x => x.1 != n) ++ [(n, free)] } }

/-! ### Waiting handlers (spec/08_handler_unit.md R276; R311) -/

/-- A core whose handler waits for a credit of a channel resumes its send: the send issues again (R311). -/
def wakeCredit (c : Core) (n : Nat) : Core :=
  match c.hnd.wait with
  | .credit k _ => if k = n then { c with hnd := { c.hnd with wait := .none } } else c
  | _ => c

/-! ### Packets (R297, R300, R303) -/

/-- The bits [95:64] of a message from its fields (R300). -/
def msgSrc (reply : Bool) (dev core ch : Nat) (mid : Nat := 0) : BitVec 32 :=
  BitVec.ofNat 32 (b1 reply * 2 ^ 31 + dev % 512 * 2 ^ 22 + core % 1024 * 2 ^ 12 + ch % 256 * 2 ^ 4 + mid % 16)

/-- REPLY. -/
def mReply (p : Packet) : Bool := bit p.head 95
/-- SDEV. -/
def mSdev (p : Packet) : Nat := fld p.head 94 86
/-- SCORE. -/
def mScore (p : Packet) : Nat := fld p.head 85 76
/-- SCHAN. -/
def mSchan (p : Packet) : Nat := fld p.head 75 68
/-- QUEUE; the channel or queue of a CTRL packet, SCHAN of a NACK. -/
def mQueue (p : Packet) : Nat := fld p.head 63 56
/-- CGEN. -/
def mCgen (p : Packet) : Nat := fld p.head 55 48
/-- HANDLER of a MSG. -/
def mHandler (p : Packet) : Nat := fld p.head 37 32
/-- ROUND of a TALLY. -/
def mRound (p : Packet) : Nat := fld p.head 37 37
/-- LEN of a MSG; a short one has length 0. -/
def mLen (p : Packet) : Nat := if p.flits = [] then 0 else fld p.head 19 10
/-- LAND of a MSG. -/
def mLand (p : Packet) : Nat := if p.flits = [] then 0 else fld p.head 31 20

/-- A NACK to a sender: its device and core, or the hub of its device when `mid` names an engine; it carries the MID of the
returned packet in [67:64]. It names the returned packet's type in [3:0] of PAYLOAD (R303; assumption 18). -/
def mkNack (v : Env) (sdev score schan cgen mid ctx gen : Nat) (st : Status) (dropped : Bool) (ty cls : Nat) : Packet :=
  let engine := mid ≠ 0xA ∧ mid ≠ 0xB
  mkPkt 5 0 sdev (if engine then 0x3FF else score) 0 0 (msgSrc false v.dev v.me 0 mid)
    (schan * 2 ^ 8 + cgen % 256) ctx gen 0 (st.toNat * 2 ^ 24 + b1 dropped * 2 ^ 23 + ty) cls

/-- The NACK that answers a packet of R300 (R302, R303). -/
def nackOf (v : Env) (p : Packet) (st : Status) : Packet :=
  mkNack v (mSdev p) (mScore p) (mSchan p) (mCgen p) p.mid.toNat (pctx p) (pgen p) st true (typ p) p.cls.toNat

/-- A channel CTRL packet of a core (R297). -/
def chanPkt (v : Env) (c : Core) (dev core sub a b pay : Nat) : Packet :=
  mkPkt 7 0 dev core 0 0 (srcWord v.dev v.me 0) (a % 256 * 2 ^ 8 + b % 256) c.ctx c.gen.toNat sub pay 3

/-- A QCREDIT for one message of a queue, with REPLY `r` (R297, R298). -/
def qcreditPkt (v : Env) (c : Core) (dev core ch cgen r : Nat) : Packet := chanPkt v c dev core 0x14 ch cgen (r * 2 ^ 30)

/-! ### Tallies (R307-R310) -/

/-- The slots of a round buffer (R287). -/
def tallyB (e : BitVec 128) : Nat := if qTmode e = 2 then 4 else 1
/-- The byte address of round buffer `r` (R307). -/
def tallyBuf (e : BitVec 128) (r : Nat) : Nat := slotAddr (qBase e + 2 + r * tallyB e)
/-- The byte address of the contributor list (R307). -/
def tallyList (e : BitVec 128) : Nat := slotAddr (qBase e + 2 + 2 * tallyB e)
/-- The contributors that a round has counted, as their list words. -/
def tallyTook (c : Core) (q r : Nat) : List Word := nget [] c.q.counts (2 * q + r)
/-- The contributions that a round has counted. -/
def tallyCount (c : Core) (q r : Nat) : Nat := (tallyTook c q r).length
/-- A core with the contributors that a round has counted written. -/
def setTallyTook (c : Core) (q r : Nat) (l : List Word) : Core := { c with q := { c.q with counts := nset [] c.q.counts (2 * q + r) l } }
/-- The word of a contributor in a list (R307). -/
def contribWord (dev core ch : Nat) : Word := BitVec.ofNat 32 (dev % 512 * 2 ^ 18 + core % 1024 * 2 ^ 8 + ch % 256)
/-- The device, core and channel of a contributor word. -/
def contribOf (w : Nat) : Nat × Nat × Nat := (w / 2 ^ 18 % 512, w / 2 ^ 8 % 1024, w % 256)
/-- The contributors that a queue lists, in list order: device, core, channel (R307). -/
def contributors (c : Core) (q : Nat) : List (Nat × Nat × Nat) :=
  (List.range (nget 0 c.q.listed q)).map fun i => contribOf (ldmGet c (tallyList (qEnt c q) + 4 * i) 4)
/-- The length of a tally sum in bytes (R309). -/
def tallyLen (e : BitVec 128) : Nat := match qTmode e with | 0 => 2 | 1 => 4 | _ => 256

/-- A descriptor in a slot (R290). -/
def mkDesc (sender : Word) (q cgen hidx : Nat) (reply inline : Bool) (len land : Nat) (arg : Word) : BitVec 128 :=
  sender ++ BitVec.ofNat 8 q ++ BitVec.ofNat 8 cgen ++ BitVec.ofNat 6 hidx ++ BitVec.ofBool reply ++ BitVec.ofBool inline ++
    BitVec.ofNat 10 len ++ BitVec.ofNat 18 land ++ (0 : BitVec 12) ++ arg

/-- The sum of `n` bits at an address, with a contribution added and clamped; whether it was clamped (R308). -/
def tallyAdd (n a : Nat) (x : Int) (c : Core) : Core × Bool :=
  let y := signed n (ldmGet c a (n / 8)) + x
  let z := clampTo (-(2 ^ (n - 1))) (2 ^ (n - 1) - 1) y
  (ldmSet c a (n / 8) (wrap n z), y ≠ z)

/-- A contribution added to round buffer `r` (R308). -/
def tallySum (c : Core) (e : BitVec 128) (r : Nat) (p : Packet) : Core × Bool :=
  let a := tallyBuf e r
  match qTmode e with
  | 0 => tallyAdd 16 a (signed 16 (payload p % 2 ^ 16)) c
  | 1 => tallyAdd 32 a (signed 32 (payload p)) c
  | _ =>
      let l := (flitLines p.flits).headD 0
      (List.range 128).foldl (fun (x : Core × Bool) i =>
        let y := tallyAdd 16 (a + 2 * i) ((fld l (4 * i + 3) (4 * i) : Int) - qTzero e) x.1
        (y.1, x.2 || y.2)) (c, false)

/-- A full round: its completion descriptor, in arrival order with the messages (R309). -/
def tallyComplete (c : Core) (q r : Nat) : Core :=
  let e := qEnt c q
  let slot := qBase e + r
  let d := mkDesc 0 q (qCgen c q) (qThandler e) false false (tallyLen e) (tallyBuf e r) 0
  let c1 := ldmSet c (slotAddr slot) 16 d.toNat
  let ch : Chain := { s4 := BitVec.ofNat 32 (q * 2 ^ 8), entry := e }
  let m : QMsg := { queue := q, slot := slot, kind := 1, round := r, chain := ch }
  arrive { c1 with q := { c1.q with msgs := c1.q.msgs ++ [m] } } q 1 1

/-- A contribution that passed the checks (R308, R309). -/
def takeTally (c : Core) (p : Packet) : Core :=
  let q := mQueue p
  let e := qEnt c q
  let r := mRound p
  let x := tallySum c e r p
  let c1 := if x.2 then cntHi (setQSt x.1 q (setFld (qSt x.1 q) (49 + r) (49 + r) 1)) 0xF08 1 else x.1
  let c2 := setTallyTook (cntHi c1 0xF00 1) q r (tallyTook c1 q r ++ [contribWord (mSdev p) (mScore p) (mSchan p)])
  if tallyCount c2 q r = qExpect e then tallyComplete c2 q r else c2

/-- A round cleared: its buffer, count and TSAT (R309, R333). -/
def clearRound (c : Core) (q r : Nat) : Core :=
  let e := qEnt c q
  let c1 := (List.range (tallyB e)).foldl (fun c i => ldmSet c (tallyBuf e r + 64 * i) 64 0) c
  setTallyTook (setQSt c1 q (setFld (qSt c1 q) (49 + r) (49 + r) 0)) q r []

/-- A round released: it is cleared, and each contributor gets one QCREDIT in list order (R309). A round that a convoy has
discarded meanwhile has number 2 and is not released again (assumption 31). -/
def releaseRound (v : Env) (c : Core) (q r : Nat) : Eff :=
  if r ≥ 2 then { core := c }
  else
    { core := clearRound c q r
      out := (contributors c q).map fun x => qcreditPkt v c x.1 x.2.1 x.2.2 (qCgen c q) 0 }

/-- The completions of a queue forgotten: those that wait go with their rounds, and one that runs releases nothing
(assumption 31). -/
def dropCompletions (c : Core) (q : Nat) : Core :=
  let mine (m : QMsg) : Bool := m.kind == 1 && m.queue == q
  let n := (c.q.msgs.filter mine).length
  let c1 := (List.range n).foldl (fun c _ => depart c q 0) c
  { c1 with
    q := { c1.q with msgs := c1.q.msgs.filter fun m => !mine m }
    hnd := if c1.hnd.run && mine c1.hnd.cur then { c1.hnd with cur := { c1.hnd.cur with round := 2 } } else c1.hnd }

/-- Both rounds discarded: one QCREDIT to the contributor of each contribution that they held (spec/10_convoys.md R333). -/
def discardRounds (v : Env) (c : Core) (q : Nat) : Eff :=
  let took := tallyTook c q 0 ++ tallyTook c q 1
  { core := dropCompletions (clearRound (clearRound c q 0) q 1) q
    out := took.map fun w => let x := contribOf w.toNat; qcreditPkt v c x.1 x.2.1 x.2.2 (qCgen c q) 0 }

/-! ### Landing (R290-R292, R302) -/

/-- The slots of a queue that hold messages, the one being handled among them. -/
def usedSlots (c : Core) (q : Nat) : List Nat :=
  ((c.q.msgs ++ (if c.hnd.run then [c.hnd.cur] else [])).filter fun m => m.queue == q).map QMsg.slot

/-- The lowest free slot of a queue, counted from its BASE (assumption 19). -/
def freeSlotOf (c : Core) (q : Nat) : Option Nat :=
  (List.range (qSlots (qEnt c q))).find? fun k => !(usedSlots c q).contains (qBase (qEnt c q) + k)

/-- The bytes of an INBOX frame (R292). -/
def frameLen (e : BitVec 128) : Nat := 64 * (qWinLen e / 64 / qSlots e)

/-- Whether a message lands inline (R291). -/
def inlineMsg (e : BitVec 128) (p : Packet) : Bool := qKind e != 4 && mLand p == 0xFFF

/-- The byte address at which the payload of a message that takes the `k`-th slot lands (R291, R292). -/
def landAddr (e : BitVec 128) (p : Packet) (k : Nat) : Nat :=
  if qKind e = 4 then qWin e + k * frameLen e
  else if inlineMsg e p then slotAddr (qBase e + k) + 16
  else qWin e + mLand p * 64

/-- Check 7: the landing lies in the window (R302). -/
def landsInside (e : BitVec 128) (p : Packet) : Bool :=
  if qKind e = 3 then true
  else if qKind e = 4 then mLen p ≤ frameLen e && mLen p ≤ 512
  else if inlineMsg e p then mLen p ≤ 48
  else mLand p * 64 + mLen p ≤ qWinLen e && mLen p ≤ 512

/-- Check 6: the sender is one that the queue takes (R302, R315); the reserved MIDs 0xD to 0xF are refused everywhere
(spec/01_device_organisation.md R40). -/
def senderOk (v : Env) (c : Core) (q : Nat) (p : Packet) : Bool :=
  let e := qEnt c q
  let peer := p.mid == 0xA || (p.mid == 0xB && mSdev p == v.dev)
  if p.mid.toNat ≥ 0xD then false else match qKind e with
  | 3 => peer && (contributors c q).contains (mSdev p, mScore p, mSchan p)
  | 4 =>
      if mcast p ≠ 0 then bit e 59
      else (p.mid == 0 && bit e 63) || (p.mid == 1 && bit e 62) || (p.mid == 8 && bit e 61) || (p.mid == 0xA && bit e 60)
  | _ => peer && mSdev p == qPdev e && mScore p == qPcore e

/-- Check 3: the queue is valid and of a kind that takes the packet (R302). -/
def kindOk (e : BitVec 128) (p : Packet) : Bool :=
  qValid e && (if typ p = 8 then qKind e == 3 else if mReply p then qKind e == 2 else qKind e == 1 || qKind e == 4)

/-- The checks of R302 in order: the status of the first failure, and whether it is logged. -/
def customs (v : Env) (c : Core) (p : Packet) : Option (Status × Bool) :=
  let q := mQueue p
  let e := qEnt c q
  if !(c.bound && c.ctx == pctx p) then some (stAccess, true)
  else if c.gen.toNat ≠ pgen p then some (stStaleGen, false)
  else if !kindOk e p then some (stAccess, true)
  else if qState c q ≠ 1 then some (stPeerClosed, false)
  else if qKind e ≠ 4 ∧ mCgen p ≠ qCgen c q then some (stStaleGen, false)
  else if !senderOk v c q p then some (stAccess, true)
  else if !landsInside e p then some (stAccess, true)
  else if (if qKind e = 3 then decide (tallyCount c q (mRound p) ≥ qExpect e) else (freeSlotOf c q).isNone) then
    if qKind e = 4 ∨ mcast p ≠ 0 then some (stQueueFull, false) else some (stAccess, true)
  else none

/-- s3 of a message: the host bit, the device and the core of the sender (R264). -/
def senderWord (p : Packet) : Word :=
  BitVec.ofNat 32 (b1 (p.mid == 0 || p.mid == 1) * 2 ^ 31 + mSdev p * 2 ^ 10 + mScore p)

/-- A message that passed the checks lands: payload, descriptor, ARRIVED and PENDING (R290-R292). -/
def landMsg (c : Core) (p : Packet) (k : Nat) : Core :=
  let q := mQueue p
  let e := qEnt c q
  let slot := qBase e + k
  let a := landAddr e p k
  let host := p.mid == 0 || p.mid == 1
  let d := mkDesc (senderWord p) q (qCgen c q) (mHandler p) (mReply p) (inlineMsg e p) (mLen p) a
    (if p.flits = [] then BitVec.ofNat 32 (payload p) else 0)
  let c1 := if mLen p = 0 then c else ldmSet c a (mLen p) (ofBytes ((flitBytes p.flits).take (mLen p)))
  let c2 := ldmSet c1 (slotAddr slot) 16 d.toNat
  let m : QMsg := { queue := q, slot := slot, chain := {
    sender := senderWord p, s4 := BitVec.ofNat 32 (q * 2 ^ 8 + qCgen c q), mid := p.mid, schan := mSchan p
    cgen := mCgen p, isReq := qKind e == 1, entry := e, host := if host then some (mSchan p) else none } }
  cntHi (arrive { c2 with q := { c2.q with msgs := c2.q.msgs ++ [m] } } q 1 1) 0xF00 1

/-- A dropped packet: the counters of R322. -/
def countDrop (c : Core) (st : Status) (logged : Bool) : Core :=
  let c1 := cntLo c 0xF00 1
  let c2 := if logged then cntLo c1 0xF04 1 else c1
  if st = stStaleGen then cntLo c2 0xF08 1 else c2

/-- The landing address that a packet would have used: the round buffer of a contribution, else its place in the window or the slot
(R302). -/
def wouldLand (c : Core) (p : Packet) : Nat :=
  let e := qEnt c (mQueue p)
  if typ p = 8 then tallyBuf e (mRound p) else landAddr e p ((freeSlotOf c (mQueue p)).getD 0)

/-- A MSG or TALLY packet whose turn has come at its core (R302). -/
def takeMessage (s : State) (core : Nat) (p : Packet) : State :=
  fromPort s core p fun s1 =>
    let c := getCore s1 core
    let v := envOf s1 core
    match customs v c p with
    | some (st, logged) =>
        let s2 := applyEff s1 core { core := countDrop c st logged, out := [nackOf v p st] }
        if logged then
          clogTile s2 core p.mid.toNat (if p.mid = 0xA then mSdev p else v.dev) (mScore p) st (wouldLand c p)
        else s2
    | none =>
        if typ p = 8 then applyEff s1 core { core := takeTally c p }
        else applyEff s1 core { core := landMsg c p ((freeSlotOf c (mQueue p)).getD 0) }

/-- MSG (R302). -/
def execMsg (core : Nat) (pkt : Packet) (s : State) : Host.Outcome State Fault Refusal := .next (takeMessage s core pkt)

/-- TALLY (R308). -/
def execTally (core : Nat) (pkt : Packet) (s : State) : Host.Outcome State Fault Refusal := .next (takeMessage s core pkt)

/-! ### Opening a channel (R296, R297) -/

/-- The lowest FREE queue of a kind and class. -/
def freeQueue (c : Core) (kind cls : Nat) : Option Nat :=
  (List.range 256).find? fun q =>
    qValid (qEnt c q) && qKind (qEnt c q) == kind && qClass (qEnt c q) == cls && qState c q == 0

/-- The lowest FREE channel record. -/
def freeChan (c : Core) : Option Nat := (List.range 256).find? fun n => chState (chan c n) == 0

/-- The opener's side of a QOPEN: the channel and the reply queue are taken and OPEN is sent, or the reporting channel shows
NO_RESOURCE (R296 step 1 and 2). -/
def openStart (v : Env) (c : Core) (report dev core cls rcls : Nat) (notice : Bool) (hidx : Nat) : Eff :=
  match freeChan c, freeQueue c 2 rcls with
  | some n, some q =>
      let e := setFld (setFld (qEnt c q) 58 50 dev) 49 40 core
      let c1 := openQueue { c with q := { c.q with table := nset 0 c.q.table q e } } q 1
      let r := BitVec.ofNat 128 (dev * 2 ^ 119 + core * 2 ^ 109 + q * 2 ^ 73 + 1 * 2 ^ 67)
      { core := setChan c1 n r none 1 0
        out := [chanPkt v c dev core 0x10 n q
          (cls * 2 ^ 28 + qCgen c1 q * 2 ^ 20 + (qWinLen e / 64 - 1) * 2 ^ 8 + b1 notice * 2 ^ 7 + hidx * 2)] }
  | _, _ => { core := setChan c report (chan c report) (some stNoResource) 0 0 }

/-- The peer's answer to an OPEN that it grants (R296 step 5). A TALLY queue is told by PAYLOAD [0] (assumption 20). -/
def openAckPkt (v : Env) (c : Core) (dev core ch q : Nat) : Packet :=
  let e := qEnt c q
  chanPkt v c dev core 0x11 ch (qCgen c q) (q * 2 ^ 24 + qSlots e * 2 ^ 17 + (qWinLen e / 64 - 1) * 2 ^ 5 + b1 (qKind e == 3))

/-- The lowest TALLY queue of a class with room for a contributor and both rounds empty (R296 step 3, R310). -/
def freeTally (c : Core) (cls : Nat) : Option Nat :=
  (List.range 256).find? fun q =>
    let e := qEnt c q
    qValid e && qKind e == 3 && qClass e == cls && qState c q == 1 && nget 0 c.q.listed q < qExpect e &&
      tallyCount c q 0 == 0 && tallyCount c q 1 == 0

/-- OPEN at the peer (R296 steps 3 to 5). -/
def takeOpen (v : Env) (c : Core) (p : Packet) : Eff :=
  let dev := srcDev p
  let core := srcCore p
  let cls := fld p.head 31 28
  let refuse : Eff := { core := c, out := [mkNack v dev core (mQueue p) 0 0xB (pctx p) (pgen p) stNoResource true 7 3] }
  if !(c.bound && c.ctx == pctx p && c.gen.toNat == pgen p) then refuse
  else match freeQueue c 1 cls with
    | some q =>
        let e := BitVec.ofNat 128 ((qEnt c q).toNat / 2 ^ 59 * 2 ^ 59 + dev * 2 ^ 50 + core * 2 ^ 40 + mQueue p * 2 ^ 32 +
          mCgen p * 2 ^ 24 + fld p.head 27 20 * 2 ^ 16 + fld p.head 19 8 * 2 ^ 4)
        let c1 := openQueue { c with q := { c.q with table := nset 0 c.q.table q e } } q 1
        if bit p.head 7 then
          match freeSlotOf c1 q with
          | none => { core := c1, out := [openAckPkt v c1 dev core (mQueue p) q] }
          | some k =>
              let sender := BitVec.ofNat 32 (dev * 2 ^ 10 + core)
              let d := mkDesc sender q (qCgen c1 q) (fld p.head 6 1) false false 0 (qWin e) 0
              let c2 := ldmSet c1 (slotAddr (qBase e + k)) 16 d.toNat
              let m : QMsg := { queue := q, slot := qBase e + k, notice := true, chain := {
                sender := sender, s4 := BitVec.ofNat 32 (q * 2 ^ 8 + qCgen c1 q), schan := mQueue p
                cgen := qCgen c1 q, entry := e } }
              { core := arrive { c2 with q := { c2.q with msgs := c2.q.msgs ++ [m] } } q 1 1 }
        else { core := c1, out := [openAckPkt v c1 dev core (mQueue p) q] }
    | none =>
        match freeTally c cls with
        | none => refuse
        | some q =>
            let k := nget 0 c.q.listed q
            let c1 := ldmSet { c with q := { c.q with listed := nset 0 c.q.listed q (k + 1) } }
              (tallyList (qEnt c q) + 4 * k) 4 (dev * 2 ^ 18 + core * 2 ^ 8 + mQueue p)
            { core := c1, out := [openAckPkt v c1 dev core (mQueue p) q] }

/-- A channel packet whose turn has come at its core. -/
def chanStep (s : State) (core : Nat) (pkt : Packet) (f : Env → Core → Eff) : State :=
  fromPort s core pkt fun s1 => applyEff s1 core (f (envOf s1 core) (getCore s1 core))

/-- OPEN (R296). -/
def execOpenChannel (core : Nat) (pkt : Packet) (s : State) : Host.Outcome State Fault Refusal :=
  .next (chanStep s core pkt fun v c => takeOpen v c pkt)

/-- Whether a core still belongs to the context and generation of a packet. -/
def sameCtx (c : Core) (p : Packet) : Bool := c.bound && c.ctx == pctx p && c.gen.toNat == pgen p

/-- A credit or NACK that names no channel the core holds (R303, R322). -/
def unmatched (c : Core) : Core := cntHi c 0xF0C 1

/-- CLOSE sent for a channel to its server (R297, R299). -/
def closePkt (v : Env) (c : Core) (r : BitVec 128) : Packet := chanPkt v c (chPdev r) (chPcore r) 0x12 (chPqueue r) (chPcgen r) 0

/-- OPEN_ACK at the opener (R296 step 6). A channel that was closed while it opened sends its CLOSE now. -/
def takeOpenAck (v : Env) (c : Core) (p : Packet) : Eff :=
  let n := mQueue p
  let r := chan c n
  if !sameCtx c p ∨ (chState r ≠ 1 ∧ chState r ≠ 3) then { core := c }
  else
    let tally := bit p.head 0
    let r1 := setFld (setFld (setFld (setFld r 108 101 (fld p.head 31 24)) 100 93 (mCgen p)) 92 81 (fld p.head 16 5)) 72 70
      (b1 tally)
    if chState r = 3 then { core := setChan c n r1 none 0 0, out := [closePkt v c r1] }
    else
      let k := if tally then 2 else min (fld p.head 23 17) (qSlots (qEnt c (chRqueue r)))
      { core := wakeCredit (setChan c n (withCredits (withState r1 2) k) none 1 0) n }

/-- OPEN_ACK (R296). -/
def execOpenAck (core : Nat) (pkt : Packet) (s : State) : Host.Outcome State Fault Refusal :=
  .next (chanStep s core pkt fun v c => takeOpenAck v c pkt)

/-! ### Credits and NACKs (R298, R303) -/

/-- QCREDIT at the sender (R298). -/
def takeCreditOf (c : Core) (p : Packet) : Core :=
  let n := mQueue p
  let r := chan c n
  if !sameCtx c p ∨ chState r = 0 ∨ chPcgen r ≠ mCgen p then unmatched c
  else
    let c1 := match fld p.head 31 30 with
      | 0 => giveCredit c n
      | 3 => giveCredit (setChan c n (setFld r 59 53 (chOwed r - 1)) none 0 0) n
      | _ => setChan c n (setFld r 59 53 (chOwed r + 1)) none 0 0
    wakeCredit c1 n

/-- QCREDIT (R298). -/
def execQcredit (core : Nat) (pkt : Packet) (s : State) : Host.Outcome State Fault Refusal :=
  .next (chanStep s core pkt fun _ c => { core := takeCreditOf c pkt })

/-- The status of a NACK. -/
def nkStatus (p : Packet) : Status := BitVec.ofNat 8 (fld p.head 31 24)

/-- Whether a NACK is a CLOSE of a server's queue that came back with LINK_DOWN (R299). -/
def closeBack (c : Core) (p : Packet) : Bool :=
  let q := mQueue p
  sameCtx c p && payload p % 16 == 7 && nkStatus p == stLinkDown && qKind (qEnt c q) == 1 && qState c q == 2 && qCgen c q == mCgen p

/-- A NACK to a channel of a core (R303). An OPEN that was refused frees the reply queue and leaves the channel CLOSED
(R296); a CLOSE that came back ends the close on this side (R299). -/
def nackChan (c : Core) (p : Packet) : Core :=
  let n := mQueue p
  let r := chan c n
  let st := nkStatus p
  if !sameCtx c p ∨ chState r = 0 ∨ chPcgen r ≠ mCgen p then (if closeBack c p then setQState c n 0 else unmatched c)
  else
    let note (x : BitVec 128) : Core := setChan c n x (some st) 1 1
    if chState r = 1 ∧ payload p % 16 = 7 then wakeCredit (freeReply (note (withState r 4)) n) n
    else if chState r = 3 ∧ typ p = 5 ∧ payload p % 16 = 7 then releaseChan (note r) n true
    else if st = stPeerClosed ∨ st = stLinkDown then wakeCredit (note (withState r 4)) n
    else if st = stStaleGen then wakeCredit (note (withState r 5)) n
    else if bit p.head 23 ∧ chKind r ≠ 2 then wakeCredit (note (withCredits r (chCredits r + 1))) n
    else note r

/-- Whether a NACK returns an event, a relay copy or a rearguard (spec/12_osust_links.md R395). -/
def returnsEvent (p : Packet) : Bool := payload p % 16 < 4

/-- The fetched QUEUE_SEND with a transaction index (R303). -/
def sendCmd (s : State) (txn : Nat) : Option Fetched :=
  s.hif.fetched.find? fun f => mOp f.manifest == 0x20 && f.begun && f.handle % 256 == txn

/-- A NACK to the command router: QUEUE_SEND completes with its status (R305). -/
def nackHost (s : State) (p : Packet) : State :=
  match sendCmd s (mQueue p) with
  | none => s
  | some f => complete s f.handle (nkStatus p)

/-- A NACK to the readout engine: a record refused with QUEUE_FULL waits for a retry; any other refusal ends it (R305). The parts of
a record share its transaction index, so a second NACK finds it gone. -/
def nackReadout (s : State) (p : Packet) : State :=
  { s with results := s.results.map fun q =>
      let st := q.2
      let mine := st.sent.filter fun r => r.1 == mQueue p
      if mine.isEmpty then q
      else
        let st1 := { st with sent := st.sent.filter fun r => r.1 != mQueue p }
        (q.1, if nkStatus p = stQueueFull then { st1 with again := st1.again ++ mine } else { st1 with rdrop := satAdd st1.rdrop 1 }) }

/-- Whether a NACK is for an engine of the hub. -/
def toHubNack (p : Packet) : Bool := dcore p == 0x3FF && fld p.head 67 64 != 0xA && fld p.head 67 64 != 0xB

/-! ### Closing (R299) -/

/-- The close of a channel by its opener: a convoy close action or STOP (R299). -/
def closeStart (v : Env) (c : Core) (n : Nat) : Eff :=
  let r := chan c n
  match chState r with
  | 1 => { core := wakeCredit (setChan c n (withState r 3) none 1 0) n }
  | 2 =>
      if chKind r = 2 then { core := setChan c n (withCredits (withState r 0) 0) none 1 0 }
      else { core := wakeCredit (setChan c n (withState r 3) none 1 0) n, out := [closePkt v c r] }
  | 4 => { core := releaseChan c n true }
  | 5 => { core := releaseChan c n true }
  | _ => { core := c }

/-- Whether a CLOSE or CLOSE_ACK names a REQ queue that the sender opened. -/
def namesQueue (c : Core) (p : Packet) : Bool :=
  let e := qEnt c (mQueue p)
  qValid e && qKind e == 1 && qState c (mQueue p) != 0 && qCgen c (mQueue p) == mCgen p &&
    qPdev e == srcDev p && qPcore e == srcCore p

/-- Whether a CLOSE names a TALLY queue that lists the sender. -/
def namesTally (c : Core) (p : Packet) : Bool :=
  let e := qEnt c (mQueue p)
  qValid e && qKind e == 3 && (contributors c (mQueue p)).any fun x => x.1 == srcDev p && x.2.1 == srcCore p

/-- Whether a CLOSE or CLOSE_ACK names a channel of this core to the sender. -/
def namesChan (c : Core) (p : Packet) : Bool :=
  let r := chan c (mQueue p)
  chState r != 0 && chPcgen r == mCgen p && chPdev r == srcDev p && chPcore r == srcCore p

/-- CLOSE at either end: a queue drains and then answers, a channel closes and answers at once; when both ends close, each
takes the other's CLOSE as CLOSE_ACK (R299). The end that it names is told by the sender and the generation (assumption
21). A tally answers at once and keeps its list (assumption 21). -/
def takeClose (v : Env) (c : Core) (p : Packet) : Eff :=
  let n := mQueue p
  if !sameCtx c p then { core := c }
  else if namesQueue c p then
    if qState c n = 2 then
      if c.q.draining.contains (n, false) then
        { core := { c with q := { c.q with draining := (c.q.draining.erase (n, false)) ++ [(n, true)] } } }
      else { core := setQState c n 0 }
    else { core := setQState { c with q := { c.q with draining := c.q.draining ++ [(n, true)] } } n 2 }
  else if namesChan c p then
    let r := chan c n
    if chState r = 3 then { core := releaseChan c n true }
    else { core := wakeCredit (releaseChan (setChan c n (withState r 4) none 1 0) n false) n
           out := [chanPkt v c (chPdev r) (chPcore r) 0x13 (chPqueue r) (chPcgen r) 0] }
  else if namesTally c p then
    match (contributors c n).find? fun x => x.1 == srcDev p && x.2.1 == srcCore p with
    | some x => { core := c, out := [chanPkt v c x.1 x.2.1 0x13 x.2.2 (qCgen c n) 0] }
    | none => { core := c }
  else { core := c }

/-- CLOSE (R299). -/
def execCloseChannel (core : Nat) (pkt : Packet) (s : State) : Host.Outcome State Fault Refusal :=
  .next (chanStep s core pkt fun v c => takeClose v c pkt)

/-- CLOSE_ACK at the end that sent CLOSE (R299). -/
def takeCloseAck (c : Core) (p : Packet) : Core :=
  let n := mQueue p
  if !sameCtx c p then c
  else if namesQueue c p ∧ qState c n = 2 then setQState c n 0
  else if namesChan c p ∧ chState (chan c n) = 3 then releaseChan c n true
  else c

/-- CLOSE_ACK (R299). -/
def execCloseAck (core : Nat) (pkt : Packet) (s : State) : Host.Outcome State Fault Refusal :=
  .next (chanStep s core pkt fun _ c => { core := takeCloseAck c pkt })

/-- A closed queue has drained: CLOSE_ACK frees it, or CLOSE is sent (R299). -/
def drainDone (v : Env) (c : Core) (q : Nat) : Eff :=
  let e := qEnt c q
  if qPending c q ≠ 0 then { core := c }
  else if c.q.draining.contains (q, true) then
    { core := setQState { c with q := { c.q with draining := c.q.draining.erase (q, true) } } q 0
      out := [chanPkt v c (qPdev e) (qPcore e) 0x13 (qPchan e) (qCgen c q) 0] }
  else if c.q.draining.contains (q, false) then
    { core := { c with q := { c.q with draining := c.q.draining.erase (q, false) } }
      out := [chanPkt v c (qPdev e) (qPcore e) 0x12 (qPchan e) (qCgen c q) 0] }
  else { core := c }

/-- CLOSE_DRAIN_DONE (R299). -/
def execCloseDrainDone (core q : Nat) (s : State) : Host.Outcome State Fault Refusal :=
  .next (applyEff s core (drainDone (envOf s core) (getCore s core) q))

/-! ### START, STOP and reset (R288, R296, R314) -/

/-- The peer's REQ queue and the contributor list written for a declared channel whose peer is core `b` of this device
(R296). -/
def declarePeer (dev a n : Nat) (r : BitVec 128) (rq : BitVec 128) (rqcgen : Nat) (b : Core) : Core :=
  let q := chPqueue r
  let e := qEnt b q
  if chKind r = 0 then
    let e1 := BitVec.ofNat 128 (e.toNat / 2 ^ 59 * 2 ^ 59 + dev * 2 ^ 50 + a * 2 ^ 40 + n * 2 ^ 32 + chRqueue r * 2 ^ 24 +
      rqcgen * 2 ^ 16 + (qWinLen rq / 64 - 1) * 2 ^ 4)
    openQueue { b with q := { b.q with table := nset 0 b.q.table q e1 } } q 1
  else b

/-- One declared channel of core `a` opened at START: both ends on this device are written, with new generations
(R296, R314). The far end on another device is its own loader's (assumption 22). -/
def openDeclared (dev : Nat) (s : State) (a n : Nat) (r : BitVec 128) : State :=
  let c := getCore s a
  let q := chRqueue r
  let c1 :=
    if chKind r = 0 then
      let e := setFld (setFld (qEnt c q) 58 50 (chPdev r)) 49 40 (chPcore r)
      openQueue { c with q := { c.q with table := nset 0 c.q.table q e } } q 1
    else c
  let s1 := setCore s a c1
  let s2 := if chPdev r = dev ∧ chKind r ≠ 2 then
      modCore s1 (chPcore r) (declarePeer dev a n r (qEnt c1 q) (qCgen c1 q)) else s1
  let peer := getCore s2 (chPcore r)
  let cgen := if chKind r = 2 then 0 else if chPdev r = dev then qCgen peer (chPqueue r) else (chPcgen r + 1) % 256
  let win := if chPdev r = dev ∧ chKind r = 0 then qWinLen (qEnt peer (chPqueue r)) / 64 - 1 else fld r 92 81
  let k := match chKind r with
    | 0 => min (if chPdev r = dev then qSlots (qEnt peer (chPqueue r)) else chCredits r) (qSlots (qEnt c1 q))
    | 1 => 2
    | _ => 0
  let r1 := withCredits (withState (setFld (setFld (setFld (setFld r 100 93 cgen) 92 81 win) 59 46 0) 45 45 0) 2) k
  modCore s2 a fun c => setChan c n r1 none 1 0

/-- The queues of a core at START: CONT, TALLY and INBOX queues are OPEN, and the declared contributor lists are in place
(R288, R307, R314). A tally takes a new generation with its channels. -/
def startQueues (c : Core) : Core :=
  c.q.table.foldl (fun c0 p =>
    let q := p.1
    let e := p.2
    let c := syncKind c0 q
    if !qValid e then c
    else match qKind e with
      | 0 => openQueue c q 0
      | 4 => openQueue c q 0
      | 3 =>
          let l := nget [] c.q.lists q
          let c1 := clearRound (clearRound (openQueue c q 1) q 0) q 1
          l.zipIdx.foldl (fun c x => ldmSet c (tallyList e + 4 * x.2) 4 x.1.toNat)
            { c1 with q := { c1.q with listed := nset 0 c1.q.listed q l.length } }
      | _ => c) c

/-- The queues and channels of a shard at START (R296, R314); a status word that changes wakes a handler that waits for it
(spec/08_handler_unit.md R276). -/
def startShardQueues (s : State) (ctx : Nat) : State :=
  let s1 := modShardCores s ctx fun _ c => startQueues c
  let s2 := (shardCores s1 ctx).foldl (fun s a =>
    (getCore s a).q.declared.foldl (fun s p => openDeclared (devNo s) s a p.1 p.2) s) s1
  modShardCores s2 ctx fun _ c => wakeWord c

/-- The queues of a core after a context reset: the messages, tallies, lists and run-time channels are gone and the status
region is clear; the carving stands, and so do the generations from which the next START goes on (R314). -/
def resetQueues (c : Core) : Core :=
  let c1 := { c with q := { c.q with
    msgs := [], counts := [], listed := [], draining := [], release := [], chans := [] } }
  { c1 with ldm := c1.ldm.filter fun p => !(0x2B000 ≤ p.1 && p.1 < 0x2C000) }

/-! ### Host messages (R305) -/

/-- The QUEUE_SEND that waits for an answer under the same transaction index. -/
def txnBusy (s : State) (h : Nat) : Bool := (sendCmd s (h % 256)).isSome

/-- The packet that the router lands for QUEUE_SEND, with the MID of the master that submitted it (R305;
spec/01_device_organisation.md R39). -/
def hostMsg (s : State) (f : Fetched) : Packet :=
  let m := f.manifest
  let len := fld m 143 134
  let fl := bytesFlits ((linesBytes f.bales).take len)
  let mid := match f.origin with | .sdio => 1 | _ => 0
  mkPkt 4 2 (devNo s) (mTcore m) 0 0 (msgSrc false (devNo s) 0 (f.handle % 256)) (mTobj m % 256 * 2 ^ 8) (mCtx m)
    (genOf s (mCtx m)) (mw m 0 % 64) (if len = 0 then mw m 1 else len * 2 ^ 10) 4 mid fl

/-- QUEUE_SEND (R305). It waits while its transaction index is in use. In a STOPPED shard it completes with PEER_CLOSED
(spec/14_contexts_recovery.md R433), also where the queue it names is not one that takes it (assumption 70). -/
def execQueueSend (h : Nat) (s : State) : Host.Outcome State Fault Refusal :=
  if txnBusy s h then .next s
  else .next (withCmd s h 0x20 fun s f =>
    let p := hostMsg s f
    if (getShard s (mCtx f.manifest)).state = .stopped ∧ !kindOk (qEnt (getCore s (dcore p)) (mQueue p)) p then
      complete s h stPeerClosed
    else hubSend (begun s h) p)

end Sys2Proof.Machine
end

