-- ==== Sys2Proof/Machine/Neuron.lean ====
section
/-! DEFINITION. The neuron update: decay, evaluation, sweep and requantisation (spec/03_neuron_model.md). -/

namespace Sys2Proof.Machine

/-! ### State words and group parameters (R83, R87, R199) -/

/-- What a slot that is not listed holds: 0, and LAST 0xFF once a START has run (R84). -/
def wordDef (c : Core) : BitVec 64 := if c.nrn.started then 0xFF000000 else 0

/-- State word of slot `n` (R82). -/
def wordOf (c : Core) (n : Nat) : BitVec 64 := nget (wordDef c) c.nrn.words n
/-- A core with the state word of a slot written. -/
def setWord (c : Core) (n : Nat) (w : BitVec 64) : Core := { c with nrn := { c.nrn with words := nset (wordDef c) c.nrn.words n w } }
/-- The bits of a parameter set that hold fields; the others are reserved and read 0 (R87; spec/06_learning.md R199). -/
def groupRw : BitVec 1024 := BitVec.ofNat 1024
  (0xFFFFFCFFFFFFFFFF + 0xF0000000 * 2 ^ 64 + 0xFFFFFFF8 * 2 ^ 128 + 0xFC000000 * 2 ^ 160)
/-- The parameter set of a group as it was written, reserved bits and all: what the loader's checks see (R88). -/
def groupRaw (c : Core) (g : Nat) : BitVec 1024 := nget 0 c.nrn.groups g
/-- The parameter set of a group. -/
def groupSet (c : Core) (g : Nat) : BitVec 1024 := groupRaw c g &&& groupRw

/-- GROUP. -/
def wGroup (w : BitVec 64) : Nat := fld w 45 40
/-- LAST. -/
def wLast (w : BitVec 64) : Nat := fld w 31 24
/-- ELIG. -/
def wElig (w : BitVec 64) : Nat := fld w 23 20
/-- YTRACE. -/
def wYtrace (w : BitVec 64) : Nat := fld w 19 16
/-- REFR. -/
def wRefr (w : BitVec 64) : Nat := fld w 15 12
/-- ADAPT. -/
def wAdapt (w : BitVec 64) : Nat := fld w 11 8
/-- THOFS. -/
def wThofs (w : BitVec 64) : Nat := fld w 7 4
/-- The membrane code: VCODE, with VEXT as its high nibble in a double-nibble group. -/
def wCode (dnib : Bool) (w : BitVec 64) : Nat := if dnib then fld w 35 32 * 16 + fld w 3 0 else fld w 3 0

/-- MSCALE. -/
def gMscale (g : BitVec 1024) : Nat := fld g 31 24
/-- MZERO. -/
def gMzero (g : BitVec 1024) : Nat := fld g 23 20
/-- LEAK. -/
def gLeak (g : BitVec 1024) : Nat := fld g 19 16
/-- TSCALE. -/
def gTscale (g : BitVec 1024) : Nat := fld g 15 8
/-- TZERO. -/
def gTzero (g : BitVec 1024) : Nat := fld g 7 4
/-- THBASE. -/
def gThbase (g : BitVec 1024) : Nat := fld g 3 0
/-- THADAPT. -/
def gThadapt (g : BitVec 1024) : Nat := fld g 63 60
/-- AINC. -/
def gAinc (g : BitVec 1024) : Nat := fld g 59 56
/-- ADECAY. -/
def gAdecay (g : BitVec 1024) : Nat := fld g 55 52
/-- REFLEN. -/
def gReflen (g : BitVec 1024) : Nat := fld g 51 48
/-- RESET: 0 ZERO, 1 SUBTRACT, 2 HOLD. -/
def gReset (g : BitVec 1024) : Nat := fld g 47 46
/-- GRADED. -/
def gGraded (g : BitVec 1024) : Bool := bit g 45
/-- ALWAYS. -/
def gAlways (g : BitVec 1024) : Bool := bit g 44
/-- DNIB. -/
def gDnib (g : BitVec 1024) : Bool := bit g 43
/-- LRN_EN. -/
def gLrnEn (g : BitVec 1024) : Bool := bit g 42
/-- BIAS. -/
def gBias (g : BitVec 1024) : Nat := fld g 39 36
/-- RULE. -/
def gRule (g : BitVec 1024) : Nat := fld g 35 32
/-- YINC. -/
def gYinc (g : BitVec 1024) : Nat := fld g 95 92
/-- YMODE. -/
def gYmode (g : BitVec 1024) : Nat := fld g 159 158
/-- YSHIFT. -/
def gYshift (g : BitVec 1024) : Nat := fld g 157 154
/-- EMODE. -/
def gEmode (g : BitVec 1024) : Nat := fld g 153 152
/-- ESHIFT. -/
def gEshift (g : BitVec 1024) : Nat := fld g 151 148
/-- XMODE. -/
def gXmode (g : BitVec 1024) : Nat := fld g 147 146
/-- XSHIFT. -/
def gXshift (g : BitVec 1024) : Nat := fld g 145 142
/-- XINC. -/
def gXinc (g : BitVec 1024) : Nat := fld g 141 138
/-- EINC. -/
def gEinc (g : BitVec 1024) : Nat := fld g 137 134
/-- ESRC. -/
def gEsrc (g : BitVec 1024) : Nat := fld g 133 132
/-- COMMIT: true is EAGER. -/
def gEager (g : BitVec 1024) : Bool := bit g 131
/-- CREATE. -/
def gCreate (g : BitVec 1024) : Nat := fld g 191 188
/-- PRUNE_N. -/
def gPruneN (g : BitVec 1024) : Nat := fld g 187 186

/-- The parameter set of a slot's group. -/
def groupAt (c : Core) (n : Nat) : BitVec 1024 := groupSet c (wGroup (wordOf c n))

/-- Whether a slot is the companion of a double-nibble pair (R86): told by the GROUP of the odd slot itself. An odd slot whose own
GROUP names no double-nibble group is a plain neuron, even when the even slot below it is in one: DESIGN CHOICE (88). -/
def companion (c : Core) (n : Nat) : Bool := n % 2 == 1 && gDnib (groupAt c n)

/-! ### Decay (R90, R93-R96, R201) -/

/-- The membrane's format (R90). -/
def memFmt (g : BitVec 1024) : Fmt := if gDnib g then .q8 else .q4

/-- The membrane in A units (R90). -/
def membrane (g : BitVec 1024) (w : BitVec 64) : Int := dequant (memFmt g) (gMscale g) (gMzero g) (wCode (gDnib g) w)

/-- The decay table F(k, Δ): 2^16 × (1 - 2^-k)^Δ to the nearest integer, ties upward (R94). -/
def decayF (k d : Nat) : Nat := ((2 ^ k - 1) ^ d * 2 ^ 17 + 2 ^ (k * d)) / 2 ^ (k * d + 1)

/-- The decayed membrane (R94). -/
def decay (v : Int) (k d : Nat) : Int :=
  if k = 0 ∨ d = 0 then v else v.sign * (v.natAbs * decayF k d / 2 ^ 16 : Nat)

/-- The counts that a step-multiple decay removes over the last `d` steps before and including `s` (R95, R201). Step numbers
wrap, so `s - d` is taken modulo 2 to the 32 and the multiples passed are counted exactly. -/
def multiples (k : Nat) (s : Word) (d : Nat) : Nat := (d + (2 ^ k - 1 - s.toNat % 2 ^ k)) / 2 ^ k

/-- ADAPT counts lost (R95). -/
def decrements (a : Nat) (s : Word) (d : Nat) : Nat := if a = 15 then 0 else multiples a s d

/-- Δ of R93. -/
def deltaOf (w : BitVec 64) (s : Word) : Nat := (s.toNat % 256 + 256 - wLast w) % 256

/-- A trace decayed over `d` missed steps, with the draw of the multiplicative mode (R201). -/
def trdecay (x mode k : Nat) (s : Word) (d : Nat) (l : Word) : Nat × Word :=
  if mode = 0 ∨ d = 0 then (x, l)
  else if mode = 1 then (x - multiples k s d, l)
  else
    let v := x * decayF k d
    let (u, l1) := draw l
    (if u < v % 2 ^ 16 then v / 2 ^ 16 + 1 else v / 2 ^ 16, l1)

/-- A state word with YTRACE, then ELIG, decayed (R96, R202). -/
def decayTraces (g : BitVec 1024) (w : BitVec 64) (s : Word) (d : Nat) (l : Word) : BitVec 64 × Word :=
  let (y, l1) := trdecay (wYtrace w) (gYmode g) (gYshift g) s d l
  let (e, l2) := trdecay (wElig w) (gEmode g) (gEshift g) s d l1
  (setFld (setFld w 19 16 y) 23 20 e, l2)

/-! ### Requantisation of a membrane (R72, R73, R101) -/

/-- A value requantised into the membrane of a slot: code, both flags, and the group's counters (R73). -/
def requantWord (c : Core) (n : Nat) (x : Int) : Core :=
  let w := wordOf c n
  let g := groupSet c (wGroup w)
  let (r, l) := requant (memFmt g) (gMscale g) (gMzero g) x c.nrn.lfsr
  let w1 := if gDnib g then setFld (setFld w 3 0 (r.code % 16)) 35 32 (r.code / 16) else setFld w 3 0 r.code
  let w2 := setFld (setFld w1 39 39 (b1 r.satHi)) 38 38 (b1 r.satLo)
  let c1 := setWord { c with nrn := { c.nrn with lfsr := l } } n w2
  let c2 := if r.satHi then cntHi c1 (0x800 + 4 * wGroup w) 1 else c1
  if r.satLo then cntLo c2 (0x800 + 4 * wGroup w) 1 else c2

/-! ### Evaluation (R98, R102-R105, R203) -/

/-- The threshold with the decayed ADAPT (R90). -/
def threshold (g : BitVec 1024) (w : BitVec 64) (adapt : Nat) : Int :=
  scUnit (gTscale g) * ((gThbase g : Int) + wThofs w - gTzero g + gThadapt g * adapt)

/-- The bias (R90). -/
def biasOf (g : BitVec 1024) : Int := ((gBias g : Int) - 8) * (memFmt g).spacing (gMscale g)

/-- The highest membrane level strictly below θ, or the top level (R98). -/
def levelBelow (g : BitVec 1024) (theta : Int) : Int :=
  let f := memFmt g
  let d : Int := f.spacing (gMscale g)
  let l0 := f.low (gMscale g) (gMzero g)
  l0 + d * min (-((-(theta - l0)) / d) - 1) (f.levels - 1 : Nat)

/-- What an evaluation decides: the multiplicity of the event (0 for none), the residual, and the overdrive clamp. -/
structure Firing where
  k       : Nat
  res     : Int
  surplus : Bool
  deriving DecidableEq, Repr

/-- The comparison, the multiplicity and the residual of a neuron that may fire when `rem` is 0 (R98, R102). -/
def fireOf (g : BitVec 1024) (rem : Nat) (vw theta : Int) : Firing :=
  if rem = 0 ∧ vw ≥ theta then
    let k := if gGraded g ∧ gReset g ≠ 2 then (min (vw / theta) 4).toNat else 1
    if gReset g = 0 then { k := k, res := 0, surplus := false }
    else if gReset g = 2 then { k := k, res := vw, surplus := false }
    else
      let r := vw - k * theta
      if r ≥ theta then { k := k, res := levelBelow g theta, surplus := true } else { k := k, res := r, surplus := false }
  else { k := 0, res := vw, surplus := false }

/-- ELIG raised by its source condition (R203). -/
def eligAfter (g : BitVec 1024) (e : Nat) (fired learned : Bool) : Nat :=
  if (match gEsrc g with | 0 => fired | 1 => learned | 2 => fired && learned | _ => false) then min 15 (e + gEinc g) else e

/-- The evaluation of a touched slot in FIRE of `s`: the core after, and the multiplicity of its event (R98). -/
def evaluate (c : Core) (n : Nat) (s : Word) : Core × Nat :=
  let w := wordOf c n
  let g := groupSet c (wGroup w)
  let d := deltaOf w s
  let v := decay (membrane g w) (gLeak g) d
  let adapt := wAdapt w - decrements (gAdecay g) s d
  let rem := wRefr w - min (wRefr w) (d - 1)
  let (w1, l) := decayTraces g w s d c.nrn.lfsr
  let f := fireOf g rem (v + accOf c n + biasOf g) (threshold g w adapt)
  let fired := f.k != 0
  let w2 := setFld (setFld w1 15 12 (if fired then gReflen g else rem - 1)) 11 8 (if fired then min 15 (adapt + gAinc g) else adapt)
  let w3 := setFld w2 19 16 (if fired then min 15 (wYtrace w1 + gYinc g) else wYtrace w1)
  let w4 := setFld w3 23 20 (eligAfter g (wElig w1) fired (c.nrn.learnedIn.contains n))
  let w5 := setFld (setFld (setFld w4 36 36 (b1 f.surplus)) 37 37 (b1 (c.nrn.folded.contains n))) 31 24 (s.toNat % 256)
  let c1 := setWord c n w5
  let x := setAcc c1.nrn n (clamp24 f.res).1
  let c2 := { c1 with nrn := { x with lfsr := l, fired := if fired then ins x.fired n else x.fired } }
  let c3 := if f.surplus then cntLo c2 (0xA00 + 4 * wGroup w) 1 else c2
  (if fired then cntHi c3 (0xA00 + 4 * wGroup w) 1 else c3, f.k)

/-- The slots that FIRE evaluates: those that a term touched and those of an ALWAYS group, without companions, in ascending
order (R86, R91, R98). -/
def touchedSlots (c : Core) : List Nat :=
  if c.nrn.groups.any fun p => gAlways p.2 then
    (List.range 8192).filter fun n => !companion c n && (c.nrn.touch.contains n || gAlways (groupAt c n))
  else c.nrn.touch.filter fun n => !companion c n

/-- Some slots evaluated in order: the core after, and the slots that fired with their multiplicities. -/
def evaluateAll (s : Word) : Core → List Nat → Core × List (Nat × Nat)
  | c, [] => (c, [])
  | c, n :: ns =>
      let (c1, k) := evaluate c n s
      let (c2, fs) := evaluateAll s c1 ns
      (c2, if k = 0 then fs else (n, k) :: fs)

/-! ### Sweep and close (R97, R101) -/

/-- The refresh of one slot (R97). -/
def refresh (s : Word) (c : Core) (n : Nat) : Core :=
  let w := wordOf c n
  let g := groupSet c (wGroup w)
  let d := deltaOf w s
  let x := decay (membrane g w) (gLeak g) d
  let w1 := setFld (setFld w 11 8 (wAdapt w - decrements (gAdecay g) s d)) 15 12 (wRefr w - min (wRefr w) d)
  let (w2, l) := decayTraces g w1 s d c.nrn.lfsr
  requantWord (setWord { c with nrn := { c.nrn with lfsr := l } } n (setFld w2 31 24 (s.toNat % 256))) n x

/-- The sweep of LEARN of `s`: the slots of the slice that are neither touched nor companions (R97). -/
def sweep (c : Core) (s : Word) : Core :=
  (((List.range 64).map fun i => 64 * (s.toNat % 128) + i).filter fun n => !c.nrn.touch.contains n && !companion c n).foldl
    (refresh s) c

/-- The requantisation of the touched slots at CLOSE, with the accumulators set to 0 and the maps cleared (R101, R204). -/
def closeNeurons (c : Core) : Core :=
  let c1 := c.nrn.touch.foldl (fun c n =>
    let c1 := requantWord c n (accOf c n)
    { c1 with nrn := setAcc c1.nrn n 0 }) c
  { c1 with nrn := { c1.nrn with touch := [], fired := [], learnedIn := [], folded := [] } }

/-- A slot's membrane in A units decayed to step `s`, with no draw (spec/07_streams_ingest_readout.md R250). -/
def membraneAt (c : Core) (n : Nat) (s : Word) : Int :=
  let w := wordOf c n
  let g := groupSet c (wGroup w)
  decay (membrane g w) (gLeak g) (deltaOf w s)

end Sys2Proof.Machine
end

