-- ==== Sys2Proof/Machine/Learning.lean ====
section
/-! DEFINITION. On-chip learning: traces, rules, LEARN, commit and the modulator (spec/06_learning.md R194-R221). -/

namespace Sys2Proof.Machine

/-! ### Sidecar and queues (R196, R197) -/

/-- The sidecar entry of a descriptor. -/
def sideOf (c : Core) (i : Nat) : BitVec 16 := BitVec.ofNat 16 (ldmGet c (sideAddr i) 2)
/-- A core with the sidecar entry of a descriptor written. -/
def setSide (c : Core) (i : Nat) (q : BitVec 16) : Core := ldmSet c (sideAddr i) 2 q.toNat
/-- XLAST. -/
def qXlast (q : BitVec 16) : Nat := fld q 15 8
/-- HITS. -/
def qHits (q : BitVec 16) : Nat := fld q 7 4
/-- ZDIRTY. -/
def qZdirty (q : BitVec 16) : Bool := bit q 3
/-- DONE. -/
def qDone (q : BitVec 16) : Bool := bit q 2
/-- QUEUED. -/
def qQueued (q : BitVec 16) : Bool := bit q 1

/-- A core with one flag of a sidecar entry written. -/
def sideFlag (c : Core) (i b : Nat) (x : Bool) : Core := setSide c i (setFld (sideOf c i) b b (b1 x))

/-- The backlog entry at the head of its queue. -/
def backFront (c : Core) : Nat := ldmGet c (0x3E100 + 2 * (c.lrn.backHead % 256)) 2 % 4096
/-- The eager entry at the head of its queue. -/
def eagerFront (c : Core) : Nat := ldmGet c (0x3E300 + 2 * (c.lrn.eagerHead % 256)) 2 % 4096

/-- The backlog without its head. -/
def backPop (c : Core) : Core :=
  { c with lrn := { c.lrn with backHead := (c.lrn.backHead + 1) % 256, backLen := c.lrn.backLen - 1 } }

/-- A row appended to the backlog with QUEUED set, counted in BACKLOG; on a full queue LDROP counts instead (R211). -/
def backPush (c : Core) (i : Nat) : Core :=
  if c.lrn.backLen ≥ 256 then cntLo c 0xD00 1
  else
    let c1 := ldmSet c (0x3E100 + 2 * ((c.lrn.backHead + c.lrn.backLen) % 256)) 2 i
    cntHi (sideFlag { c1 with lrn := { c1.lrn with backLen := c1.lrn.backLen + 1 } } i 1 true) 0xD00 1

/-- A row appended to the eager queue with the hit of its visit; on a full queue LDROP counts instead (R211, R217). -/
def eagerPush (c : Core) (i : Nat) (hit : Bool) : Core :=
  if c.lrn.eagerLen ≥ 256 then cntLo c 0xD00 1
  else
    let c1 := ldmSet c (0x3E300 + 2 * ((c.lrn.eagerHead + c.lrn.eagerLen) % 256)) 2 i
    sideFlag { c1 with lrn := { c1.lrn with
      eagerLen := c1.lrn.eagerLen + 1, eagerHits := c1.lrn.eagerHits ++ [(i, hit)] } } i 1 true

/-! ### Learned rows (R194, R206, R210) -/

/-- The learned descriptors in ascending DIDX. -/
def learnedList (c : Core) : List Nat := (c.syn.index.filter fun p => dLrn p.2 && dFmt p.2 != 7).map Prod.fst

/-- The parameter set of a row's learning group (R194). -/
def learnGroup (c : Core) (d : BitVec 128) : BitVec 1024 := groupAt c (dTbase d)

/-- Whether a descriptor learns (R194). -/
def learns (c : Core) (d : BitVec 128) : Bool := dLrn d && dFmt d != 7 && !dRelay d && gLrnEn (learnGroup c d)

/-- visit(d, s): XTRACE brought up to `s`, HITS added and cleared; the hit of the visit (R206). -/
def visit (c : Core) (i : Nat) (s : Word) : Core × Bool :=
  let d := descOf c i
  let g := learnGroup c d
  let q := sideOf c i
  let (x, l) := trdecay (dXtrace d) (gXmode g) (gXshift g) s ((s.toNat % 256 + 256 - qXlast q) % 256) c.nrn.lfsr
  let c1 := setDesc { c with nrn := { c.nrn with lfsr := l } } i (setFld d 68 65 (min 15 (x + gXinc g * qHits q)))
  (setSide c1 i (setFld (setFld q 15 8 (s.toNat % 256)) 7 4 0), qHits q != 0)

/-- Whether some slot of the row's target range fired (R210). -/
def firedInRange (c : Core) (d : BitVec 128) : Bool :=
  let top := dTbase d + (if dFmt d = 4 then 4095 else dLen d) * dStep d
  c.nrn.fired.any fun n => dTbase d ≤ n && n ≤ top

/-- Whether the pass visits a learned descriptor: it has hits, lies in the slice, or some slot of its learning group fired
(R210). -/
def visits (c : Core) (i : Nat) (s : Word) : Bool :=
  qHits (sideOf c i) != 0 || i / 32 == s.toNat % 128 ||
    c.nrn.fired.any fun n => wGroup (wordOf c n) == wGroup (wordOf c (dTbase (descOf c i)))

/-! ### Rules (R208, R209, R219) -/

/-- The rule slot that a group names. -/
def ruleOf (c : Core) (g : BitVec 1024) : BitVec 128 := BitVec.ofNat 128 (ldmGet c (0x3E000 + 16 * gRule g) 16)

/-- The current modulator (R207). -/
def modCur (c : Core) : Int := signed 4 (ldmGet c 0x3E504 4 % 16)

/-- The values of the factors for one element: XTRACE, YTRACE, ELIG, W, CONST and MOD (R208). -/
structure Factors where
  x : Nat
  y : Nat
  e : Nat
  w : Int
  k : Nat
  m : Int
  deriving DecidableEq, Repr

/-- A factor by its code; the reserved code is a free value (R208). -/
def factorOf (f : Factors) (code : Nat) : Int :=
  match code with
  | 0 => 1
  | 1 => f.x
  | 2 => f.y
  | 3 => f.e
  | 4 => f.w
  | 5 => f.k
  | 6 => f.m
  | _ => (Config.reservedFactor code).toInt

/-- What a term adds: COEF × FA × FB × FC when its gate permits (R208, R209). -/
def termSum (f : Factors) (hit fired : Bool) (t : Nat) : Int :=
  if (t / 2 ^ 10 % 2 = 1 ∧ !hit) ∨ (t / 2 ^ 11 % 2 = 1 ∧ !fired) then 0
  else signed 4 (t / 2 ^ 12 % 16) * factorOf f (t / 2 ^ 7 % 8) * factorOf f (t / 2 ^ 4 % 8) * factorOf f (t / 2 % 8)

/-- The sum of a rule's four terms (R209). -/
def ruleSum (r : BitVec 128) (f : Factors) (hit fired : Bool) : Int :=
  ([fld r 79 64, fld r 95 80, fld r 111 96, fld r 127 112].map (termSum f hit fired)).sum

/-- The change y: the sum divided by 2^SHIFT, rounded stochastically with the draw `u` (R209). -/
def ruleChange (r : BitVec 128) (sum : Int) (u : Nat) : Int :=
  let p : Int := 2 ^ fld r 7 4
  let y := sum / p
  if (u : Int) * p < (sum - y * p) * 2 ^ 16 then y + 1 else y

/-- A row at work: the core for its counters and traces, the row's lines, the LFSR that is drawn from, and ZDIRTY. -/
structure RowWork where
  core   : Core
  lines  : List Line
  lfsr   : Word
  zdirty : Bool
  deriving DecidableEq, Repr

/-- The target slot of element `n` of a row (R168, R169). -/
def elemTarget (d : BitVec 128) (ls : List Line) (n : Nat) : Nat :=
  if dFmt d = 4 then dTbase d + s4Entry ls n / 16 * dStep d else dTbase d + n * dStep d

/-- The code of element `n` of a row. -/
def elemCode (d : BitVec 128) (ls : List Line) (n : Nat) : Nat :=
  if dFmt d = 4 then s4Entry ls n % 16 else lineElem (rowFmt d) (ls.getD (n / perLine d) 0) (n % perLine d)

/-- The lines of a row with the code of element `n` replaced. -/
def setElem (d : BitVec 128) (ls : List Line) (n code : Nat) : List Line :=
  if dFmt d = 4 then ls.modify (n / 32) fun l => setFld l (16 * (n % 32) + 3) (16 * (n % 32)) code
  else ls.modify (n / perLine d) fun l => setLineElem (rowFmt d) l (n % perLine d) code

/-- The lines of an S4 row with the mask bit of entry `n` written (R169). -/
def setMask (d : BitVec 128) (ls : List Line) (n : Nat) (dormant : Bool) : List Line :=
  ls.modify (cdiv (dLen d + 1) 32 + n / 512) fun l => setFld l (n % 512) (n % 512) (b1 dormant)

/-- The factor W of an active element: q - z, or t, with 0 for the reserved T2 code (R208). -/
def weightFactor (d : BitVec 128) (code : Nat) : Int := (rowFmt d).factor (dZero d) code

/-- create(d, n, y) for a dormant entry (R219). A created entry at the zero point has entered it (R197). -/
def createEntry (d : BitVec 128) (g : BitVec 1024) (w : RowWork) (n : Nat) (y : Int) : RowWork :=
  if gCreate g = 0 ∨ y = 0 then w
  else
    let acc := min 15 (elemCode d w.lines n + y.natAbs)
    if acc ≥ gCreate g then
      let code := (clampTo 0 15 (dZero d + y.sign)).toNat
      { w with
        core := cntHi w.core 0xD04 1
        lines := setElem d (setMask d w.lines n false) n code
        zdirty := w.zdirty || code == dZero d }
    else { w with lines := setElem d w.lines n acc }

/-- The update of an active element whose change is not 0 (R209). -/
def updateElem (d : BitVec 128) (w : RowWork) (n : Nat) (y : Int) : RowWork :=
  let f := rowFmt d
  let old := elemCode d w.lines n
  let j0 := f.level old + y
  let j := (clampTo 0 (f.levels - 1 : Nat) j0).toNat
  let code := f.code j
  { w with
    core := if j0 < 0 ∨ j0 > (f.levels - 1 : Nat) then cntHi w.core 0xD08 1 else w.core
    lines := setElem d w.lines n code
    zdirty := w.zdirty || (dFmt d == 4 && (old == dZero d || code == dZero d)) }

/-- evaluate(d, s, hit) for one element, with its one draw (R209). -/
def evalElem (d : BitVec 128) (g : BitVec 1024) (hit : Bool) (w : RowWork) (n : Nat) : RowWork :=
  let r := ruleOf w.core g
  let t := elemTarget d w.lines n
  let code := elemCode d w.lines n
  let dormant := dFmt d == 4 && s4Dormant d w.lines n
  let f : Factors := {
    x := dXtrace d, y := wYtrace (wordOf w.core t), e := wElig (wordOf w.core t)
    w := if dormant then 0 else weightFactor d code, k := fld r 11 8, m := modCur w.core }
  let (u, l) := draw w.lfsr
  let y := ruleChange r (ruleSum r f hit (w.core.nrn.fired.contains t)) u
  let w1 := { w with
    lfsr := l, core := if dFmt d = 3 ∧ code = 3 then cntLo w.core 0x900 1 else w.core }
  if dormant then createEntry d g w1 n y else if y = 0 then w1 else updateElem d w1 n y

/-- A whole row evaluated (R209). -/
def evalRow (d : BitVec 128) (g : BitVec 1024) (hit : Bool) (w : RowWork) : RowWork :=
  (List.range (dLen d + 1)).foldl (evalElem d g hit) w

/-- The prune check of an S4 row: PRUNE, ZDIRTY, the entries that become dormant and PRUNED (R220). -/
def pruneRow (i : Nat) (g : BitVec 1024) (w : RowWork) : RowWork :=
  let d := descOf w.core i
  if gPruneN g = 0 then w
  else if w.zdirty || qZdirty (sideOf w.core i) then
    { w with core := sideFlag (setDesc w.core i (setFld d 1 0 0)) i 3 false, zdirty := false }
  else
    let zs := (List.range (dLen d + 1)).filter fun n => !s4Dormant d w.lines n && elemCode d w.lines n == dZero d
    if zs.isEmpty then { w with core := setDesc w.core i (setFld d 1 0 0) }
    else if dPrune d + 1 ≥ gPruneN g then
      { w with
        core := cntLo (setDesc w.core i (setFld d 1 0 0)) 0xD04 zs.length
        lines := zs.foldl (fun ls n => setElem d (setMask d ls n true) n 0) w.lines }
    else { w with core := setDesc w.core i (setFld d 1 0 (dPrune d + 1)) }

/-! ### The LEARN toll (R97, R212, R214) -/

/-- The class LEARN (spec/11_fabric_tolls.md R356). -/
def learnClass : Nat := 2

/-- Cycles of the learning engine charged at the row-store port (R212). -/
def chargeLearn (c : Core) (n : Nat) : Core := chargePorts c learnClass 0 n

/-- Whether the LEARN toll leaves the learning engine a cycle in this window (R212). Work that has begun runs to its end and is
charged whole: DEDUCED (86). -/
def learnMay (v : Env) (c : Core) : Bool := mayTake v.mem c.ports.mem learnClass

/-- The cycles of an evaluation of a line of a row, by its format (R214). -/
def lineCost (d : BitVec 128) : Nat :=
  match dFmt d with
  | 0 => 4
  | 1 => 8
  | 2 => 16
  | 3 => 8
  | _ => 1

/-! ### LEARN (R210-R216) -/

/-- LRN_CFG.BUDGET (R228). -/
def budgetOf (c : Core) : Nat := ldmGet c 0x3E500 4 / 2 ^ 16 % 2 ^ 13

/-- The updated lines of a row in the row store, with those that changed marked pending (R215). -/
def storeRow (c : Core) (d : BitVec 128) (old new : List Line) (deferred : Bool) : Core :=
  let base := rowLine d 0
  let changed := ((old.zip new).zipIdx.filter fun p => p.1.1 != p.1.2).map fun p => base + p.2
  { c with
    syn := { c.syn with rows := nsetList 0 c.syn.rows base new }
    lrn := { c.lrn with pending := if deferred then changed.foldl ins c.lrn.pending else c.lrn.pending } }

/-- The lines of a depot row after this LEARN's work on it so far: those that an earlier item of the LEARN updated, else those
that were read. -/
def depotLines (c : Core) (i : Nat) (ls : List Line) : List Line :=
  match c.lrn.depotOut.find? fun p => p.1 == i with
  | some p => p.2
  | none => ls

/-- The work on a DEFERRED row whose lines are at hand: its evaluation with draws from the LFSR state `l`, then the prune check
when the pass has it in its slice (R209, R210, R213), charged to the LEARN toll (R214). -/
def deferredRow (c : Core) (r : LearnRow) (ls0 : List Line) : Core :=
  let d := descOf c r.didx
  let g := learnGroup c d
  let ls := if dDepot d then depotLines c r.didx ls0 else ls0
  let cost := (if r.eval then lineCost d * ls.length else 0) + (if r.prune then ls.length else 0)
  let w0 : RowWork := { core := chargeLearn c cost, lines := ls, lfsr := r.lfsr, zdirty := false }
  let w1 := if r.eval then evalRow d g r.hit w0 else w0
  let c1 := if w1.zdirty then sideFlag w1.core r.didx 3 true else w1.core
  let w2 := if r.prune then pruneRow r.didx g { w1 with core := c1, zdirty := false } else { w1 with core := c1 }
  if dDepot d then
    if w2.lines = ls then w2.core
    else { w2.core with lrn := { w2.core.lrn with
      depotOut := (w2.core.lrn.depotOut.filter fun p => p.1 != r.didx) ++ [(r.didx, w2.lines)] } }
  else storeRow w2.core d ls w2.lines true

/-- LEARN with its work changed. -/
def setWork (c : Core) (w : Option LearnWork) : Core := { c with lrn := { c.lrn with work := w } }

/-- A row that LEARN has come to: from the row store it is worked at once; from the depot it joins the rows whose lines LEARN
waits for (R216). An evaluation takes one draw for each element, so the step LFSR stands after them for what follows, and the
row keeps the state with which its own draws begin (R213). -/
def learnRow (c : Core) (w : LearnWork) (i : Nat) (hit eval prune : Bool) : Core :=
  let d := descOf c i
  let r : LearnRow := { didx := i, hit := hit, eval := eval, prune := prune, lfsr := c.nrn.lfsr }
  let c1 := if eval then { c with nrn := { c.nrn with lfsr := lfsrRun (16 * (dLen d + 1)) c.nrn.lfsr } } else c
  if !eval && !prune then setWork c (some w)
  else if dDepot d then setWork c1 (some { w with waits := w.waits ++ [r] })
  else setWork (deferredRow c1 r (rowOf c1 d 0)) (some w)

/-- The read of the newest depot row of LEARN issued, once its lines have room in the outrider buffer and no pen work of a higher
priority waits (R182, R216). -/
def issueLearned (v : Env) (c : Core) (w : LearnWork) (r : LearnRow) : Eff :=
  let d := descOf c r.didx
  match if returnWaits c || spillWaits c then none else bufRoom c (denseLines d) with
  | none => { core := c }
  | some room =>
      let tag := c.syn.nextTag
      let e := issueRead v c (.learned r.didx) (dEdge d) 4 (rowBurst v d 0) (denseLines d) 2 room
      { e with core := setWork e.core (some { w with waits := w.waits.dropLast ++ [{ r with tag := some tag }] }) }

/-- The oldest depot row of LEARN, once its lines have arrived: it is worked and its lines are free again; a row with an
uncorrectable burst is left as it is (R181, R216). None while it waits. -/
def learnArrived (c : Core) (w : LearnWork) : Option Core :=
  match w.waits with
  | [] => none
  | r :: rs =>
      match r.tag.bind fun t => c.syn.reads.find? fun x => x.tag == t with
      | none => none
      | some x =>
          if x.got.length < x.count then none
          else
            let c1 := { c with syn := { c.syn with reads := c.syn.reads.filter fun y => y.tag != x.tag } }
            let c2 := if x.bad then c1 else deferredRow c1 r (bufGet c x.room)
            some (setWork c2 (some { w with waits := rs }))

/-- Whether the pass applies the prune check to a descriptor (R210, R220). -/
def prunes (c : Core) (i : Nat) (s : Word) : Bool :=
  dFmt (descOf c i) == 4 && i / 32 == s.toNat % 128 && gPruneN (learnGroup c (descOf c i)) != 0

/-- The backlog's head (R210 item 1). -/
def backlogItem (c : Core) (w : LearnWork) (s : Word) : Core :=
  let i := backFront c
  let d := descOf c i
  if !qQueued (sideOf c i) || !learns c d then setWork (backPop c) (some w)
  else if denseLines d > w.budget then setWork (chargeLearn c 128) (some { w with stop := true, pass := true })
  else
    let (c1, hit) := visit (backPop c) i s
    let c2 := sideFlag (sideFlag c1 i 1 false) i 2 true
    learnRow c2 { w with budget := w.budget - denseLines d } i hit true false

/-- One learned descriptor of the pass (R210 items 2 to 4). -/
def passItem (c : Core) (w : LearnWork) (s : Word) (i : Nat) : Core :=
  let d := descOf c i
  let w1 := { w with next := i + 1 }
  if !learns c d then setWork (sideFlag c i 2 false) (some w1)
  else if !visits c i s then setWork (sideFlag c i 2 false) (some w1)
  else
    let (c1, hit) := visit c i s
    let d1 := descOf c1 i
    let g := learnGroup c1 d1
    let q := sideOf c1 i
    let warm := dXtrace d1 != 0 && (hit || firedInRange c1 d1)
    let c2 := sideFlag c1 i 2 false
    if warm && gEager g && !qQueued q then
      learnRow (eagerPush c2 i hit) w1 i hit false (prunes c i s)
    else if warm && !gEager g && !qDone q && !qQueued q then
      if !w.stop && denseLines d1 ≤ w.budget then
        learnRow c2 { w1 with budget := w.budget - denseLines d1 } i hit true (prunes c i s)
      else learnRow (backPush c2 i) { w1 with stop := w.stop || c2.lrn.backLen < 256 } i hit false (prunes c i s)
    else learnRow c2 w1 i hit false (prunes c i s)

/-- The next item of LEARN for which no depot row stands in the way: the sweep slice with its 21 cycles, the backlog, the pass
with its scan of 128 cycles, and the end once no row is awaited (R97, R111, R210, R214). -/
def learnItem (c : Core) (w : LearnWork) (s : Word) : Core :=
  if !w.swept then
    let c1 := chargeLearn (sweep c s) 21
    setWork c1 (if (learnedList c1).isEmpty then none else some { w with swept := true })
  else if !w.pass then
    if c.lrn.backLen = 0 then setWork (chargeLearn c 128) (some { w with pass := true }) else backlogItem c w s
  else match (learnedList c).find? fun i => w.next ≤ i with
    | none => if w.waits.isEmpty then setWork c none else c
    | some i => passItem c w s i

/-- The work of LEARN until it ends, waits for lines or room in the outrider buffer, or has no LEARN slots left in the toll
window, in which case it goes on in the next (R97, R210, R212, R216); `n` bounds the items. -/
def learnGo (v : Env) (s : Word) : Nat → Eff → Eff
  | 0, e => e
  | n + 1, e =>
      match e.core.lrn.work with
      | none => e
      | some w =>
          match learnArrived e.core w with
          | some c => if learnMay v e.core then learnGo v s n { e with core := c } else { e with core := holdMem e.core }
          | none =>
              match w.waits.getLast? with
              | some { didx := i, hit := h, eval := x, prune := p, lfsr := l, tag := none } =>
                  let f := issueLearned v e.core w { didx := i, hit := h, eval := x, prune := p, lfsr := l, tag := none }
                  if f.out = [] then e else learnGo v s n { core := f.core, out := e.out ++ f.out }
              | _ =>
                  let c1 := learnItem e.core w s
                  if c1 = e.core then e
                  else if learnMay v e.core then learnGo v s n { e with core := c1 }
                  else { e with core := holdMem e.core }

/-- A bound on the items of one LEARN: each learned row may be visited, asked for and worked. -/
def learnFuel (c : Core) : Nat := 520 + 3 * (c.lrn.backLen + (learnedList c).length)

/-- LEARN of `s` begins: the sweep slice, then the rule work (R97, R210). -/
def learnBegin (v : Env) (c : Core) (s : Word) : Eff :=
  learnGo v s (learnFuel c) { core := setWork { c with st := { c.st with phase := .learn } } (some { budget := budgetOf c }) }

/-- LEARN goes on: after depot data has arrived, or in a new toll window (R212, R216). -/
def learnResume (v : Env) (c : Core) : Eff := learnGo v c.st.step (learnFuel c) { core := c }

/-- Outrider work of a core, after which LEARN goes on where the work made way for a learned read (R182, R216). -/
def outriderWork (s : State) (core : Nat) (f : Env → Core → Eff) : State :=
  let v := envOf s core
  let e := f v (getCore s core)
  let g := learnResume v e.core
  applyEff s core { core := g.core, out := e.out ++ g.out }

/-- OUTRIDER_PREFETCH (R183). -/
def execOutriderPrefetch (core : Nat) (s : State) : Host.Outcome State Fault Refusal := .next (outriderWork s core prefetch)

/-- PEN_SPILL_WRITE (R188). -/
def execPenSpillWrite (core : Nat) (s : State) : Host.Outcome State Fault Refusal := .next (outriderWork s core spillLine)

/-- PEN_RETURN (R189). -/
def execPenReturn (core : Nat) (s : State) : Host.Outcome State Fault Refusal := .next (outriderWork s core penReturn)

/-- DDATA: depot data returns to the outrider of a core (R181), and LEARN goes on when it waited for it (R216). -/
def execDdata (core : Nat) (pkt : Packet) (s : State) : Host.Outcome State Fault Refusal :=
  .next (fromPort s core pkt fun s1 =>
    let c := getCore s1 core
    if c.bound ∧ c.ctx = pctx pkt ∧ c.gen.toNat = pgen pkt then
      let v := envOf s1 core
      let e := takeData v c pkt (badOf pkt)
      let f := learnResume v e.core
      applyEff s1 core { core := f.core, out := e.out ++ f.out }
    else s1)

/-! ### Commit and EAGER evaluation (R215-R218) -/

/-- The committed lines that replace the copy that a ring entry holds or awaits in the outrider buffer (R216). -/
def committedRow (c : Core) (r : RingEnt) : Option (List Nat × List Line) :=
  match r.fetch, c.lrn.depotOut.find? fun p => p.1 == rDidx r.entry with
  | .issued _ room, some p => some (room, p.2)
  | .held room, some p => some (room, p.2)
  | _, _ => none

/-- A copy of a row in the outrider buffer replaced by the committed lines (R216). -/
def freshCopy (c0 c : Core) (r : RingEnt) : Core :=
  match committedRow c0 r with
  | some (room, ls) => bufPut c room ls
  | none => c

/-- A fetch whose lines lie in the buffer, once a commit has put them there. -/
def heldOf (f : Fetch) : Fetch := match f with | .issued _ room => .held room | f => f

/-- The commit at CLOSE: pending marks clear; updated depot lines are written, and the copies that the outrider holds or
awaits are replaced (R215, R216). -/
def commitLearn (v : Env) (c : Core) : Eff :=
  let outs := c.lrn.depotOut.flatMap fun p =>
    dwriteAll v c (dEdge (descOf c p.1)) 5 (rowBurst v (descOf c p.1) 0) 2 p.2
  let cost := (if c.lrn.pending.isEmpty then 0 else 1) + (c.lrn.depotOut.map fun p => p.2.length).sum
  let c1 := c.syn.ring.foldl (freshCopy c) (chargeLearn c cost)
  { core := { c1 with
      syn := { c1.syn with ring := c1.syn.ring.map fun r => if (committedRow c r).isSome then { r with fetch := heldOf r.fetch } else r }
      lrn := { c1.lrn with pending := [], depotOut := [] } }
    out := outs }

/-- The entry at the head of the eager queue taken up; one whose QUEUED is 0, or whose row learns no more, is skipped (R198,
R217). -/
def eagerTake (c : Core) : Core :=
  let i := eagerFront c
  let hit := (c.lrn.eagerHits.headD (i, false)).2
  let c1 := { c with lrn := { c.lrn with
    eagerHead := (c.lrn.eagerHead + 1) % 256, eagerLen := c.lrn.eagerLen - 1, eagerHits := c.lrn.eagerHits.drop 1 } }
  if !qQueued (sideOf c1 i) then c1
  else
    let c2 := sideFlag c1 i 1 false
    if learns c2 (descOf c2 i) then { c2 with lrn := { c2.lrn with eagerNow := some (i, hit, 0) } } else c2

/-- The elements that one line of a row carries: an S4 entry line holds 32 (R168). -/
def lineElems (d : BitVec 128) : Nat := if dFmt d = 4 then 32 else perLine d

/-- Line `k` of an eager row evaluated and written, with the traces, the fired map and the modulator as they stand now and draws
from the learning LFSR (R217). -/
def eagerLine (c : Core) (i : Nat) (hit : Bool) (k : Nat) : Core :=
  let d := descOf c i
  if !learns c d then { c with lrn := { c.lrn with eagerNow := none } }
  else
    let ls := rowOf c d 0
    let w0 : RowWork := { core := chargeLearn c (lineCost d), lines := ls, lfsr := c.lrn.lfsr, zdirty := false }
    let ns := (List.range (lineElems d)).filterMap fun m =>
      if lineElems d * k + m ≤ dLen d then some (lineElems d * k + m) else none
    let w := ns.foldl (evalElem d (learnGroup c d) hit) w0
    let c1 := if w.zdirty then sideFlag w.core i 3 true else w.core
    let last := lineElems d * (k + 1) > dLen d
    storeRow { c1 with lrn := { c1.lrn with
      lfsr := w.lfsr, eagerNow := if last then none else some (i, hit, k + 1) } } d ls w.lines false

/-- One line of the eager queue's work: the row at work goes on, or the head of the queue is taken up. Within LEARN the LEARN work
itself has the engine; without LEARN slots in this window the work waits, and the held cycle counts (R212, R217). -/
def eagerStep (v : Env) (c : Core) : Core :=
  if c.st.phase = .learn ∨ (c.lrn.eagerNow = none ∧ c.lrn.eagerLen = 0) then c
  else if !learnMay v c then holdMem c
  else
    let c1 := if c.lrn.eagerNow = none then eagerTake c else c
    match c1.lrn.eagerNow with
    | none => c1
    | some (i, hit, k) => eagerLine c1 i hit k

/-- EAGER_EVALUATE: one line of an eager row (R217). -/
def execEagerEvaluate (core : Nat) (s : State) : Host.Outcome State Fault Refusal :=
  .next (setCore s core (eagerStep (envOf s core) (getCore s core)))

/-- Both queues, the pending marks and the work of LEARN discarded (R218). -/
def discardLearn (c : Core) : Core :=
  { c with lrn := { c.lrn with
    backHead := 0, backLen := 0, eagerHead := 0, eagerLen := 0, eagerHits := [], eagerNow := none, pending := [], work := none,
    depotOut := [] } }

/-! ### The modulator (R207, R228) -/

/-- A modulator write: NEXT and PEND, with NOW or the named step (R207). -/
def modWriteCore (c : Core) (now : Bool) (value : Nat) (step : Word) : Core :=
  let w := ldmGet c 0x3E504 4
  let c1 := ldmSet c 0x3E504 4 (w % 16 + value % 16 * 16 + b1 now * 2 ^ 8 + 2 ^ 9)
  if now then c1 else ldmSet c1 0x3E508 4 step.toNat

/-- The modulator check at the boundary before INTEGRATE of `s` (R207). -/
def modBoundary (c : Core) (s : Word) : Core :=
  let w := ldmGet c 0x3E504 4
  let now := w / 2 ^ 8 % 2 = 1
  let sm : Word := BitVec.ofNat 32 (ldmGet c 0x3E508 4)
  if w / 2 ^ 9 % 2 = 1 ∧ (now ∨ stepLe sm s) then
    let c1 := ldmSet c 0x3E504 4 (w / 2 ^ 4 % 16 + w / 2 ^ 4 % 16 * 16 + w / 2 ^ 8 % 2 * 2 ^ 8)
    if !now ∧ stepLt sm s then cntLo c1 0xD08 1 else c1
  else c

/-- MOD_DELIVER: a core sets the pending modulator value with its step or NOW (R207; spec/11_fabric_tolls.md R371). -/
def execModDeliver (core : Nat) (pkt : Packet) (s : State) : Host.Outcome State Fault Refusal :=
  .next (fromPort s core pkt fun s1 =>
    let c := getCore s1 core
    if c.bound ∧ c.ctx = pctx pkt ∧ c.gen.toNat = pgen pkt then
      setCore s1 core (modWriteCore c (bit pkt.head 52) (fld pkt.head 51 48) (BitVec.ofNat 32 (payload pkt)))
    else s1)

end Sys2Proof.Machine
end

