-- ==== Sys2Proof/Machine/StepTime.lean ====
section
/-! DEFINITION. The step engine of a core: opening conditions, phases, rearguards, credits, releases and the watchdog
(spec/04_step_time.md); readout records (spec/07_streams_ingest_readout.md R246-R250). -/

namespace Sys2Proof.Machine

/-! ### Lists (R130-R132) -/

/-- The in-list entries of a core, in order. -/
def inList (c : Core) : List Nat := (List.range c.st.inEntries.toNat).map fun i => ldmGet c (0x3F000 + 8 * i) 8
/-- The out-list entries of a core, in order. -/
def outList (c : Core) : List Nat := (List.range c.st.outEntries.toNat).map fun i => ldmGet c (0x3F800 + 8 * i) 8
/-- DDEV of a list entry. -/
def lDev (e : Nat) : Nat := e / 2 ^ 55 % 512
/-- DCORE of a list entry. -/
def lCore (e : Nat) : Nat := e / 2 ^ 45 % 1024
/-- KIND of a list entry. -/
def lKind (e : Nat) : Nat := e / 2 ^ 36 % 4
/-- STREAM of a list entry. -/
def lStream (e : Nat) : Nat := e / 2 ^ 30 % 64

/-! ### Rearguard sets (R136; spec/10_convoys.md R334) -/

/-- What a convoy's INGEST records add to IN_COUNT (spec/10_convoys.md R334). -/
def ingestDelta (m : MemberConvoy) : Int :=
  (m.records.map fun r => if fld r.header 127 120 = 0x0D then (if bit r.header 29 then (1 : Int) else -1) else 0).sum

/-- IN_COUNT for the set of step `t`: the staged count from the commit step of a convoy on, else the current one
(R136; spec/10_convoys.md R334). -/
def inCountAt (c : Core) (t : Word) : Int :=
  c.st.inCount.toNat + (c.cvy.map fun m => match m.sc with
    | some sc => if stepLe sc t then ingestDelta m else 0
    | none => 0).sum

/-- c advanced through every complete set (R136); `n` bounds the sets. A set of no source is complete once its step has
closed: DEDUCED (73). -/
def advance : Nat → Core → Core
  | 0, c => c
  | n + 1, c =>
      let t := c.st.c + 1
      let k := t.toNat % 16
      if (nget 0 c.st.rg k).toNat = inCountAt c t ∧ (inCountAt c t ≠ 0 ∨ stepLt t c.st.step) then
        advance n { c with st := { c.st with rg := nset 0 c.st.rg k 0, c := t } }
      else c

/-- Whether the rearguard set for `t` is complete: c is at least t (R118, R136). -/
def setComplete (c : Core) (t : Word) : Bool := stepLe t c.st.c

/-- A rearguard counted (R136). -/
def countRearguard (c : Core) (t : Word) : Core :=
  let k := t.toNat % 16
  advance 16 { c with st := { c.st with rg := nset 0 c.st.rg k (nget 0 c.st.rg k + 1) } }

/-! ### Opening conditions (R118, R141, R144, R147-R149) -/

/-- Whether a core holds a convoy barrier or a save barrier at or before its step (R118 condition 5; spec/06_learning.md R224;
spec/10_convoys.md R338). -/
def barred (c : Core) (s : Word) : Bool :=
  (c.cvy.any fun m => match m.barrier with | some b => stepLe b s | none => false) ||
    match c.st.saveBarrier with | some b => stepLe b s | none => false

/-- Whether a convoy is committed at or before a step and not applied (R118 condition 1). -/
def unapplied (c : Core) (s : Word) : Bool :=
  c.cvy.any fun m => match m.commit with | some sc => stepLe sc s | none => false

/-- Whether the run limit permits a step (R141). -/
def limitOk (c : Core) (s : Word) : Bool := c.st.free || stepLt s c.st.runLimit

/-- Whether a paced core holds the release for a step (R144). -/
def releaseOk (c : Core) (s : Word) : Bool := !c.st.paced || stepLe s c.st.released

/-- Whether a pen entry due at a step remains (R118 condition 6). -/
def penDue (c : Core) (s : Word) : Bool := c.syn.pen.any fun p => p.due == s

/-- Whether the policy lets a core open a step without its set: a paced FOLD or DROP context (R147). -/
def mayForce (c : Core) : Bool := c.st.paced && (c.st.overrun == 1 || c.st.overrun == 2)

/-- Whether the forcing limit still permits step `s`: s ≤ c + 8 (R149). -/
def withinLimit (c : Core) (s : Word) : Bool := stepLe s (c.st.c + 8)

/-- Whether an opening of `s` is forced (R149). -/
def forcedOpen (c : Core) (s : Word) : Bool :=
  !setComplete c (s - 1) && mayForce c && releaseOk c s && withinLimit c s

/-- Whether a core waits at the forcing limit (R149). -/
def atForceLimit (c : Core) : Bool :=
  c.st.phase == .waiting && !setComplete c (c.st.step - 1) && mayForce c && releaseOk c c.st.step && !withinLimit c c.st.step

/-- FORCE_HALT and FORCE_HALT_CNT brought up to date: the count rises once for each step that is held (R149). -/
def updHalt (c : Core) : Core :=
  if atForceLimit c then
    let c1 := { c with st := { c.st with forceHalt := true, haltStep := some c.st.step } }
    if c.st.haltStep = some c.st.step then c1 else cntHi c1 0xB08 1
  else { c with st := { c.st with forceHalt := false } }

/-- Whether every condition of R118 holds for STEP. -/
def mayOpen (c : Core) : Bool :=
  let s := c.st.step
  c.st.phase == .waiting && (setComplete c (s - 1) || forcedOpen c s) && releaseOk c s && limitOk c s && !barred c s &&
    !unapplied c s && !penDue c s

/-- INTEGRATE of STEP opens: a forced opening is counted, the modulator boundary is taken, and the bucket's entries are
integrated in the order they were placed (R118, R149, R174; spec/06_learning.md R207). -/
def openStep (v : Env) (c : Core) : Eff :=
  let s := c.st.step
  let c1 := if forcedOpen c s then cntLo c 0xB00 1 else c
  let c2 := modBoundary { c1 with st := { c1.st with phase := .integrate, forceHalt := false } } s
  let mine := c2.syn.ring.filter fun r => r.due == s
  integrateAll v s { core := { c2 with syn := { c2.syn with ring := c2.syn.ring.filter fun r => r.due != s } } } mine

/-- Whether a STATE_READ or STATE_WRITE of a core has started, or may start, and has not completed: it is served before INTEGRATE
opens (R119). -/
def stateWaits (s : State) (core : Nat) : Bool :=
  s.hif.fetched.any fun f => !f.held && mTcore f.manifest == core && mCtx f.manifest == (getCore s core).ctx &&
    ((runnable s f.handle 0x38).isSome || (runnable s f.handle 0x39).isSome)

/-- INTEGRATE_BEGIN (R118, R119). -/
def execIntegrateBegin (core : Nat) (s : State) : Host.Outcome State Fault Refusal :=
  let c := getCore s core
  if mayOpen c ∧ stateWaits s core = false then .next (applyEff s core (openStep (envOf s core) c))
  else .next (setCore s core (updHalt c))

/-- Whether INTEGRATE of STEP may end: the bucket is empty and no depot read for the step is outstanding (R117). -/
def mayEndIntegrate (c : Core) : Bool :=
  c.st.phase == .integrate && c.syn.setAside.isEmpty && c.syn.ring.all fun r => r.due != c.st.step

/-- A core with its phase changed. -/
def setPhase (c : Core) (p : Phase) : Core := { c with st := { c.st with phase := p } }

/-- INTEGRATE_END (R117). -/
def execIntegrateEnd (core : Nat) (s : State) : Host.Outcome State Fault Refusal :=
  let c := getCore s core
  if mayEndIntegrate c then .next (setCore s core (setPhase c .waitCredit)) else .next s

/-! ### Rearguards, credits, releases (R134, R136, R137, R143, R146) -/

/-- REARGUARD (R136). -/
def execRearguard (core : Nat) (pkt : Packet) (s : State) : Host.Outcome State Fault Refusal :=
  .next (stepPacket s core pkt fun _ c => { core := updHalt (countRearguard c (stepAt c.st.step (stamp pkt))) })

/-- A credit counted (R137). -/
def countCredit (c : Core) (t : Word) : Core :=
  let k := t.toNat % 16
  { c with st := { c.st with cr := nset 0 c.st.cr k (nget 0 c.st.cr k + 1) } }

/-- CREDIT (R137). -/
def execCredit (core : Nat) (pkt : Packet) (s : State) : Host.Outcome State Fault Refusal :=
  .next (stepPacket s core pkt fun _ c => { core := countCredit c (stepAt c.st.step (stamp pkt)) })

/-- Whether a core counts an overrun at step `t` on the release for it: the run limit permits `t` and another condition of R118
fails (R146). -/
def overruns (c : Core) (t : Word) : Bool :=
  limitOk c t &&
    if t = c.st.step then
      match c.st.phase with
      | .waiting => !setComplete c (t - 1) || barred c t || unapplied c t || penDue c t
      | _ => false
    else stepLt c.st.step t

/-- The steps after `a` up to `b`, in order; `n` bounds them. -/
def stepsAfter (a b : Word) : Nat → List Word
  | 0 => []
  | n + 1 => if stepLt a b then (a + 1) :: stepsAfter (a + 1) b n else []

/-- A RELEASE recorded: TILE_RELEASED, and for each newly released step an overrun with its late notice (R143, R146). A release
for a step beyond the next one releases every step between, and each of them is judged: DESIGN CHOICE (81). -/
def takeRelease (v : Env) (c : Core) (t : Word) : Eff :=
  if stepLe t c.st.released then { core := c }
  else
    let late := (stepsAfter c.st.released t (t - c.st.released).toNat).filter fun u => overruns c u
    { core := updHalt (cntHi { c with st := { c.st with released := t } } 0xB00 late.length)
      out := late.map fun u => ctrlPkt v c v.dev 0x09 0 u.toNat 0 }

/-- RELEASE: the full step of its PAYLOAD (R134, R143). -/
def execRelease (core : Nat) (pkt : Packet) (s : State) : Host.Outcome State Fault Refusal :=
  .next (stepPacket s core pkt fun v c => takeRelease v c (BitVec.ofNat 32 (payload pkt)))

/-! ### Readout records (spec/07_streams_ingest_readout.md R248-R250) -/

/-- A readout range of a core: its stream, first slot, slots and first record. -/
structure ReadRange where
  rstream : Nat
  sbase   : Nat
  count   : Nat
  first   : Nat
  deriving DecidableEq, Repr

/-- The enabled readout ranges of a core, in the order of the range map (R248). -/
def readRanges (c : Core) : List ReadRange :=
  (List.range 4).filterMap fun i =>
    let e := ldmGet c (0x3EE00 + 8 * i) 8
    if e / 2 ^ 24 % 2 = 1 then
      some { rstream := e / 2 ^ 58, sbase := e / 2 ^ 45 % 2 ^ 13, count := e / 2 ^ 35 % 2 ^ 10 + 1, first := e / 2 ^ 25 % 2 ^ 10 }
    else none

/-- The address of record `i` of the readout block (R248). -/
def recAddr (i : Nat) : Nat := 0x3E600 + 2 * (i % 1024)

/-- N of a result stream as a core knows it; 0 for a closed one. -/
def winLen (v : Env) (rs : Nat) : Nat := (nget (0, 0) v.wins rs).1
/-- DEC of a result stream as a core knows it. -/
def winDec (v : Env) (rs : Nat) : Nat := (nget (0, 0) v.wins rs).2

/-- The record of a readout slot that emits an event of multiplicity `k` in step `s` (R249). -/
def noteFire (v : Env) (s : Word) (n k : Nat) (c : Core) (r : ReadRange) : Core :=
  let len := winLen v r.rstream
  if len ≠ 0 ∧ r.sbase ≤ n ∧ n < r.sbase + r.count then
    let a := recAddr (r.first + (n - r.sbase))
    let x := ldmGet c a 2
    let f := if x % 64 = 0x3F then s.toNat % len else x % 64
    ldmSet c a 2 ((x / 64 + k) % 1024 * 64 + f)
  else c

/-- What a readout packet carries for one slot, in 64 bits: COUNT in [15:0], FIRST in [23:16] and the membrane in [63:32], each
0 where R250 does not name it for the stream's DEC. -/
def slotValue (v : Env) (c : Core) (s : Word) (r : ReadRange) (i : Nat) : BitVec 64 :=
  let x := ldmGet c (recAddr (r.first + i)) 2
  let m := wrap 32 (membraneAt c (r.sbase + i) s)
  match winDec v r.rstream with
  | 1 => BitVec.ofNat 64 (m * 2 ^ 32)
  | 3 => BitVec.ofNat 64 (m * 2 ^ 32 + x / 64)
  | _ => BitVec.ofNat 64 (x % 64 * 2 ^ 16 + x / 64)

/-- Pads a list of 64-bit values into 256-bit flits. -/
def packFlits (xs : List (BitVec 64)) : List (BitVec 256) :=
  (List.range (cdiv xs.length 4)).map fun i =>
    xs.getD (4 * i + 3) 0 ++ xs.getD (4 * i + 2) 0 ++ xs.getD (4 * i + 1) 0 ++ xs.getD (4 * i) 0

/-- The slots that one readout packet carries: four in each of its fifteen value flits (spec/11_fabric_tolls.md R346). -/
def pieceSlots : Nat := 60

/-- The readout packets of a range for the window that ends with step `s` (R250): BULK packets of kind 0, of at most 16 flits
each (spec/11_fabric_tolls.md R346). The first flit names the window j in [31:0], the core in [41:32], SBASE in [54:42], COUNT - 1
in [64:55], RSTREAM in [70:65] and the number of the packet in [75:71]; the values follow in slot order (assumption 17). -/
def readoutPkts (v : Env) (c : Core) (s : Word) (r : ReadRange) : List Packet :=
  let j := s.toNat / winLen v r.rstream
  (List.range (cdiv r.count pieceSlots)).map fun p =>
    let name : BitVec 256 := BitVec.ofNat 256
      (p * 2 ^ 71 + r.rstream * 2 ^ 65 + (r.count - 1) * 2 ^ 55 + r.sbase * 2 ^ 42 + v.me * 2 ^ 32 + j)
    let slots := ((List.range r.count).drop (pieceSlots * p)).take pieceSlots
    let fs := name :: packFlits (slots.map (slotValue v c s r))
    mkPkt 0xC 2 v.dev 0x3FF 0 0 (BitVec.ofNat 32 r.rstream) p c.ctx c.gen.toNat (fs.length - 1) 0 0 0xB fs

/-- The ranges whose window ends with step `s` (R250). -/
def endingRanges (v : Env) (c : Core) (s : Word) : List ReadRange :=
  (readRanges c).filter fun r => winLen v r.rstream != 0 && (s.toNat + 1) % winLen v r.rstream == 0

/-- The records of a range reset to COUNT 0 and FIRST 0x3F (R250). -/
def clearRange (c : Core) (r : ReadRange) : Core :=
  (List.range r.count).foldl (fun c i => ldmSet c (recAddr (r.first + i)) 2 0x3F) c

/-! ### FIRE, LEARN, CLOSE (R98, R117, R129, R137) -/

/-- The event packets of a firing slot, one along each out-list entry (R98, R123, R130). -/
def eventPkts (v : Env) (c : Core) (s : Word) (f : Nat × Nat) : List Packet :=
  (outList c).map fun e => listPkt c 1 1 e (srcWord v.dev v.me f.1) (s.toNat % 2 ^ 16) ((f.2 - 1) * 16) 0

/-- FIRE of STEP: the credits are taken, the touched neurons are evaluated, events and readout records are formed
(R98, R137, R249). -/
def fireStep (v : Env) (c : Core) : Eff :=
  let s := c.st.step
  let k := s.toNat % 16
  let slots := touchedSlots c
  let c1 := { c with
    st := { c.st with phase := .fire, cr := nset 0 c.st.cr k 0 }
    nrn := { c.nrn with touch := slots } }
  let (c2, fires) := evaluateAll s c1 slots
  let c3 := fires.foldl (fun c f => (readRanges c).foldl (noteFire v s f.1 f.2) c) c2
  { core := c3, out := fires.flatMap (eventPkts v c3 s) }

/-- Whether FIRE may begin (R137). -/
def mayFire (c : Core) : Bool :=
  c.st.phase == .waitCredit && nget 0 c.st.cr (c.st.step.toNat % 16) == c.st.outCount

/-- FIRE_BEGIN (R137). -/
def execFireBegin (core : Nat) (s : State) : Host.Outcome State Fault Refusal :=
  let c := getCore s core
  if mayFire c then .next (applyEff s core (fireStep (envOf s core) c)) else .next s

/-- The rearguards for STEP along the out-list (R129, R134). -/
def rearguards (v : Env) (c : Core) : List Packet :=
  (outList c).map fun e =>
    listPkt c 2 1 e (srcWord v.dev v.me 0) (c.st.step.toNat % 2 ^ 16) 0 c.st.step.toNat

/-- The end of FIRE: rearguards leave, and LEARN begins with the sweep and the rule work (R117, R129; spec/06_learning.md
R210). -/
def endFire (v : Env) (c : Core) : Eff :=
  let e := learnBegin v c c.st.step
  { core := e.core, out := rearguards v c ++ e.out }

/-- FIRE_END (R110, R129). -/
def execFireEnd (core : Nat) (s : State) : Host.Outcome State Fault Refusal :=
  let c := getCore s core
  if c.st.phase = .fire then .next (applyEff s core (endFire (envOf s core) c)) else .next s

/-- LEARN_END: the rule work is done or carried, and CLOSE requantises the membranes (R101, R117). -/
def execLearnEnd (core : Nat) (s : State) : Host.Outcome State Fault Refusal :=
  let c := getCore s core
  if c.st.phase = .learn ∧ c.lrn.work = none then .next (setCore s core (closeNeurons (setPhase c .close))) else .next s

/-- The credit grants at the end of CLOSE of `s`: steps G + 1 to s + W along every core entry of the in-list (R137). -/
def grants (v : Env) (c : Core) : List Packet :=
  let top := c.st.step + c.st.w.setWidth 32
  (stepsAfter c.st.g top 32).flatMap fun g =>
    ((inList c).filter fun e => lKind e == 0).map fun e =>
      listPkt c 3 0 e (srcWord v.dev v.me 0) (g.toNat % 2 ^ 16) 0 g.toNat

/-- The devices that get a step notice at the end of CLOSE of `s`: at every fourth step those of the ingest entries of the
in-list; at every step this device, while a timer watches the core (spec/07_streams_ingest_readout.md R246;
spec/16_timers.md R488). -/
def noticeDevs (v : Env) (c : Core) : List Nat :=
  let a := if c.st.step.toNat % 4 = 0 then ((inList c).filter fun e => lKind e == 1).map lDev else []
  (if c.watch then v.dev :: a else a).eraseDups

/-- The end of CLOSE: learning commits, STEP increments, credits, notices and readout packets leave
(R114, R137, R215, R246, R250). -/
def endClose (v : Env) (c : Core) : Eff :=
  let s := c.st.step
  let e := commitLearn v c
  let ranges := endingRanges v e.core s
  let notes := (noticeDevs v c).map fun d => ctrlPkt v c d 0x08 0 s.toNat 0
  let top := s + c.st.w.setWidth 32
  let c1 := ranges.foldl clearRange e.core
  let c2 := { c1 with
    st := { c1.st with phase := .waiting, step := s + 1, g := if stepLt c1.st.g top then top else c1.st.g }
    nrn := { c1.nrn with lfsrAtClose := c1.nrn.lfsr } }
  { core := updHalt (advance 16 c2), out := e.out ++ grants v c ++ notes ++ ranges.flatMap (readoutPkts v e.core s) }

/-! ### The step watchdog (R156) -/

/-- Whether the watchdog counts: the core is in a phase, or waits for something else than a release, the run limit or a
barrier (R156). While only a committed share holds the boundary, waiting for a running handler (R120), it pauses as for a
barrier: DESIGN CHOICE (84). -/
def wdogCounts (c : Core) : Bool :=
  match c.st.phase with
  | .notRunning => false
  | .waiting =>
      let s := c.st.step
      (!setComplete c (s - 1) && !forcedOpen c s) || penDue c s || mayOpen c
  | _ => true

/-- STEP_WATCHDOG_EXPIRE (R156). -/
def execStepWatchdogExpire (core : Nat) (s : State) : Host.Outcome State Fault Refusal :=
  let c := getCore s core
  if c.st.wdogEn ∧ wdogCounts c then
    let v := envOf s core
    .next (applyEff s core
      { core := { c with st := { c.st with wdogExp := true } }, out := [ctrlPkt v c v.dev 0x20 0 c.st.step.toNat 5] })
  else .next s

/-- TILE_STEP_STAT.FORCED_RUN: STEP - 1 - c when positive, at most 8 (R157). -/
def forcedRun (c : Core) : Nat := if stepLt c.st.c (c.st.step - 1) then min 8 (c.st.step - 1 - c.st.c).toNat else 0

end Sys2Proof.Machine
end

