-- ==== Sys2Proof/Machine/TileRegs.lean ====
section
/-! DEFINITION. The registers of a tile window (spec/01_device_organisation.md R51) and the tile toll gates
(spec/11_fabric_tolls.md R366-R369). -/

namespace Sys2Proof.Machine

/-! ### Toll gates (spec/11_fabric_tolls.md R366, R368) -/

/-- The rules of R366 for the words of a gate; `way` tells a waystation output or an attachment. -/
def gateLegal (way : Bool) (a b : Word) : Bool :=
  ((List.range 8).map (slotsOf a b)).sum ≤ 64 && (!way || 8 ≤ slotsOf a b 0) && 1 ≤ slotsOf a b 5

/-- The word that a gate will hold after the writes that wait for the boundary. -/
def Gate.nextA (g : Gate) : Word := g.pendA.getD g.a
/-- The same for the B word. -/
def Gate.nextB (g : Gate) : Word := g.pendB.getD g.b

/-- Whether a tile has a depot lane: a near row (spec/01_device_organisation.md R24). -/
def hasLane (core : Nat) : Bool := core / 32 ≤ 3 || core / 32 ≥ 28

/-- Whether the tile of a core has an attachment: an Osust port's or the corner hub's (spec/01_device_organisation.md
R15). -/
def hasAttachment (s : State) (core : Nat) : Bool :=
  match tileOf s core with
  | none => false
  | some t =>
      let px := t % 34
      let py := t / 34
      ((px == 0 || px == 33) && ((4 ≤ py && py ≤ 7) || (12 ≤ py && py ≤ 15) || (20 ≤ py && py ≤ 23))) || (py == 31 && px < 4)

/-- Whether gate `g` of a core's tile exists (R368). -/
def gateExists (s : State) (core g : Nat) : Bool :=
  g ≤ 6 || (g == 7 && hasLane core) || (g == 8 && hasAttachment s core)

/-- Whether a write of a tile gate's word keeps the rules of R366. -/
def gateWriteOk (s : State) (core g : Nat) (isB : Bool) (v : Word) : Bool :=
  let x := tileGate s core g
  let way := g != 0 && g != 1 && g != 7
  if isB then gateLegal way x.nextA v else gateLegal way v x.nextB

/-- A tile gate's word written: it takes effect at the next window boundary (R366). -/
def gateWrite (s : State) (core g : Nat) (isB : Bool) (v : Word) : State :=
  if !gateExists s core g then s
  else
    let x := tileGate s core g
    setTileGate s core g (if isB then { x with pendB := some v } else { x with pendA := some v })

/-! ### Keep markers (spec/06_learning.md R222, R229) -/

/-- The key of a keep slot: physical tile and slot, 0 for A. -/
def keepKey (s : State) (core slot : Nat) : Nat := 2 * (tileOf s core).getD 0 + slot
/-- A keep slot of a core's tile. -/
def keepSlot (s : State) (core slot : Nat) : KeepSlot := nget {} s.nv.keep (keepKey s core slot)
/-- The image of a keep slot as the device keep key of identity epoch `now` decrypts it; an image that another epoch's key
encrypted gives unrelated data (spec/06_learning.md R222). -/
def keepOpen (now : Nat) (k : KeepSlot) : List Line :=
  if k.key = now then k.image else (List.range k.image.length).map (Config.keepLine k.key now k.marker)

/-- Whether a keep slot is committed: COMMIT is 1 and TAG verifies under the keep key (spec/06_learning.md R222), which a device
whose PUF failed does not have (spec/18_security_debug.md R517). -/
def keepCommitted (s : State) (k : KeepSlot) : Bool :=
  !s.sec.pufFail && bit k.marker 0 &&
    k.marker.extractLsb' 384 128 == Config.keepTag s.nv.keyEpoch (keepOpen s.nv.keyEpoch k) (k.marker.extractLsb' 0 384)

/-- TILE_KEEP_A or TILE_KEEP_B (spec/06_learning.md R229). -/
def keepReg (s : State) (core slot : Nat) : Word :=
  let k := keepSlot s core slot
  BitVec.ofNat 32 (fld k.marker 63 48 * 2 ^ 16 + b1 (keepCommitted s k) * 2 ^ 15 + b1 k.writing * 2 ^ 14 + fld k.marker 41 29)

/-! ### Reads -/

/-- The code of a phase (spec/04_step_time.md R157). -/
def Phase.code : Phase → Nat
  | .waiting => 0
  | .integrate => 1
  | .waitCredit => 2
  | .fire => 3
  | .learn => 4
  | .close => 5
  | .notRunning => 7

/-- PHASE of TILE_STEP_STAT: a core that waits and holds a committed share due at its step applies convoy actions, code 6
(spec/04_step_time.md R157; spec/10_convoys.md R338). -/
def phaseCode (c : Core) : Nat := if c.st.phase = .waiting ∧ unapplied c c.st.step then 6 else c.st.phase.code

/-- TILE_STEP_STAT (spec/04_step_time.md R157). -/
def stepStat (c : Core) : Word :=
  let t := c.st.step
  let w := c.st.phase == .waiting
  let run := t - 1 - c.st.c
  let forced := if c.st.phase = .notRunning ∨ run.toNat ≥ 2 ^ 31 then 0 else run.toNat
  BitVec.ofNat 32 (forced % 16 * 2 ^ 16 + b1 c.st.wdogExp * 2 ^ 15 + b1 c.st.forceHalt * 2 ^ 14 +
    b1 (c.st.phase == .waitCredit) * 2 ^ 13 + b1 (w && penDue c t) * 2 ^ 12 + b1 (w && barred c t) * 2 ^ 11 +
    b1 (w && !limitOk c t) * 2 ^ 10 + b1 (w && !releaseOk c t) * 2 ^ 9 + b1 (w && !setComplete c (t - 1)) * 2 ^ 8 +
    phaseCode c)

/-- The step registers at 0x0100-0x0127 (spec/04_step_time.md R157). -/
def stepReg (c : Core) (off : Nat) : Word :=
  match off with
  | 0x100 => c.st.step
  | 0x104 => BitVec.ofNat 32 (c.st.dmax.toNat * 2 ^ 12 + b1 c.st.paced * 2 ^ 7 + b1 c.st.free * 2 ^ 6 +
      c.st.overrun.toNat * 2 ^ 4 + c.st.w.toNat)
  | 0x108 => stepStat c
  | 0x10C => c.st.c
  | 0x110 => c.st.released
  | 0x114 => c.st.runLimit
  | 0x118 => c.st.inCount.setWidth 32
  | 0x11C => c.st.outCount.setWidth 32
  | 0x120 => BitVec.ofNat 32 (c.st.outEntries.toNat * 2 ^ 16 + c.st.inEntries.toNat)
  | 0x124 => BitVec.ofNat 32 (b1 c.st.wdogEn * 2 ^ 31 + c.st.wdogLimit.toNat)
  | _ => 0

/-- The handler registers at 0x0200-0x021B (spec/08_handler_unit.md R283). -/
def handlerReg (c : Core) (off : Nat) : Word :=
  let h := c.hnd
  let e := nget 0 h.table h.tidx.toNat
  match off with
  | 0x200 => BitVec.ofNat 32 (h.deflim.toNat * 2 ^ 16 + b1 h.en)
  | 0x204 => h.tidx.setWidth 32
  | 0x208 => e.extractLsb' 0 32
  | 0x20C => e.extractLsb' 32 32
  | 0x210 => BitVec.ofNat 32 (b1 h.run * 2 ^ 31 + b1 (h.wait != .none) * 2 ^ 30 + b1 h.asat * 2 ^ 29 + b1 h.rqclamp * 2 ^ 28 +
      (if h.run then h.hidx.toNat * 2 ^ 22 + h.pc.toNat else 0))
  | 0x214 => BitVec.ofNat 32 (b1 h.fValid * 2 ^ 31 + h.fCode.toNat * 2 ^ 28 + h.fHidx.toNat * 2 ^ 22 + h.fPc.toNat)
  | 0x218 => h.fSrc
  | _ => 0

/-- The queue registers at 0x0300-0x032F (spec/09_queues_active_messages.md R321). -/
def queueReg (c : Core) (off : Nat) : Word :=
  let e := qEnt c c.q.qIdx.toNat
  let r := chan c c.q.chIdx.toNat
  let vs := c.q.table.filter fun p => qValid p.2
  match off with
  | 0x300 => BitVec.ofNat 32 (c.q.sendWait.toNat * 2 ^ 16)
  | 0x304 => c.q.qIdx.setWidth 32
  | 0x308 => e.extractLsb' 0 32
  | 0x30C => e.extractLsb' 32 32
  | 0x310 => e.extractLsb' 64 32
  | 0x314 => e.extractLsb' 96 32
  | 0x318 => c.q.chIdx.setWidth 32
  | 0x31C => r.extractLsb' 0 32
  | 0x320 => r.extractLsb' 32 32
  | 0x324 => r.extractLsb' 64 32
  | 0x328 => r.extractLsb' 96 32
  | 0x32C => BitVec.ofNat 32 ((vs.map fun p => qSlots p.2).sum % 2 ^ 11 * 2 ^ 16 + vs.length % 2 ^ 9)
  | _ => 0

/-- The lowest barrier step of a core, or 0xFFFF_FFFF (spec/10_convoys.md R345). -/
def lowestBarrier (c : Core) : Word :=
  (c.cvy.filterMap fun m => m.barrier).foldl (fun a b => if a = 0xFFFFFFFF ∨ stepLt b a then b else a) 0xFFFFFFFF

/-- The 16-byte units that a record takes in a staging buffer (spec/10_convoys.md R325, R327). -/
def recUnits (r : ActionRecord) : Nat := 1 + (r.data.length + 15) / 16

/-- The staging units in use (spec/10_convoys.md R345). -/
def stagingUsed (ms : List MemberConvoy) : Nat := (ms.map fun m => (m.records.map recUnits).sum).sum

/-- The counter range at 0x0800-0x0FFF: the counts, and the words that are views of other state
(spec/02_narrow_arithmetic.md R80; spec/05_synapse_storage.md R193; spec/06_learning.md R229; spec/10_convoys.md R345; TILE_TMR_WATCH, spec/16_timers.md R488). -/
def countReg (s : State) (core : Nat) (c : Core) (off : Nat) : Word :=
  match off with
  | 0x904 => if c.bound then c.nrn.lfsrAtClose else 0
  | 0x980 => BitVec.ofNat 32 (b1 (bit (cntGet c 0x980) 31) * 2 ^ 31 + (c.cvy.filter fun m => m.records != []).length % 32 * 2 ^ 16 + stagingUsed c.cvy % 2 ^ 11)
  | 0x988 => lowestBarrier c
  | 0x990 => BitVec.ofNat 32 (b1 c.watch * 2 ^ 31)
  | 0xC0C => BitVec.ofNat 32 (b1 (bit (cntGet c 0xC0C) 31) * 2 ^ 31 + c.syn.ring.length % 2 ^ 14)
  | 0xD0C => BitVec.ofNat 32 (c.lrn.backLen % 2 ^ 9 * 2 ^ 16 + c.lrn.eagerLen % 2 ^ 9 * 2 ^ 7)
  | 0xD10 => keepReg s core 0
  | 0xD14 => keepReg s core 1
  | _ => cntGet c off

/-- The held cycles of a tile gate: those of DP and MEM lie with the core's ports (spec/11_fabric_tolls.md R365, R368). -/
def gateHeld (s : State) (core g : Nat) : Word :=
  match g with
  | 0 => (getCore s core).ports.dpHeld
  | 1 => (getCore s core).ports.memHeld
  | _ => (tileGate s core g).held

/-- A tile gate's held cycles cleared (spec/11_fabric_tolls.md R368). -/
def clearHeld (s : State) (core g : Nat) : State :=
  match g with
  | 0 => modCore s core fun c => { c with ports := { c.ports with dpHeld := 0 } }
  | 1 => modCore s core fun c => { c with ports := { c.ports with memHeld := 0 } }
  | _ => setTileGate s core g { tileGate s core g with held := 0 }

/-- A tile-window register (spec/01_device_organisation.md R44, R51); `off` is a multiple of 4. -/
def tileRead (s : State) (core off : Nat) : Word :=
  if !present s core then 0
  else
    let c := getCore s core
    if off = 0 then BitVec.ofNat 32 ((tileOf s core).getD 0 % 34 * 2 ^ 21 + core / 32 * 2 ^ 16 + core)
    else if off = 4 then BitVec.ofNat 32 (b1 c.bound * 2 ^ 31 + (if c.bound then c.ctx * 2 ^ 8 else 0) + c.gen.toNat)
    else if off < 0x200 then stepReg c off
    else if off < 0x300 then handlerReg c off
    else if off < 0x400 then queueReg c off
    else if off < 0x490 then
      let g := (off - 0x400) / 16
      let x := tileGate s core g
      if !gateExists s core g then 0
      else match off % 16 with
        | 0 => x.a
        | 4 => x.b
        | 8 => gateHeld s core g
        | _ => 0
    else if 0x800 ≤ off ∧ off < 0x1000 then countReg s core c off
    else 0

/-! ### Writes -/

/-- A step register written (spec/04_step_time.md R157): its RW fields and W1C bits. -/
def stepWrite (c : Core) (off : Nat) (v : Word) : Core :=
  match off with
  | 0x104 => updHalt { c with st := { c.st with
      dmax := BitVec.ofNat 4 (fld v 15 12), paced := bit v 7, free := bit v 6
      overrun := BitVec.ofNat 2 (fld v 5 4), w := BitVec.ofNat 4 (fld v 3 0) } }
  | 0x108 => { c with st := { c.st with wdogExp := w1c c.st.wdogExp (bit v 15) } }
  | 0x114 => { c with st := { c.st with runLimit := v } }
  | 0x118 => { c with st := { c.st with inCount := BitVec.ofNat 20 (fld v 19 0) } }
  | 0x11C => { c with st := { c.st with outCount := BitVec.ofNat 20 (fld v 19 0) } }
  | 0x120 => { c with st := { c.st with
      outEntries := BitVec.ofNat 9 (fld v 24 16), inEntries := BitVec.ofNat 9 (fld v 8 0) } }
  | 0x124 => { c with st := { c.st with wdogEn := bit v 31, wdogLimit := BitVec.ofNat 16 (fld v 15 0) } }
  | _ => c

/-- A handler register written (spec/08_handler_unit.md R263, R283). -/
def handlerWrite (c : Core) (off : Nat) (v : Word) : Core :=
  let h := c.hnd
  let i := h.tidx.toNat
  let e := nget 0 h.table i
  let h1 := match off with
    | 0x200 => { h with deflim := BitVec.ofNat 5 (fld v 20 16), en := bit v 0 }
    | 0x204 => { h with tidx := BitVec.ofNat 6 (fld v 5 0) }
    | 0x208 => { h with table := nset 0 h.table i (setFld e 31 0 (v &&& 0x1FFF).toNat) }
    | 0x20C => { h with table := nset 0 h.table i (setFld e 63 32 (v &&& 0xFF00FFFF).toNat) }
    | 0x210 => { h with asat := w1c h.asat (bit v 29), rqclamp := w1c h.rqclamp (bit v 28) }
    | 0x214 => { h with fValid := w1c h.fValid (bit v 31) }
    | _ => h
  { c with hnd := h1 }

/-- The RW bits of word `k` of a queue entry (spec/09_queues_active_messages.md R286). -/
def entryRw (k : Nat) : Word := match k with | 0 => 0xFFFFFFF0 | 2 => 0xFFFFFDFF | _ => 0xFFFFFFFF

/-- The RW bits of word `k` of a channel record: OWED, FREED and ROUND are RO and [37:0] reserved
(spec/09_queues_active_messages.md R294). -/
def chanRw (k : Nat) : Word := match k with | 0 => 0 | 1 => 0xF0001FC0 | _ => 0xFFFFFFFF

/-- A word of a queue entry or channel record written at its place: only the bits that `rw` lists change. -/
def setWordAt (x : BitVec 128) (k : Nat) (rw v : Word) : BitVec 128 :=
  setFld x (32 * k + 31) (32 * k) ((x.extractLsb' (32 * k) 32 &&& ~~~rw) ||| (v &&& rw)).toNat

/-- A queue register written (spec/09_queues_active_messages.md R321). -/
def queueWrite (c : Core) (off : Nat) (v : Word) : Core :=
  let q := c.q.qIdx.toNat
  let n := c.q.chIdx.toNat
  if off = 0x300 then { c with q := { c.q with sendWait := BitVec.ofNat 16 (fld v 31 16) } }
  else if off = 0x304 then { c with q := { c.q with qIdx := BitVec.ofNat 8 (fld v 7 0) } }
  else if 0x308 ≤ off ∧ off ≤ 0x314 then
    let k := (off - 0x308) / 4
    syncKind { c with q := { c.q with table := nset 0 c.q.table q (setWordAt (qEnt c q) k (entryRw k) v) } } q
  else if off = 0x318 then { c with q := { c.q with chIdx := BitVec.ofNat 8 (fld v 7 0) } }
  else if 0x31C ≤ off ∧ off ≤ 0x328 then
    let k := (off - 0x31C) / 4
    setChan c n (setWordAt (chan c n) k (chanRw k) v) none 0 0
  else c

/-- A word of the counter range written: only its W1C flags change (spec/05_synapse_storage.md R193; spec/10_convoys.md
R345). -/
def countWrite (c : Core) (off : Nat) (v : Word) : Core :=
  if (off = 0xC0C ∨ off = 0x980) ∧ bit v 31 then cntSet c off 0 else c

/-- An accepted write of a tile register; a gate takes it at the next boundary. -/
def tileWrite (s : State) (core off : Nat) (v : Word) : State :=
  if 0x400 ≤ off ∧ off < 0x490 then
    if off % 16 = 0 ∨ off % 16 = 4 then gateWrite s core ((off - 0x400) / 16) (off % 16 = 4) v else s
  else modCore s core fun c =>
    if off < 0x200 then stepWrite c off v
    else if off < 0x300 then handlerWrite c off v
    else if off < 0x400 then queueWrite c off v
    else if 0x800 ≤ off ∧ off < 0x1000 then countWrite c off v
    else c

/-- The RC bits of a word of the counter range: what a read clears (spec/00_scope.md R11). -/
def countRc (off : Nat) : Nat :=
  if (0x800 ≤ off ∧ off < 0x904) ∨ (0xA00 ≤ off ∧ off < 0xB0C) then 0xFFFFFFFF
  else match off with
    | 0x984 => 0xFFFFFFFF
    | 0x98C => 0xFFFF
    | 0xB0C => 0xFFFF0000
    | 0xC00 => 0xFFFFFFFF
    | 0xC04 => 0xFFFFFFFF
    | 0xC08 => 0xFFFFFFFF
    | 0xD00 => 0xFFFFFFFF
    | 0xD04 => 0xFFFFFFFF
    | 0xD08 => 0xFFFFFFFF
    | 0xE00 => 0xFFFFFFFF
    | 0xE04 => 0xFFFFFFFF
    | 0xE08 => 0xFFFF0000
    | 0xE0C => 0xFFFFFFFF
    | 0xF00 => 0xFFFFFFFF
    | 0xF04 => 0xFFFFFFFF
    | 0xF08 => 0xFFFFFFFF
    | 0xF0C => 0xFFFF0000
    | _ => 0

/-- The state after a read of a tile register: its RC fields are clear. -/
def tileReadClear (s : State) (core off : Nat) : State :=
  if !present s core then s
  else if 0x400 ≤ off ∧ off < 0x490 ∧ off % 16 = 8 ∧ gateExists s core ((off - 0x400) / 16) then
    clearHeld s core ((off - 0x400) / 16)
  else if countRc off ≠ 0 then
    modCore s core fun c => cntSet c off (cntGet c off &&& ~~~(BitVec.ofNat 32 (countRc off)))
  else s

end Sys2Proof.Machine
end

