-- ==== Sys2Proof/Machine/Depot.lean ====
section
/-! DEFINITION. The depot: its two edge spaces, requests and data (spec/05_synapse_storage.md R176-R181;
spec/11_fabric_tolls.md R348; spec/01_device_organisation.md R24-R26). -/

namespace Sys2Proof.Machine

/-- The key of byte `a` of an edge space. -/
def edgeKey (edge : Bool) (a : Nat) : Nat := b1 edge * 2 ^ 40 + a

/-! ### Encryption (R180; spec/18_security_debug.md R518) -/

/-- The number of the key pair that a context holds; 0 for none. -/
def ctxKey (d : Depot) (ctx : Nat) : Nat := nget 0 d.keys ctx

/-- A context's region on an edge, in 64 MiB units: base and size (R178). -/
def rgnOf (d : Depot) (ctx : Nat) (edge : Bool) : Nat × Nat :=
  let w := nget 0 d.rgn (2 * ctx + b1 edge)
  (fld w 10 0, fld w 27 16)

/-- The place of a burst in a context's region, with the edge: what the XTS tweak names (R180). -/
def relOf (d : Depot) (ctx : Nat) (edge : Bool) (burst : Nat) : Nat :=
  b1 edge * 2 ^ 31 + (2 ^ 31 + burst - (rgnOf d ctx edge).1 * 2 ^ 20) % 2 ^ 31

/-- How a burst was encrypted, when it was written since the channels came up. -/
def sealOf (d : Depot) (k : Nat) : Option Seal := (d.seals.find? fun p => p.1 == k).map Prod.snd

/-- Whether a burst reads back through a context's keys as it was written: under the same key pair at the same place (R180). -/
def opensTo (d : Depot) (ctx : Nat) (edge : Bool) (burst : Nat) : Bool :=
  match sealOf d (burstKey edge burst) with
  | some x => x.key != 0 && x.key == ctxKey d ctx && x.rel == relOf d ctx edge burst
  | none => false

/-- Byte `a` of an edge space as a context reads it: what was written, or unrelated data, a free value for the byte, the key, the
place and the stored content (R180; assumption 5). -/
def depotByte (d : Depot) (ctx : Nat) (edge : Bool) (a : Nat) : Byte :=
  if opensTo d ctx edge (a / 64) then nget 0 d.bytes (edgeKey edge a)
  else
    let content := match sealOf d (burstKey edge (a / 64)) with | some x => x.at_ | none => d.base
    Config.freeByte (edgeKey edge a) (ctxKey d ctx) (relOf d ctx edge (a / 64)) content

/-- `n` bytes of an edge space from byte `a` on, as a context reads them. -/
def depotBytes (d : Depot) (ctx : Nat) (edge : Bool) (a n : Nat) : List Byte :=
  (List.range n).map fun i => depotByte d ctx edge (a + i)

/-- A 64-byte burst (R176). -/
def depotLine (d : Depot) (ctx : Nat) (edge : Bool) (burst : Nat) : Line :=
  BitVec.ofNat 512 (ofBytes (depotBytes d ctx edge (64 * burst) 64))

/-- A burst written through a context's keys: new data and new check bits (R180, R181). -/
def depotPutOne (d : Depot) (ctx : Nat) (edge : Bool) (burst : Nat) (l : Line) : Depot :=
  let k := burstKey edge burst
  { d with
    bytes := nsetList (0 : Byte) d.bytes (edgeKey edge (64 * burst)) (bytesOf 64 l.toNat)
    seals := nput k { key := ctxKey d ctx, rel := relOf d ctx edge burst, at_ := d.writes + 1 } (nerase k d.seals)
    writes := d.writes + 1
    bad := d.bad.filter (· != k) }

/-- Bursts written (R181). -/
def depotPut (d : Depot) (ctx : Nat) (edge : Bool) (burst : Nat) : List Line → Depot
  | [] => d
  | l :: ls => depotPut (depotPutOne d ctx edge burst l) ctx edge (burst + 1) ls

/-- A context takes a fresh key pair: what its regions held reads as unrelated data (R180; spec/18_security_debug.md R518). -/
def rekey (d : Depot) (ctx : Nat) : Depot := { d with keys := nset 0 d.keys ctx d.nextKey, nextKey := d.nextKey + 1 }

/-- A context's key pair destroyed. -/
def dropKey (d : Depot) (ctx : Nat) : Depot := { d with keys := nset 0 d.keys ctx 0 }

/-- The depot after its contents are gone: every burst holds data of nobody, and the counts go on. -/
def wipeDepot (d : Depot) : Depot := { d with bytes := [], seals := [], bad := [], writes := d.writes + 1, base := d.writes + 1 }

/-! ### Regions (R178) -/

/-- A context's region on an edge, in 64 MiB units: base and size (R178). -/
def regionOf (s : State) (ctx : Nat) (edge : Bool) : Nat × Nat := rgnOf s.dep ctx edge

/-- The bytes of a context's region on an edge. -/
def regionBytes (s : State) (ctx : Nat) (edge : Bool) : Nat := (regionOf s ctx edge).2 * 2 ^ 26

/-- `n` bytes of a context's region. -/
def regionRead (s : State) (ctx : Nat) (edge : Bool) (off n : Nat) : List Byte :=
  depotBytes s.dep ctx edge ((regionOf s ctx edge).1 * 2 ^ 26 + off) n

/-- Bytes written into a context's region. Every access moves whole bursts (R176), so the rest of a burst that is written in part
is read and written back; only a burst written whole takes new check bits (R181). From a power-fail warning on the device issues
no depot write (spec/14_contexts_recovery.md R453). -/
def regionWrite (s : State) (ctx : Nat) (edge : Bool) (off : Nat) (bs : List Byte) : State :=
  if s.pwr.pfail ∨ bs = [] then s else
  let a := (regionOf s ctx edge).1 * 2 ^ 26 + off
  let e := a + bs.length
  let lo := a / 64
  let hi := cdiv e 64
  let all := depotBytes s.dep ctx edge (64 * lo) (a - 64 * lo) ++ bs ++ depotBytes s.dep ctx edge e (64 * hi - e)
  let part := s.dep.bad.filter fun k => (k == burstKey edge lo && 64 * lo != a) || (k == burstKey edge (hi - 1) && 64 * hi != e)
  let d := depotPut s.dep ctx edge lo (bytesLines all)
  { s with dep := { d with bad := d.bad ++ part } }

/-- Whether a range of a context's region holds an uncorrectable burst. -/
def regionBad (s : State) (ctx : Nat) (edge : Bool) (off n : Nat) : Bool :=
  let a := (regionOf s ctx edge).1 * 2 ^ 26 + off
  n != 0 && s.dep.bad.any fun k => burstKey edge (a / 64) ≤ k && k ≤ burstKey edge ((a + n - 1) / 64)

/-! ### Requests and data (spec/11_fabric_tolls.md R348) -/

/-- The physical row whose waystation carries a core's depot traffic to an edge: its own in the near rows, else the
relay's (spec/01_device_organisation.md R25, R26). -/
def laneRow (y : Nat) (edge : Bool) : Nat := if edge then (if y ≥ 28 then y else 28) else if y ≤ 3 then y else 3

/-- The answer to a depot read: DDATA packets of at most eight bursts, in ascending order, read through the keys of the packet's
context, with the bursts whose ECC reports an uncorrectable error (R180, R181; spec/11_fabric_tolls.md R348). -/
def readReply (d : Depot) (p : Packet) : List Packet :=
  let edge := span p ≥ 16
  let n := subtype p + 1
  (List.range (cdiv n 8)).map fun j =>
    let k := min 8 (n - 8 * j)
    let bs := (List.range k).map fun i => srcOf p + 8 * j + i
    { mkPkt 0xB 2 (ddev p) (dcore p) 0 (span p) (BitVec.ofNat 32 (srcOf p + 8 * j)) (stamp p) (pctx p) (pgen p) (k - 1) 0
        p.cls.toNat 0x9 (bs.flatMap fun b => burstFlits (depotLine d (pctx p) edge b)) with
      ue := bs.filter fun b => d.bad.contains (burstKey edge b) }

/-- A depot request at the channel (R176, R180, R181). A reply returns by the lane that brought the request. -/
def depotServe (s : State) (p : Packet) : State :=
  let edge := span p ≥ 16
  if typ p = 0xB ∧ s.pwr.pfail then s
  else if typ p = 0xB then { s with dep := depotPut s.dep (pctx p) edge (srcOf p) (flitLines p.flits) }
  else match tileOf s (dcore p) with
    | none => s
    | some t =>
        let lane := laneRow (t / 34) edge * 34 + t % 34
        (readReply s.dep p).foldl (fun s q => { s with fab := enterBuf s.fab lane 5 q none }) s

/-! ### The toll gates of the DDR channels (spec/11_fabric_tolls.md R362-R364) -/

/-- The channel of a burst: granules of eight bursts lie on the edge's eight channels in turn (R176). -/
def channelOf (edge : Bool) (burst : Nat) : Nat := burst / 8 % 8 + 8 * b1 edge

/-- The gate of DDR channel `ch`. -/
def ddrGate (s : State) (ch : Nat) : Gate := nget gateDdr s.fab.ddr ch
/-- The state with the gate of a DDR channel replaced. -/
def setDdrGate (s : State) (ch : Nat) (g : Gate) : State := { s with fab := { s.fab with ddr := nset gateDdr s.fab.ddr ch g } }

/-- The capacity of a DDR channel in fifths of a burst per 1/64 of a window: 819.2, 1,024, 1,638.4 and 3,276.8 bursts at the
four levels (R362). -/
def ddrShare (pl : Nat) : Nat := match pl with | 0 => 64 | 1 => 80 | 2 => 128 | _ => 256

/-- Whether a class is within its budget at a DDR gate: it has used less than A (R364). `carry` counts fifths of a burst. -/
def ddrInBudget (g : Gate) (pl k : Nat) : Bool :=
  nget 0 g.used k < (ddrShare pl * slotsOf g.a g.b k + nget 0 g.carry k) / 5

/-- Bursts of an edge charged to a class at the gates of their channels (R362). -/
def chargeBursts (s : State) (edge : Bool) (bursts : List Nat) (k : Nat) : State :=
  bursts.foldl (fun s b =>
    let ch := channelOf edge b
    let g := ddrGate s ch
    setDdrGate s ch { g with used := nmod 0 g.used k (· + 1) }) s

/-- The bursts that hold `n` bytes of a context's region from an offset on. -/
def regionBursts (s : State) (ctx : Nat) (edge : Bool) (off n : Nat) : List Nat :=
  let a := (regionOf s ctx edge).1 * 2 ^ 26 + off
  (List.range (cdiv (a + n) 64 - a / 64)).map fun i => a / 64 + i

/-- A transfer of an engine over a context's region charged to its class, whole, as it begins (R362; assumption 91). -/
def chargeRegion (s : State) (ctx : Nat) (edge : Bool) (off n k : Nat) : State := chargeBursts s edge (regionBursts s ctx edge off n) k

/-- The bursts that a depot packet asks for or carries. -/
def packetBursts (p : Packet) : List Nat :=
  (List.range (if typ p = 0xB then p.flits.length / 2 else subtype p + 1)).map fun i => srcOf p + i

/-- The channels that a depot packet needs. -/
def packetChans (p : Packet) : List Nat := ((packetBursts p).map (channelOf (span p ≥ 16))).eraseDups

/-- Whether the gate of a channel grants a request (R364): within its budget, before every older request for the channel that is
within its own; by LEND when no request for the channel is within budget, before every older one that lends. -/
def ddrGrants (s : State) (p : Packet) (ch : Nat) : Bool :=
  let g := ddrGate s ch
  let pl := s.pwr.pl.toNat
  let others := (s.fab.lanes.erase p).filter fun q => (packetChans q).contains ch
  let older := (s.fab.lanes.takeWhile fun q => q != p).filter fun q => (packetChans q).contains ch
  let inb (q : Packet) : Bool := ddrInBudget g pl q.cls.toNat
  if inb p then !older.any inb
  else lendOf g.a g.b p.cls.toNat && !others.any inb && !older.any fun q => lendOf g.a g.b q.cls.toNat

/-- Whether every channel of a packet grants it. -/
def ddrReady (s : State) (p : Packet) : Bool := (packetChans p).all (ddrGrants s p)

/-- Bursts whose ECC reports an uncorrectable error from now on, until they are written again (R181). -/
def failBursts (s : State) (p : Packet) (failing : List Nat) : State :=
  let edge : Bool := span p ≥ 16
  let hit := if typ p = 0xA then (packetBursts p).filter failing.contains else []
  { s with dep := { s.dep with bad := (hit.map (burstKey edge)).foldl (fun l k => if l.contains k then l else l ++ [k]) s.dep.bad } }

/-- DREQ: a request reaches the lane and the channel (spec/11_fabric_tolls.md R348), at some of whose bursts the ECC may
report an uncorrectable error (R181). It waits until the channels are trained (spec/19_bringup_selftest.md R540)
and their gates grant its class (spec/11_fabric_tolls.md R364). -/
def execDreq (request : DepotRequest) (s : State) : Host.Outcome State Fault Refusal :=
  let pkt := request.pkt
  if s.ddrDone ∧ ddrReady s pkt then
    let s1 := chargeBursts { s with fab := { s.fab with lanes := s.fab.lanes.erase pkt } } (span pkt ≥ 16) (packetBursts pkt) pkt.cls.toNat
    .next (depotServe (failBursts s1 pkt request.failing) pkt)
  else .next s

end Sys2Proof.Machine
end

