-- ==== Sys2Proof/Machine/Fabric.lean ====
section
/-! DEFINITION. The fabric: routing, line multicasts, flow control and tolls at the waystations, and register access by CTRL
packet (spec/11_fabric_tolls.md R346-R371; spec/12_osust_links.md R388-R392). -/

namespace Sys2Proof.Machine

/-! ### Devices (spec/12_osust_links.md R388, R389) -/

/-- Coordinate `dim` (0 X, 1 Y, 2 Z) of a device number. -/
def coordOf (dev dim : Nat) : Nat := dev / 8 ^ dim % 8
/-- The size of a dimension of the system shape. -/
def sizeOf' (shape : Word) (dim : Nat) : Nat := fld shape (19 + 3 * dim) (17 + 3 * dim) + 1
/-- Whether a dimension wraps. -/
def wraps (shape : Word) (dim : Nat) : Bool := bit shape (26 + dim)
/-- Whether a device number lies in the shape. -/
def inShape (shape : Word) (dev : Nat) : Bool :=
  dev < 512 && (List.range 3).all fun dim => coordOf dev dim < sizeOf' shape dim

/-- Whether the way from coordinate `a` to `b` runs in the + direction (R389). -/
def plusDir (shape : Word) (dim a b : Nat) : Bool :=
  let n := sizeOf' shape dim
  if wraps shape dim then 2 * ((b + n - a) % n) ≤ n else b > a

/-- The port of a dimension and direction: 0 X+, 1 Y+, 2 Z+, 3 X−, 4 Y−, 5 Z− (spec/12_osust_links.md R375). -/
def portOf (dim : Nat) (plus : Bool) : Nat := if plus then dim else dim + 3

/-- The port through which a packet for another device leaves; none when it is for this one (R389). -/
def shapePort (shape : Word) (here dest : Nat) : Option Nat :=
  ((List.range 3).find? fun dim => coordOf here dim != coordOf dest dim).map fun dim =>
    portOf dim (plusDir shape dim (coordOf here dim) (coordOf dest dim))

/-- The front-end port of this device whose FEDEV is a device number (spec/12_osust_links.md R389, R400). -/
def fePort (s : State) (dest : Nat) : Option Nat :=
  (List.range 6).find? fun p => (getPort s p).fe && (getPort s p).fedev.toNat == dest

/-- Whether the link of a port is the dateline of its dimension (spec/12_osust_links.md R391). -/
def crosses (s : State) (p : Nat) : Bool :=
  let dim := p % 3
  let c := coordOf (devNo s) dim
  wraps s.shape dim && (if p < 3 then c + 1 == sizeOf' s.shape dim else c == 0)

/-- The device that lies `k` places from `dev` in the + direction of a dimension, wrapping at its size. -/
def devPlus (shape : Word) (dev dim k : Nat) : Nat :=
  let c := coordOf dev dim
  dev - c * 8 ^ dim + (c + k) % sizeOf' shape dim * 8 ^ dim

/-! ### Attachments (spec/01_device_organisation.md R15-R17; spec/12_osust_links.md R375, R390) -/

/-- The attachment tile of port `p` for logical row `y`. -/
def portTile (p y : Nat) : Nat := (4 + 8 * (p % 3) + y % 4) * 34 + (if p < 3 then 33 else 0)
/-- The Osust port attached at a tile. -/
def portAt (tile : Nat) : Option Nat :=
  (List.range 6).find? fun p => (List.range 4).any fun y => portTile p y == tile
/-- The hub attachment for logical core `n`. -/
def hubTile (n : Nat) : Nat := 31 * 34 + n % 4

/-! ### Packets that no waystation takes (R346, R371) -/

/-- The VC that a TYPE fixes; none for a reserved one. -/
def typeVc (t : Nat) : Option Nat :=
  if t = 1 ∨ t = 2 then some 1 else if t = 4 ∨ t = 8 ∨ t = 0xA ∨ t = 0xB ∨ t = 0xC then some 2
  else if t = 3 ∨ t = 5 ∨ t = 6 ∨ t = 7 ∨ t = 9 then some 0 else none

/-- The CTRL subtypes of R371. -/
def ctrlSubs : List Nat := [1, 2, 3, 8, 9, 0xA, 0xB, 0x10, 0x11, 0x12, 0x13, 0x14, 0x20, 0x21, 0x22, 0x23, 0x24, 0x25, 0x26]

/-- Whether a packet is discarded under R346 or R371: a reserved TYPE or subtype, or a VC that does not match. -/
def badPacket (p : Packet) : Bool :=
  typeVc (typ p) != some (vcOf p) || (typ p == 7 && !ctrlSubs.contains (subtype p)) ||
    (typ p == 6 && !(1 ≤ subtype p && subtype p ≤ 0xA))

/-- Whether a packet with DCORE 0x3FF is for the hub of its device rather than for logical core 1,023 (R371;
spec/12_osust_links.md R390). -/
def forHub (p : Packet) : Bool :=
  dcore p == 0x3FF && mcast p == 0 && match typ p with
    | 5 => toHubNack p
    | 6 => true
    | 7 => [3, 8, 9, 0xA, 0x20, 0x21, 0x22, 0x23, 0x24, 0x25, 0x26].contains (subtype p)
    | 0xC => true
    | _ => false

/-- The sender that a refused packet is returned to: device, core, channel and its generation (R303, R347). For a BULK the
transfer tag stands in their place (R349; assumption 18). -/
def returnTo (p : Packet) : Nat × Nat × Nat × Nat :=
  if typ p = 4 ∨ typ p = 8 then (mSdev p, mScore p, mSchan p, mCgen p)
  else if typ p = 0xC then (srcDev p, srcCore p, stamp p / 256, stamp p % 256)
  else (srcDev p, srcCore p, 0, 0)

/-- The NACK that a waystation forms for a VC-E or VC-B packet; a VC-H packet is discarded without answer (R355;
spec/12_osust_links.md R394), and so is a BULK of a core or a peer, which names no sender (R349). -/
def returnPkt (s : State) (tile : Nat) (p : Packet) (st : Status) : State :=
  if vcOf p = 0 ∨ (typ p = 0xC ∧ (p.mid = 0xA ∨ p.mid = 0xB)) then s
  else
    let (d, c, ch, g) := returnTo p
    let d1 := if p.mid = 0xA ∨ p.mid = 0xB then d else devNo s
    let v : Env := { dev := devNo s, me := (coreAt s tile).getD 0 }
    let n := mkNack v d1 c ch g p.mid.toNat (pctx p) (pgen p) st true (typ p) p.cls.toNat
    { s with fab := enterBuf s.fab tile 4 n none }

/-! ### Line multicasts (R357, R358) -/

/-- The cores that a row or column line covers and that are present, in ascending order (R357, R358). -/
def lineCores (s : State) (mc first n : Nat) : List Nat :=
  ((List.range (n + 1)).map fun i => if mc = 1 then first + i else first + 32 * i).filter fun c =>
    present s c && (mc != 1 || c / 32 == first / 32)

/-- The distance of two numbers. -/
def dist (a b : Nat) : Nat := (a - b) + (b - a)

/-- Physical hops between two tiles. -/
def hops (a b : Nat) : Nat := dist (a % 34) (b % 34) + dist (a / 34) (b / 34)

/-- The logical position x, y of the sender of a packet that enters the mesh at a tile: a core, or an attachment (R358). -/
def senderAt (s : State) (tile port : Nat) : Nat × Nat :=
  if port = 4 then (match coreAt s tile with | some n => (n % 32, n / 32) | none => (min (tile % 34) 31, tile / 34))
  else (min (tile % 34) 31, tile / 34)

/-- Of two covered cores, the one nearer to the sender: along the line, then in physical hops, then the lower number
(R358). -/
def nearer (s : State) (tile : Nat) (along : Nat → Nat) (a b : Nat) : Nat :=
  let ka := (along a, hops tile ((tileOf s a).getD 0))
  let kb := (along b, hops tile ((tileOf s b).getD 0))
  if kb.1 < ka.1 ∨ (kb.1 = ka.1 ∧ kb.2 < ka.2) then b else a

/-- The covered core at whose tile a line enters (R358). -/
def lineEntry (s : State) (tile port : Nat) (p : Packet) : Option Nat :=
  let (x, y) := senderAt s tile port
  let along (n : Nat) : Nat := if mcast p = 1 then dist (n % 32) x else dist (n / 32) y
  match lineCores s (mcast p) (dcore p) (span p) with
  | [] => none
  | c :: cs => some (cs.foldl (nearer s tile along) c)

/-- The next covered core of a line after core `n`: below it on leg 2, above it on leg 3 (R358). -/
def lineNext (s : State) (p : Packet) (n leg : Nat) : Option Nat :=
  let cs := lineCores s (mcast p) (dcore p) (span p)
  if leg = 2 then (cs.filter (· < n)).getLast? else (cs.filter (n < ·)).head?

/-! ### Routing (R355; spec/12_osust_links.md R389-R392) -/

/-- What the injecting waystation finds for a packet: it is discarded, it goes to an absent place, or it travels as copies, each
with the tile it makes for, the output port there and its leg. `lost` says that one copy of a torus line was for an absent core
(spec/01_device_organisation.md R21). -/
inductive Route where
  | drop
  | absent
  | go (fs : List (Packet × Nat × Nat × Nat)) (lost : Bool)

/-- The way out through a port: its attachment for the row of the source core, or of the destination core for the hub and for
transit (spec/01_device_organisation.md R16; spec/12_osust_links.md R390). -/
def leaveBy (tile port p : Nat) (q : Packet) : Packet × Nat × Nat × Nat :=
  (q, portTile p (if port = 4 then tile / 34 else dcore q / 32), 6, 0)

/-- The device that follows on a torus line, when the line goes on: the packet as it leaves for it names it in DDEV and counts
the devices left in SPAN (spec/12_osust_links.md R392; assumption 25). -/
def lineOn (s : State) (p : Packet) : Option (Packet × Nat) :=
  let dim := span p / 8
  if span p % 8 = 0 ∨ dim > 2 then none
  else some ({ p with head := setFld (setFld p.head 121 113 (devPlus s.shape (devNo s) dim 1)) 98 96 (span p % 8 - 1) },
    portOf dim true)

/-- The route of a packet within this device. -/
def routeHere (s : State) (tile port : Nat) (p : Packet) : Route :=
  if typ p = 0xA ∨ typ p = 0xB then
    match tileOf s (dcore p) with
    | none => .absent
    | some t =>
        if port = 5 then .go [(p, t, 4, 0)] false
        else .go [(p, laneRow (t / 34) (span p ≥ 16) * 34 + t % 34, 5, 0)] false
  else if forHub p then .go [(p, hubTile (dcore p), 6, 0)] false
  else if mcast p = 1 ∨ mcast p = 2 then
    match lineEntry s tile port p with
    | none => .drop
    | some n => .go [(p, (tileOf s n).getD 0, 4, 1)] false
  else if mcast p = 3 then
    let copy : Packet := { p with head := setFld p.head 102 96 0 }
    let here := match tileOf s (dcore p) with | some t => [(copy, t, 4, 0)] | none => []
    .go (here ++ match lineOn s p with | some (q, out) => [leaveBy tile port out q] | none => []) here.isEmpty
  else match tileOf s (dcore p) with
    | none => .absent
    | some t => .go [(p, t, 4, 0)] false

/-- The route of a packet from the waystation where it enters (R355; spec/12_osust_links.md R389). -/
def routeOf (s : State) (tile port : Nat) (p : Packet) : Route :=
  if ddev p = devNo s then routeHere s tile port p
  else match fePort s (ddev p) with
    | some q => .go [leaveBy tile port q p] false
    | none =>
        if !inShape s.shape (ddev p) then .absent
        else match shapePort s.shape (devNo s) (ddev p) with
          | some q => .go [leaveBy tile port q p] false
          | none => .absent

/-- The number of a port's transmit or receive buffer: VC and dateline class (spec/12_osust_links.md R386, R387). -/
def bufNo (vc : Nat) (dc : Bool) : Nat := vc * 2 + b1 dc

/-- The packet as it enters the transmit buffer of port `q`: class 1 when the link is the dateline (spec/12_osust_links.md
R391). -/
def txForm (s : State) (q : Nat) (p : Packet) : Packet := if crosses s q then { p with dc := true } else p

/-- The port through which a packet leaves this device from where it stands: for another device, or as the next leg of a torus
line that this device is on (spec/12_osust_links.md R389, R392). -/
def exitPort (s : State) (p : Packet) : Option Nat :=
  if ddev p = devNo s then (if mcast p = 3 then (lineOn s p).map Prod.snd else none)
  else match fePort s (ddev p) with
    | some q => some q
    | none => if inShape s.shape (ddev p) then shapePort s.shape (devNo s) (ddev p) else none

/-- The transmit-buffer entries reserved for a transit packet given back, when it is lost on the mesh (spec/12_osust_links.md
R387). -/
def unreserve (s : State) (p : Packet) : State :=
  if p.mid ≠ 0xA then s
  else match exitPort s p with
    | none => s
    | some q => modPort s q fun x => { x with
        reserved := nmod 0 x.reserved (bufNo (vcOf p) (txForm s q p).dc) (· - entriesOf p) }

/-- The head of a buffer after lookahead: it is gone, with the state that its loss leaves, or it stands as one or more flights, each
ready for an output, in the state that the lookahead leaves. -/
inductive Ahead where
  | gone (s : State)
  | ready (s : State) (fs : List Flight)

/-- Whether a packet is discarded without toll or NACK: its context resets and its generation is not the new one
(spec/14_contexts_recovery.md R444). -/
def stale (s : State) (p : Packet) : Bool :=
  (getShard s (pctx p)).state == .resetting && (getShard s (pctx p)).gen.toNat != pgen p

/-- The core copy and the onward legs of a line packet at a covered tile (R358). -/
def splitLine (s : State) (tile : Nat) (f : Flight) (leg : Nat) : List Flight :=
  match coreAt s tile with
  | none => []
  | some n =>
      let on (k : Nat) : List Flight := match lineNext s f.pkt n k with
        | some m => [{ f with route := some ((tileOf s m).getD 0, 4, k) }]
        | none => []
      { f with route := some (tile, 4, 0) } :: (if leg = 1 then on 2 ++ on 3 else on leg)

/-- A copy for an absent core discarded, counted and answered (R355; spec/01_device_organisation.md R21). -/
def lostAbsent (s : State) (tile : Nat) (p : Packet) : State :=
  returnPkt { s with fab := { s.fab with absent := satAdd s.fab.absent 1 } } tile p stAccess

/-- Lookahead for the head flight of a buffer. -/
def lookAhead (s : State) (tile port : Nat) (f : Flight) : Ahead :=
  if stale s f.pkt then .gone (unreserve s f.pkt)
  else match f.route with
    | some (t, out, leg) =>
        if t = tile ∧ leg ≠ 0 then
          match splitLine s tile f leg with
          | [] => .gone s
          | fs => .ready s fs
        else .ready s [{ f with route := some (t, out, leg) }]
    | none =>
        if badPacket f.pkt then .gone { s with fab := { s.fab with badPkt := satAdd s.fab.badPkt 1 } }
        else match routeOf s tile port f.pkt with
          | .drop => .gone s
          | .absent => .gone (lostAbsent s tile f.pkt)
          | .go fs lost =>
              let s1 := if lost then lostAbsent s tile f.pkt else s
              if fs = [] then .gone s1
              else .ready s1 (fs.flatMap fun q =>
                let g : Flight := { f with pkt := q.1, route := some (q.2.1, q.2.2.1, q.2.2.2) }
                if q.2.1 = tile ∧ q.2.2.2 ≠ 0 then splitLine s1 tile g q.2.2.2 else [g])

/-- The output that a routed flight takes at a tile: X then Y, and at its tile the port that it names (R355). Outputs: 0 north,
1 south, 2 east, 3 west, 4 core, 5 lane, 6 attachment. -/
def outputOf (tile : Nat) (f : Flight) : Nat :=
  match f.route with
  | none => 4
  | some (t, out, _) =>
      if tile % 34 < t % 34 then 2 else if t % 34 < tile % 34 then 3
      else if tile / 34 < t / 34 then 1 else if t / 34 < tile / 34 then 0 else out

/-! ### Flow control (R361; spec/12_osust_links.md R387) -/

/-- The tile and input port that an output of a tile leads to. -/
def nextTile (tile out : Nat) : Nat × Nat :=
  match out with
  | 0 => (tile - 34, 1)
  | 1 => (tile + 34, 0)
  | 2 => (tile + 1, 3)
  | _ => (tile - 1, 2)

/-- The entries of a VC at a core port. -/
def coreEntries (c : Core) (vc : Nat) : Nat := ((c.arrived.filter fun p => vcOf p == vc).map entriesOf).sum

/-- The key of the OFF state of a core port. -/
def coreOffKey (tile vc : Nat) : Nat := bufKey tile 7 vc

/-- Whether a core port holds a VC OFF: OFF at four entries, ON at two (R361); VC-E also while the write queue of the outrider is
full (spec/05_synapse_storage.md R188), VC-B also while four contributions wait for the tally adder
(spec/09_queues_active_messages.md R308). -/
def coreOff (s : State) (tile : Nat) (c : Core) (vc : Nat) : Bool :=
  let k := coreEntries c vc
  k ≥ 4 || (s.fab.off.contains (coreOffKey tile vc) && k > 2) || (vc == 1 && writesFull c) ||
    (vc == 2 && (c.arrived.filter fun p => typ p == 8).length ≥ 4)

/-- The entries of a transmit buffer that are taken or reserved. -/
def txUsed (x : Port) (b : Nat) : Nat := ((nget [] x.tx b).map entriesOf).sum + nget 0 x.reserved b

/-- Whether a port returns every packet that would leave through it (spec/12_osust_links.md R394). -/
def portLost (x : Port) : Bool := x.state == .down || x.state == .miswired || x.state == .disabled

/-- Whether flow control lets a flight leave by an output. A transit packet takes the entry that was reserved for it; any
other packet needs an unreserved one (spec/12_osust_links.md R387). -/
def mayLeave (s : State) (tile out : Nat) (f : Flight) : Bool :=
  let p := f.pkt
  match out with
  | 4 => match coreAt s tile with
      | some n => !coreOff s tile (getCore s n) (vcOf p)
      | none => true
  | 5 => true
  | 6 => match portAt tile with
      | none => true
      | some q =>
          let x := getPort s q
          let b := bufNo (vcOf p) (txForm s q p).dc
          portLost x || p.mid == 0xA || txUsed x b + entriesOf p ≤ 64
  | o => let (t, i) := nextTile tile o
         !s.fab.off.contains (bufKey t i (vcOf p))

/-! ### Tolls (R362-R364) -/

/-- The key of a gate of a physical tile: by its logical core, or by the tile where no logical core lies. -/
def gateKey (s : State) (tile g : Nat) : Nat := match coreAt s tile with | some n => n * 16 + g | none => (2048 + tile) * 16 + g
/-- Gate `g` of a physical tile. -/
def wayGate (s : State) (tile g : Nat) : Gate := nget (gateReset g) s.fab.gates (gateKey s tile g)
/-- The state with a gate of a physical tile replaced. -/
def setWayGate (s : State) (tile g : Nat) (x : Gate) : State :=
  { s with fab := { s.fab with gates := nset (gateReset g) s.fab.gates (gateKey s tile g) x } }

/-- The gate of an output: 2 north to 6 core, 7 lane, 8 attachment (R368). -/
def outGate (out : Nat) : Nat := out + 2

/-- The units that a packet is charged at an output: halves of a slot, or lane cycles of 8 bytes (R362). -/
def unitsOf (out : Nat) (p : Packet) : Nat :=
  if out = 5 then 2 + 4 * p.flits.length else if p.flits = [] then 1 else 2 + 2 * p.flits.length

/-- A of a class at an output gate (R363): 8,192 halves or 4,096 lane cycles a window, times SLOTS / 64. -/
def allowance (out : Nat) (g : Gate) (k : Nat) : Nat := (if out = 5 then 64 else 128) * slotsOf g.a g.b k

/-- Whether a class lies within its budget at an output gate. -/
def inBudget (out : Nat) (g : Gate) (k : Nat) : Bool := nget 0 g.used k < allowance out g k

/-- The head of a buffer: its first flight with the other copies of the same packet, which share its age (R359), and the rest. -/
def headOf (fs : List Flight) : List Flight × List Flight :=
  match fs with
  | [] => ([], [])
  | f :: _ => fs.span fun g => g.age == f.age

/-- What the head of an input buffer asks for: its flights after lookahead. -/
def wants (s : State) (tile port vc : Nat) : List Flight :=
  match headOf (nget [] s.fab.buf (bufKey tile port vc)) with
  | ([f], _) => (match lookAhead s tile port f with | .ready _ gs => gs | .gone _ => [])
  | (fs, _) => fs

/-- The heads of the other input buffers of a tile that ask for an output: their VC, age and class. -/
def rivals (s : State) (tile port vc out : Nat) : List (Nat × Nat × Nat) :=
  ((List.range 7).flatMap fun i => (List.range 3).map fun v => (i, v)).filterMap fun q =>
    if q = (port, vc) then none
    else ((wants s tile q.1 q.2).find? fun f => outputOf tile f == out && mayLeave s tile out f).map fun f =>
      (q.2, f.age, f.pkt.cls.toNat)

/-- Whether the gate of an output grants a flight (R364): within its budget, before every rival within budget of a lower VC rank
or a later age; or by LEND when no rival is within budget, in the same order among those that lend. -/
def granted (s : State) (tile port vc out : Nat) (f : Flight) : Bool :=
  let g := wayGate s tile (outGate out)
  let k := f.pkt.cls.toNat
  let rs := rivals s tile port vc out
  let first (r : Nat × Nat × Nat) : Bool := vc < r.1 || (vc == r.1 && f.age ≤ r.2.1)
  if inBudget out g k then (rs.filter fun r => inBudget out g r.2.2).all first
  else lendOf g.a g.b k && (rs.all fun r => !inBudget out g r.2.2) && (rs.filter fun r => lendOf g.a g.b r.2.2).all first

/-- A granted packet charged to its class at the gate of its output, once for all its copies that use it (R359). -/
def charge (s : State) (tile out : Nat) (p : Packet) : State :=
  let g := wayGate s tile (outGate out)
  setWayGate s tile (outGate out) (g.take p.cls.toNat (unitsOf out p))

/-! ### Forwarding (R350-R354) -/

/-- A packet put into the transmit buffer of a port, or returned with LINK_DOWN when the port is lost (spec/12_osust_links.md
R387, R394). -/
def portEnter (s : State) (tile q : Nat) (p : Packet) : State :=
  let x := getPort s q
  if portLost x then returnPkt (setPort s q { x with ldnack := if vcOf p = 0 then x.ldnack else satAdd x.ldnack 1 }) tile p stLinkDown
  else
    let p1 := txForm s q p
    let b := bufNo (vcOf p) p1.dc
    setPort s q { x with
      tx := nset [] x.tx b (nget [] x.tx b ++ [p1])
      reserved := if p.mid = 0xA then nmod 0 x.reserved b (· - entriesOf p) else x.reserved }

/-- A packet taken from the mesh at a tile: by the core, the depot lane or the attachment. -/
def takeOut (s : State) (tile out : Nat) (p : Packet) : State :=
  match out with
  | 4 =>
      match coreAt s tile with
      | none => s
      | some n =>
          let s1 := modCore s n fun c => { c with arrived := c.arrived ++ [p] }
          let k := coreOffKey tile (vcOf p)
          let off := s1.fab.off.erase k
          if coreEntries (getCore s1 n) (vcOf p) ≥ 4 then { s1 with fab := { s1.fab with off := k :: off } }
          else { s1 with fab := { s1.fab with off := off } }
  | 5 => { s with fab := { s.fab with lanes := s.fab.lanes ++ [p] } }
  | _ =>
      match portAt tile with
      | none => hubTake s p
      | some q => portEnter s tile q p

/-- The check bits over the quarters of a slot, ECC_DATA (R350, R351). -/
def eccData (d : BitVec 256) : Nat :=
  ((List.range 4).map fun q => Config.secded 64 (fld d (64 * q + 63) (64 * q)) % 256 * 2 ^ (8 * q)).sum

/-- A slot with its sideband, from SLOT to UCLASS (R350). -/
def wireSlot (slot : Nat) (last uvalid : Bool) (lvc lcls uvc ucls : Nat) (d : BitVec 256) : BitVec 256 × BitVec 52 :=
  let ctl := slot * 2 ^ 12 + b1 last * 2 ^ 11 + b1 uvalid * 2 ^ 10 + lvc * 2 ^ 8 + lcls * 2 ^ 5 + uvc * 2 ^ 3 + ucls
  (d, BitVec.ofNat 52 (ctl * 2 ^ 38 + Config.secded 14 ctl % 64 * 2 ^ 32 + eccData d))

/-- A long packet on a link: its head, then its flits (R350). -/
def longSlots (p : Packet) : List (BitVec 256 × BitVec 52) :=
  wireSlot 2 false false (vcOf p) p.cls.toNat 0 0 (p.head.setWidth 256) ::
    p.flits.zipIdx.map fun f => wireSlot 3 (f.2 + 1 == p.flits.length) false (vcOf p) p.cls.toNat 0 0 f.1

/-- The slots in which packets that leave together cross a link: two short packets share a slot (R350). -/
def wireSlots : List Packet → List (BitVec 256 × BitVec 52)
  | [] => []
  | [p] => if p.flits = [] then [wireSlot 1 false false (vcOf p) p.cls.toNat 0 0 (p.head.setWidth 256)] else longSlots p
  | p :: q :: r =>
      if p.flits = [] ∧ q.flits = [] then
        wireSlot 1 false true (vcOf p) p.cls.toNat (vcOf q) q.cls.toNat (q.head ++ p.head) :: wireSlots r
      else longSlots p ++ wireSlots (q :: r)

/-- The flights of one head that leave through one output of a tile: over the link to the next tile together, or taken. -/
def moveOut (s : State) (tile out : Nat) (fs : List Flight) : State :=
  let s1 := { s with fab := { s.fab with wire := wireSlots (fs.map Flight.pkt) } }
  if out < 4 then
    let (t, i) := nextTile tile out
    { s1 with fab := enterCopies s1.fab t i fs }
  else fs.foldl (fun s f => takeOut s tile out f.pkt) s1

/-- A buffer of a tile replaced. -/
def putBuf (s : State) (tile port vc : Nat) (fs : List Flight) : State :=
  { s with fab := setBuf s.fab (bufKey tile port vc) vc fs }

/-- The flights at the head of a buffer that ask for one output, when flow control and its toll let them leave. A request that the
budgets hold counts in HELD, one for each attempt (R364, R368). -/
def tryOut (tile port vc : Nat) (s : State) (out : Nat) : State :=
  let (hd, rest) := headOf (nget [] s.fab.buf (bufKey tile port vc))
  match hd.filter fun f => outputOf tile f == out with
  | [] => s
  | f :: fs =>
      if !mayLeave s tile out f then s
      else if !granted s tile port vc out f then
        let x := wayGate s tile (outGate out)
        setWayGate s tile (outGate out) { x with held := bumpWord x.held 1 }
      else
        let s1 := putBuf s tile port vc ((hd.filter fun f => outputOf tile f != out) ++ rest)
        moveOut (charge s1 tile out f.pkt) tile out (f :: fs)

/-- The head of a buffer taken one hop on: its lookahead, then flow control and the toll of each output that it asks for; the copies
of a split are granted independently (R359). -/
def forward (s : State) (tile port vc : Nat) : State :=
  match headOf (nget [] s.fab.buf (bufKey tile port vc)) with
  | ([f], rest) =>
      match lookAhead s tile port f with
      | .gone s1 => putBuf s1 tile port vc rest
      | .ready s1 fs => (List.range 7).foldl (tryOut tile port vc) (putBuf s1 tile port vc (fs ++ rest))
  | _ => (List.range 7).foldl (tryOut tile port vc) s

/-- An uncorrectable slot: the whole packet is discarded, counted, and reported to management over the mesh (R351). The slot address
in the notice is a free value (assumption 6). -/
def slotLost (s : State) (tile port vc : Nat) : State :=
  match headOf (nget [] s.fab.buf (bufKey tile port vc)) with
  | ([], _) => s
  | (f :: fs, rest) =>
      let p := f.pkt
      let me := (coreAt s tile).getD 0
      let n := mkPkt 7 0 (devNo s) 0x3FF 0 0 (srcWord (devNo s) me 0) (Config.sourceBlock 1).toNat (pctx p) (pgen p) 0x22
        (Config.measured s.free).toNat 5
      let s1 := putBuf ((f :: fs).foldl (fun s g => unreserve s g.pkt) s) tile port vc rest
      { s1 with
        free := s1.free + 1
        fab := { enterBuf s1.fab tile 4 n none with ue := satAdd s1.fab.ue 1 } }

/-- The slot and the protected group that a bit of a packet on a link belongs to (R350, R351): bit `n` is bit n mod 308 of slot
n / 308, its data in [255:0] and its sideband above; groups 0 to 3 are the quarters with their check bits, 4 is the control group. -/
def flipGroup (n : Nat) : Nat × Nat :=
  let b := n % 308
  (n / 308, if b < 256 then b / 64 else if b < 288 then (b - 256) / 8 else 4)

/-- The wrong bits of a group. -/
def flipsIn (flips : List Nat) (g : Nat × Nat) : Nat := (flips.filter fun n => flipGroup n == g).length

/-- The groups of a packet's slots. -/
def slotGroups (slots : Nat) : List (Nat × Nat) := (List.range slots).flatMap fun i => (List.range 5).map fun q => (i, q)

/-- The groups that SECDED corrects: one wrong bit (R351). -/
def corrected (flips : List Nat) (slots : Nat) : Nat := ((slotGroups slots).filter fun g => flipsIn flips g == 1).length

/-- Whether a group has more wrong bits than SECDED corrects; three and more count as two (R351; assumption 93). -/
def uncorrectable (flips : List Nat) (slots : Nat) : Bool := (slotGroups slots).any fun g => flipsIn flips g ≥ 2

/-- WAYSTATION_FORWARD: the waystation of a physical tile takes the packet at the head of an input buffer (R351, R354, R355);
`flips` names the bits of its slots that arrived wrong. -/
def execWaystationForward (tile port vc : Nat) (flips : List Nat) (s : State) : Host.Outcome State Fault Refusal :=
  match nget [] s.fab.buf (bufKey tile port vc) with
  | [] => .next s
  | f :: _ =>
      let n := entriesOf f.pkt
      let s1 := { s with fab := { s.fab with ce := satAdd s.fab.ce (corrected flips n) } }
      .next (if uncorrectable flips n then slotLost s1 tile port vc else forward s1 tile port vc)

/-! ### Toll windows (R363, R366) -/

/-- A gate at the boundary of a window: writes that waited stand, and the used counts are clear. -/
def Gate.turn (g : Gate) : Gate := { g with a := g.nextA, b := g.nextB, pendA := none, pendB := none, used := [] }

/-- What a class of a DDR gate carries into the next window, in fifths of a burst: the fraction of A below one unit. -/
def ddrCarry (pl : Nat) (g : Gate) : NMap Nat :=
  (List.range 8).foldl (fun m k => nset 0 m k ((ddrShare pl * slotsOf g.a g.b k + nget 0 g.carry k) % 5)) []

/-- A map of gates at the boundary of a window; a gate that is back at its reset value leaves the map. -/
def turnGates (d : Nat → Gate) (f : Gate → Gate) (m : NMap Gate) : NMap Gate :=
  (m.map fun p => (p.1, f p.2)).filter fun p => p.2 ≠ d p.1

/-- A core at the boundary of a window: the cycles used at its DP and MEM gates are clear, and learning work that waited for the
LEARN toll goes on (R363; spec/06_learning.md R212). -/
def turnCore (s : State) (n : Nat) : State :=
  let c := getCore s n
  applyEff s n (learnResume (envOf s n) { c with ports := { c.ports with dp := [], mem := [] } })

/-- Every gate of the device at the boundary of a window (R363). -/
def turnWindow (s : State) : State :=
  let pl := s.pwr.pl.toNat
  let ddr := (List.range 16).foldl (fun m c =>
    let g := nget gateDdr m c
    nset gateDdr m c { g.turn with carry := ddrCarry pl g }) s.fab.ddr
  let s1 := { s with fab := { s.fab with
    gates := turnGates (fun k => gateReset (k % 16)) Gate.turn s.fab.gates
    ddr := ddr
    cmd := s.fab.cmd.turn
    cvy := s.fab.cvy.turn
    win := s.fab.win + 1 } }
  (s1.cores.map Prod.fst).foldl turnCore s1

/-- TOLL_WINDOW_BOUNDARY (R363). -/
def execTollWindowBoundary (s : State) : Host.Outcome State Fault Refusal := .next (turnWindow s)

/-! ### Register access by CTRL packet (R371) -/

/-- The answer of a tile to a register request: done or discarded, the offset and the value. -/
def regRsp (s : State) (core : Nat) (p : Packet) (discarded : Bool) (v : Word) : State :=
  coreSend s core (toHub s core 7 0 3 (b1 discarded * 2 ^ 14 + stamp p % 2 ^ 14) v.toNat p.cls.toNat)

/-- The BAR0 offset of a tile register (spec/01_device_organisation.md R41). -/
def tileAddr (core off : Nat) : Nat := 0x1000000 + core * 0x4000 + off

/-- Whether an offset names the A or B word of a gate that the core's tile has. -/
def isGateWord (s : State) (core off : Nat) : Bool :=
  0x400 ≤ off && off < 0x490 && (off % 16 == 0 || off % 16 == 4) && gateExists s core ((off - 0x400) / 16)

/-- Whether the context bound to a core is stopped; a core bound to none counts as stopped (assumption 69). -/
def coreStopped (s : State) (core : Nat) : Bool :=
  !(getCore s core).bound || (getShard s (getCore s core).ctx).state == .stopped

/-- Whether an offset of a tile window holds a register or is one that its chapter reserves; any other is unassigned
(spec/01_device_organisation.md R44, R51; assumption 77). -/
def tileDeclared (off : Nat) : Bool :=
  off < 0x128 || (0x200 ≤ off && off < 0x908) || (0x980 ≤ off && off < 0x994) || (0xA00 ≤ off && off < 0xB10) ||
    (0xC00 ≤ off && off < 0xC14) || (0xD00 ≤ off && off < 0xD18) || (0xE00 ≤ off && off < 0xE10) ||
    (0xF00 ≤ off && off < 0xF10) || 0x1000 ≤ off

/-- The status with which a tile refuses a register write: MID 0xC is accepted only at the two registers that name it, MID 0xD to
0xF nowhere (spec/01_device_organisation.md R39, R40); a gate's words must keep the rules of R366, and after lock come from MID
0x2 or 0x6; the step, handler and queue registers take writes from the masters that their chapters name
(spec/04_step_time.md R157; spec/08_handler_unit.md R283; spec/09_queues_active_messages.md R321), TILE_TMR_WATCH from none
(spec/16_timers.md R488). -/
def tileRefuses (s : State) (core mid off : Nat) (v : Word) : Option Status :=
  let unit := mid == 2 || mid == 6
  if mid ≥ 0xD ∨ (mid = 0xC ∧ off ≠ 0x104 ∧ off ≠ 0x114) ∨ !tileDeclared off then some stAccess
  else if isGateWord s core off then
    if s.glb.locked && !unit then some stLocked
    else if gateWriteOk s core ((off - 0x400) / 16) (off % 16 == 4) v then none else some stAccess
  else if 0x100 ≤ off ∧ off < 0x128 then
    if unit || (mid == 0xC && (off == 0x104 || off == 0x114)) then none else some stAccess
  else if 0x200 ≤ off ∧ off < 0x21C then if unit && coreStopped s core then none else some stAccess
  else if 0x300 ≤ off ∧ off < 0x330 then
    if mid == 6 || (mid == 2 && coreStopped s core) then none else some stAccess
  else if off = 0x990 then some stAccess
  else none

/-- A register write at a tile: taken, or discarded with a log entry. The command router writes only FREE of TILE_STEP_CFG
(spec/04_step_time.md R157). -/
def tileWriteBy (s : State) (core mid off : Nat) (v : Word) : State :=
  match tileRefuses s core mid off v with
  | some st => violTile s core mid (devNo s) 0 st (tileAddr core off)
  | none =>
      if mid = 0xC ∧ off = 0x104 then
        modCore s core fun c => { c with st := { c.st with free := bit v 6 } }
      else tileWrite s core off v

/-- REG_WR: the tile writes the register, or discards the write and logs it (R366, R371). -/
def execRegWr (core : Nat) (pkt : Packet) (s : State) : Host.Outcome State Fault Refusal :=
  let s1 := portDone s core pkt
  let v := BitVec.ofNat 32 (payload pkt)
  let off := stamp pkt % 2 ^ 14
  let mid := fld pkt.head 67 64
  .next (regRsp (tileWriteBy s1 core mid off v) core pkt (tileRefuses s1 core mid off v).isSome v)

/-- Whether a tile refuses a register read of a master: MID 0xC reads the counter range only, MID 0xD to 0xF nothing
(spec/01_device_organisation.md R39, R40). -/
def tileReadRefused (mid off : Nat) : Bool := mid ≥ 0xD || (mid == 0xC && !(0x800 ≤ off && off < 0x1000))

/-- A register read at a tile by a master: the value and the state after it, with RC fields clear (spec/00_scope.md R11), or 0 and a
log entry. -/
def tileReadBy (s : State) (core mid off : Nat) : Word × State :=
  if tileReadRefused mid off then (0, violTile s core mid (devNo s) 0 stAccess (tileAddr core off))
  else (tileRead s core off, tileReadClear s core off)

/-- REG_RD: the tile answers with the value, or refuses the read (R371). -/
def execRegRd (core : Nat) (pkt : Packet) (s : State) : Host.Outcome State Fault Refusal :=
  let off := stamp pkt % 2 ^ 14
  let mid := fld pkt.head 67 64
  let (v, s1) := tileReadBy (portDone s core pkt) core mid off
  .next (regRsp s1 core pkt (tileReadRefused mid off) v)

/-- Bytes [lo, lo + n) of a word put at byte `at` of a read's answer. -/
def putBytes (r : BitVec 64) (v : Word) (lo n at_ : Nat) : BitVec 64 :=
  if n = 0 then r else setFld r (8 * (at_ + n) - 1) (8 * at_) (v.toNat / 256 ^ lo)

/-- REG_RSP at the hub: it answers the oldest request to its core; the bytes that a read asked for go to the master that asked (R371;
spec/01_device_organisation.md R43). -/
def execRegRsp (pkt : Packet) (s : State) : Host.Outcome State Fault Refusal :=
  let s1 := hubDone s pkt
  match s.asked.find? fun r => r.core == srcCore pkt with
  | none => .next s1
  | some r => .next { s1 with
      asked := s.asked.erase r
      rdata := putBytes s.rdata (BitVec.ofNat 32 (payload pkt)) r.lo r.n r.at_ }

end Sys2Proof.Machine
end

