-- ==== Sys2Proof/Machine/Insn.lean ====
section
/-! DEFINITION. The handler instruction word: its formats, its opcodes and what makes a word reserved
(spec/08_handler_unit.md R270, R271). -/

namespace Sys2Proof.Machine

/-- OP. -/
def iOp (w : Word) : Nat := fld w 31 26

/-- A word of format R. -/
def encR (op rd ra rb func : Nat) : Word :=
  BitVec.ofNat 32 (op % 64 * 2 ^ 26 + rd % 32 * 2 ^ 21 + ra % 32 * 2 ^ 16 + rb % 32 * 2 ^ 11 + func % 2048)
/-- A word of format I. -/
def encI (op rd ra imm : Nat) : Word :=
  BitVec.ofNat 32 (op % 64 * 2 ^ 26 + rd % 32 * 2 ^ 21 + ra % 32 * 2 ^ 16 + imm % 2 ^ 16)
/-- A word of format B; `off` is the 16-bit field. -/
def encB (op ra rb off : Nat) : Word := encI op ra rb off
/-- A word of format J; `off` is the 21-bit field. -/
def encJ (op rd off : Nat) : Word := BitVec.ofNat 32 (op % 64 * 2 ^ 26 + rd % 32 * 2 ^ 21 + off % 2 ^ 21)
/-- A word of format V. -/
def encV (op d va vb za zb n clr neg : Nat) : Word :=
  BitVec.ofNat 32 (op % 64 * 2 ^ 26 + d % 8 * 2 ^ 23 + va % 8 * 2 ^ 20 + vb % 8 * 2 ^ 17 + za % 16 * 2 ^ 13 + zb % 16 * 2 ^ 9 +
    n % 128 * 4 + clr % 2 * 2 + neg % 2)
/-- A word of format M. -/
def encM (op d ra vb rn za zb inc clr : Nat) : Word :=
  BitVec.ofNat 32 (op % 64 * 2 ^ 26 + d % 8 * 2 ^ 23 + ra % 32 * 2 ^ 18 + vb % 8 * 2 ^ 15 + rn % 32 * 2 ^ 10 + za % 16 * 2 ^ 6 +
    zb % 16 * 4 + inc % 2 * 2 + clr % 2)
/-- A word of format S; `rest` is the field [6:0]. -/
def encS (op rd va vb za zb rest : Nat) : Word :=
  BitVec.ofNat 32 (op % 64 * 2 ^ 26 + rd % 32 * 2 ^ 21 + va % 8 * 2 ^ 18 + vb % 8 * 2 ^ 15 + za % 16 * 2 ^ 11 + zb % 16 * 2 ^ 7 +
    rest % 128)

/-- Whether a word has an assigned opcode and no reserved field value (R270, R271). Fields that an instruction does not use are
ignored (assumption 26). -/
def insnOk (w : Word) : Bool :=
  let rd := fld w 25 21
  match iOp w with
  | 0x00 => fld w 10 0 ≤ 12
  | 0x07 => fld w 6 5 != 3
  | 0x10 => fld w 9 0 != 0
  | 0x1A => rd < 8
  | 0x1B => rd < 8
  | 0x1C => rd < 4
  | 0x1D => rd < 4
  | 0x20 => !bit w 25
  | 0x21 => !bit w 25
  | 0x22 => !bit w 25
  | 0x23 => fld w 6 0 == 0
  | 0x24 => rd < 4 && fld w 10 0 ≤ 2
  | 0x25 => rd < 8
  | 0x29 => rd < 8
  | 0x2B => rd < 8
  | 0x31 => fld w 1 0 != 3
  | 0x34 => fld w 2 0 != 7
  | op => (op ≤ 0x12) || (0x14 ≤ op && op ≤ 0x19) || (0x26 ≤ op && op ≤ 0x28) || op == 0x2A || op == 0x30 || op == 0x32 ||
      op == 0x33 || op == 0x35

/-- The target of a branch or JAL at `pc`; none for any other word. -/
def jumpTarget (pc : Nat) (w : Word) : Option Int :=
  if 0x08 ≤ iOp w ∧ iOp w ≤ 0x0D then some ((pc : Int) + signed 16 (fld w 15 0))
  else if iOp w = 0x0E then some ((pc : Int) + signed 21 (fld w 20 0))
  else none

/-- Whether an instruction index lies in one of some ranges, first and count. -/
def inRanges (rs : List (Nat × Nat)) (i : Int) : Bool := rs.any fun r => (r.1 : Int) ≤ i && i < r.1 + r.2

end Sys2Proof.Machine
end

