-- ==== Sys2Proof/Machine/Records.lean ====
section
/-! DEFINITION. Action records: their shape, the objects they name, and what applying one does (spec/10_convoys.md
R327-R334; spec/14_contexts_recovery.md R437). Sections and convoys share them. -/

namespace Sys2Proof.Machine

/-! ### Headers (R327) -/

/-- KIND. -/
def aKind (r : ActionRecord) : Nat := fld r.header 127 120
/-- HOME. -/
def aHome (r : ActionRecord) : Nat := fld r.header 119 111
/-- CVID. -/
def aCvid (r : ActionRecord) : Nat := fld r.header 110 105
/-- The tag that HOME and CVID name: the home device and the id (R323). -/
def aTag (r : ActionRecord) : Nat := aHome r * 64 + aCvid r
/-- TDEV. -/
def aTdev (r : ActionRecord) : Nat := fld r.header 104 96
/-- TCORE. -/
def aTcore (r : ActionRecord) : Nat := fld r.header 95 86
/-- INDEX. -/
def aIndex (r : ActionRecord) : Nat := fld r.header 85 72
/-- The units, COUNT + 1. -/
def aUnits (r : ActionRecord) : Nat := fld r.header 71 58 + 1
/-- ARG. -/
def aArg (r : ActionRecord) : Nat := fld r.header 57 29
/-- DLEN. -/
def aDlen (r : ActionRecord) : Nat := fld r.header 28 19
/-- `n` data bytes from byte `off` on, as one number. -/
def aData (r : ActionRecord) (off n : Nat) : Nat := ofBytes ((r.data.drop off).take n)

/-- Records read from bytes: header, DLEN data bytes and padding to 16. Zeros that fill the last bale end the list; `n` bounds
the records (R327; assumption 23). -/
def parseRecords : Nat → List Byte → Option (List ActionRecord)
  | 0, bs => if bs.all (· == 0) then some [] else none
  | n + 1, bs =>
      if bs.all (· == 0) then some []
      else
        let h := BitVec.ofNat 128 (ofBytes (bs.take 16))
        let k := fld h 28 19
        if bs.length < 16 + (k + 15) / 16 * 16 then none
        else (parseRecords n (bs.drop (16 + (k + 15) / 16 * 16))).map
          ({ header := h, data := (bs.drop 16).take k } :: ·)

/-! ### The shape of a record (R328, R437) -/

/-- Contributors that one TALLY record may carry (R333). -/
def tallyMax (first : Nat) : Nat := if first = 0 then 248 else 252

/-- Whether INDEX, COUNT, ARG and DLEN of a record suit its kind, and its data obey the rules that R328 gives, the limits of
`inLimit` apart. -/
def formOk (r : ActionRecord) : Bool :=
  let i := aIndex r
  let n := aUnits r
  let arg := aArg r
  let d := aDlen r
  let one : Bool := n == 1 && arg == 0
  r.data.length == d && fld r.header 18 0 == 0 && match aKind r with
    | 0x01 => one && i < 64 && d == 64
    | 0x02 => n == 1 && arg ≤ 1 && d == 16
    | 0x03 => arg == 0 && n ≤ 15 && d == 64 * n
    | 0x04 => d == 0
    | 0x05 => one && i < 16 && d == 16
    | 0x06 => one && (d == 8 || d == 16)
    | 0x07 => arg == 0 && n ≤ 128 && d == 4 * n
    | 0x08 => n == 1 && (arg == 0 || arg == 2 ^ 28) && i % 4 == 0 && d == 8
    | 0x09 => one && i < 256 && d == 16
    | 0x0A => one && i < 256 && d == 16 && aData r 0 16 % 2 ^ 94 == 0
    | 0x0B => one && i < 256 && d == 0
    | 0x0C => i < 256 && arg + n ≤ 512 && n ≤ tallyMax arg && d == (if arg = 0 then 16 else 0) + 4 * n
    | 0x0D => n == 1 && arg ≤ 1 && i ≤ 256 && d == 8 && aData r 0 8 / 2 ^ 36 % 4 == 1
    | 0x0E => arg == 0 && n ≤ 126 && d == 8 * n
    | 0x10 => one && i == 0 && d == 16 && aData r 0 8 != 0 && aData r 8 8 < aData r 0 8
    | 0x11 => one && i < 64 && d == 32 + 8 * (aData r 0 32 / 2 ^ 39 % 2 ^ 7)
    | 0x12 => one && i < 64 && d == 0
    | 0x13 => one && i < 64 && d == 8 + 8 * (aData r 0 8 / 2 ^ 4 % 2 ^ 7)
    | 0x14 => one && i < 64 && d == 0
    | 0x20 => arg == 0 && n ≤ 126 && d == 8 * n
    | 0x21 => arg ≤ 1 && n ≤ 126 && d == 8 * n
    | 0x22 => n == 1 && i == 0 && d == 16 && aData r 8 4 % 512 == 0 && aData r 12 4 == 0
    | 0x23 => one && i < 256 && d == 16
    | _ => false

/-- How many objects there are of a kind whose limit the loader reports under a reason of its own (spec/05_synapse_storage.md
R191): descriptors, row-store lines, table entries, instructions, slots and list entries. -/
def kindLimit (k : Nat) : Option Nat :=
  match k with
  | 0x02 => some 4096
  | 0x03 => some 16384
  | 0x04 => some 16384
  | 0x06 => some 64
  | 0x07 => some 8192
  | 0x0E => some 8192
  | 0x20 => some 8192
  | 0x21 => some 256
  | _ => none

/-- Whether a record stays within the objects of its kind. -/
def inLimit (r : ActionRecord) : Bool := match kindLimit (aKind r) with | some n => aIndex r + aUnits r ≤ n | none => true

/-- Whether a record is well formed (R328). -/
def shapeOk (r : ActionRecord) : Bool := formOk r && inLimit r

/-- Whether a kind is a core kind of a convoy. -/
def coreKind (k : Nat) : Bool := 1 ≤ k && k ≤ 0x0E
/-- Whether a kind is a hub kind. -/
def hubKind (k : Nat) : Bool := 0x10 ≤ k && k ≤ 0x14
/-- Whether a section may carry a kind (R437). -/
def sectionKind (k : Nat) : Bool := (coreKind k && k != 0x0A && k != 0x0B) || (0x20 ≤ k && k ≤ 0x23)

/-! ### Objects (R328, R336) -/

/-- A run of objects that a record names: their class and the first and the number of them. -/
structure Objects where
  cls   : Nat
  first : Nat
  count : Nat
  deriving DecidableEq, Repr

/-- The objects of a record. The handler store, the in-list and the pace are one object each; a queue is one object for QENTRY
and TALLY, a channel for QOPEN and QCLOSE, a stream for SOPEN and SCLOSE (R328). -/
def objectsOf (r : ActionRecord) : Objects :=
  let i := aIndex r
  match aKind r with
  | 0x03 => { cls := 3, first := i, count := aUnits r }
  | 0x04 => { cls := 3, first := i, count := aUnits r }
  | 0x07 => { cls := 7, first := 0, count := 1 }
  | 0x08 => { cls := if aArg r = 0 then 8 else 0x18, first := i, count := 4 }
  | 0x0B => { cls := 0x0A, first := i, count := 1 }
  | 0x0C => { cls := 9, first := i, count := 1 }
  | 0x0D => { cls := 0x0D, first := 0, count := 1 }
  | 0x0E => { cls := 0x0E, first := i, count := aUnits r }
  | 0x12 => { cls := 0x11, first := i, count := 1 }
  | 0x14 => { cls := 0x13, first := i, count := 1 }
  | k => { cls := k, first := i, count := 1 }

/-- Whether two runs of objects share one. -/
def meets (a b : Objects) : Bool := a.cls == b.cls && a.first < b.first + b.count && b.first < a.first + a.count

/-! ### REG records (R328, R329, R339) -/

/-- The value of a REG record. -/
def regVal (r : ActionRecord) : Word := BitVec.ofNat 32 (aData r 0 4)
/-- The write mask of a REG record. -/
def regMask (r : ActionRecord) : Word := BitVec.ofNat 32 (aData r 4 4)

/-- The word that a masked write leaves. -/
def masked (old v m : Word) : Word := (old &&& ~~~m) ||| (v &&& m)

/-- Whether a REG record may be staged while the context runs (R329): TILE_STEP_CFG without FREE, TILE_Q_CFG, the toll gates, the
synapse configuration block and LRN_CFG, with a mask that is not 0. -/
def regRunOk (r : ActionRecord) : Bool :=
  regMask r != 0 &&
    if aArg r = 0 then
      (aIndex r == 0x104 && (regMask r &&& 0xF0BF) == regMask r) || aIndex r == 0x300 || (0x400 ≤ aIndex r && aIndex r < 0x800)
    else [0x2FF0, 0x2FF4, 0x2FF8, 0x2500].contains (aIndex r)

/-- The bits of a tile register that take a written 1 as a clear: a masked write leaves the others alone. -/
def w1cBits (off : Nat) : Word :=
  match off with
  | 0x108 => 0x8000
  | 0x210 => 0x30000000
  | 0x214 => 0x80000000
  | 0x980 => 0x80000000
  | 0xC0C => 0x80000000
  | _ => 0

/-- A REG record applied (R328). -/
def applyReg (s : State) (core : Nat) (r : ActionRecord) : State :=
  if aArg r = 0 then
    let old := tileRead s core (aIndex r) &&& ~~~(w1cBits (aIndex r))
    tileWrite s core (aIndex r) (masked old (regVal r) (regMask r))
  else modCore s core fun c =>
    let a := 0x3C000 + aIndex r
    ldmPut c a 4 (masked (BitVec.ofNat 32 (ldmGet c a 4)) (regVal r) (regMask r)).toNat

/-! ### What a core record does (R328, R332-R334, R437) -/

/-- GROUP: bytes 0x00 to 0x3F of a parameter set (spec/03_neuron_model.md R87). -/
def applyGroup (c : Core) (r : ActionRecord) : Core :=
  let g := groupRaw c (aIndex r)
  { c with nrn := { c.nrn with groups := nset 0 c.nrn.groups (aIndex r) (setFld g 511 0 (aData r 0 64)) } }

/-- DESC: the descriptor, its graded hint, the fetched lines of its entries given up (spec/05_synapse_storage.md R185), and the
sidecar of a learned one with XLAST of the step before `sc` (spec/06_learning.md R198). -/
def applyDesc (c : Core) (sc : Option Word) (r : ActionRecord) : Core :=
  let i := aIndex r
  let old := descOf c i
  let d := BitVec.ofNat 128 (aData r 0 16)
  let hint := c.syn.hint.filter (· != i)
  let c1 := setDesc c i d
  let c2 := { c1 with syn := { c1.syn with
    hint := if aArg r % 2 = 1 then ins hint i else hint
    ring := c1.syn.ring.map fun e => if rDidx e.entry = i then { e with fetch := .none } else e } }
  if dLrn old || dLrn d then
    let x := match sc with | some s => (s - 1).toNat % 256 | none => 0
    ldmSet c2 (sideAddr i) 2 (x * 256 + b1 (dLrn d))
  else c2

/-- LINES. -/
def applyLines (c : Core) (r : ActionRecord) : Core :=
  let ls := (List.range (aUnits r)).map fun k => BitVec.ofNat 512 (aData r (64 * k) 64)
  { c with syn := { c.syn with rows := nsetList 0 c.syn.rows (aIndex r) ls } }

/-- FILL: lines copied from the context's depot region, charged to the DEPOT toll at their channels (R340;
spec/11_fabric_tolls.md R356, R362). -/
def applyFill (s : State) (core : Nat) (r : ActionRecord) : State :=
  let ctx := (getCore s core).ctx
  let edge : Bool := aArg r ≥ 2 ^ 28
  let off := aArg r % 2 ^ 28 * 512
  let bs := regionRead s ctx edge off (64 * aUnits r)
  modCore (chargeRegion s ctx edge off (64 * aUnits r) 1) core fun c =>
    { c with syn := { c.syn with rows := nsetList 0 c.syn.rows (aIndex r) (bytesLines bs) } }

/-- HCODE: instructions written; the range counts as loaded. -/
def applyCode (c : Core) (r : ActionRecord) : Core :=
  let ws := (List.range (aUnits r)).map fun k => BitVec.ofNat 32 (aData r (4 * k) 4)
  { c with hnd := { c.hnd with
    store := nsetList 0 c.hnd.store (aIndex r) ws
    loaded := if c.hnd.loaded.contains (aIndex r, aUnits r) then c.hnd.loaded else c.hnd.loaded ++ [(aIndex r, aUnits r)] } }

/-- The contributor words of TALLY records, with their positions. -/
def tallyWords (rs : List ActionRecord) : NMap Word :=
  rs.foldl (fun m r =>
    let off := if aArg r = 0 then 16 else 0
    (List.range (aUnits r)).foldl (fun m k =>
      nput (aArg r + k) (BitVec.ofNat 32 (aData r (off + 4 * k) 4)) (nerase (aArg r + k) m)) m) []

/-- The TALLY records of one queue as one action (R333): `r` carries the tally fields, as four words TEXP, TMODE, TZERO and
completion handler (assumption 24); `rs` are all of them. Both rounds are discarded. -/
def applyTally (v : Env) (c : Core) (r : ActionRecord) (rs : List ActionRecord) : Eff :=
  let q := aIndex r
  let e := discardRounds v c q
  let c1 := e.core
  let x := setFld (setFld (setFld (setFld (qEnt c1 q) 72 64 (aData r 0 4)) 79 78 (aData r 4 4)) 77 74 (aData r 8 4)) 15 10
    (aData r 12 4)
  let ws := (tallyWords rs).map Prod.snd
  let c2 := { c1 with q := { c1.q with
    table := nset 0 c1.q.table q x
    lists := nset [] c1.q.lists q ws
    listed := nset 0 c1.q.listed q ws.length } }
  let c3 := clearRound (clearRound c2 q 0) q 1
  { core := ws.zipIdx.foldl (fun c w => ldmSet c (tallyList x + 4 * w.2) 4 w.1.toNat) c3, out := e.out }

/-- The in-list of a core replaced, with IN_ENTRIES (spec/04_step_time.md R132). -/
def setInList (c : Core) (es : List Nat) : Core :=
  { es.zipIdx.foldl (fun c e => ldmSet c (0x3F000 + 8 * e.2) 8 e.1) c with
    st := { c.st with inEntries := BitVec.ofNat 9 es.length } }

/-- Whether an INGEST record fits the in-list it meets (R334). -/
def ingestOk (es : List Nat) (r : ActionRecord) : Bool :=
  let e := aData r 0 8
  let i := aIndex r
  if aArg r = 1 then
    i ≤ es.length && es.length < 256 && es.all fun x => !(lKind x == 1 && lDev x == lDev e && lStream x == lStream e)
  else match es[i]? with
    | none => false
    | some x => lKind x == 1 && lDev x == lDev e && lStream x == lStream e

/-- INGEST: an entry put in or taken out, with IN_COUNT following (R334). -/
def applyIngest (c : Core) (r : ActionRecord) : Core :=
  let es := inList c
  let i := aIndex r
  if aArg r = 1 then
    let c1 := setInList c (es.take i ++ aData r 0 8 :: es.drop i)
    { c1 with st := { c1.st with inCount := c1.st.inCount + 1 } }
  else
    let c1 := setInList c (es.take i ++ es.drop (i + 1))
    { c1 with st := { c1.st with inCount := c1.st.inCount - 1 } }

/-- STATE: state words (spec/03_neuron_model.md R83). -/
def applyState (c : Core) (r : ActionRecord) : Core :=
  (List.range (aUnits r)).foldl (fun c k => setWord c (aIndex r + k) (BitVec.ofNat 64 (aData r (8 * k) 8))) c

/-- LIST of a section: list entries, with the entry counts following (R437). A list has 256 entries; what lies beyond goes
nowhere, and the loader refuses it (spec/04_step_time.md R133). -/
def applyList (c : Core) (r : ActionRecord) : Core :=
  let base := if aArg r = 0 then 0x3F000 else 0x3F800
  let c1 := (List.range (min (aUnits r) (256 - aIndex r))).foldl
    (fun c k => ldmPut c (base + 8 * (aIndex r + k)) 8 (aData r (8 * k) 8)) c
  let top := min 256 (aIndex r + aUnits r)
  if aArg r = 0 then { c1 with st := { c1.st with inEntries := BitVec.ofNat 9 (max c1.st.inEntries.toNat top) } }
  else { c1 with st := { c1.st with outEntries := BitVec.ofNat 9 (max c1.st.outEntries.toNat top) } }

/-- DCOPY of a section: bytes of the north region copied within the context's regions by the depot DMA, charged as HOST (R437;
spec/11_fabric_tolls.md R356, R362). -/
def applyDcopy (s : State) (ctx : Nat) (r : ActionRecord) : State :=
  let n := aData r 8 4
  let edge : Bool := aArg r ≥ 2 ^ 28
  let dst := aArg r % 2 ^ 28 * 512
  let s1 := chargeRegion (chargeRegion s ctx false (aData r 0 8) n 4) ctx edge dst n 4
  regionWrite s1 ctx edge dst (regionRead s ctx false (aData r 0 8) n)

/-- The channel work of a core record: an open or a close (R332). -/
def applyChan (v : Env) (c : Core) (r : ActionRecord) : Eff :=
  if aKind r = 0x0A then
    let d := BitVec.ofNat 128 (aData r 0 16)
    openStart v c (aIndex r) (fld d 127 119) (fld d 118 109) (fld d 108 105) (fld d 104 101) (bit d 100) (fld d 99 94)
  else closeStart v c (aIndex r)

/-- A core record applied: `sc` is the commit step, none for a section, and `all` the records of the convoy or section at this
core. FILL is done at PREPARE (R338). -/
def applyRec (s : State) (core : Nat) (sc : Option Word) (all : List ActionRecord) (r : ActionRecord) : State :=
  let c := getCore s core
  let v := envOf s core
  match aKind r with
  | 0x01 => setCore s core (applyGroup c r)
  | 0x02 => setCore s core (applyDesc c sc r)
  | 0x03 => setCore s core (applyLines c r)
  | 0x05 => setCore s core (ldmSet c (0x3E000 + 16 * aIndex r) 16 (aData r 0 16))
  | 0x06 => setCore s core { c with hnd := { c.hnd with table := nset 0 c.hnd.table (aIndex r) (BitVec.ofNat 64 (aData r 0 8)) } }
  | 0x07 => setCore s core (applyCode c r)
  | 0x08 => applyReg s core r
  | 0x09 => setCore s core (syncKind
      { c with q := { c.q with table := nset 0 c.q.table (aIndex r) (BitVec.ofNat 128 (aData r 0 16)) } } (aIndex r))
  | 0x0A => applyEff s core (applyChan v c r)
  | 0x0B => applyEff s core (applyChan v c r)
  | 0x0C =>
      if aArg r = 0 then applyEff s core (applyTally v c r (all.filter fun x => aKind x == 0x0C && aIndex x == aIndex r)) else s
  | 0x0D => setCore s core (applyIngest c r)
  | 0x0E => setCore s core (applyState c r)
  | _ => s

/-- The records of one convoy at a core applied in staging order (R331); GSET follows the index
(spec/05_synapse_storage.md R162). -/
def applyRecs (s : State) (core : Nat) (sc : Option Word) (rs : List ActionRecord) : State :=
  let s1 := rs.foldl (fun s r => applyRec s core sc rs r) s
  if rs.any fun r => aKind r == 2 then modCore s1 core syncGset else s1

end Sys2Proof.Machine
end

