-- ==== Sys2Proof/Machine/Checks.lean ====
section
/-! DEFINITION. The loader checks of spec/05_synapse_storage.md R191 over the state that a section or a convoy would
leave. -/

namespace Sys2Proof.Machine

/-- What is checked: the state before and after the records, the context, and the records of each core; `loader` tells a section
from a convoy. -/
structure Trial where
  old    : State
  new    : State
  ctx    : Nat
  recs   : NMap (List ActionRecord)
  loader : Bool

/-- The first result of a list of checks. -/
def firstOf (xs : List (Option Nat)) : Option Nat := xs.findSome? id

/-- The index of the first element for which a test fails to hold. -/
def firstBad {α : Type} (xs : List α) (key : α → Nat) (bad : α → Bool) : Option Nat := (xs.find? bad).map key

/-- The core that the records would leave. -/
def Trial.core (x : Trial) (n : Nat) : Core := getCore x.new n
/-- The records of a core. -/
def Trial.of (x : Trial) (n : Nat) : List ActionRecord := nget [] x.recs n

/-! ### Rows (spec/05_synapse_storage.md R167-R171, R179) -/

/-- The descriptors of a core that are not empty, with their DIDX. -/
def descsOf (c : Core) : List (Nat × BitVec 128) := c.syn.index.filter fun p => dFmt p.2 != 7
/-- Those that hold rows: relay entries left out. -/
def rowDescs (c : Core) : List (Nat × BitVec 128) := (descsOf c).filter fun p => !dRelay p.2

/-- The sources of a descriptor's block, as positions. -/
def sources (d : BitVec 128) : List Nat := List.range (2 ^ dG d)

/-- The lines of the row of source `i`, in the row store or in the depot. -/
def linesOf (s : State) (ctx : Nat) (c : Core) (d : BitVec 128) (i : Nat) : List Line :=
  if dDepot d then
    bytesLines (regionRead s ctx (dEdge d) (dAddr d % 2 ^ 28 * 512 + i * dStride d * 64) (64 * denseLines d))
  else rowOf c d i

/-- The elements of the row of source `i`, dormant entries among them: target slot and code. -/
def elemsOf (s : State) (ctx : Nat) (c : Core) (d : BitVec 128) (i : Nat) : List Applied :=
  let ls := linesOf s ctx c d i
  if dFmt d = 4 then
    (List.range (dLen d + 1)).map fun n => (dTbase d + s4Entry ls n / 16 * dStep d, s4Entry ls n % 16)
  else (rowCycles d ls i).flatten

/-- The lines that the rows of a descriptor take, first line and number for each source; those in the row store. -/
def rowSpans (c : Core) (d : BitVec 128) : List (Nat × Nat) := (sources d).map fun i => (rowLine d i, rowLines c d i)

/-- Whether two descriptors' rows share a line of the row store, or of the same depot edge. -/
def shareLines (c : Core) (a b : BitVec 128) : Bool :=
  dDepot a == dDepot b && (!dDepot a || dEdge a == dEdge b) &&
    (sources a).any fun i => (sources b).any fun j =>
      let la := if dDepot a then dAddr a % 2 ^ 28 * 8 + i * dStride a else rowLine a i
      let lb := if dDepot b then dAddr b % 2 ^ 28 * 8 + j * dStride b else rowLine b j
      let na := if dDepot a then denseLines a else rowLines c a i
      let nb := if dDepot b then denseLines b else rowLines c b j
      la < lb + nb && lb < la + na

/-- A slot with the other slot of its pair, when its group is a double-nibble group (spec/03_neuron_model.md R86). -/
def pairOf (c : Core) (k : Nat) : List Nat := if gDnib (groupAt c k) then [k, k / 2 * 2 + (1 - k % 2)] else [k]

/-- The slots that a core's sections loaded, whole pairs of double-nibble slots. -/
def loadedSlots (c : Core) : List Nat := (c.nrn.loaded.flatMap fun r => (List.range r.2).map (r.1 + ·)).flatMap (pairOf c)

/-- The source slots of open streams on a core (spec/07_streams_ingest_readout.md R233). -/
def anchorSlot (s : State) (n k : Nat) : Bool :=
  s.ingest.any fun p =>
    let d := p.2.desc
    p.2.state != .closed && fld d 82 73 == n && fld d 95 83 ≤ k && k < fld d 95 83 + 2 * (fld d 72 64 + 1)

/-- The groups that a core uses: those of its loaded slots and of the targets of its rows. -/
def usedGroups (x : Trial) (n : Nat) : List Nat :=
  let c := x.core n
  let ts := (rowDescs c).flatMap fun p => (sources p.2).flatMap fun i => (elemsOf x.new x.ctx c p.2 i).map Prod.fst
  ((loadedSlots c ++ ts).map fun k => wGroup (wordOf c k)).eraseDups

/-! ### 0x01 encoding -/

/-- Whether the fields of a descriptor that is not empty do not fit together (spec/02_narrow_arithmetic.md R56;
spec/05_synapse_storage.md R160, R165, R171, R173; spec/06_learning.md R194). -/
def descBad (d : BitVec 128) : Bool :=
  dFmt d == 6 || dG d > 13 || dSbase d % 2 ^ dG d != 0 ||
    if dRelay d then
      dFmt d != 0 || dDepot d || dLen d != 0 || dStride d != 0 || dStep d != 1 || dTbase d != 0 || dAddr d / 32 != 2 || dLrn d
    else (dFmt d == 5 && (dDepot d || dStride d != 0 || dStep d != 1 || dLen d != 0)) || (!dDepot d && dAddr d ≥ 2 ^ 14) ||
      (dFmt d == 1 && dZero d > 3) || ((dFmt d == 2 || dFmt d == 3) && dZero d != 0)

/-- Whether a learned descriptor breaks the rules of spec/06_learning.md R194. -/
def learnBad (x : Trial) (n : Nat) (d : BitVec 128) : Bool :=
  let c := x.core n
  let slots := if dFmt d = 4 then (List.range 4096).map fun k => dTbase d + k * dStep d
    else (elemsOf x.new x.ctx c d 0).map Prod.fst
  let g := wGroup (wordOf c (slots.headD 0))
  dLrn d && (dG d != 0 || dFmt d > 4 || (slots.any fun k => k < 8192 && wGroup (wordOf c k) != g) ||
    !gLrnEn (groupSet c g) || (dDepot d && gEager (groupSet c g)))

/-- Whether a rule slot that a learning group uses holds factor code 111 or a reserved bit (spec/06_learning.md R208). -/
def ruleBad (r : BitVec 128) : Bool :=
  fld r 63 12 != 0 || fld r 3 0 != 0 || (List.range 4).any fun k =>
    let t := fld r (79 + 16 * k) (64 + 16 * k)
    t % 2 != 0 || t / 2 % 8 == 7 || t / 16 % 8 == 7 || t / 128 % 8 == 7

/-- Whether the words of the configuration blocks hold a value out of range or a BUDGET that R211 forbids (spec/05_synapse_storage.md
R192; spec/06_learning.md R211, R228), or the step configuration a reserved value (spec/10_convoys.md R339). -/
def configBad (c : Core) : Bool :=
  let w (a : Nat) : Nat := ldmGet c a 4
  let learned := (rowDescs c).filter fun p => dLrn p.2
  let lines := (learned.filter fun p => !gEager (learnGroup c p.2)).map fun p =>
    if dDepot p.2 then denseLines p.2 else rowLines c p.2 0
  w 0x3EFF0 % 2 ^ 11 > 1024 || w 0x3EFF4 % 64 != 0 ||
    (!learned.isEmpty && (budgetOf c == 0 || lines.any (budgetOf c < ·))) ||
    c.st.w.toNat < 2 || c.st.w.toNat > 8 || c.st.overrun == 3

/-- The bits of four bytes of local data memory that hold no field. -/
def ldmReserved (c : Core) (a : Nat) : Word :=
  ~~~(BitVec.ofNat 32 (ofBytes ((List.range 4).map fun i => ldmRw (holdsLearned c) (a + i))))

/-- The bits of a tile register that hold no field which a REG record may write (spec/04_step_time.md R157;
spec/09_queues_active_messages.md R321; spec/11_fabric_tolls.md R368). -/
def tileReserved (off : Nat) : Word :=
  if off = 0x104 then ~~~0xF0FF
  else if off = 0x300 then ~~~0xFFFF0000
  else if 0x400 ≤ off ∧ off < 0x490 ∧ off % 16 < 8 then 0
  else if 0x400 ≤ off ∧ off < 0x800 then 0xFFFFFFFF
  else 0

/-- Whether a REG record sets a bit that its register or word does not hold (spec/10_convoys.md R339). -/
def regBad (c : Core) (r : ActionRecord) : Bool :=
  let res := if aArg r = 0 then tileReserved (aIndex r) else ldmReserved c (0x3C000 + aIndex r)
  regVal r &&& regMask r &&& res != 0

/-- Whether a list entry holds a reserved value (spec/04_step_time.md R131, R132); KIND of an out-list entry belongs to reason
0x07. -/
def entryBad (inlist : Bool) (e : Nat) : Bool :=
  e % 2 ^ 30 != 0 || (inlist && lKind e > 1) || (lKind e != 1 && lStream e != 0) ||
    (inlist && lKind e == 1 && e / 2 ^ 38 % 2 ^ 17 != 0)

/-- Whether a handler table entry holds a reserved value (spec/08_handler_unit.md R263). -/
def tableBad (e : BitVec 64) : Bool := fld e 55 48 != 0 || fld e 31 13 != 0 || fld e 62 61 == 3

/-- Whether a record's own values are out of range: register and list words, TALLY fields and contributors, and declared channels
(spec/04_step_time.md R132; spec/09_queues_active_messages.md R286, R294, R307). -/
def recordBad (cr : Core) (r : ActionRecord) : Bool :=
  let off := if aArg r = 0 then 16 else 0
  match aKind r with
  | 0x08 => regBad cr r
  | 0x0D => entryBad true (aData r 0 8)
  | 0x21 => (List.range (aUnits r)).any fun k => entryBad (aArg r == 0) (aData r (8 * k) 8)
  | 0x0C => (aArg r == 0 && (aData r 0 4 ≥ 512 || aData r 4 4 > 2 || aData r 8 4 ≥ 16 || aData r 12 4 ≥ 64)) ||
      (List.range (aUnits r)).any fun k => aData r (off + 4 * k) 4 ≥ 2 ^ 27
  | 0x23 =>
      let c := BitVec.ofNat 128 (aData r 0 16)
      chKind c > 2 || chState c != 2 || chCredits c > 64 || fld c 37 0 != 0
  | _ => false

/-- Reason 0x01. A companion word that the records leave unchanged may hold the LAST 0xFF that every slot starts with
(spec/03_neuron_model.md R84, R86): DESIGN CHOICE (87). -/
def checkEncoding (x : Trial) (n : Nat) : Option Nat :=
  let c := x.core n
  let gs := usedGroups x n
  firstOf [
    firstBad c.syn.index Prod.fst fun p => dFmt p.2 == 7 && (p.2 ||| (1 <<< 88)) != (emptyDesc ||| (1 <<< 88)),
    firstBad (descsOf c) Prod.fst fun p => descBad p.2,
    firstBad (rowDescs c) Prod.fst fun p =>
      (dFmt p.2 == 3 && (sources p.2).any fun i => (elemsOf x.new x.ctx c p.2 i).any fun e => e.2 == 3) ||
      (dFmt p.2 == 5 && fld (nget 0 c.syn.rows (rowLine p.2 0)) 511 57 != 0) || learnBad x n p.2,
    firstBad c.nrn.words Prod.fst fun p =>
      let dn := gDnib (groupSet c (wGroup p.2))
      let w := if wordOf (getCore x.old n) p.1 = p.2 then setFld p.2 31 24 0 else p.2
      (dn && p.1 % 2 == 1 && setFld w 45 40 0 != 0) || (!dn && fld p.2 35 32 != 0),
    firstBad (c.nrn.groups.map Prod.fst) id fun g => gDnib (groupSet c g) && scExp (gMscale (groupSet c g)) < -4,
    if (rowDescs c).any fun p => dLrn p.2 then
      firstBad (gs.filter fun g => gLrnEn (groupSet c g)) (fun g => gRule (groupSet c g)) fun g => ruleBad (ruleOf c (groupSet c g))
    else none,
    if configBad c then some 0 else none,
    firstBad (inList c).zipIdx Prod.snd fun e => entryBad true e.1,
    firstBad (outList c).zipIdx Prod.snd fun e => entryBad false e.1,
    firstBad c.hnd.table Prod.fst fun p => tableBad p.2,
    firstBad (x.of n) aIndex (recordBad c)]

/-! ### 0x02 group parameters (spec/03_neuron_model.md R87, R88; spec/06_learning.md R199, R200) -/

/-- Whether a parameter set is not permitted. -/
def groupBad (g : BitVec 1024) : Bool :=
  let mode (m k : Nat) : Bool := m == 3 || (m == 2 && k == 0)
  gReset g == 2 + 1 || scExp (gMscale g) > 3 || scExp (gTscale g) > 3 || gThbase g < gTzero g + 1 ||
    (gBias g != 8 && !gAlways g) || mode (gYmode g) (gYshift g) || mode (gEmode g) (gEshift g) || mode (gXmode g) (gXshift g) ||
    gEsrc g == 3 || fld g 41 40 != 0 || fld g 91 64 != 0 || fld g 127 96 != 0 || fld g 130 128 != 0 || fld g 185 160 != 0 ||
    fld g 1023 192 != 0

/-- Reason 0x02: the parameter set as it was written, reserved bits and all. -/
def checkGroups (x : Trial) (n : Nat) : Option Nat :=
  firstBad (usedGroups x n) id fun g => groupBad (groupRaw (x.core n) g)

/-! ### 0x03 target (spec/03_neuron_model.md R86; spec/05_synapse_storage.md R168, R171) -/

/-- Reason 0x03: a row's target, or a source slot of an open stream, which its encoder addresses, that is a companion. -/
def checkTarget (x : Trial) (n : Nat) : Option Nat :=
  let c := x.core n
  firstOf [
    firstBad (rowDescs c) Prod.fst fun p =>
      let d := p.2
      let h := nget 0 c.syn.rows (rowLine d 0)
      (dFmt d == 5 && (fld h 56 44 < fld h 35 28 + 1 || dTbase d + fld h 43 36 * fld h 56 44 + fld h 35 28 > 8191)) ||
        (sources d).any fun i => (elemsOf x.new x.ctx c d i).any fun e => e.1 > 8191 || companion c e.1,
    firstBad c.nrn.words Prod.fst fun p => companion c p.1 && anchorSlot x.new n p.1]

/-! ### 0x04 accumulator headroom (spec/02_narrow_arithmetic.md R68, R69, R580) -/

/-- wmax of a descriptor (R68). -/
def wmaxOf (d : BitVec 128) : Nat :=
  let m := match rowFmt d with
    | .q4 => max (dZero d) (15 - dZero d)
    | .q2 => max (dZero d) (3 - dZero d)
    | _ => 1
  m * scUnit (dScale d)

/-- Whether source neuron `k` of core `m` may send graded events as far as the device can see: a slot that a section loaded, or
whose state word has been written since, in a graded group (R580). -/
def gradedAt (s : State) (m k : Nat) : Bool :=
  let c := getCore s m
  c.bound && gGraded (groupAt c k) && (wordOf c k != wordDef c || (loadedSlots c).contains k)

/-- Whether slot `k` of core `m` is a source slot of an open DELTA stream (R580; spec/07_streams_ingest_readout.md R231,
R233). -/
def deltaAt (s : State) (m k : Nat) : Bool :=
  s.ingest.any fun p =>
    let d := p.2.desc
    p.2.state != .closed && fld d 38 36 == 0 && fld d 82 73 == m && fld d 95 83 ≤ k && k < fld d 95 83 + 2 * (fld d 72 64 + 1)

/-- kmax of every entry of a descriptor (R580). -/
def kmaxOf (s : State) (c : Core) (i : Nat) (d : BitVec 128) : Nat :=
  let here := dSdev d == devNo s
  if c.syn.hint.contains i ∨ (here ∧ (sources d).any fun k =>
      gradedAt s (dScore d) (dSbase d + k) || deltaAt s (dScore d) (dSbase d + k)) then 4 else 1

/-- H(n) of R68: what all the entries that can reach slot `t` may add in one step. -/
def headroom (s : State) (ctx : Nat) (c : Core) (t : Nat) : Nat :=
  ((rowDescs c).map fun p =>
    let reach := ((sources p.2).map fun i => ((elemsOf s ctx c p.2 i).filter fun e => e.1 == t).length).sum
    wmaxOf p.2 * kmaxOf s c p.1 p.2 * reach).sum

/-- The headroom limit under the overrun policy of a core (R69). -/
def headLimit (c : Core) : Nat := if c.st.overrun = 1 then 2 ^ 22 - 1 else 2 ^ 23 - 1

/-- Whether H of a slot passes the limit. -/
def headOver (s : State) (ctx : Nat) (c : Core) (t : Nat) : Bool := headroom s ctx c t > headLimit c

/-- Reason 0x04: a slot that passes the limit; of a convoy, one that its records bring there (R69). -/
def checkHeadroom (x : Trial) (n : Nat) : Option Nat :=
  let old := getCore x.old n
  (List.range 8192).find? fun t => headOver x.new x.ctx (x.core n) t &&
    (x.loader || !headOver x.old x.ctx old t || headroom x.old x.ctx old t < headroom x.new x.ctx (x.core n) t)

/-! ### 0x05 to 0x08 -/

/-- Reason 0x05 (spec/04_step_time.md R122). -/
def checkDelay (x : Trial) (n : Nat) : Option Nat := firstBad (descsOf (x.core n)) Prod.fst fun p => dDelay p.2 == 0

/-- MCAST of a list entry. -/
def lMcast (e : Nat) : Nat := e / 2 ^ 43 % 4
/-- SPAN of a list entry. -/
def lSpan (e : Nat) : Nat := e / 2 ^ 38 % 32

/-- The cores that a list entry covers, as device × 1,024 + core; none for a line past an edge (spec/11_fabric_tolls.md R357;
spec/12_osust_links.md R392). -/
def coverOf (shape : Word) (e : Nat) : Option (List Nat) :=
  let d := lDev e
  let k := lCore e
  let n := lSpan e
  match lMcast e with
  | 0 => some [d * 1024 + k]
  | 1 => if k % 32 + n > 31 then none else some ((List.range (n + 1)).map fun i => d * 1024 + k + i)
  | 2 => if k / 32 + n > 31 then none else some ((List.range (n + 1)).map fun i => d * 1024 + k + 32 * i)
  | _ =>
      let dim := n / 8
      let m := n % 8 + 1
      if dim > 2 ∨ m > sizeOf' shape dim ∨ (!wraps shape dim ∧ coordOf d dim + m > sizeOf' shape dim) then none
      else some ((List.range m).map fun i => devPlus shape d dim i * 1024 + k)

/-- The distinct sources that an in-list names: cores, and streams above 2 to the 19 (spec/04_step_time.md R131). -/
def sourcesOf (shape : Word) (es : List Nat) : List Nat :=
  (es.flatMap fun e => if lKind e = 1 then [2 ^ 19 + lDev e * 64 + lStream e] else (coverOf shape e).getD []).eraseDups

/-- The distinct cores that an out-list covers (spec/04_step_time.md R130). -/
def coresOf (shape : Word) (es : List Nat) : List Nat := (es.flatMap fun e => (coverOf shape e).getD []).eraseDups

/-- The position of the first entry whose key an earlier one has. -/
def firstTwice (ks : List (List Nat)) : Option Nat :=
  (List.range ks.length).find? fun i => (ks.getD i []).any fun k => (ks.take i).any fun l => l.contains k

/-- The first INGEST record that does not fit the list it meets (spec/10_convoys.md R334). -/
def ingestWalk : Core → List ActionRecord → Option Nat
  | _, [] => none
  | c, r :: rs =>
      if aKind r = 0x0D then (if ingestOk (inList c) r then ingestWalk (applyIngest c r) rs else some (aIndex r))
      else if aKind r = 0x21 then ingestWalk (applyList c r) rs
      else ingestWalk c rs

/-- The first object beyond its limit that the records of a core name, among records of one kind. -/
def beyond (x : Trial) (n : Nat) (p : ActionRecord → Bool) : Option Nat :=
  ((x.of n).find? fun r => p r && !inLimit r).map fun r => max (aIndex r) ((kindLimit (aKind r)).getD 0)

/-- Reason 0x06 (spec/04_step_time.md R131, R133). -/
def checkInList (x : Trial) (n : Nat) : Option Nat :=
  let es := inList (x.core n)
  firstOf [
    beyond x n fun r => aKind r == 0x21 && aArg r == 0,
    if (sourcesOf x.new.shape es).length > 2 ^ 20 - 1 then some 0 else none,
    firstTwice (es.map fun e => if lKind e = 1 then [lDev e * 64 + lStream e] else []),
    ingestWalk (getCore x.old n) (x.of n)]

/-- Reason 0x07 (spec/04_step_time.md R133; spec/11_fabric_tolls.md R353, R357, R360; spec/12_osust_links.md R392). -/
def checkOutList (x : Trial) (n : Nat) : Option Nat :=
  let c := x.core n
  let es := outList c
  let sh := x.new.shape
  firstOf [
    beyond x n fun r => aKind r == 0x21 && aArg r == 1,
    firstBad es.zipIdx Prod.snd fun e => lKind e.1 != 0 || (coverOf sh e.1).isNone,
    if (coresOf sh es).length > 2 ^ 20 - 1 then some 0 else none,
    firstTwice (es.map fun e => (coverOf sh e).getD []),
    firstBad (inList c).zipIdx Prod.snd fun e => lKind e.1 == 0 && (coverOf sh e.1).isNone,
    firstBad ((descsOf c).filter fun p => dRelay p.2) Prod.fst fun p =>
      n ≥ 992 || (n + 32) / 32 + dAddr p.2 % 32 > 31 ||
        !(es.any fun e => lDev e == devNo x.new && lCore e == n + 32 && lMcast e == 2 && lSpan e == dAddr p.2 % 32)]

/-- The slots that the section's STATE records give a core, with the companions of double-nibble slots
(spec/03_neuron_model.md R86). -/
def newSlots (x : Trial) (n : Nat) : List Nat :=
  ((x.of n).filter fun r => aKind r == 0x0E || aKind r == 0x20).flatMap fun r =>
    (List.range (aUnits r)).flatMap fun k => pairOf (x.core n) (aIndex r + k)

/-- Reason 0x08: slots beyond 8,191, of another section or of a stream, a core of another context, a tile that a test holds
(spec/05_synapse_storage.md R191; spec/07_streams_ingest_readout.md R233; spec/14_contexts_recovery.md R438;
spec/19_bringup_selftest.md R552). -/
def checkNeurons (x : Trial) (n : Nat) : Option Nat :=
  let c := getCore x.old n
  if !x.loader then none
  else if c.bound ∧ c.ctx ≠ x.ctx then some 0
  else if (match x.old.bst.running with | some r => r.cores.contains n | none => false) then some 0
  else (newSlots x n).find? fun k => k > 8191 || (loadedSlots c).contains k || anchorSlot x.old n k

/-! ### 0x09 to 0x0B -/

/-- The DIDX values that the records of a core write. -/
def newDescs (x : Trial) (n : Nat) : List Nat := ((x.of n).filter fun r => aKind r == 2).map aIndex

/-- The row-store lines that the records of a core write, first line and number. -/
def newLines (x : Trial) (n : Nat) : List (Nat × Nat) :=
  ((x.of n).filter fun r => aKind r == 3 || aKind r == 4).map fun r => (aIndex r, aUnits r)

/-- The first of a section's lines that a row of another section covers. -/
def coveredLine (x : Trial) (n : Nat) : Option Nat :=
  let old := getCore x.old n
  let spans := ((rowDescs old).filter fun p => !dDepot p.2 && !(newDescs x n).contains p.1).flatMap fun p => rowSpans old p.2
  (newLines x n).findSome? fun w => (List.range w.2).findSome? fun k =>
    if spans.any fun r => r.1 ≤ w.1 + k && w.1 + k < r.1 + r.2 then some (w.1 + k) else none

/-- Reason 0x09 (spec/05_synapse_storage.md R167, R191; spec/06_learning.md R195): it names the first line of the row. -/
def checkRows (x : Trial) (n : Nat) : Option Nat :=
  let c := x.core n
  let ds := rowDescs c
  let new := newDescs x n
  let learned := (ds.filter fun p => dLrn p.2).map fun p => if dDepot p.2 then denseLines p.2 else rowLines c p.2 0
  firstOf [
    beyond x n fun r => aKind r == 3 || aKind r == 4,
    if x.loader then coveredLine x n else none,
    firstBad ds (fun p => dAddr p.2) fun p => !dDepot p.2 && (rowSpans c p.2).any fun r => r.1 + r.2 > 16384,
    firstBad ds (fun p => dAddr p.2) fun p => ds.any fun q =>
      p.1 < q.1 && (dLrn p.2 || dLrn q.2 || (x.loader && !dDepot p.2 && new.contains p.1 != new.contains q.1)) &&
        shareLines c p.2 q.2,
    if learned.sum > 4096 then some 0 else none]

/-- The buckets from a descriptor's home up to the one it lies in, the latter left out (spec/05_synapse_storage.md R161). -/
def passed (i : Nat) (d : BitVec 128) : List Nat :=
  let h := homeBucket (dSdev d) (dScore d) (dSbase d) (dG d)
  (List.range ((i / 2 + 2048 - h) % 2048)).map fun k => (h + k) % 2048

/-- Reason 0x0A (spec/05_synapse_storage.md R161, R162). -/
def checkIndex (x : Trial) (n : Nat) : Option Nat :=
  let c := x.core n
  let ds := descsOf c
  firstOf [
    beyond x n fun r => aKind r == 2,
    firstBad ds Prod.fst fun p => (passed p.1 p.2).length > 3,
    firstBad ds Prod.fst fun p => (passed p.1 p.2).any fun b => !dCont (descOf c (2 * b)) && !dCont (descOf c (2 * b + 1)),
    if (ds.map fun p => dG p.2).eraseDups.length > 4 then some 0 else none,
    firstBad ds Prod.fst fun p =>
      (sources p.2).any fun k => (ds.filter fun q => covers q.2 (dSdev p.2) (dScore p.2) (dSbase p.2 + k)).length > 16]

/-- Whether `len` bytes from `off` leave a context's region on an edge. -/
def outsideRegion (s : State) (ctx : Nat) (edge : Bool) (off len : Nat) : Bool := off + len > regionBytes s ctx edge

/-- Reason 0x0B (spec/05_synapse_storage.md R177, R179, R187, R192; spec/14_contexts_recovery.md R437). -/
def checkDepot (x : Trial) (n : Nat) : Option Nat :=
  let c := x.core n
  let near := n ≥ 512
  firstOf [
    firstBad ((rowDescs c).filter fun p => dDepot p.2) Prod.fst fun p =>
      outsideRegion x.new x.ctx (dEdge p.2) (dAddr p.2 % 2 ^ 28 * 512) (((2 ^ dG p.2 - 1) * dStride p.2 + denseLines p.2) * 64),
    if penEdge c != near || outsideRegion x.new x.ctx near (ldmGet c 0x3EFF8 4 % 2 ^ 17 * 2 ^ 20) (2 ^ 20) then some 0 else none,
    firstBad (x.of n) aIndex fun r =>
      let edge : Bool := aArg r ≥ 2 ^ 28
      let dst := aArg r % 2 ^ 28 * 512
      (aKind r == 4 && outsideRegion x.new x.ctx edge dst (64 * aUnits r)) ||
        (aKind r == 0x22 && (outsideRegion x.new x.ctx edge dst (aData r 8 4) ||
          outsideRegion x.new x.ctx false (aData r 0 8) (aData r 8 4)))]

/-! ### 0x0C to 0x0E -/

/-- The outrider buffer: its first byte and its size. -/
def outrider (c : Core) : Nat × Nat := (ldmGet c 0x3EFF4 4 % 2 ^ 18, 64 * bufLines c)

/-- Whether two ranges of bytes meet. -/
def bytesMeet (a b : Nat × Nat) : Bool := a.1 < b.1 + b.2 && b.1 < a.1 + a.2 && a.2 != 0 && b.2 != 0

/-- The landing window of a queue; empty for a kind that has none. -/
def windowOfQueue (e : BitVec 128) : Nat × Nat :=
  if qValid e ∧ (qKind e = 1 ∨ qKind e = 2 ∨ qKind e = 4) then (qWin e, qWinLen e) else (0, 0)

/-- The parts of local data memory that an outrider buffer may not cover (spec/05_synapse_storage.md R191, R192;
spec/06_learning.md R196; spec/07_streams_ingest_readout.md R248; spec/09_queues_active_messages.md R285). -/
def reservedBytes (c : Core) : List (Nat × Nat) :=
  let learned := (rowDescs c).any fun p => dLrn p.2
  [(0x2B000, 0x11000), (0x3EFF0, 0x1010), if learned then (0x3C000, 0x2520) else (0x3E500, 0x0C)] ++
    (if (readRanges c).isEmpty then [] else [(0x3E600, 0x9F0)]) ++ c.q.table.map fun p => windowOfQueue p.2

/-- Reason 0x0C. -/
def checkOutrider (x : Trial) (n : Nat) : Option Nat :=
  let c := x.core n
  let need := ((rowDescs c).filter fun p => dDepot p.2).map fun p => denseLines p.2
  let b := outrider c
  if need.any (bufLines c < ·) then some 0
  else if b.1 + b.2 > 2 ^ 18 ∨ (reservedBytes c).any (bytesMeet b) then some 0
  else none

/-- The slots that a TALLY queue needs (spec/09_queues_active_messages.md R287). -/
def tallySlots (e : BitVec 128) : Nat := 2 + 2 * tallyB e + cdiv (qExpect e) 16

/-- Whether a core's handler table holds a continuation entry. -/
def hasCont (c : Core) : Bool := c.hnd.table.any fun p => bit p.2 63 && fld p.2 62 61 == 2

/-- Whether queue 0 is a CONT queue of 16 slots. -/
def contQueueOk (c : Core) : Bool := qValid (qEnt c 0) && qKind (qEnt c 0) == 0 && qSlots (qEnt c 0) == 16

/-- Whether the entry of queue `q` breaks a rule of R287 by itself. -/
def queueBad (c : Core) (q : Nat) (e : BitVec 128) : Bool :=
  let w := windowOfQueue e
  qBase e + qSlots e > 1024 || qKind e > 4 || qTmode e == 3 || fld e 3 0 != 0 || bit e 73 || (qKind e == 0 && q != 0) ||
    (qKind e == 3 && (qSlots e < tallySlots e || fld e 9 4 != 0)) || (qKind e == 4 && frameLen e < 64) ||
    (w.2 != 0 && (w.1 + w.2 > 2 ^ 18 || bytesMeet w (0x2B000, 0x15000) || bytesMeet w (outrider c)))

/-- Reason 0x0D (spec/09_queues_active_messages.md R287). -/
def checkQueues (x : Trial) (n : Nat) : Option Nat :=
  let c := x.core n
  let qs := c.q.table.filter fun p => qValid p.2
  firstOf [
    firstBad qs Prod.fst fun p => queueBad c p.1 p.2 || qs.any fun r =>
      p.1 < r.1 && qBase p.2 < qBase r.2 + qSlots r.2 && qBase r.2 < qBase p.2 + qSlots p.2,
    if hasCont c && !contQueueOk c then some 0 else none]

/-- The instruction ranges against which a core's new handler code is checked: those of its section, or all that are loaded for a
convoy. -/
def codeRanges (x : Trial) (n : Nat) : List (Nat × Nat) :=
  if x.loader then ((x.of n).filter fun r => aKind r == 7).map fun r => (aIndex r, aUnits r) else (x.core n).hnd.loaded

/-- Whether the instruction at `pc` breaks a rule of spec/08_handler_unit.md R282. -/
def codeBad (c : Core) (rs : List (Nat × Nat)) (pc : Nat) : Bool :=
  let w := nget 0 c.hnd.store pc
  !insnOk w || (match jumpTarget pc w with | some t => !inRanges rs t | none => false) ||
    (iOp w == 0x10 && (List.range (fld w 9 0)).any fun k => iOp (nget 0 c.hnd.store (pc + 1 + k)) == 0x10 && inRanges rs (pc + 1 + k))

/-- Reason 0x0E (spec/08_handler_unit.md R282). -/
def checkHandlers (x : Trial) (n : Nat) : Option Nat :=
  let c := x.core n
  let rs := codeRanges x n
  let pcs := ((x.of n).filter fun r => aKind r == 7).flatMap fun r => (List.range (aUnits r)).map (aIndex r + ·)
  firstOf [
    beyond x n fun r => aKind r == 6 || aKind r == 7,
    if (c.hnd.loaded.map Prod.snd).sum > 8192 then some 0 else none,
    firstBad ((x.of n).filter fun r => aKind r == 6) aIndex fun r =>
      let e := nget 0 c.hnd.table (aIndex r)
      let lim := fld e 60 56
      (x.loader && (getCore x.old n).hnd.claimed.contains (aIndex r)) ||
        ((x.loader || bit e 63) && !inRanges rs (fld e 12 0)) || (lim != 0 && (lim < 8 || lim > 24)),
    firstBad pcs id (codeBad c rs),
    if hasCont c && !contQueueOk c then some 0 else none]

/-! ### 0x0F toll budget (spec/11_fabric_tolls.md R366, R367) -/

/-- The gates of a way through the mesh from one tile to an output of another, X then Y (spec/11_fabric_tolls.md R355); `n` bounds
the hops. -/
def pathGates (s : State) : Nat → Nat → Nat → Nat → List Nat
  | 0, _, _, _ => []
  | k + 1, t, dst, out =>
      if t = dst then [gateKey s t (outGate out)]
      else
        let o := outputOf t { pkt := { head := 0 }, route := some (dst, out, 0) }
        gateKey s t (outGate o) :: pathGates s k (nextTile t o).1 dst out

/-- The gates of the outputs between two tiles, the last tile's own outputs apart. -/
def wayGates (s : State) (t dst : Nat) : List Nat := (pathGates s 70 t dst 4).dropLast

/-- The gates from the last of the covered cores of a line onward, one core after the other (spec/11_fabric_tolls.md R358). -/
def legGates (s : State) : Nat → List Nat → List Nat
  | _, [] => []
  | t, n :: ns => match tileOf s n with
    | none => legGates s t ns
    | some d => pathGates s 70 t d 4 ++ legGates s d ns

/-- The gates of a line multicast from a tile and input port: to its entry tile, then both legs (spec/11_fabric_tolls.md R358). -/
def lineGates (s : State) (tile port : Nat) (p : Packet) : List Nat :=
  let cs := lineCores s (mcast p) (dcore p) (span p)
  match lineEntry s tile port p with
  | none => []
  | some n =>
      let d := (tileOf s n).getD 0
      wayGates s tile d ++ [gateKey s d (outGate 4)] ++ legGates s d (cs.filter fun k => n < k) ++
        legGates s d (cs.filter fun k => k < n).reverse

/-- The packet that travels along a list entry, as far as its way goes. -/
def entryPkt (e : Nat) : Packet := mkPkt 1 1 (lDev e) (lCore e) (lMcast e) (lSpan e) 0 0 0 0 0 0 0

/-- The gates of a list entry's way on this die from a tile and input port: a unicast, a line, or the way to a port, with a torus
line's own copy (spec/11_fabric_tolls.md R355, R358; spec/12_osust_links.md R392). -/
def entryGates (s : State) (tile port e : Nat) : List Nat :=
  let p := entryPkt e
  if lDev e = devNo s ∧ (lMcast e = 1 ∨ lMcast e = 2) then lineGates s tile port p
  else
    let own := if lDev e = devNo s then (match tileOf s (lCore e) with | none => [] | some d => pathGates s 70 tile d 4) else []
    own ++ match exitPort s p with
      | some q => pathGates s 70 tile (leaveBy tile port q p).2.1 6
      | none => []

/-- The gate number of DDR channel `ch` beside those of the tiles. -/
def ddrKey (ch : Nat) : Nat := 2 ^ 20 + ch

/-- The gates of a core's depot traffic for `n` bursts from one burst on: the column, the lane, the channels and the way
back. -/
def depotGates (s : State) (n : Nat) (edge : Bool) (burst count : Nat) : List Nat :=
  match tileOf s n with
  | none => []
  | some t =>
      let lane := laneRow (t / 34) edge * 34 + t % 34
      pathGates s 70 t lane 5 ++ pathGates s 70 lane t 4 ++
        ((List.range (min count 64)).map fun i => ddrKey (channelOf edge (burst + i))).eraseDups

/-- The uses of gates by what is loaded on a core: object, gate and class. Events, rearguards and relay copies take the ways of the
out-list and credits those of the in-list; an ingest stream of this device reaches the core from its hub attachment; step
notices, late notices and readout packets go to the hub; rows and the pen to the depot; channels to their peers. Integration is
exempt at DP and MEM; the sweep uses MEM as LEARN (spec/11_fabric_tolls.md R356, R367). -/
def gateUses (s : State) (n : Nat) : List (Nat × Nat × Nat) :=
  match tileOf s n with
  | none => []
  | some t =>
      let c := getCore s n
      let v := envOf s n
      let toHub := pathGates s 70 t (hubTile 0x3FF) 6
      let events := (outList c).zipIdx.flatMap fun e => (entryGates s t 4 e.1).map fun g => (e.2, g, 0)
      let credits := (inList c).zipIdx.flatMap fun e =>
        let gs := if lKind e.1 = 0 then entryGates s t 4 e.1
          else toHub ++ if lDev e.1 = devNo s then pathGates s 70 (hubTile n) t 4 else []
        gs.map fun g => (e.2, g, 0)
      let reads := if (readRanges c).isEmpty then [] else toHub.map fun g => (0, g, 0)
      let rows := ((rowDescs c).filter fun p => dDepot p.2).flatMap fun p =>
        (depotGates s n (dEdge p.2) (rowBurst v p.2 0) ((2 ^ dG p.2 - 1) * dStride p.2 + denseLines p.2)).map fun g =>
          (p.1, g, if dLrn p.2 then 2 else 1)
      let pen := if (rowDescs c).isEmpty then []
        else (depotGates s n (penEdge c) (ldmGet c 0x3EFF8 4 % 2 ^ 17 * 2 ^ 14) 64).map fun g => (0, g, 1)
      let chans := c.q.declared.flatMap fun p =>
        (entryGates s t 4 (chPdev p.2 * 2 ^ 55 + chPcore p.2 * 2 ^ 45)).map fun g => (p.1, g, 3)
      let code := if c.hnd.loaded.isEmpty then [] else [(0, n * 16, 3), (0, n * 16 + 1, 3)]
      events ++ credits ++ reads ++ rows ++ pen ++ chans ++ code ++ [(0, n * 16 + 1, 2)]

/-- The words that a gate will hold after the writes that wait. -/
def gateAB (s : State) (key : Nat) : Word × Word :=
  let g := if key ≥ 2 ^ 20 then ddrGate s (key - 2 ^ 20) else nget (gateReset (key % 16)) s.fab.gates key
  (g.nextA, g.nextB)

/-- Whether a context has traffic of a class at a gate. -/
def usesGate (s : State) (ctx key cls : Nat) : Bool :=
  (shardCores s ctx).any fun n => (gateUses s n).any fun u => u.2.1 == key && u.2.2 == cls

/-- Whether a context other than `ctx` has traffic at a gate (R367). -/
def gateOfOther (s : State) (ctx key : Nat) : Bool :=
  (List.range 64).any fun k => k != ctx && (shardCores s k).any fun n => (gateUses s n).any fun u => u.2.1 == key

/-- Whether a class at a gate has no SLOTS, or the shares of the contexts with traffic there exceed them. -/
def gateFull (s : State) (key cls : Nat) : Bool :=
  let ab := gateAB s key
  let slots := slotsOf ab.1 ab.2 cls
  let shares := ((List.range 64).filter fun c => usesGate s c key cls).map fun c => (nget 0 (getShard s c).shares cls).toNat
  slots == 0 || shares.sum > slots

/-- Reason 0x0F. -/
def checkTolls (x : Trial) (n : Nat) : Option Nat :=
  firstBad (gateUses x.new n) Prod.fst fun u => gateFull x.new u.2.1 u.2.2

/-! ### All checks -/

/-- Reason 0x10: an absent core, or one that a failed test holds out (spec/01_device_organisation.md R21;
spec/19_bringup_selftest.md R556). -/
def checkAbsent (x : Trial) (n : Nat) : Option Nat :=
  if !present x.new n ∨ x.new.bst.held.contains n then some 0 else none

/-- The check of a reason code. -/
def checkOf (reason : Nat) (x : Trial) (n : Nat) : Option Nat :=
  match reason with
  | 0x01 => checkEncoding x n
  | 0x02 => checkGroups x n
  | 0x03 => checkTarget x n
  | 0x04 => checkHeadroom x n
  | 0x05 => checkDelay x n
  | 0x06 => checkInList x n
  | 0x07 => checkOutList x n
  | 0x08 => checkNeurons x n
  | 0x09 => checkRows x n
  | 0x0A => checkIndex x n
  | 0x0B => checkDepot x n
  | 0x0C => checkOutrider x n
  | 0x0D => checkQueues x n
  | 0x0E => checkHandlers x n
  | 0x0F => checkTolls x n
  | _ => checkAbsent x n

/-- The first check that fails, in ascending reason code and then at the lowest core: reason, core and index
(spec/05_synapse_storage.md R191). -/
def loaderCheck (x : Trial) : Option (Nat × Nat × Nat) :=
  (List.range 16).findSome? fun k =>
    (x.recs.map Prod.fst).findSome? fun n => (checkOf (k + 1) x n).map fun i => (k + 1, n, i)

end Sys2Proof.Machine
end

