-- ==== Sys2Proof/Machine/Loader.lean ====
section
/-! DEFINITION. LOAD_SECTION of kinds DATA and COMMIT: the image, its checks, what it binds and applies, and the measurement
(spec/14_contexts_recovery.md R436-R438; spec/05_synapse_storage.md R191; spec/13_host_interface.md R421). -/

namespace Sys2Proof.Machine

/-- LOAD_SECTION of kind DATA: the depot DMA moves the bales into the north region at the offset, charged as HOST
(spec/14_contexts_recovery.md R437; spec/11_fabric_tolls.md R356, R362). -/
def loadData (s : State) (f : Fetched) : State :=
  let ctx := mCtx f.manifest
  let off := mw2 f.manifest 1
  if outsideRegion s ctx false off (64 * f.bales.length) then complete s f.handle stNoResource
  else complete (regionWrite (chargeRegion s ctx false off (64 * f.bales.length) 4) ctx false off (linesBytes f.bales)) f.handle stOk

/-- LOAD_SECTION_DATA (spec/13_host_interface.md R421). -/
def execLoadSectionData (h : Nat) (s : State) : Host.Outcome State Fault Refusal :=
  .next (withCmd s h 0x08 fun s f => if mw f.manifest 0 = 0 then loadData s f else s)

/-! ### The image (spec/14_contexts_recovery.md R436) -/

/-- Whether a section record is well formed: its form, its kind, HOME and CVID 0, this device. Its limits have reasons of their own
(spec/05_synapse_storage.md R191). -/
def sectionRecOk (dev : Nat) (r : ActionRecord) : Bool :=
  formOk r && sectionKind (aKind r) && aTag r == 0 && aTdev r == dev

/-- The records of an image, when its header and each record are well formed. -/
def imageRecords (dev : Nat) (img : List Byte) : Option (List ActionRecord) :=
  let h : BitVec 512 := BitVec.ofNat 512 (ofBytes (img.take 64))
  match parseRecords (img.length / 16) (img.drop 64) with
  | none => none
  | some rs =>
      if 64 ≤ img.length ∧ fld h 511 256 = 0 ∧ fld h 63 8 = 0 ∧ fld h 7 0 = 1 ∧ fld h 127 96 = rs.length ∧
          fld h 95 64 = img.length ∧ rs.all (sectionRecOk dev) then some rs
      else none

/-- Where the first malformed record stands: its core and index. -/
def badRecord (dev : Nat) (img : List Byte) : Nat × Nat :=
  match parseRecords (img.length / 16) (img.drop 64) with
  | none => (0, 0)
  | some rs => match rs.find? fun r => !sectionRecOk dev r with
    | some r => (aTcore r, aIndex r)
    | none => (0, 0)

/-- The cores that records name, ascending. -/
def namedCores (rs : List ActionRecord) : List Nat := rs.foldl (fun l r => ins l (aTcore r)) []

/-- The records of each core, in their order. -/
def byCore (rs : List ActionRecord) : NMap (List ActionRecord) :=
  (namedCores rs).map fun n => (n, rs.filter fun r => aTcore r == n)

/-! ### Binding, applying, deriving (spec/14_contexts_recovery.md R437, R438) -/

/-- A core bound to a context with the W, overrun policy and pacing of its shard (spec/14_contexts_recovery.md R432, R438). -/
def bindCore (s : State) (ctx n : Nat) : State :=
  let sh := getShard s ctx
  modCore s n fun c =>
    if c.bound then c
    else { c with
      bound := true, ctx := ctx, gen := sh.gen
      st := { c.st with w := sh.w, overrun := sh.overrun, paced := sh.paced } }

/-- Slots that a section gives, noted as loaded (spec/05_synapse_storage.md R191). -/
def noteSlots (c : Core) (r : ActionRecord) : Core :=
  { c with nrn := { c.nrn with loaded := c.nrn.loaded ++ [(aIndex r, aUnits r)] } }

/-- A section record applied (spec/14_contexts_recovery.md R437). -/
def applySection (ctx : Nat) (all : List ActionRecord) (s : State) (r : ActionRecord) : State :=
  let n := aTcore r
  match aKind r with
  | 0x04 => applyFill s n r
  | 0x06 =>
      modCore (applyRec s n none [] r) n fun c => { c with hnd := { c.hnd with claimed := ins c.hnd.claimed (aIndex r) } }
  | 0x0E => modCore s n fun c => noteSlots (applyState c r) r
  | 0x20 => modCore s n fun c => noteSlots (applyState c r) r
  | 0x21 => modCore s n fun c => applyList c r
  | 0x22 => applyDcopy s ctx r
  | 0x23 => modCore s n fun c =>
      { c with q := { c.q with declared := nset 0 c.q.declared (aIndex r) (BitVec.ofNat 128 (aData r 0 16)) } }
  | _ => applyRec s n none (all.filter fun x => aTcore x == n) r

/-- CONT set in the ways of each bucket that a descriptor was placed beyond (spec/05_synapse_storage.md R161). -/
def setConts (c : Core) : Core :=
  (descsOf c).foldl (fun c p => (passed p.1 p.2).foldl (fun c b =>
    setDesc (setDesc c (2 * b) (setFld (descOf c (2 * b)) 88 88 1)) (2 * b + 1) (setFld (descOf c (2 * b + 1)) 88 88 1)) c) c

/-- What the loader derives from the lists and descriptors that a core holds: CONT, GSET, DMAX and the counts
(spec/05_synapse_storage.md R161, R162; spec/04_step_time.md R130, R131; spec/14_contexts_recovery.md R437). -/
def derive (shape : Word) (c : Core) : Core :=
  let c1 := setConts c
  let c2 := syncGset c1
  { c2 with st := { c2.st with
    dmax := BitVec.ofNat 4 (((descsOf c2).map fun p => dDelay p.2).foldl max 0)
    inCount := BitVec.ofNat 20 (sourcesOf shape (inList c2)).length
    outCount := BitVec.ofNat 20 (coresOf shape (outList c2)).length } }

/-- The state that records would leave: cores bound, records applied in image order, registers derived. -/
def loadAll (s : State) (ctx : Nat) (rs : List ActionRecord) : State :=
  let ns := namedCores rs
  let s1 := ns.foldl (fun s n => bindCore s ctx n) s
  let s2 := rs.foldl (applySection ctx rs) s1
  ns.foldl (fun s n => modCore s n (derive s.shape)) s2

/-- Whether a record reads an uncorrectable burst as it is applied (spec/05_synapse_storage.md R181). -/
def readsBad (s : State) (ctx : Nat) (r : ActionRecord) : Bool :=
  match aKind r with
  | 0x04 => regionBad s ctx (aArg r ≥ 2 ^ 28) (aArg r % 2 ^ 28 * 512) (64 * aUnits r)
  | 0x22 => regionBad s ctx false (aData r 0 8) (aData r 8 4)
  | _ => false

/-- A section given up after an uncorrectable error: the descriptors that it wrote are emptied, the cores that it bound are unbound
(spec/14_contexts_recovery.md R438), and nothing counts as loaded by it. -/
def undoSection (old : State) (s : State) (rs : List ActionRecord) : State :=
  let s1 := rs.foldl (fun s r => if aKind r = 2 then modCore s (aTcore r) fun c => setDesc c (aIndex r) emptyDesc else s) s
  (namedCores rs).foldl (fun s n =>
    let o := getCore old n
    modCore s n fun c =>
      let c1 := { c with
        nrn := { c.nrn with loaded := o.nrn.loaded }
        hnd := { c.hnd with loaded := o.hnd.loaded, claimed := o.hnd.claimed } }
      if o.bound then c1 else { c1 with bound := false, ctx := 0, gen := 0 }) s1

/-- The image of a COMMIT and the measurement after it: M is extended with the digest of the image
(spec/14_contexts_recovery.md R438). -/
def extendMeasure (m : BitVec 384) (img : List Byte) : BitVec 384 :=
  Config.sha384 (bytesOf 48 m.toNat ++ bytesOf 48 (Config.sha384 img).toNat)

/-- A refused COMMIT: the reason in RESULT, the core and the object index in PAYLOAD (spec/13_host_interface.md R421). -/
def refuseSection (s : State) (h reason core index : Nat) : State :=
  complete s h stDoesNotFit reason [BitVec.ofNat 128 (index * 2 ^ 32 + core)]

/-- LOAD_SECTION of kind COMMIT (spec/14_contexts_recovery.md R438). -/
def loadCommit (s : State) (f : Fetched) : State :=
  let ctx := mCtx f.manifest
  let off := mw2 f.manifest 1
  let len := mw2 f.manifest 3
  if outsideRegion s ctx false off len then complete s f.handle stNoResource
  else if regionBad s ctx false off len then complete s f.handle stUncorrectable
  else
    let img := regionRead s ctx false off len
    let s1 := chargeRegion s ctx false off len 4
    match imageRecords (devNo s) img with
    | none => let b := badRecord (devNo s) img; refuseSection s1 f.handle 0x01 b.1 b.2
    | some rs =>
        let t := loadAll s1 ctx rs
        match loaderCheck { old := s1, new := t, ctx := ctx, recs := byCore rs, loader := true } with
        | some (reason, core, index) => refuseSection s1 f.handle reason core index
        | none =>
            if rs.any (readsBad s ctx) then complete (undoSection s1 t rs) f.handle stUncorrectable
            else complete (modShard t ctx fun sh =>
              { sh with measure := extendMeasure sh.measure img, sections := sh.sections + 1 }) f.handle stOk

/-- LOAD_SECTION_COMMIT (spec/14_contexts_recovery.md R438). -/
def execLoadSectionCommit (h : Nat) (s : State) : Host.Outcome State Fault Refusal :=
  .next (withCmd s h 0x08 fun s f => if mw f.manifest 0 = 1 then loadCommit s f else s)

end Sys2Proof.Machine
end

