-- ==== Sys2Proof/Machine/Timers.lean ====
section
/-! DEFINITION. Timers: native and compatibility counting, links and capture (spec/16_timers.md R477-R484,
R487-R491). -/

namespace Sys2Proof.Machine

/-- The BAR0 offset of a register of timer `i` (R491). -/
def tmrAddr (i off : Nat) : Nat := 0x600000 + 0x40 * i + off

/-- Whether a write to a timer register is taken: from MID 0x0 to 0x3, and not in pace mode (R485, R491). -/
def tmrMay (t : Timer) (mid : Nat) : Bool := mid ≤ 3 && t.mode != .pace

/-- The mode bits of TMR_i_CTL. -/
def TimerMode.bits : TimerMode → Nat
  | .native => 0
  | .compat => 1
  | .pace => 2

/-- A timer after an accepted CTL write; RELOAD_NOW loads COUNT of a native timer (R477, R481). -/
def tmrCtl (t : Timer) (v : Word) : Timer :=
  let mode : TimerMode := if fld v 30 29 = 1 then .compat else .native
  { t with
    en := bit v 31, mode := mode, oneshot := bit v 28, wake := bit v 26, ie := bit v 25
    vector := BitVec.ofNat 8 (fld v 24 17), pre := BitVec.ofNat 4 (fld v 3 0)
    count := if bit v 27 ∧ mode = .native then t.reload else t.count }

/-- A write to TMR_i_CTL (R477): discarded whole and logged when it names MODE 10 or 11, or changes PRE or MODE while
EN is 1. -/
def tmrWriteCtl (s : State) (mid i : Nat) (v : Word) : State :=
  let t := getTmr s i
  if !tmrMay t mid || fld v 30 29 ≥ 2 || (t.en && (fld v 30 29 != t.mode.bits || fld v 3 0 != t.pre.toNat)) then
    clogBar s mid (tmrAddr i 0) stAccess
  else setTmr s i (tmrCtl t v)

/-- TIMER_CTL_WRITE (R477). -/
def execTimerCtlWrite (mid i : Nat) (value : Word) (s : State) : Host.Outcome State Fault Refusal :=
  if i < 32 then .next (tmrWriteCtl s mid i value) else .next s

/-- TIMER_RELOAD_NOW: COUNT loads the reload buffer with no zero event (R481). -/
def execTimerReloadNow (mid i : Nat) (s : State) : Host.Outcome State Fault Refusal :=
  let t := getTmr s i
  if i < 32 then
    if !tmrMay t mid then .next (clogBar s mid (tmrAddr i 0) stAccess)
    else .next (setTmr s i (if t.mode = .native then { t with count := t.reload } else t))
  else .next s

/-- TIMER_RELOAD_WRITE: the reload buffer (R480). -/
def execTimerReloadWrite (mid i : Nat) (value : Word) (s : State) : Host.Outcome State Fault Refusal :=
  let t := getTmr s i
  if i < 32 then
    if !tmrMay t mid then .next (clogBar s mid (tmrAddr i 0x0C) stAccess)
    else .next (setTmr s i { t with reload := value })
  else .next s

/-- A compare written: CMP_BEHIND tells, in compatibility mode, that the value is at or below COUNT (R482, R483). -/
def tmrSetCmp (t : Timer) (k : Nat) (v : Word) : Timer :=
  { t with
    cmp := nset 0 t.cmp k v
    behind := if t.mode = .compat then setFld t.behind k k (b1 (v.toNat ≤ t.count.toNat)) else t.behind }

/-- TIMER_COMPARE_WRITE (R483). -/
def execTimerCompareWrite (mid i k : Nat) (value : Word) (s : State) : Host.Outcome State Fault Refusal :=
  let t := getTmr s i
  if i < 32 ∧ k < 4 then
    if !tmrMay t mid then .next (clogBar s mid (tmrAddr i (0x10 + 4 * k)) stAccess)
    else .next (setTmr s i (tmrSetCmp t k value))
  else .next s

/-- TIMER_TB_READ: the low word of TB, with a snapshot of the high word for TBHI (R478). -/
def execTimerTbRead (i : Nat) (s : State) : Host.Outcome State Fault Refusal :=
  let t := getTmr s i
  if i ≥ 32 then .next s
  else .next { setTmr s i { t with tbHi := t.tb.extractLsb' 32 32 } with rdata := (t.tb.extractLsb' 0 32).setWidth 64 }

/-- TIMER_CAPLO_READ: the stored low word, with a snapshot of CAPHI and CAPCNT; it clears CAP_NEW (R489). -/
def execTimerCaploRead (i : Nat) (s : State) : Host.Outcome State Fault Refusal :=
  let t := getTmr s i
  if i ≥ 32 then .next s
  else .next { setTmr s i { t with snapHi := t.capTb.extractLsb' 32 32, snapCnt := t.capCount, capNew := false } with
    rdata := (t.capTb.extractLsb' 0 32).setWidth 64 }

/-- The events of one tick: zero, overflow and the four matches. -/
structure TickEvents where
  zero  : Bool := false
  ovf   : Bool := false
  hits  : Nat := 0
  deriving DecidableEq, Repr

/-- The matches of the compares with a count, as a 4-bit number (R482). -/
def matchBits (t : Timer) (c : Word) : Nat :=
  ((List.range 4).map fun k => if nget 0 t.cmp k = c then 2 ^ k else 0).sum

/-- The counter's step at a tick (R480, R482, R484). A link reset takes the place of the step. -/
def countStep (t : Timer) : Timer × TickEvents :=
  match t.mode with
  | .pace => (t, {})
  | .native =>
      if t.resetNext then ({ t with count := t.reload, resetNext := false }, {})
      else if t.count ≠ 0 then
        ({ t with count := t.count - 1 }, { zero := t.count = 1 })
      else if t.oneshot then ({ t with en := false }, {})
      else ({ t with count := t.reload }, {})
  | .compat =>
      if t.resetNext then ({ t with count := 0, resetNext := false }, { hits := matchBits t 0 })
      else if t.count = 0xFFFFFFFF then ({ t with count := 0, behind := 0 }, { ovf := true, hits := matchBits t 0 })
      else ({ t with count := t.count + 1 }, { hits := matchBits t (t.count + 1) })

/-- Whether the timer's link is fired by the events (R484). -/
def linkFires (t : Timer) (e : TickEvents) : Bool :=
  t.lact != 0 && match t.levt.toNat with
    | 1 => e.zero
    | 2 => e.hits / 2 ^ t.lcsel.toNat % 2 == 1
    | 3 => e.ovf
    | _ => false

/-- TIMER_TICK: TB advances, the counter steps, and its events set STAT, raise VECTOR and are wake sources
(R478, R480, R482, R490). -/
def execTimerTick (i : Nat) (s : State) : Host.Outcome State Fault Refusal :=
  let t := getTmr s i
  if i < 32 ∧ t.en then
    let (t1, e) := countStep { t with tb := t.tb + 1 }
    let fired := e.zero || e.ovf || e.hits != 0
    let t2 := { t1 with
      zero := t1.zero || e.zero, ovf := t1.ovf || e.ovf
      matches_ := t1.matches_ ||| BitVec.ofNat 4 e.hits
      linkNow := t1.linkNow || linkFires t1 e }
    let s1 := setTmr s i t2
    let s2 := if fired ∧ t.ie then { s1 with hif := { s1.hif with msix := s1.hif.msix ++ [t.vector.toNat] } } else s1
    if fired ∧ t.wake then
      .next (wakeFires s2 11)
    else .next s2
  else .next s

/-- TIMER_LINK_ACTION: the start or reset of a fired link lands on its target, unless that is in pace mode (R484). A
start sets EN at once; a reset replaces the step of the target's next tick. -/
def execTimerLinkAction (i : Nat) (s : State) : Host.Outcome State Fault Refusal :=
  let t := getTmr s i
  if t.linkNow then
    let s1 := setTmr s i { t with linkNow := false }
    let k := t.ltarget.toNat
    let x := getTmr s1 k
    if x.mode = .pace then .next s1
    else .next (setTmr s1 k { x with
      en := x.en || t.lact.getLsbD 0
      resetNext := x.resetNext || t.lact.getLsbD 1 })
  else .next s

/-- A capture: TB and COUNT are stored; CAP_NEW is set, and CAP_OVER when one was unread (R487, R489). -/
def capture (t : Timer) : Timer :=
  { t with capTb := t.tb, capCount := t.count, capNew := true, capOver := t.capOver || t.capNew }

/-- The state with a capture in every timer that selects the source. -/
def captureWhere (s : State) (p : Timer → Bool) : State :=
  (s.tmr.filter fun q => p q.2).foldl (fun s q => setTmr s q.1 (capture (getTmr s q.1))) s

/-- Whether a timer has the step close of core `n` as its capture source (R487, R488). -/
def watched (s : State) (n : Nat) : Bool := s.tmr.any fun q => q.2.src == 2 && q.2.index.toNat == n

/-- TILE_TMR_WATCH.CAP of some cores as the timers' capture sources give it (R488). -/
def syncWatch (s : State) (ns : List Nat) : State :=
  ns.foldl (fun s n => if present s n then modCore s n fun c => { c with watch := watched s n } else s) s

/-- TRIGGER_CAPTURE: an edge on a trigger input captures in every timer that selects the pin and the edge (R487), and is
a wake source when it rises (spec/17_power.md R504). -/
def execTriggerCapture (pin : Nat) (rising : Bool) (s : State) : Host.Outcome State Fault Refusal :=
  let s1 := captureWhere s fun t => t.src = 1 ∧ t.pin.toNat = pin ∧ t.edge.getLsbD (if rising then 0 else 1)
  if rising ∧ pin < 8 ∧ bit s.pwr.wakeEn pin then
    .next (wakeFires s1 pin)
  else .next s1

end Sys2Proof.Machine
end

