-- ==== Sys2Proof/Machine/Pace.lean ====
section
/-! DEFINITION. Pacing: PACE_SET, windows, due times and releases (spec/04_step_time.md R142-R145; spec/16_timers.md R485,
R486). -/

namespace Sys2Proof.Machine

/-! Steps are counted here from START without wrapping; a step number of the protocol is such a count modulo 2 to the 32 (R115). -/

/-- The step that a step number names, near a step that the context has come to (R115). -/
def nearStep (ref : Nat) (w : Word) : Nat :=
  let r := BitVec.ofNat 32 ref
  if stepLe r w then ref + (w - r).toNat else ref - (r - w).toNat

/-- The pace that covers step `s`: its first step, W of that step, P and O (R142, R145). -/
def paceAt (sh : Shard) (s : Nat) : PaceChange :=
  (sh.changes.filter fun c => c.sc ≤ s).foldl (fun a c => if a.sc ≤ c.sc then c else a)
    { sc := 0, w := sh.t0, p := sh.p, o := sh.o }

/-- W(s), the start of the window of step `s` on the device's timer (R142, R145). -/
def winStart (sh : Shard) (s : Nat) : Nat := let c := paceAt sh s; c.w.toNat + (s - c.sc) * c.p.toNat

/-- D(s), the due time of the release for `s` (R142, R145). -/
def dueTime (sh : Shard) (s : Nat) : Nat := winStart sh s + (paceAt sh s).o.toNat

/-- The paces of a shard with the step at which the next begins. -/
def paceSegs (sh : Shard) : List (PaceChange × Option Nat) :=
  let base : PaceChange := { sc := 0, w := sh.t0, p := sh.p, o := sh.o }
  (base :: sh.changes).map fun c =>
    (c, (sh.changes.filter fun d => c.sc < d.sc).foldl (fun m d => some (match m with
      | none => d.sc
      | some k => min k d.sc)) none)

/-- The highest step of a shard whose start, put off by O when `due`, has come at time `tau`; none before the first (R143,
R152, R486). -/
def paceStep (sh : Shard) (due : Bool) (tau : Nat) : Option Nat :=
  (paceSegs sh).foldl (fun m q =>
    let c := q.1
    let first := c.w.toNat + if due then c.o.toNat else 0
    if tau < first ∨ c.p.toNat = 0 then m
    else
      let s := c.sc + (tau - first) / c.p.toNat
      let s1 := match q.2 with | none => s | some k => min s (k - 1)
      some (match m with | none => s1 | some k => max k s1)) none

/-- The highest step whose due time has passed at time `tb` (R143, R486). -/
def highestDue (sh : Shard) (tb : Nat) : Option Nat := paceStep sh true tb

/-- The step of W(s) ≤ τ < W(s + 1) for a timestamp: none before W(0) (R152). -/
def windowOf (sh : Shard) (tau : Nat) : Option Nat := paceStep sh false tau

/-- The lowest step that a convoy barrier of the hub holds back for a context (spec/10_convoys.md R338). -/
def hubBarrier (s : State) (ctx : Nat) : Option Nat :=
  let ref := (getShard s ctx).nextRel
  ((s.hubCvy.filter fun m => m.ctx == ctx).filterMap fun m => m.barrier.map (nearStep ref)).foldl
    (fun m b => some (match m with | none => b | some k => min k b)) none

/-- The step that the next RELEASE of a context names: the highest due step that the hub's barriers let go, when it has not been
released (R143, R486; spec/10_convoys.md R338). -/
def nextRelease (s : State) (ctx : Nat) : Option Nat :=
  let sh := getShard s ctx
  match sh.timer with
  | none => none
  | some i =>
      if sh.paced ∧ sh.pacedSet ∧ (sh.state = .running ∨ sh.state = .stopping) ∧ (getTmr s i).en then
        match highestDue sh (getTmr s i).tb.toNat with
        | none => none
        | some k =>
            let k1 := match hubBarrier s ctx with | none => k | some b => if b ≤ k then b - 1 else k
            if sh.nextRel ≤ k1 ∧ hubBarrier s ctx ≠ some 0 then some k1 else none
      else none

/-- A RELEASE packet for a core (R134): SRC is 0. -/
def releasePkt (s : State) (ctx step core : Nat) : Packet :=
  mkPkt 9 0 (devNo s) core 0 0 0 (step % 2 ^ 16) ctx (genOf s ctx) 0 step 0

/-- RELEASE sent to every core of the shard (R143). -/
def sendRelease (s : State) (ctx step : Nat) : State :=
  hubSendAll (modShard s ctx fun sh => { sh with nextRel := step + 1 })
    ((shardCores s ctx).map (releasePkt s ctx step))

/-- PACE_RELEASE: TB has reached D(s) (R486). -/
def execPaceRelease (ctx : Nat) (s : State) : Host.Outcome State Fault Refusal :=
  match nextRelease s ctx with
  | none => .next s
  | some k => .next (sendRelease s ctx k)

/-- TIMER of a stream descriptor (spec/07_streams_ingest_readout.md R231). -/
def iTimer (d : BitVec 256) : Nat := fld d 63 59

/-- Whether a stream of a context other than `ctx` is bound to a timer. -/
def timerBound (s : State) (i ctx : Nat) : Bool :=
  s.ingest.any fun p => p.2.state != .closed && iTimer p.2.desc == i && p.2.ctx != ctx

/-- Whether an open stream of the context has a timer as its time base (R485). -/
def timerHolds (s : State) (i ctx : Nat) : Bool :=
  s.ingest.any fun p => p.2.state != .closed && iTimer p.2.desc == i && p.2.ctx == ctx

/-- A timer that leaves pace mode: every register at its reset value, EN 0 (R485). Its time base is one of them. -/
def freeTimer (s : State) (i : Nat) : State := syncWatch (setTmr s i {}) [(getTmr s i).index.toNat]

/-- The pace put on timer `i` with P, O and T0 (R485). -/
def setPace (s : State) (ctx i : Nat) (p o t0 : BitVec 64) : State :=
  let s1 := match (getShard s ctx).timer with
    | some j => if j = i then s else freeTimer s j
    | none => s
  let t := getTmr s1 i
  modShard (setTmr s1 i { t with mode := .pace, en := true, pctx := BitVec.ofNat 6 ctx }) ctx fun sh =>
    { sh with timer := some i, pacedSet := true, p := p, o := o, t0 := t0, changes := [] }

/-- PACE_SET (R142, R485; spec/13_host_interface.md R421). -/
def execPaceSet (h : Nat) (s : State) : Host.Outcome State Fault Refusal :=
  .next (withCmd s h 0x11 fun s f =>
    let m := f.manifest
    let ctx := mCtx m
    let i := mw m 0 % 32
    let t := getTmr s i
    let moves : Bool := match (getShard s ctx).timer with
      | some j => j != i && timerHolds s j ctx
      | none => false
    if (t.mode = .pace ∧ t.pctx.toNat ≠ ctx) ∨ timerBound s i ctx then complete s h stNoResource
    else if moves then complete s h stBadState
    else complete (setPace s ctx i (BitVec.ofNat 64 (mw2 m 1)) (BitVec.ofNat 64 (mw2 m 3)) (BitVec.ofNat 64 (mw2 m 5))) h stOk)

end Sys2Proof.Machine
end

