-- ==== Sys2Proof/Machine/Streams.lean ====
section
/-! DEFINITION. Ingest streams: descriptors, pushes, quantisation, encoders, windows and rearguards
(spec/07_streams_ingest_readout.md R230-R246). -/

namespace Sys2Proof.Machine

/-! ### The stream descriptor (R231) -/

/-- T0S. -/
def iT0s (d : BitVec 256) : Nat := fld d 255 192
/-- GRACE. -/
def iGrace (d : BitVec 256) : Nat := fld d 191 160
/-- PERIOD. -/
def iPeriod (d : BitVec 256) : Nat := fld d 159 128
/-- LSCALE. -/
def iLscale (d : BitVec 256) : Nat := fld d 127 120
/-- LZERO. -/
def iLzero (d : BitVec 256) : Nat := fld d 119 116
/-- The rows of a clamp window, CWIN + 1. -/
def iCwin (d : BitVec 256) : Nat := fld d 115 108 + 1
/-- CTHR. -/
def iCthr (d : BitVec 256) : Nat := fld d 107 96
/-- ABASE. -/
def iAbase (d : BitVec 256) : Nat := fld d 95 83
/-- ACORE. -/
def iAcore (d : BitVec 256) : Nat := fld d 82 73
/-- The channels of a row, CHANNELS + 1. -/
def iChans (d : BitVec 256) : Nat := fld d 72 64 + 1
/-- BEXP. -/
def iBexp (d : BitVec 256) : Int := signed 5 (fld d 58 54)
/-- K of the statistics, KM1 + 1. -/
def iK (d : BitVec 256) : Nat := fld d 53 50 + 1
/-- LEVEL. -/
def iLevel (d : BitVec 256) : Nat := fld d 49 46
/-- OUTN. -/
def iOutn (d : BitVec 256) : Nat := fld d 45 39
/-- ENC: 0 DELTA, 1 THRESH, 2 RATE, 3 LATENCY, 4 AER. -/
def iEnc (d : BitVec 256) : Nat := fld d 38 36
/-- SFMT: 0 int16, 1 int8, 2 binary16, 3 bfloat16, 4 codes, 5 address events. -/
def iSfmt (d : BitVec 256) : Nat := fld d 35 33
/-- TSSRC: timestamps are captured on arrival. -/
def iCaptured (d : BitVec 256) : Bool := bit d 32
/-- STREAM. -/
def iStream (d : BitVec 256) : Nat := fld d 31 26

/-- The descriptor at the start of a payload. -/
def descOfBytes (bs : List Byte) : BitVec 256 := BitVec.ofNat 256 (ofBytes (bs.take 32))
/-- The 64-bit words that follow `n` bytes of a payload. -/
def wordsOfBytes (bs : List Byte) (n k : Nat) : List (BitVec 64) :=
  (List.range k).map fun i => BitVec.ofNat 64 (ofBytes ((bs.drop (n + 8 * i)).take 8))

/-! ### Opening (R232, R233) -/

/-- Check 1 of R232: the descriptor and its out-list keep their ranges and suit the context. -/
def streamLegal (s : State) (ctx : Nat) (d : BitVec 256) (es : List Nat) : Bool :=
  let sh := getShard s ctx
  let level : Bool := if iEnc d = 1 ∨ iEnc d = 3 then iLevel d != 0 else iLevel d == 0
  fld d 25 0 == 0 && iEnc d ≤ 4 && iSfmt d ≤ 5 && (iEnc d == 4) == (iSfmt d == 5) && iAbase d % 2 == 0 &&
    iAbase d + 2 * iChans d ≤ 8192 && 1 ≤ iOutn d && iOutn d ≤ 64 && es.length == iOutn d && level &&
    (es.all fun e => lKind e == 0 && !entryBad false e && (coverOf s.shape e).isSome) &&
    if sh.paced then iPeriod d == 0 && iT0s d == 0 && sh.pacedSet && sh.timer == some (iTimer d)
    else iPeriod d != 0

/-- The cores of this device that an out-list covers. -/
def localCores (s : State) (es : List Nat) : List Nat :=
  ((coresOf s.shape es).filter fun k => k / 1024 == devNo s).map (· % 1024)

/-- A core bound to a context. -/
def boundTo (s : State) (ctx n : Nat) : Bool := (getCore s n).bound && (getCore s n).ctx == ctx

/-- The source slots of a stream (R233). -/
def sourceSlots (d : BitVec 256) : List Nat := (List.range (2 * iChans d)).map (iAbase d + ·)

/-- Whether the source slots of a stream are free on its anchor core (R233). -/
def slotsFree (s : State) (d : BitVec 256) : Bool :=
  let taken := loadedSlots (getCore s (iAcore d))
  (sourceSlots d).all fun k => !taken.contains k && !anchorSlot s (iAcore d) k

/-- A stream record that is open on a stopped context. -/
def openedStream (old : Ingest) (ctx : Nat) (d : BitVec 256) (es : List Nat) : Ingest :=
  { clamp := old.clamp, lateRow := old.lateRow, switches := old.switches, badAddr := old.badAddr
    window := old.window, done := old.done, doneReg := old.doneReg
    state := .opened, ctx := ctx, desc := d, outlist := es.map fun e => BitVec.ofNat 64 e }

/-- Whether a descriptor of a core covers source slots of a stream of this device (spec/02_narrow_arithmetic.md R580). -/
def coversStream (s : State) (d : BitVec 256) (p : BitVec 128) : Bool :=
  dSdev p == devNo s && dScore p == iAcore d && (sources p).any fun k => (sourceSlots d).contains (dSbase p + k)

/-- The target slots of the descriptors of a core that cover source slots of a stream. -/
def streamTargets (s : State) (ctx : Nat) (d : BitVec 256) (n : Nat) : List Nat :=
  let c := getCore s n
  (((rowDescs c).filter fun p => coversStream s d p.2).flatMap fun p =>
    (sources p.2).flatMap fun i => (elemsOf s ctx c p.2 i).map Prod.fst).eraseDups

/-- The checks of R232 in order: the status and the reason of the first that fails. -/
def streamCheck (s : State) (ctx : Nat) (d : BitVec 256) (es : List Nat) : Option (Status × Nat) :=
  let here := iAcore d :: localCores s es
  if !streamLegal s ctx d es then some (stBadManifest, 0)
  else if (getIn s (iStream d)).state ≠ .closed then some (stNoResource, 0)
  else if here.any fun n => !present s n then some (stDoesNotFit, 0x10)
  else if (here.any fun n => !boundTo s ctx n) || !slotsFree s d then some (stDoesNotFit, 0x08)
  else if iEnc d = 0 then
    let t := setIn s (iStream d) (openedStream (getIn s (iStream d)) ctx d es)
    if (localCores s es).any fun n => (streamTargets s ctx d n).any (headOver t ctx (getCore t n)) then some (stDoesNotFit, 0x04)
    else none
  else none

/-! ### The start of a run (R238-R240, R242, R246) -/

/-- The seed of a stream's encoder LFSR (R242). -/
def streamSeed (seed : Word) (dev i : Nat) : Word :=
  let x := seed ^^^ BitVec.ofNat 32 ((dev * 64 + i + 1) * 0x85EBCA6B)
  if x = 0 then 1 else x

/-- A stream that enters RUNNING with first window `first`. -/
def beginRun (st : Ingest) (seed : Word) (dev i : Nat) (first : Word) : Ingest :=
  { st with
    state := .running, rowIdx := 0, stats := [], fallback := false, quiet := 0, clampWin := 0, winRows := 0
    prev := [], primed := false, frameAt := none, lfsr := streamSeed seed dev i, held := [], later := []
    window := first - 1, done := first - 1, doneReg := 0xFFFFFFFF, startF := first - 1, notices := [], heldRg := false
    closeAt := none }

/-- A stream that returns to CLOSED (R230). -/
def freeStream (st : Ingest) : Ingest :=
  { st with state := .closed, held := [], later := [], heldRg := false, closeAt := none }

/-! ### Rows (R235, R236) -/

/-- The bytes of a row (R235). -/
def rowBytes (d : BitVec 256) : Nat :=
  let data := match iSfmt d with
    | 1 => iChans d
    | 4 => cdiv (iChans d) 2
    | _ => 2 * iChans d
  if iSfmt d = 5 then 16 else 8 * cdiv (data + if iCaptured d then 0 else 8) 8

/-- The raw samples of a row's data bytes, in channel order (R235). -/
def rowSamples (d : BitVec 256) (bs : List Byte) : List Word :=
  if iSfmt d = 5 then [BitVec.ofNat 32 (ofBytes (bs.take 4))]
  else (List.range (iChans d)).map fun c =>
    match iSfmt d with
    | 1 => BitVec.ofNat 32 (ofBytes ((bs.drop c).take 1))
    | 4 => BitVec.ofNat 32 (ofBytes ((bs.drop (c / 2)).take 1) / 16 ^ (c % 2) % 16)
    | _ => BitVec.ofNat 32 (ofBytes ((bs.drop (2 * c)).take 2))

/-- A row read from its bytes; `now` is the time base at the push's manifest (R236). -/
def parseRow (d : BitVec 256) (now : BitVec 64) (bs : List Byte) : Row :=
  if iCaptured d then { ts := now, samples := rowSamples d (if iSfmt d = 5 then bs.drop 8 else bs) }
  else { ts := BitVec.ofNat 64 (ofBytes (bs.take 8)), samples := rowSamples d (bs.drop 8) }

/-- ROWS of a push header. -/
def pushRows (bs : List Byte) : Nat := ofBytes ((bs.drop 6).take 2)
/-- THROUGH of a push header. -/
def pushThrough (bs : List Byte) : Nat := ofBytes ((bs.drop 8).take 8)

/-- The rows of a push, then its THROUGH as a row without samples; none when the rows do not fit the bytes (R235). -/
def parsePush (d : BitVec 256) (now : BitVec 64) (bs : List Byte) : Option (List Row) :=
  let n := pushRows bs
  if bs.length < 16 + n * rowBytes d then none
  else
    let rows := (List.range n).map fun i => parseRow d now ((bs.drop (16 + i * rowBytes d)).take (rowBytes d))
    some (if pushThrough bs = 0 then rows else rows ++ [{ ts := BitVec.ofNat 64 (pushThrough bs), samples := [] }])

/-- The step of a timestamp (R152, R236); none for a row before W(0) or T0S. -/
def stepOfTime (s : State) (st : Ingest) (tau : Nat) : Option Word :=
  if (getShard s st.ctx).paced then (windowOf (getShard s st.ctx) tau).map (BitVec.ofNat 32)
  else if tau < iT0s st.desc ∨ iPeriod st.desc = 0 then none
  else some (BitVec.ofNat 32 ((tau - iT0s st.desc) / iPeriod st.desc))

/-! ### Quantisation (R238, R239) -/

/-- A sample's value in units of 2 to the -133, which holds every binary16 and bfloat16 number whole; or a value that takes the
top or the bottom level (R238). -/
inductive Sample where
  | finite (x : Int)
  | top
  | bottom
  deriving DecidableEq, Repr

/-- A floating sample with an exponent of `eb` bits, a fraction of `fb` bits and the unit 2 to the `u` of its smallest
number. -/
def floatSample (eb fb u raw : Nat) : Sample :=
  let neg : Bool := raw / 2 ^ (eb + fb) % 2 = 1
  let e := raw / 2 ^ fb % 2 ^ eb
  let f := raw % 2 ^ fb
  if e = 2 ^ eb - 1 then (if f = 0 ∧ !neg then .top else .bottom)
  else
    let m := if e = 0 then f * 2 ^ u else (2 ^ fb + f) * 2 ^ (u + e - 1)
    .finite (if neg then -(m : Int) else m)

/-- A raw sample's value (R238). -/
def sampleOf (sfmt raw : Nat) : Sample :=
  match sfmt with
  | 0 => .finite (signed 16 (raw % 2 ^ 16) * 2 ^ 133)
  | 1 => .finite (signed 8 (raw % 2 ^ 8) * 2 ^ 133)
  | 2 => floatSample 5 10 109 raw
  | _ => floatSample 8 7 0 raw

/-- s(e, m) of a stream in the same units. -/
def sampleUnit (bexp : Int) (e : Int) (m : Nat) : Nat := (16 + m) * 2 ^ (e + bexp + 129).toNat

/-- search() of R238 over the units `u`: the scale code and the zero point. -/
def searchScale (u : Int → Nat → Nat) (lo hi : Int) : Int × Nat × Nat :=
  let all := (List.range 256).map fun k => (((k / 16 : Nat) : Int) - 8, k % 16)
  match all.find? fun p => cdiv (-lo).toNat (u p.1 p.2) + cdiv hi.toNat (u p.1 p.2) ≤ 15 with
  | some (e, m) => (e, m, cdiv (-lo).toNat (u e m))
  | none => (7, 15, min 15 (cdiv (-lo).toNat (u 7 15)))

/-- The code of a value under unit `u` and zero point `z`, and whether it was clamped (R238). -/
def codeOf (u z : Nat) : Sample → Nat × Bool
  | .top => (15, true)
  | .bottom => (0, true)
  | .finite x =>
      let q := (2 * x + u) / (2 * u) + z
      ((clampTo 0 15 q).toNat, q < 0 || q > 15)

/-- The extremes of the finite samples of a row, with 0 between them (R238). -/
def extremes (xs : List Sample) : Int × Int :=
  xs.foldl (fun a x => match x with | .finite v => (min a.1 v, max a.2 v) | _ => a) (0, 0)

/-- The end of a clamp window (R239). -/
def endClampWindow (st : Ingest) : Ingest :=
  let thr := iCthr st.desc
  let s1 := { st with clampWin := 0, winRows := 0 }
  if thr = 0 then { s1 with fallback := false }
  else if !st.fallback ∧ st.clampWin > thr then
    { s1 with fallback := true, quiet := 0, switches := satAdd st.switches 1 }
  else if st.fallback ∧ 2 * st.clampWin < thr then
    if st.quiet + 1 = 2 then { s1 with fallback := false, quiet := 0, switches := satAdd st.switches 1 }
    else { s1 with quiet := st.quiet + 1 }
  else { s1 with quiet := 0 }

/-- A row quantised (R238, R239): its codes, and the stream after it. -/
def quantise (st : Ingest) (xs : List Sample) : Ingest × List Nat :=
  let d := st.desc
  let u := sampleUnit (iBexp d)
  let rows := st.stats
  let (e, m, z) :=
    if st.rowIdx = 0 ∨ st.fallback then (scExp (iLscale d), iLscale d % 16, iLzero d)
    else searchScale u ((rows.map Prod.fst).foldl min 0) ((rows.map Prod.snd).foldl max 0)
  let qs := xs.map (codeOf (u e m) z)
  let k := (qs.filter fun q => q.2).length
  let st1 := { st with
    rowIdx := st.rowIdx + 1, stats := (extremes xs :: rows).take (iK d), clamp := satAdd st.clamp k
    clampWin := st.clampWin + k, winRows := st.winRows + 1 }
  (if st1.winRows = iCwin d then endClampWindow st1 else st1, qs.map Prod.fst)

/-! ### Events (R234, R240-R243) -/

/-- A stream at work, with the packets it has sent and the rows it has counted. -/
structure InWork where
  st   : Ingest
  out  : List Packet := []
  acc  : Nat := 0
  late : Nat := 0

/-- A packet of a stream along an out-list entry (R234). -/
def streamPkt (s : State) (st : Ingest) (ty : Nat) (slot : Nat) (step : Word) (sub pay : Nat) (e : BitVec 64) : Packet :=
  let x := e.toNat
  mkPkt ty 1 (lDev x) (lCore x) (lMcast x) (lSpan x) (srcWord (devNo s) (iAcore st.desc) slot) (step.toNat % 2 ^ 16) st.ctx
    (genOf s st.ctx) sub pay 0 0x7

/-- An event of a source slot with multiplicity `k`, along every entry (R234, R240). -/
def sendEvent (s : State) (x : InWork) (step : Word) (slot k : Nat) : InWork :=
  { x with out := x.out ++ x.st.outlist.map (streamPkt s x.st 1 slot step ((k - 1) * 16) 0) }

/-- The slot of a channel's ON or OFF address (R233). -/
def chanSlot (d : BitVec 256) (c : Nat) (on : Bool) : Nat := iAbase d + 2 * c + b1 (!on)

/-- DELTA for one channel (R241). -/
def encDelta (s : State) (step : Word) (x : InWork) (c q : Nat) : InWork :=
  let p := (nget 0 x.st.prev c).toNat
  if q = p then x
  else
    let k := min ((q - p) + (p - q)) 4
    let p1 := if q > p then p + k else p - k
    sendEvent s { x with st := { x.st with prev := nset 0 x.st.prev c (BitVec.ofNat 4 p1) } } step (chanSlot x.st.desc c (q > p)) k

/-- THRESH for one channel (R240). -/
def encThresh (s : State) (step : Word) (x : InWork) (c q : Nat) : InWork :=
  let p := (nget 0 x.st.prev c).toNat
  let l := iLevel x.st.desc
  let x1 := { x with st := { x.st with prev := nset 0 x.st.prev c (BitVec.ofNat 4 q) } }
  if p < l ∧ l ≤ q then sendEvent s x1 step (chanSlot x.st.desc c true) 1
  else if q < l ∧ l ≤ p then sendEvent s x1 step (chanSlot x.st.desc c false) 1
  else x1

/-- RATE for one channel: one draw, whatever the code (R240, R242). -/
def encRate (s : State) (step : Word) (x : InWork) (c q : Nat) : InWork :=
  let (u, l) := draw x.st.lfsr
  let x1 := { x with st := { x.st with lfsr := l } }
  if u < 4096 * q then sendEvent s x1 step (chanSlot x.st.desc c true) 1 else x1

/-- LATENCY for one channel of the first row of a frame of `n` steps that begins at step `f`; an event of a later step is held
(R240, R243). -/
def encLatency (s : State) (step f : Word) (n : Nat) (x : InWork) (c q : Nat) : InWork :=
  if q = 0 then x
  else
    let t := f + BitVec.ofNat 32 ((15 - q) * n / 16)
    let slot := chanSlot x.st.desc c true
    if stepLt step t then { x with st := { x.st with later := x.st.later ++ [(t, BitVec.ofNat 32 slot, 0)] } }
    else sendEvent s x t slot 1

/-- The codes of a row encoded, in ascending channel order (R240, R243). -/
def encodeRow (s : State) (step : Word) (x : InWork) (qs : List Nat) : InWork :=
  let st := x.st
  let each (f : InWork → Nat → Nat → InWork) : InWork := qs.zipIdx.foldl (fun x q => f x q.2 q.1) x
  let prime : InWork := { x with st := { st with
    primed := true, prev := qs.zipIdx.foldl (fun m q => nset 0 m q.2 (BitVec.ofNat 4 q.1)) [] } }
  match iEnc st.desc with
  | 0 => if st.primed then each (encDelta s step) else prime
  | 1 => if st.primed then each (encThresh s step) else prime
  | 2 => each (encRate s step)
  | _ =>
      let n := iLevel st.desc + 1
      let f := BitVec.ofNat 32 (step.toNat / n * n)
      if st.frameAt.all fun g => stepLt g f then
        qs.zipIdx.foldl (fun x q => encLatency s step f n x q.2 q.1) { x with st := { st with frameAt := some f } }
      else x

/-- An address-event record (R240). -/
def encodeAer (s : State) (step : Word) (x : InWork) (w : Word) : InWork :=
  let a := fld w 22 0
  if a ≥ iChans x.st.desc then { x with st := { x.st with badAddr := satAdd x.st.badAddr 1 } }
  else sendEvent s x step (chanSlot x.st.desc a (bit w 31)) 1

/-! ### Windows and rearguards (R244-R246; spec/10_convoys.md R332, R334) -/

/-- The earlier of two steps (spec/04_step_time.md R115). -/
def minStep (a b : Word) : Word := if stepLe a b then a else b

/-- F: the lowest step most recently noticed by the cores of the out-list (R246). -/
def lowestF (s : State) (st : Ingest) : Word :=
  ((coresOf s.shape (st.outlist.map fun e => e.toNat)).map fun k => nget st.startF st.notices k).foldl
    (fun a f => some (match a with | none => f | some g => minStep g f)) none |>.getD st.startF

/-- Whether every window of a stream completes at once: an IDLE stream of an unpaced context (R244). -/
def endless (s : State) (st : Ingest) : Bool := st.state == .idle && !(getShard s st.ctx).paced

/-- The last window of a stream that may complete: below a committed SCLOSE (spec/10_convoys.md R334). -/
def topWindow (st : Ingest) : Word := match st.closeAt with | none => st.window | some c => minStep st.window (c - 1)

/-- The events that LATENCY held for steps of completed windows are sent (R243); those of an endless stream all are, up to its
SCLOSE. -/
def sendLater (s : State) (x : InWork) : InWork :=
  let st := x.st
  let due (t : Word) : Bool := stepLe t (topWindow st) || (endless s st && st.closeAt.all fun c => stepLt t c)
  (st.later.filter fun l => due l.1).foldl (fun x l => sendEvent s x l.1 l.2.1.toNat 1)
    { x with st := { st with later := st.later.filter fun l => !due l.1 } }

/-- Rearguards of completed windows, in ascending order up to F + 8 (R245, R246). An IDLE stream of an unpaced context completes
every window at once (R244). A stream whose SCLOSE is served returns to CLOSED (spec/10_convoys.md R334). -/
def release (s : State) (x0 : InWork) : InWork :=
  let st0 := x0.st
  let f8 := lowestF s st0 + 8
  let free := endless s st0
  let x1 : InWork := if free ∧ stepLt st0.window f8 then { x0 with st := { st0 with window := f8 } } else x0
  let x := sendLater s x1
  let st := x.st
  let lim := minStep (topWindow st) f8
  let n := if stepLt st.done lim then (lim - st.done).toNat else 0
  let rgs := (List.range n).flatMap fun (i : Nat) =>
    let t := st.done + 1 + BitVec.ofNat 32 i
    st.outlist.map (streamPkt s st 2 (iAbase st.desc) t 0 t.toNat)
  let st1 := { st with
    done := if n = 0 then st.done else lim
    doneReg := if n = 0 then st.doneReg else lim
    heldRg := (free && st.closeAt.isNone) || stepLt lim (topWindow st) }
  let ended : Bool := match st1.closeAt with | some c => stepLe (c - 1) st1.done | none => false
  { x with st := if ended then freeStream st1 else st1, out := x.out ++ rgs }

/-- The time from which rows wait for the decision on a pace change: W(h - 1) for the hub's barrier h, with h
(spec/10_convoys.md R332). -/
def paceHold (s : State) (ctx : Nat) : Option (Nat × Word) :=
  let sh := getShard s ctx
  (s.hubCvy.find? fun m => m.ctx == ctx && m.commit.isNone && m.barrier.isSome && m.records.any fun r => aKind r == 0x10).bind
    fun m => m.barrier.map fun h => (winStart sh (nearStep sh.nextRel h - 1), h)

/-- Windows through `k` complete, but none from h - 1 on while rows are held (R244; spec/10_convoys.md R332). -/
def completeTo (s : State) (x : InWork) (k : Word) : InWork :=
  let k1 := match paceHold s x.st.ctx with
    | some (_, h) => if x.st.held.isEmpty then k else minStep k (h - 2)
    | none => k
  if stepLe k1 x.st.window then x
  else release s { x with st := { x.st with window := k1 } }

/-- A row whose step is known and whose window is open: the windows below it complete, and its events are formed
(R237, R240, R244). -/
def formRow (s : State) (x : InWork) (step : Word) (r : Row) : InWork :=
  let x1 := completeTo s x (step - 1)
  let d := x1.st.desc
  if iSfmt d = 5 then encodeAer s step x1 (r.samples.headD 0)
  else if iSfmt d = 4 then encodeRow s step x1 (r.samples.map fun w => w.toNat % 16)
  else
    let (st, qs) := quantise x1.st (r.samples.map fun w => sampleOf (iSfmt d) w.toNat)
    encodeRow s step { x1 with st := st } qs

/-- The step of a row that is late: before the first window, or at or below the last completed one (R237). -/
def rowLate (s : State) (st : Ingest) (r : Row) : Bool :=
  match stepOfTime s st r.ts.toNat with
  | none => true
  | some k => stepLe k st.window

/-- A row, or a THROUGH, of a RUNNING stream (R236, R237, R244). -/
def placeRow (s : State) (x : InWork) (r : Row) : InWork :=
  match stepOfTime s x.st r.ts.toNat with
  | none => if r.samples = [] then x else { x with late := x.late + 1, st := { x.st with lateRow := satAdd x.st.lateRow 1 } }
  | some k =>
      if r.samples = [] then completeTo s x (k - 1)
      else if rowLate s x.st r then { x with late := x.late + 1, st := { x.st with lateRow := satAdd x.st.lateRow 1 } }
      else if x.st.closeAt.any fun c => stepLe c k then x
      else formRow s x k r

/-- A row counted as accepted (R258; RESULT of the push, R235). -/
def countRow (x : InWork) (r : Row) : InWork :=
  if r.samples = [] then x else { x with acc := x.acc + 1, st := { x.st with rows := x.st.rows + 1 } }

/-- A row taken from a push: held while a pace change is undecided, else placed (spec/10_convoys.md R332). It counts as accepted
unless it is late. -/
def takeRow (s : State) (x : InWork) (r : Row) : InWork :=
  let hold : Bool := match paceHold s x.st.ctx with | some (t, _) => t ≤ r.ts.toNat | none => false
  if hold then countRow { x with st := { x.st with held := x.st.held ++ [r] } } r
  else if rowLate s x.st r then placeRow s x r
  else placeRow s (countRow x r) r

/-- A stream's work put back, with its packets sent through the hub attachments (R234). -/
def putWork (s : State) (i : Nat) (x : InWork) : State := hubSendAll (setIn s i x.st) x.out

/-- The rows that a stream holds placed in arrival order (R230; spec/10_convoys.md R332). -/
def placeHeld (s : State) (i : Nat) : State :=
  let st := getIn s i
  putWork s i (st.held.foldl (placeRow s) { st := { st with held := [] } })

/-- The streams of a context with a property. -/
def streamsIn (s : State) (ctx : Nat) (p : Ingest → Bool) : List Nat :=
  (s.ingest.filter fun q => q.2.ctx == ctx && p q.2).map Prod.fst

/-- The rows held for a pace decision get their steps (spec/10_convoys.md R332). -/
def placeAllHeld (s : State) (ctx : Nat) : State :=
  (streamsIn s ctx fun st => st.state != .opened && st.state != .closed).foldl placeHeld s

/-! ### START, STOP and reset (R230; spec/14_contexts_recovery.md R440, R441, R445) -/

/-- OPEN streams begin their run and take the rows held for START. -/
def startStreams (s : State) (ctx : Nat) : State :=
  (streamsIn s ctx fun st => st.state == .opened).foldl (fun s i =>
    let st := getIn s i
    let s1 := setIn s i (beginRun st (getShard s ctx).seed (devNo s) i 0)
    putWork s1 i (st.held.foldl (placeRow s1) { st := getIn s1 i })) s

/-- RUNNING streams return to OPEN and IDLE streams to CLOSED. -/
def stopStreams (s : State) (ctx : Nat) : State :=
  (streamsIn s ctx fun _ => true).foldl (fun s i =>
    let st := getIn s i
    match st.state with
    | .running => setIn s i { st with state := .opened, held := [], later := [], heldRg := false, closeAt := none }
    | .idle => setIn s i (freeStream st)
    | _ => s) s

/-- The streams of a context closed by a reset, with their counts cleared (R258; spec/14_contexts_recovery.md R445). -/
def resetStreams (s : State) (ctx : Nat) : State :=
  (streamsIn s ctx fun _ => true).foldl (fun s i =>
    setIn s i { freeStream (getIn s i) with
      clamp := 0, lateRow := 0, switches := 0, badAddr := 0, rows := 0, window := 0xFFFFFFFF, done := 0xFFFFFFFF
      doneReg := 0xFFFFFFFF, fallback := false }) s

/-! ### SOPEN and SCLOSE (spec/10_convoys.md R328, R332, R334) -/

/-- A stream opened by a convoy: its first window is the commit step; OPEN on a stopped context. -/
def openStream (s : State) (ctx : Nat) (d : BitVec 256) (es : List Nat) (first : Option Word) : State :=
  let i := iStream d
  let st := openedStream (getIn s i) ctx d es
  match first with
  | none => setIn s i st
  | some sc => setIn s i (beginRun st (getShard s ctx).seed (devNo s) i sc)

/-- A stream closed by a convoy at step `sc`: from here on it takes no row (spec/10_convoys.md R334). -/
def closeStream (s : State) (ctx i : Nat) (sc : Option Word) : State :=
  let st := getIn s i
  if st.ctx ≠ ctx ∨ st.state = .closed then s
  else match sc, st.state with
    | some c, .running => putWork s i (release s { st := { st with state := .idle, closeAt := some c } })
    | some c, .idle => putWork s i (release s { st := { st with closeAt := some c } })
    | _, _ => setIn s i (freeStream st)

/-! ### The commands (R230, R235, R244, R246) -/

/-- The answer to a push: the rows accepted, and the late ones in PAYLOAD bytes 0 and 1. -/
def pushDone (s : State) (h acc late : Nat) : State := complete s h stOk acc [BitVec.ofNat 128 (min late 0xFFFF)]

/-- STREAM_PUSH (R235-R237); its manifest at the engine is a capture source (spec/16_timers.md R487). -/
def execStreamPush (h : Nat) (s : State) : Host.Outcome State Fault Refusal :=
  .next (withCmd s h 0x19 fun s f =>
    let i := mTobj f.manifest
    let st := getIn s i
    let now := (getTmr s (iTimer st.desc)).tb
    let s1 := captureWhere s fun t => t.src = 3 ∧ t.index.toNat = i
    let may : Bool := st.ctx == mCtx f.manifest && st.closeAt.isNone && (st.state == .opened || st.state == .running)
    if !may then complete s1 h stBadState
    else match parsePush st.desc now (linesBytes f.bales) with
      | none => complete s1 h stBadLength
      | some rows =>
          if st.state = .opened then
            let x := rows.foldl countRow { st := { st with held := st.held ++ rows } }
            pushDone (setIn s1 i x.st) h x.acc 0
          else
            let x := rows.foldl (takeRow s1) { st := st }
            pushDone (putWork s1 i x) h x.acc x.late)

/-- STREAM_CLOSE (R230): a RUNNING stream that holds rows for a pace decision closes once they are processed. -/
def execStreamClose (h : Nat) (s : State) : Host.Outcome State Fault Refusal :=
  .next (withCmd s h 0x1A fun s1 f =>
    let i := mTobj f.manifest
    let st := getIn s1 i
    if st.ctx ≠ mCtx f.manifest then complete s1 h stBadState
    else match st.state with
      | .opened => complete (setIn s1 i (freeStream st)) h stOk
      | .running =>
          if st.held.isEmpty then complete (putWork s1 i (release s1 { st := { st with state := .idle } })) h stOk
          else s
      | _ => complete s1 h stBadState)

/-- Whether a stream takes the notice of a core: it sends rearguards, and the core lies on its out-list, in the context and
generation of the notice (R246). -/
def hearsNotice (s : State) (st : Ingest) (p : Packet) : Bool :=
  (st.state == .running || st.state == .idle) && st.ctx == pctx p && genOf s st.ctx == pgen p &&
    (coresOf s.shape (st.outlist.map fun e => e.toNat)).contains (srcDev p * 1024 + srcCore p)

/-- STEP_NOTICE (R246): F follows, and rearguards that it held are sent; a timer that watches the core captures
(spec/16_timers.md R488). -/
def execStepNotice (pkt : Packet) (s : State) : Host.Outcome State Fault Refusal :=
  let s1 := hubDone s pkt
  let s2 := if srcDev pkt = devNo s then captureWhere s1 fun t => t.src = 2 ∧ t.index.toNat = srcCore pkt else s1
  .next ((s2.ingest.filter fun q => hearsNotice s2 q.2 pkt).foldl (fun s q =>
    let st := getIn s q.1
    putWork s q.1 (release s { st := { st with
      notices := nset st.startF st.notices (srcDev pkt * 1024 + srcCore pkt) (BitVec.ofNat 32 (payload pkt)) } })) s2)

/-- The last window whose end plus GRACE the time base has reached (R244). -/
def graceWindow (s : State) (st : Ingest) : Option Word :=
  let tb := (getTmr s (iTimer st.desc)).tb.toNat
  if tb < iGrace st.desc then none else (stepOfTime s st (tb - iGrace st.desc)).map (· - 1)

/-- INGEST_GRACE_EXPIRE (R244): a RUNNING stream with GRACE, or an IDLE stream of a paced context. -/
def execIngestGraceExpire (stream : Nat) (s : State) : Host.Outcome State Fault Refusal :=
  let st := getIn s stream
  let may : Bool := (st.state == .running && iGrace st.desc != 0) || (st.state == .idle && (getShard s st.ctx).paced)
  if may then
    match graceWindow s st with
    | none => .next s
    | some k => .next (putWork s stream (completeTo s { st := st } k))
  else .next s

end Sys2Proof.Machine
end

