-- ==== Sys2Proof/Machine/Readout.lean ====
section
/-! DEFINITION. Result streams: ranges, readout packets, decoding, delivery and marks (spec/07_streams_ingest_readout.md
R247-R257). -/

namespace Sys2Proof.Machine

/-! ### The result descriptor and its ranges (R247) -/

/-- RSTREAM. -/
def rStream (d : BitVec 64) : Nat := fld d 63 58
/-- DEC: 0 COUNT, 1 MEMBRANE, 2 FIRST, 3 ARGMAX. -/
def rDec (d : BitVec 64) : Nat := fld d 57 56
/-- OFMT: 0 int16, 1 binary16, 2 Q4. -/
def rOfmt (d : BitVec 64) : Nat := fld d 55 54
/-- N. -/
def rLen (d : BitVec 64) : Nat := fld d 53 48
/-- DEST: 0 completion ring, 1 peer queue. -/
def rDest (d : BitVec 64) : Nat := fld d 47 46
/-- CQ. -/
def rCq (d : BitVec 64) : Nat := fld d 45 38
/-- NRANGE. -/
def rNrange (d : BitVec 64) : Nat := fld d 10 4
/-- CORE of a range. -/
def gCore (r : BitVec 64) : Nat := fld r 63 54
/-- SBASE of a range. -/
def gSbase (r : BitVec 64) : Nat := fld r 53 41
/-- The slots of a range. -/
def gSlots (r : BitVec 64) : Nat := fld r 40 31 + 1

/-- V: the length of the result vector. -/
def vectorLen (rs : List (BitVec 64)) : Nat := (rs.map gSlots).sum

/-! ### Records and range maps of the cores (R248) -/

/-- The first place of `n` records among the ranges that a core holds, each taken as first record and number. -/
def placeRecs (taken : List (Nat × Nat)) (n : Nat) : Option Nat :=
  (List.range 1024).find? fun p => p + n ≤ 1024 && taken.all fun t => p + n ≤ t.1 || t.1 + t.2 ≤ p

/-- The records of a core after its range map has changed: those of a range that stands keep their values wherever they now lie,
those of a new range hold COUNT 0 and FIRST 0x3F. -/
def moveRecs (old new : Core) : Core :=
  (readRanges new).foldl (fun c r =>
    let from_ := (readRanges old).find? fun x => x.rstream == r.rstream && x.sbase == r.sbase && x.count == r.count
    (List.range r.count).foldl (fun c k =>
      ldmSet c (recAddr (r.first + k)) 2 (match from_ with | some x => ldmGet old (recAddr (x.first + k)) 2 | none => 0x3F)) c) new

/-- The range map of a core with the records of its ranges laid one behind the other. -/
def packMap (c : Core) : Core :=
  ((List.range 4).foldl (fun (x : Core × Nat) i =>
    let e := ldmGet c (0x3EE00 + 8 * i) 8
    if e / 2 ^ 24 % 2 = 1 then
      (ldmSet x.1 (0x3EE00 + 8 * i) 8 (e - e / 2 ^ 25 % 2 ^ 10 * 2 ^ 25 + x.2 * 2 ^ 25), x.2 + (e / 2 ^ 35 % 2 ^ 10 + 1))
    else x) (c, 0)).1

/-- A range put in a core's map, at the first place `p` for its records. -/
def putRange (rs : Nat) (c : Core) (r : BitVec 64) (i p : Nat) : Core :=
  ldmSet c (0x3EE00 + 8 * i) 8 (rs * 2 ^ 58 + gSbase r * 2 ^ 45 + (gSlots r - 1) * 2 ^ 35 + p * 2 ^ 25 + 2 ^ 24)

/-- A core's map with a range more; none when the core would hold more than four ranges or 1,024 records (R247). Where the free
records lie apart, the others move together. -/
def addRange (rs : Nat) (c : Core) (r : BitVec 64) : Option Core :=
  let taken (x : Core) : List (Nat × Nat) := (readRanges x).map fun x => (x.first, x.count)
  match (List.range 4).find? fun i => ldmGet c (0x3EE00 + 8 * i) 8 / 2 ^ 24 % 2 = 0 with
  | none => none
  | some i => match placeRecs (taken c) (gSlots r) with
    | some p => some (putRange rs c r i p)
    | none => (placeRecs (taken (packMap c)) (gSlots r)).map fun p => putRange rs (packMap c) r i p

/-- The ranges of a result stream put in the maps of their cores. -/
def addMaps (rs : Nat) : State → List (BitVec 64) → Option State
  | s, [] => some s
  | s, r :: l => match addRange rs (getCore s (gCore r)) r with
    | none => none
    | some c => addMaps rs (setCore s (gCore r) c) l

/-- The same with the records of the cores following. -/
def addRanges (rs : Nat) (s : State) (l : List (BitVec 64)) : Option State :=
  (addMaps rs s l).map fun t => (l.map gCore).eraseDups.foldl (fun t n => setCore t n (moveRecs (getCore s n) (getCore t n))) t

/-- A result stream's entries taken out of a core's map. -/
def dropRange (rs : Nat) (c : Core) : Core :=
  (List.range 4).foldl (fun c i =>
    let e := ldmGet c (0x3EE00 + 8 * i) 8
    if e / 2 ^ 24 % 2 = 1 ∧ e / 2 ^ 58 = rs then ldmSet c (0x3EE00 + 8 * i) 8 0 else c) c

/-- The records of a result stream's ranges at a core restarted: COUNT 0, FIRST 0x3F. -/
def clearRanges (rs : Nat) (c : Core) : Core :=
  ((readRanges c).filter fun r => r.rstream == rs).foldl clearRange c

/-! ### Opening and closing (R247, R256) -/

/-- The checks of R247 in order: the status and the reason of the first that applies. -/
def resultCheck (s : State) (ctx : Nat) (d : BitVec 64) (rs : List (BitVec 64)) : Option (Status × Nat) :=
  let v := vectorLen rs
  let bad := fld d 3 0 != 0 || rOfmt d == 3 || rLen d == 0 || rDest d > 1 || rNrange d == 0 || rNrange d > 64 ||
    rs.length != rNrange d || (rs.any fun r => fld r 30 0 != 0 || gSbase r + gSlots r > 8192) || v > 1024
  let mixed (r : BitVec 64) : Bool :=
    let c := getCore s (gCore r)
    (List.range (gSlots r)).any fun k =>
      companion c (gSbase r + k) || wGroup (wordOf c (gSbase r + k)) != wGroup (wordOf c (gSbase r))
  if bad then some (stBadManifest, 0)
  else if rs.any fun r => !present s (gCore r) then some (stDoesNotFit, 0x10)
  else if rs.any fun r => !boundTo s ctx (gCore r) then some (stDoesNotFit, 0x08)
  else if rDec d ≠ 3 ∧ v > (if rOfmt d = 2 then 496 else 124) then some (stBadLength, 0)
  else if (getRes s (rStream d)).state ≠ .closed ∨ (addMaps (rStream d) s rs).isNone then some (stNoResource, 0)
  else if rDec d = 1 ∧ rs.any mixed then some (stBadState, 0)
  else none

/-- A result stream of the engine opened with its first window; OPEN on a stopped context. The maps of the cores are written
apart from it. -/
def openEngine (s1 : State) (ctx : Nat) (d : BitVec 64) (rs : List (BitVec 64)) (first : Option Word) : State :=
  let i := rStream d
  let old := getRes s1 i
  let w : Word := match first with | none => 0 | some sc => BitVec.ofNat 32 (cdiv sc.toNat (rLen d))
  setRes s1 i { rclamp := old.rclamp, rdrop := old.rdrop, late := old.late, loss := old.loss, maxUs := old.maxUs, lastUs := old.lastUs
                state := if first = none then .opened else .running
                ctx := ctx, desc := d, ranges := rs, first := w, lastDec := w - 1 }

/-- Held records, partial windows and marks discarded (R256). -/
def discardResults (st : ResultStream) : ResultStream :=
  { st with parts := [], lateWin := [], lossWin := [], lossNext := false, dropped := false, held := [], sent := [], again := [] }

/-- A result stream opened on a stopped context, with the maps of its cores. -/
def openResult (s : State) (ctx : Nat) (d : BitVec 64) (rs : List (BitVec 64)) : State :=
  openEngine ((addRanges (rStream d) s rs).getD s) ctx d rs none

/-- A result stream of the engine closed (R256). -/
def closeEngine (s : State) (i : Nat) : State :=
  setRes s i { discardResults (getRes s i) with state := .closed, ranges := [] }

/-- A result stream closed: its ranges leave the maps of their cores. -/
def closeResult (s : State) (i : Nat) : State :=
  closeEngine (((getRes s i).ranges.map gCore).eraseDups.foldl (fun s n => modCore s n (dropRange i)) s) i

/-- The result streams of a context with a property. -/
def resultsIn (s : State) (ctx : Nat) (p : ResultStream → Bool) : List Nat :=
  (s.results.filter fun q => q.2.ctx == ctx && p q.2).map Prod.fst

/-- OPEN result streams begin at window 0 (spec/14_contexts_recovery.md R440). -/
def startResults (s : State) (ctx : Nat) : State :=
  (resultsIn s ctx fun st => st.state == .opened).foldl (fun s i =>
    let st := getRes s i
    let s1 := (st.ranges.map gCore).eraseDups.foldl (fun s n => modCore s n (clearRanges i)) s
    setRes s1 i { discardResults st with state := .running, first := 0, lastDec := 0xFFFFFFFF }) s

/-- RUNNING result streams return to OPEN (spec/14_contexts_recovery.md R441). -/
def stopResults (s : State) (ctx : Nat) : State :=
  (resultsIn s ctx fun st => st.state == .running).foldl (fun s i =>
    setRes s i { discardResults (getRes s i) with state := .opened }) s

/-- The result streams of a context closed by a reset, with their counts cleared (R258; spec/14_contexts_recovery.md
R445). -/
def resetResults (s : State) (ctx : Nat) : State :=
  (resultsIn s ctx fun _ => true).foldl (fun s i =>
    let s1 := if (getRes s i).state = .closed then s else closeResult s i
    setRes s1 i { getRes s1 i with
      rclamp := 0, rdrop := 0, late := 0, loss := 0, maxUs := 0, lastUs := 0, win := 0xFFFFFFFF }) s

/-- RESULT_CLOSE (spec/13_host_interface.md R421). -/
def execResultClose (h : Nat) (s : State) : Host.Outcome State Fault Refusal :=
  .next (withCmd s h 0x1C fun s f =>
    let st := getRes s (mTobj f.manifest)
    if st.state = .closed ∨ st.ctx ≠ mCtx f.manifest then complete s h stBadState
    else complete (closeResult s (mTobj f.manifest)) h stOk)

/-! ### Decoding (R252, R253) -/

/-- The values of a vector, each COUNT, FIRST and membrane, and log2 of their unit (R252). -/
def decodeVector (d : BitVec 64) (xs : List (Nat × Nat × Int)) : List Int × Int :=
  match rDec d with
  | 0 => (xs.map fun x => (x.1 : Int), 0)
  | 1 => (xs.map fun x => x.2.2, -12)
  | 2 => (xs.map fun x => ((if x.2.1 = 0x3F then rLen d else x.2.1 : Nat) : Int), 0)
  | _ =>
      let best := xs.zipIdx.foldl (fun (b : Option ((Nat × Nat × Int) × Nat)) x =>
        match b with
        | none => some x
        | some y => if x.1.1 > y.1.1 ∨ (x.1.1 = y.1.1 ∧ x.1.2.2 > y.1.2.2) then some x else some y) none
      match best with
      | none => ([], 0)
      | some x => ([(x.2 : Int), (x.1.1 : Int)], 0)

/-- A quotient rounded to nearest, ties to even. -/
def roundEven (a b : Nat) : Nat :=
  let q := a / b
  let r := a % b
  if 2 * r > b ∨ (2 * r = b ∧ q % 2 = 1) then q + 1 else q

/-- v × 2^(-k) as a binary16 number, rounded to nearest, ties to even (R253). -/
def toHalf (k : Nat) (v : Int) : Nat :=
  let sign := if v < 0 then 0x8000 else 0
  let a := v.natAbs
  if a = 0 then 0
  else
    let l := Nat.log2 a
    if l + 14 < k then sign + a * 2 ^ (24 - k)
    else
      let q := if l ≤ 10 then a * 2 ^ (10 - l) else roundEven a (2 ^ (l - 10))
      let e := l + 15 - k + (if q = 2048 then 1 else 0)
      if e > 30 then sign + 0x7C00 else sign + e * 1024 + (if q = 2048 then 0 else q - 1024)

/-- Code of an int16 value with shift `sh`: floor(v / 2^sh + 1/2). -/
def shiftCode (sh : Nat) (v : Int) : Int := (2 * v + 2 ^ sh) / 2 ^ (sh + 1)

/-- Nibbles packed in the order of R60. -/
def packNibbles : List Nat → List Byte
  | a :: b :: r => BitVec.ofNat 8 (a + 16 * b) :: packNibbles r
  | [a] => [BitVec.ofNat 8 a]
  | [] => []

/-- The unit of Q4 results, in 1/4,096 of the values' unit (R253). -/
def resultUnit (e : Int) (m : Nat) : Nat := (16 + m) * 2 ^ (e + 8).toNat

/-- Values quantised: EXP, the scale code, the zero point, the packed bytes and the clamps (R253). -/
def packValues (d : BitVec 64) (vs : List Int) (ul : Int) : Int × Nat × Nat × List Byte × Nat :=
  match rOfmt d with
  | 0 =>
      let sh := ((List.range 16).find? fun k => vs.all fun v => -32768 ≤ shiftCode k v && shiftCode k v ≤ 32767).getD 15
      ((sh : Int) + ul, 0, 0, vs.flatMap fun v => bytesOf 2 (wrap 16 (shiftCode sh v)), 0)
  | 1 => (0, 0, 0, vs.flatMap fun v => bytesOf 2 (toHalf (-ul).toNat v), 0)
  | _ =>
      let xs := vs.map (· * 4096)
      let (e, m, z) := searchScale resultUnit (xs.foldl min 0) (xs.foldl max 0)
      let qs := xs.map fun x => codeOf (resultUnit e m) z (.finite x)
      (ul, wrap 4 e * 16 + m, z, packNibbles (qs.map Prod.fst), (qs.filter fun q => q.2).length)

/-- A decoded record and its clamps, the marks left out of its header (R252). -/
def buildRecord (d : BitVec 64) (w : Word) (xs : List (Nat × Nat × Int)) (loss late : Bool) : Record × Nat :=
  let (vs, ul) := decodeVector d xs
  let (ex, sc, z, bs, k) := packValues d vs ul
  ({ window := w, values := bs, loss := loss, late := late
     header := BitVec.ofNat 64 (w.toNat % 2 ^ 28 * 2 ^ 36 + wrap 8 ex * 2 ^ 28 + sc * 2 ^ 20 + z * 2 ^ 16 +
       rOfmt d * 2 ^ 14 + vs.length) }, k)

/-! ### Delivery (R254-R256; spec/09_queues_active_messages.md R305) -/

/-- The status of a record (R254). -/
def recStatus (r : Record) : Status := if r.loss then stEventLoss else if r.late then stOkLate else stOk

/-- The bytes of a record, its marks in the header. -/
def recBytes (r : Record) (dropped : Bool) : List Byte :=
  let h := setFld (setFld r.header 13 13 (b1 r.loss)) 12 12 (b1 r.late)
  bytesOf 8 (setFld h 11 11 (b1 (dropped || bit h 11))).toNat ++ r.values

/-- The entries of a record in a completion ring (R254; spec/13_host_interface.md R413). -/
def recEntries (i : Nat) (st : ResultStream) (r : Record) : List (BitVec 256) :=
  let bs := recBytes r st.dropped
  let n := cdiv bs.length 16
  (List.range n).map fun k =>
    mkEntry (BitVec.ofNat 128 (ofBytes ((bs.drop (16 * k)).take 16))) 0 i (recStatus r) 0 0 k (n - 1) 1 st.ctx 0

/-- The counts of a delivered record, its latency in µs, and the marks that it takes with it (R256, R258). -/
def delivered (st : ResultStream) (r : Record) (us : Nat) : ResultStream :=
  { st with
    win := r.window, dropped := false
    late := if r.late then satAdd st.late 1 else st.late
    loss := if r.loss then satAdd st.loss 1 else st.loss
    maxUs := BitVec.ofNat 16 (max st.maxUs.toNat (min us 0xFFFF)), lastUs := BitVec.ofNat 16 (min us 0xFFFF) }

/-- A record that takes the mark of a loss after an earlier result (R254). -/
def markLoss (st : ResultStream) (r : Record) : ResultStream × Record :=
  if st.lossNext then ({ st with lossNext := false }, { r with loss := true }) else (st, r)

/-- The frame of the INBOX that a stream sends to, less the part header: known for a core of this device, else the least frame
that a queue may have (spec/09_queues_active_messages.md R287, R305; assumption 32). -/
def partBytes (s : State) (d : BitVec 64) : Nat :=
  let e := qEnt (getCore s (fld d 28 19)) (fld d 18 11)
  (if fld d 37 29 = devNo s ∧ qKind e = 4 ∧ frameLen e ≥ 64 then min (frameLen e) 512 else 64) - 8

/-- SCHAN of a record's messages: the transaction index that a NACK names. -/
def recTxn (i : Nat) (r : Record) : Nat := i + 64 * (r.window.toNat % 4)

/-- The parts of a record: one message for each. -/
def partsOf (s : State) (d : BitVec 64) (r : Record) : Nat := cdiv (8 + r.values.length) (partBytes s d)

/-- The messages of a record to a peer queue, with the part header of R305. An engine names no core (R300). -/
def recMsgs (s : State) (i : Nat) (st : ResultStream) (r : Record) : List Packet :=
  let d := st.desc
  let k := partBytes s d
  let bs := recBytes r st.dropped
  let n := partsOf s d r
  (List.range n).map fun j =>
    let part := (bs.drop (k * j)).take k
    let all := bytesOf 8 (n * 2 ^ 16 + j * 2 ^ 8 + (recStatus r).toNat) ++ part
    mkPkt 4 2 (fld d 37 29) (fld d 28 19) 0 0 (msgSrc false (devNo s) 0 (recTxn i r)) (fld d 18 11 * 2 ^ 8) st.ctx
      (genOf s st.ctx) 0 (all.length * 2 ^ 10) 4 0x8 (bytesFlits all)

/-- Whether the slots that the engine knows to be free take all parts of a record: it knows the queues of this device
(spec/09_queues_active_messages.md R305; assumption 32). -/
def partsFit (s : State) (d : BitVec 64) (r : Record) : Bool :=
  let c := getCore s (fld d 28 19)
  let q := fld d 18 11
  fld d 37 29 != devNo s || qKind (qEnt c q) != 4 || partsOf s d r + (usedSlots c q).length ≤ qSlots (qEnt c q)

/-- A record that has been sent to a peer queue, noted until its transaction index is used again: a NACK may still name it
(assumption 33). -/
def noteSent (st : ResultStream) (t : Nat) (r : Record) : ResultStream :=
  { st with sent := st.sent.filter (fun x => x.1 != t) ++ [(t, r)] }

/-- The oldest held record of a stream delivered where its destination has room: in its completion ring, or in a peer queue that
refuses no record of the stream (R254-R256). -/
def deliverOne (s : State) (i us : Nat) : State :=
  let st := getRes s i
  match st.held with
  | [] => s
  | r0 :: rest =>
      let (st1, r) := markLoss st r0
      if rDest st.desc = 0 then
        let es := recEntries i st1 r
        let c := getCq s (rCq st.desc)
        if c.en ∧ es.length ≤ cqFree c then cqWrite (setRes s i { delivered st1 r us with held := rest }) (rCq st.desc) es
        else s
      else if st.again = [] ∧ partsFit s st.desc r then
        let kept := { r with header := setFld r.header 11 11 (b1 st1.dropped) }
        hubSendAll (setRes s i (noteSent { delivered st1 r us with held := rest } (recTxn i r) kept)) (recMsgs s i st1 r)
      else s

/-- Held records delivered in order, as many as there is room for; `n` bounds them. -/
def deliverHeld : Nat → State → Nat → Nat → State
  | 0, s, _, _ => s
  | n + 1, s, i, us => deliverHeld n (deliverOne s i us) i us

/-- A decoded record held for delivery; a 17th is dropped (R256). -/
def holdRecord (st : ResultStream) (r : Record) : ResultStream :=
  if st.held.length + st.again.length ≥ 16 then { st with rdrop := satAdd st.rdrop 1, dropped := true }
  else { st with held := st.held ++ [r] }

/-! ### Packets, notices and the hold (R251, R254) -/

/-- Whether a hub packet belongs to the present generation of its context. -/
def ofShard (s : State) (p : Packet) : Bool := genOf s (pctx p) == pgen p

/-- The values of a readout packet (assumption 17). -/
def pktValues (p : Packet) (n : Nat) : List (Nat × Nat × Int) :=
  ((p.flits.drop 1).flatMap fun f => (List.range 4).map fun i => BitVec.ofNat 64 (f.toNat / 2 ^ (64 * i))).take n |>.map
    fun x => (fld x 15 0, fld x 23 16, signed 32 (fld x 63 32))

/-- READOUT_PACKET (R251): a packet of a range of a window joins the others. -/
def execReadoutPacket (pkt : Packet) (s : State) : Host.Outcome State Fault Refusal :=
  let s1 := hubDone s pkt
  let f : BitVec 256 := pkt.flits.headD 0
  let i := fld f 70 65
  let st := getRes s1 i
  let w : Word := BitVec.ofNat 32 (fld f 31 0)
  let n := fld f 64 55 + 1
  let piece := fld f 75 71
  match (List.range st.ranges.length).find? fun k =>
      let r := st.ranges.getD k 0
      gCore r == fld f 41 32 && gSbase r == fld f 54 42 && gSlots r == n with
  | none => .next s1
  | some k =>
      if st.state = .running ∧ st.ctx = pctx pkt ∧ ofShard s1 pkt ∧ stepLe st.first w ∧ stepLt st.lastDec w then
        .next (setRes s1 i { st with
          parts := (st.parts.filter fun p => !(p.1 == w && p.2.1 == 32 * k + piece)) ++
            [(w, 32 * k + piece, pktValues pkt (min pieceSlots (n - pieceSlots * piece)))] })
      else .next s1

/-- The window of a step. -/
def windowOfStep (st : ResultStream) (step : Word) : Word := BitVec.ofNat 32 (step.toNat / max 1 (rLen st.desc))

/-- LATE_NOTICE (R251, R252): the window of the step is marked in every result stream of the context. -/
def execLateNotice (pkt : Packet) (s : State) : Host.Outcome State Fault Refusal :=
  let s1 := hubDone s pkt
  if ofShard s1 pkt then
    .next ((resultsIn s1 (pctx pkt) fun st => st.state == .running).foldl (fun s i =>
      let st := getRes s i
      let w := windowOfStep st (BitVec.ofNat 32 (payload pkt))
      if stepLt st.lastDec w ∧ !st.lateWin.contains w then setRes s i { st with lateWin := st.lateWin ++ [w] } else s) s1)
  else .next s1

/-- A loss at a step of a context: it marks the record of its window, the held record, or the next one to be delivered
(R254). -/
def markLosses (s : State) (ctx : Nat) (step : Word) : State :=
  (resultsIn s ctx fun st => st.state == .running).foldl (fun s i =>
    let st := getRes s i
    let w := windowOfStep st step
    if stepLt w st.first then s
    else if stepLt st.lastDec w then
      setRes s i (if st.lossWin.contains w then st else { st with lossWin := st.lossWin ++ [w] })
    else if st.held.any fun r => r.window == w then
      setRes s i { st with held := st.held.map fun r => if r.window = w then { r with loss := true } else r }
    else if st.again.any fun r => r.2.window == w then
      setRes s i { st with
        again := st.again.map fun r => if r.2.window = w then (r.1, { r.2 with loss := true }) else r
        loss := if st.again.any fun r => r.2.window == w && !r.2.loss then satAdd st.loss 1 else st.loss }
    else setRes s i { st with lossNext := true }) s

/-- RESULT_LOSS_MARK (R254). -/
def execResultLossMark (ctx : Nat) (step : Word) (s : State) : Host.Outcome State Fault Refusal :=
  .next (markLosses s ctx step)

/-- The numbers of the packets of all ranges, in the order of the vector. -/
def partNos (rs : List (BitVec 64)) : List Nat :=
  rs.zipIdx.flatMap fun r => (List.range (cdiv (gSlots r.1) pieceSlots)).map (32 * r.2 + ·)

/-- The vector of a window, once every packet of every range has arrived (R251). -/
def windowVector (st : ResultStream) (w : Word) : Option (List (Nat × Nat × Int)) :=
  ((partNos st.ranges).mapM fun k => (st.parts.find? fun p => p.1 == w && p.2.1 == k).map fun p => p.2.2).map List.flatten

/-- READOUT_HOLD_EXPIRE (R251): a complete window is decoded, quantised, and delivered or held; `latencyUs` runs from window close
to the last entry. -/
def execReadoutHoldExpire (stream window latencyUs : Nat) (s : State) : Host.Outcome State Fault Refusal :=
  let st := getRes s stream
  let w : Word := BitVec.ofNat 32 window
  match st.state, windowVector st w with
  | .running, some xs =>
      if st.ranges = [] then .next s
      else
        let (r, k) := buildRecord st.desc w xs (st.lossWin.contains w) (st.lateWin.contains w)
        let st1 := { st with
          parts := st.parts.filter fun p => p.1 != w
          lateWin := st.lateWin.filter (· != w), lossWin := st.lossWin.filter (· != w)
          lastDec := if stepLt st.lastDec w then w else st.lastDec, rclamp := satAdd st.rclamp k }
        .next (deliverHeld 17 (setRes s stream (holdRecord st1 r)) stream latencyUs)
  | _, _ => .next s

/-- The oldest record that a peer queue refused sent again, when the slots that the engine knows take it. -/
def retryOne (s : State) (i : Nat) : State :=
  let st := getRes s i
  match st.again with
  | [] => s
  | (t, r) :: rest =>
      if partsFit s st.desc r then hubSendAll (setRes s i (noteSent { st with again := rest } t r)) (recMsgs s i { st with dropped := false } r)
      else s

/-- Refused records sent again in order; `n` bounds them. -/
def retryAll : Nat → State → Nat → State
  | 0, s, _ => s
  | n + 1, s, i => retryAll n (retryOne s i) i

/-! ### Room in a ring (R256; spec/13_host_interface.md R415; spec/14_contexts_recovery.md R443) -/

/-- A free value for a latency that no operand of the command names (assumption 6). -/
def freeLatency (s : State) : Nat := fld (Config.measured s.free) 15 0

/-- READOUT_PEER_RETRY (spec/09_queues_active_messages.md R305): the records that a peer queue refused with QUEUE_FULL are sent again,
and then those that wait behind them. -/
def execReadoutPeerRetry (stream : Nat) (s : State) : Host.Outcome State Fault Refusal :=
  let st := getRes s stream
  if rDest st.desc = 1 ∧ (st.again != [] || st.held != []) then
    .next (deliverHeld 16 (retryAll 16 { s with free := s.free + 1 } stream) stream (freeLatency s))
  else .next s

/-- Notices of a context that wait for room written, at most one of each STATUS in a period. -/
def flushNotices (s : State) (ctx : Nat) : State :=
  let sh := getShard s ctx
  sh.notices.foldl (fun s x => notice s ctx x) (setShard s ctx { sh with notices := [] })

/-- What waits for entries of a ring once some are free: the oldest groups, then result records and notices. -/
def ringRoom (s : State) (n : Nat) : State :=
  let rs := (s.results.filter fun q => q.2.state != .closed && rDest q.2.desc == 0 && rCq q.2.desc == n && q.2.held != []).map Prod.fst
  let s1 := rs.foldl (fun s i =>
    deliverHeld 16 { s with free := s.free + 1 } i (freeLatency s)) s
  (ctxsIn s1 fun sh => sh.noticeCq.toNat == n && sh.notices != []).foldl flushNotices s1

/-- A write to CQ doorbell n (spec/13_host_interface.md R415): a new head, or a discarded one. -/
def cqBell (s : State) (n : Nat) (value : Word) : State :=
  let c := getCq s n
  let v := fld value 15 0
  if n ≥ 256 then s
  else if cqBad c v then clogBar (setCq s n { c with dberr := true }) 0 (0x8000 + 8 * n) stAccess
  else ringRoom (setCq s n { c with head := BitVec.ofNat 16 v }) n

/-- CQ_DOORBELL (spec/13_host_interface.md R415). -/
def execCqDoorbell (n : Nat) (value : Word) (s : State) : Host.Outcome State Fault Refusal := .next (cqBell s n value)

end Sys2Proof.Machine
end

