-- ==== Sys2Proof/Machine/Convoy.lean ====
section
/-! DEFINITION. Convoys: staging, locks, the coordinator, relays and members (spec/10_convoys.md R323-R345). -/

namespace Sys2Proof.Machine

/-! ### Members and records of convoys -/

/-- The convoys that a member holds. -/
def cvyOf (s : State) : Member → List MemberConvoy
  | .core n => (getCore s n).cvy
  | .hub => s.hubCvy

/-- The state with a member's convoys written. -/
def setCvy (s : State) (m : Member) (l : List MemberConvoy) : State :=
  match m with
  | .core n => modCore s n fun c => { c with cvy := l }
  | .hub => { s with hubCvy := l }

/-- A member's share of a convoy. -/
def findShare (s : State) (m : Member) (tag : Nat) : Option MemberConvoy := (cvyOf s m).find? fun x => x.tag == tag

/-- The state with a member's share of a convoy changed. -/
def modShare (s : State) (m : Member) (tag : Nat) (f : MemberConvoy → MemberConvoy) : State :=
  setCvy s m ((cvyOf s m).map fun x => if x.tag = tag then f x else x)

/-- The record of a convoy at this device's convoy unit. -/
def findConvoy (s : State) (tag : Nat) : Option Convoy := s.convoys.find? fun c => c.tag == tag
/-- The state with a convoy record changed. -/
def modConvoy (s : State) (tag : Nat) (f : Convoy → Convoy) : State :=
  { s with convoys := s.convoys.map fun c => if c.tag = tag then f c else c }
/-- The state with a convoy record freed. -/
def dropConvoy (s : State) (tag : Nat) : State := { s with convoys := s.convoys.filter fun c => c.tag != tag }

/-- The tag of convoy `id` of this device (R323). -/
def tagOf (s : State) (id : Nat) : Nat := devNo s * 64 + id
/-- The home device of a tag. -/
def homeOf (tag : Nat) : Nat := tag / 64

/-- The member that a record names (R327). -/
def memberOf (r : ActionRecord) : Member := if aTcore r = 0x3FF then .hub else .core (aTcore r)

/-- A member added to a convoy record, once. -/
def addMember (s : State) (tag dev : Nat) (m : Member) : State :=
  modConvoy s tag fun c => if c.members.contains (dev, m) then c else { c with members := c.members ++ [(dev, m)] }

/-- The parties whose answers a convoy unit counts: its own members, and one for each other device (R324, R344). -/
def partiesOf (here : Nat) (c : Convoy) : List (Nat × Member) :=
  (c.members.map fun p => if p.1 = here then p else (p.1, .hub)).eraseDups

/-! ### Packets (spec/11_fabric_tolls.md R371; R344) -/

/-- A CONVOY packet of the convoy unit. -/
def unitPkt (s : State) (ctx dev core mc sp sub st pay : Nat) : Packet :=
  mkPkt 6 0 dev core mc sp (BitVec.ofNat 32 6) st ctx (genOf s ctx) sub pay 5 0x6

/-- `n` cycles of the convoy unit charged to a class at its gate (spec/11_fabric_tolls.md R362). -/
def unitCycles (s : State) (k n : Nat) : State := { s with fab := { s.fab with cvy := s.fab.cvy.take k n } }

/-- Work of the convoy unit that takes one cycle of a class: it waits for its gate (spec/11_fabric_tolls.md R364). -/
def unitTurn (s : State) (k : Nat) (f : State → State) : State :=
  if hubMay s.pwr.pl.toNat s.fab.cvy k then f (unitCycles s k 1) else s

/-- A CONVOY packet of a member to the convoy unit of a device: of a core through its waystation, of the hub through an
attachment, or straight to its own convoy unit. -/
def memberSend (s : State) (m : Member) (ctx dev sub tag pay : Nat) : State :=
  match m with
  | .core n =>
      coreSend s n (mkPkt 6 0 dev 0x3FF 0 0 (srcWord (devNo s) n 0) tag ctx (genOf s ctx) sub pay 5)
  | .hub =>
      let p := unitPkt s ctx dev 0x3FF 0 0 sub tag pay
      if dev = devNo s then hubTake s p else hubSend s p

/-- PREPARE, COMMIT or ABORT sent within the device as row multicasts, one in each cycle (R344). -/
def fanOut (s : State) (ctx sub st pay : Nat) : State :=
  hubSendAll (unitCycles s 5 32) ((List.range 32).map fun y => unitPkt s ctx (devNo s) (32 * y) 1 31 sub st pay)

/-- The same to every member and relay of a convoy (R337). A coordinator tells the hub of its own device without a mesh crossing; a
relay is that hub. -/
def toMembers (s : State) (c : Convoy) (sub st pay : Nat) : State :=
  let here := devNo s
  let s1 := if c.members.any fun p => p.1 == here && p.2 != .hub then fanOut s c.ctx sub st pay else s
  let s2 := if homeOf c.tag = here ∧ c.members.contains (here, .hub) then hubTake s1 (unitPkt s c.ctx here 0x3FF 0 0 sub st pay)
    else s1
  let far := ((c.members.filter fun p => p.1 != here).map Prod.fst).eraseDups
  hubSendAll s2 (far.map fun d => unitPkt s c.ctx d 0x3FF 0 0 sub st pay)

/-- The CONVOY packet of a subtype and tag that has arrived at a member. -/
def cvyPkt (s : State) (m : Member) (sub tag : Nat) : Option Packet :=
  (match m with | .core n => (getCore s n).arrived | .hub => s.fab.hub).find? fun p =>
    typ p == 6 && subtype p == sub && stamp p % 2 ^ 15 == tag

/-- That packet taken. -/
def takeCvy (s : State) (m : Member) (sub tag : Nat) : State :=
  match cvyPkt s m sub tag, m with
  | some p, .core n => portDone s n p
  | some p, .hub => hubDone s p
  | none, _ => s

/-- What a member does with a message of its convoy unit: nothing before the packet's turn at the core port
(spec/04_step_time.md R135); then the packet is taken and `f` acts. -/
def fromUnit (s : State) (m : Member) (sub tag : Nat) (f : State → State) : State :=
  match cvyPkt s m sub tag, m with
  | some p, .core n => if portTurn s n p then f (takeCvy s m sub tag) else s
  | _, _ => f (takeCvy s m sub tag)

/-! ### Staging (R325, R328, R329, R336) -/

/-- Whether records of a member fit in its staging memory with one more (R325). -/
def stagingRoom (s : State) (m : Member) (tag : Nat) (r : ActionRecord) : Bool :=
  let l := cvyOf s m
  let others := (l.filter fun x => x.tag != tag && x.records != []).length
  match m with
  | .core _ => others < 16 && stagingUsed l + recUnits r ≤ 1024
  | .hub => others < 64 && stagingUsed l + recUnits r ≤ 4096

/-- The tag of the convoy that holds a lock which a record meets (R336). -/
def lockedBy (s : State) (m : Member) (ctx tag : Nat) (r : ActionRecord) : Option Nat :=
  ((cvyOf s m).find? fun x =>
    x.tag != tag && x.records.any fun y =>
      (aKind r != 0x10 || x.ctx == ctx) && meets (objectsOf r) (objectsOf y)).map MemberConvoy.tag

/-- Why a member refuses a record: its form, the running context, room, a lock. `own` tells a record of firmware, to which the limits
on registers do not apply. -/
def refuses (s : State) (m : Member) (ctx tag : Nat) (own : Bool) (r : ActionRecord) : Option Status :=
  let fits := match m with | .hub => hubKind (aKind r) | .core _ => coreKind (aKind r)
  if !shapeOk r || !fits then some stBadManifest
  else if (getShard s ctx).state ≠ .stopped ∧ !own ∧ aKind r = 8 ∧ !regRunOk r then some stBadState
  else if !stagingRoom s m tag r then some stNoResource
  else if (lockedBy s m ctx tag r).isSome then some stConvoyConflict
  else none

/-- A member's share of a convoy, made when it is new; the commit step is known where the coordinator's record is here. -/
def joinShare (s : State) (m : Member) (ctx tag : Nat) : State :=
  if (findShare s m tag).isSome then s
  else setCvy s m (cvyOf s m ++ [{ tag := tag, ctx := ctx, sc := (findConvoy s tag).bind Convoy.sc }])

/-- A record at its member: it is taken and its object locked, or refused, and the member is marked failed. A conflict is reported to
the coordinator of the convoy that staged second (R325, R328, R336). -/
def stageAt (s : State) (m : Member) (ctx tag : Nat) (own : Bool) (r : ActionRecord) : State × Option Status :=
  let s1 := joinShare s m ctx tag
  match refuses s1 m ctx tag own r with
  | none => (modShare s1 m tag fun x => { x with records := x.records ++ [r] }, none)
  | some st =>
      let s2 := modShare s1 m tag fun x => { x with failed := some (x.failed.getD 0x01) }
      if st = stConvoyConflict then
        (memberSend s2 m ctx (homeOf tag) 0x0A tag ((lockedBy s1 m ctx tag r).getD 0), some st)
      else (s2, some st)

/-- The readout-block records that go with an ROPEN or an RCLOSE: register records that write the range maps of the cores
(R338; spec/07_streams_ingest_readout.md R248). -/
def mapRecs (tag dev : Nat) (old new : Core) (n : Nat) : List ActionRecord :=
  (List.range 8).filterMap fun k =>
    let a := 0x3EE00 + 4 * k
    if ldmGet old a 4 = ldmGet new a 4 then none
    else some {
      header := BitVec.ofNat 128 (0x08 * 2 ^ 120 + tag * 2 ^ 105 + dev * 2 ^ 96 + n * 2 ^ 86 + (a - 0x3C000) * 2 ^ 72 +
        2 ^ 57 + 8 * 2 ^ 19)
      data := bytesOf 4 (ldmGet new a 4) ++ bytesOf 4 0xFFFFFFFF }


/-- The descriptor and the ranges of an ROPEN record. -/
def ropenOf (r : ActionRecord) : BitVec 64 × List (BitVec 64) :=
  (BitVec.ofNat 64 (aData r 0 8), wordsOfBytes r.data 8 (fld (BitVec.ofNat 64 (aData r 0 8)) 10 4))

/-- The state in which the range maps stand as an ROPEN or RCLOSE record will leave them. -/
def mapsAfter (s : State) (r : ActionRecord) : State :=
  if aKind r = 0x13 then (addMaps (rStream (ropenOf r).1) s (ropenOf r).2).getD s
  else (((getRes s (aIndex r)).ranges.map gCore).eraseDups).foldl (fun s n => modCore s n (dropRange (aIndex r))) s

/-- The readout-block records of a hub record staged at their cores, which become members. -/
def stageMaps (s : State) (ctx tag : Nat) (r : ActionRecord) : State :=
  if aKind r ≠ 0x13 ∧ aKind r ≠ 0x14 then s
  else
    let t := mapsAfter s r
    (shardCores s ctx).foldl (fun x n =>
      let rs := mapRecs tag (devNo s) (getCore s n) (getCore t n) n
      if rs = [] then x
      else rs.foldl (fun x r => (stageAt x (.core n) ctx tag true r).1) (addMember x tag (devNo s) (.core n))) s

/-- A record staged at a member of this device. -/
def stageHere (s : State) (ctx tag : Nat) (own : Bool) (r : ActionRecord) : State × Option Status :=
  let m := memberOf r
  let (s1, st) := stageAt (addMember s tag (devNo s) m) m ctx tag own r
  match st with
  | none => (stageMaps s1 ctx tag r, none)
  | some e => (s1, some e)

/-- The bytes of a record with its padding (R327). -/
def paddedLen (r : ActionRecord) : Nat := 16 + cdiv r.data.length 16 * 16

/-- The BULK packets of a record to the convoy unit of another device (spec/11_fabric_tolls.md R349, R371): the padded record, then
16 bytes with the convoy's named commit step and whether it has one, by which the members there complete their sets from staging
on (R334; assumption 94). -/
def recordPkts (s : State) (ctx tag : Nat) (r : ActionRecord) : List Packet :=
  let sc := (findConvoy s tag).bind Convoy.sc
  let bs := bytesOf 16 r.header.toNat ++ r.data ++ List.replicate (paddedLen r - 16 - r.data.length) 0 ++
    bytesOf 4 (sc.getD 0).toNat ++ bytesOf 12 (b1 sc.isSome)
  (List.range (cdiv bs.length 512)).map fun k =>
    let fs := bytesFlits ((bs.drop (512 * k)).take 512)
    mkPkt 0xC 2 (aTdev r) 0x3FF 0 0 (BitVec.ofNat 32 (512 * k)) tag ctx (genOf s ctx) (fs.length - 1) 3 5 0x6 fs

/-- Whether a record changes W (R339). -/
def changesW (r : ActionRecord) : Bool := aKind r == 8 && aArg r == 0 && aIndex r == 0x104 && (regMask r &&& 0xF) != 0

/-- Whether a kind is one for the member that a record names. -/
def kindFits (r : ActionRecord) : Bool := if aTcore r = 0x3FF then hubKind (aKind r) else coreKind (aKind r)

/-- A record sent to another device, whose core or hub becomes a member; one that no member could take answers BAD_MANIFEST as
well (R328; assumption 95). -/
def stageFar (s : State) (ctx tag : Nat) (r : ActionRecord) : State × Option Status :=
  let s1 := modConvoy (addMember s tag (aTdev r) (memberOf r)) tag fun c =>
    { c with wsets := if changesW r then (aTdev r, aTcore r) :: c.wsets else c.wsets }
  (hubSendAll s1 (recordPkts s ctx tag r), if shapeOk r && kindFits r then none else some stBadManifest)

/-- One record of CONVOY_STAGE at the coordinator (R327, R328). -/
def stageOne (s : State) (ctx tag : Nat) (own : Bool) (r : ActionRecord) : State × Option Status :=
  if aTag r ≠ tag then (s, some stBadManifest)
  else if aTdev r ≠ devNo s then stageFar s ctx tag r
  else if aTcore r ≠ 0x3FF ∧ !boundTo s ctx (aTcore r) then
    let reason : BitVec 8 := if present s (aTcore r) then 0x08 else 0x10
    (modConvoy s tag fun c => { c with badMember := c.badMember.or (some (devNo s, aTcore r, reason)) }, some stBadManifest)
  else stageHere s ctx tag own r

/-- Records staged in order, up to the first that is refused. -/
def stageAll (ctx tag : Nat) (own : Bool) : State → List ActionRecord → State × Option Status
  | s, [] => (s, none)
  | s, r :: rs => match stageOne s ctx tag own r with
    | (s1, none) => stageAll ctx tag own s1 rs
    | (s1, some st) => (s1, some st)

/-! ### Decisions (R335, R337, R341) -/

/-- RESULT of an abort: the member's device and core (spec/13_host_interface.md R421). -/
def memberResult (dev : Nat) (m : Member) : Nat := dev * 2 ^ 10 + match m with | .core n => n | .hub => 0x3FF

/-- A command that waits for a convoy completes. -/
def answerCmd (s : State) (c : Option Nat) (st : Status) (result : Nat) (pay : Nat) : State :=
  match c with | none => s | some h => complete s h st result [BitVec.ofNat 128 pay]

/-- A convoy record whose parties have all acknowledged is freed (R335). -/
def endConvoy (s : State) (tag : Nat) : State :=
  match findConvoy s tag with
  | none => s
  | some c =>
      let all := (partiesOf (devNo s) c).all fun p => c.acks.contains p
      if !all then s
      else if c.relay then
        hubSend (dropConvoy s tag) (unitPkt s c.ctx (homeOf tag) 0x3FF 0 0 0x06 tag 0)
      else match c.phase with
        | .committing => answerCmd (answerCmd (dropConvoy s tag) c.comCmd stOk 0 0) c.ownerCmd stOk c.result 0
        | .aborted => dropConvoy s tag
        | _ => s

/-- decide_abort of R337. -/
def decideAbort (s : State) (c : Convoy) (st : Status) (result reason : Nat) : State :=
  let s1 := modConvoy s c.tag fun x => { x with phase := .aborted, status := st, preCmd := none, ownerCmd := none }
  let s2 := toMembers s1 c 0x05 c.tag st.toNat
  let s3 := answerCmd (answerCmd s2 c.preCmd st result reason) c.ownerCmd st result reason
  endConvoy s3 c.tag

/-- The exit port of this device towards another, when it is lost (spec/12_osust_links.md R394). -/
def pathLost (s : State) (dev : Nat) : Bool :=
  dev != devNo s && match shapePort s.shape (devNo s) dev with
    | some p => portLost (getPort s p)
    | none => true

/-- Whether a convoy may still be aborted. -/
def undecided (c : Convoy) : Bool := !c.relay && (c.phase == .opened || c.phase == .preparing || c.phase == .ready)

/-- A device lost to the convoys that have members there: an undecided one is aborted, a committing one completes with the status and
the device, and no answer is awaited from it any more (R341, R342). -/
def loseDevice (s : State) (tags : List Nat) (dev : Nat) (st : Status) : State :=
  tags.foldl (fun s tag => match findConvoy s tag with
    | none => s
    | some c =>
        let gone := modConvoy s tag fun x => { x with members := x.members.filter fun p => p.1 != dev }
        if c.relay ∨ !(c.members.any fun p => p.1 == dev) then s
        else if undecided c then decideAbort gone { c with members := c.members.filter fun p => p.1 != dev } st (memberResult dev .hub) 0
        else endConvoy (answerCmd (modConvoy gone tag fun x => { x with comCmd := none }) c.comCmd st dev 0) tag) s

/-- A message to the member devices of a convoy that cannot leave returns LINK_DOWN: those devices are lost to it (R341, R342). -/
def loseFar (s : State) (c : Convoy) : State :=
  (((c.members.map Prod.fst).eraseDups).filter (pathLost s)).foldl (fun s d => loseDevice s [c.tag] d stLinkDown) s

/-- decide_commit of R337. -/
def decideCommit (s : State) (c : Convoy) : State :=
  let s1 := modConvoy s c.tag fun x => { x with phase := .committing }
  endConvoy (loseFar (toMembers s1 c 0x04 c.tag ((c.sc.map fun w => w.toNat).getD 0)) c) c.tag

/-- The answers that a unit awaits: one of each party, and one more for each PREPARE that went to a party again (R335). -/
def awaited (here : Nat) (c : Convoy) : Nat := (partiesOf here c).length + c.extra.length

/-- Every party is READY: s_c is fixed, PREPARE completes, and AUTO commits (R337). -/
def allReady (s : State) (tag : Nat) : State :=
  match findConvoy s tag with
  | none => s
  | some c =>
      if c.phase ≠ .preparing ∨ c.ready < awaited (devNo s) c then s
      else
        let c1 := { c with phase := .ready, sc := c.sc.or (some (c.h.getD 0)), preCmd := none }
        let s1 := answerCmd (modConvoy s tag fun _ => c1) c.preCmd stOk 0 0
        if c1.auto then decideCommit s1 c1 else s1

/-- The later of two steps. -/
def laterStep (a : Option Word) (b : Word) : Word := match a with | none => b | some x => if stepLt x b then b else x

/-- An ABORT answer of a member of this device counts as its acknowledgement: it has discarded the convoy (R335, R338). DEDUCED
(74). -/
def ackedBy (here : Nat) (c : Convoy) (party : Nat × Member) : Convoy :=
  if c.relay ∨ party.1 ≠ here then c else { c with acks := c.acks ++ [party] }

/-- A relay whose members are all READY answers every PREPARE that it has had (R335, R344). -/
def relayReady (s : State) (tag : Nat) : State :=
  match findConvoy s tag with
  | none => s
  | some c =>
      if c.phase = .preparing ∧ (partiesOf (devNo s) c).length ≤ c.ready then
        hubSendAll (modConvoy s tag fun x => { x with phase := .ready, asks := 0 })
          (List.replicate c.asks (unitPkt s c.ctx (homeOf tag) 0x3FF 0 0 0x02 tag ((c.h.map fun w => w.toNat).getD 0)))
      else s

/-- An answer to PREPARE at a coordinator or a relay (R337, R344). A refusal that comes before PREPARE names a record that found no
core (R328). -/
def takeAnswer (s : State) (tag dev : Nat) (m : Member) (a : Answer) : State :=
  match findConvoy s tag with
  | none => s
  | some c =>
      let party : Nat × Member := if dev = devNo s then (dev, m) else (dev, .hub)
      if c.answered.count party > c.extra.count party then s
      else if c.phase ≠ .preparing then
        match a with
        | .abort _ reason =>
            if c.phase = .aborted then
              endConvoy (modConvoy s tag fun c => ackedBy (devNo s) { c with answered := c.answered ++ [party] } party) tag
            else if c.phase = .opened ∧ !c.relay then
              modConvoy s tag fun c =>
                { c with badMember := c.badMember.or (some (dev, (match m with | .core n => n | .hub => 0x3FF), reason)) }
            else s
        | .ready _ => s
      else
        let c1 := { c with answered := c.answered ++ [party] }
        match a with
        | .abort code reason =>
            if c.relay then
              hubSend (modConvoy s tag fun _ => { c1 with phase := .aborted, status := code })
                (unitPkt s c.ctx (homeOf tag) 0x3FF 0 0 0x03 tag (reason.toNat * 2 ^ 8 + code.toNat))
            else
              let c2 := ackedBy (devNo s) c1 party
              decideAbort (modConvoy s tag fun _ => c2) c2 code (memberResult dev m) reason.toNat
        | .ready h =>
            let c2 := { c1 with ready := c.ready + 1, h := some (laterStep c.h h) }
            let s1 := modConvoy s tag fun _ => c2
            if c.relay then relayReady s1 tag else allReady s1 tag

/-- An acknowledgement at a coordinator or a relay (R335). -/
def takeAck (s : State) (tag dev : Nat) (m : Member) : State :=
  let party : Nat × Member := if dev = devNo s then (dev, m) else (dev, .hub)
  endConvoy (modConvoy s tag fun c => if c.acks.contains party then c else { c with acks := c.acks ++ [party] }) tag

/-- A member's answer on its way: the hub's reaches its convoy unit at once, a core's travels. -/
def sendAnswer (s : State) (m : Member) (ctx tag : Nat) (a : Answer) : State :=
  match m with
  | .hub => takeAnswer s tag (devNo s) .hub a
  | .core _ => match a with
    | .ready h => memberSend s m ctx (devNo s) 0x02 tag h.toNat
    | .abort code reason => memberSend s m ctx (devNo s) 0x03 tag (reason.toNat * 2 ^ 8 + code.toNat)

/-- A member's acknowledgement on its way. -/
def sendAck (s : State) (m : Member) (ctx tag : Nat) : State :=
  match m with
  | .hub => takeAck s tag (devNo s) .hub
  | .core _ => memberSend s m ctx (devNo s) 0x06 tag 0

/-! ### The member (R332, R338-R340) -/

/-- The first step whose INTEGRATE a core has not begun (R338). -/
def firstStep (c : Core) : Word :=
  match c.st.phase with
  | .waiting => c.st.step
  | .notRunning => c.st.step
  | _ => c.st.step + 1

/-- Whether the hub of a context has releases to hold: a running paced shard (R338). -/
def hubPaced (s : State) (ctx : Nat) : Bool := (getShard s ctx).paced && (getShard s ctx).state != .stopped

/-- The first step that a member has not begun; of an unpaced hub, the least that no core of the shard here has begun (R338). -/
def memberStep (s : State) (m : Member) (ctx : Nat) : Word :=
  match m with
  | .core n => firstStep (getCore s n)
  | .hub =>
      if hubPaced s ctx then BitVec.ofNat 32 (getShard s ctx).nextRel
      else ((shardCores s ctx).map fun n => firstStep (getCore s n)).foldl (fun a b => some (laterStep a b)) none |>.getD 0

/-- Whether a member arms a barrier: no one does in a stopped context, nor a hub without releases (R338, R343). -/
def armsBarrier (s : State) (m : Member) (ctx : Nat) : Bool :=
  (getShard s ctx).state != .stopped && match m with | .core _ => true | .hub => hubPaced s ctx

/-- Whether the FILL targets of a core are free and locked by no other convoy (R339). -/
def fillsFree (s : State) (n tag : Nat) (rs : List ActionRecord) : Bool :=
  let c := getCore s n
  (rs.filter fun r => aKind r == 4).all fun r =>
    let inUse := ((rowDescs c).filter fun p => !dDepot p.2).any fun p =>
      (rowSpans c p.2).any fun w => aIndex r < w.1 + w.2 && w.1 < aIndex r + aUnits r
    !inUse && (lockedBy s (.core n) (getCore s n).ctx tag r).isNone

/-- Row-store lines left with undefined content by an aborted FILL (R340). -/
def spoilFills (s : State) (m : Member) (tag : Nat) (rs : List ActionRecord) : State :=
  match m with
  | .hub => s
  | .core n => (rs.filter fun r => aKind r == 4 && fillsFree s n tag [r]).foldl (fun s r =>
      let ls := (List.range (aUnits r)).map fun k => Config.freeLine (s.free + k)
      modCore { s with free := s.free + aUnits r } n fun c =>
        { c with syn := { c.syn with rows := nsetList 0 c.syn.rows (aIndex r) ls } }) s

/-- A member's share discarded: the barrier and the locks go with it; `late` counts under LATEJOIN (R330, R341, R345). -/
def discardShare (s : State) (m : Member) (tag : Nat) (late : Bool) : State :=
  match findShare s m tag with
  | none => s
  | some x =>
      let s1 := if x.prepared ∨ x.filling then spoilFills s m tag x.records else s
      let s2 := setCvy s1 m ((cvyOf s1 m).filter fun y => y.tag != tag)
      match m with
      | .core n => modCore s2 n fun c => updHalt (if late then cntLo c 0x98C 1 else cntLo c 0x984 1)
      | .hub => placeAllHeld s2 x.ctx

/-- Whether the TALLY records of each queue carry FIRST = 0 once and cover positions 0 to E - 1 once (R339). -/
def tallyWhole (rs : List ActionRecord) : Bool :=
  let ts := rs.filter fun r => aKind r == 0x0C
  ts.all fun t =>
    let mine := ts.filter fun r => aIndex r == aIndex t
    let pos := mine.flatMap fun r => (List.range (aUnits r)).map (aArg r + ·)
    match mine.filter fun r => aArg r == 0 with
    | [z] => pos.length == aData z 0 4 + 1 && (List.range (aData z 0 4 + 1)).all pos.contains
    | _ => false

/-- Whether the toll gate records of a core leave gates that R366 permits, and change no gate that a section of another context uses
(R339; spec/11_fabric_tolls.md R367). -/
def gatesLegal (s new : State) (ctx n : Nat) (rs : List ActionRecord) : Bool :=
  rs.all fun r => !(aKind r == 8 && aArg r == 0 && 0x400 ≤ aIndex r && aIndex r < 0x490) ||
    let g := (aIndex r - 0x400) / 16
    let x := tileGate new n g
    gateLegal (g != 0 && g != 1 && g != 7) x.nextA x.nextB && !gateOfOther s ctx (n * 16 + g)

/-- The PREPARE checks of a core: the reason of the first that fails (R339). -/
def coreChecks (s : State) (n : Nat) (x : MemberConvoy) : Option Nat :=
  let rs := x.records
  let new := applyRecs s n x.barrier rs
  let ctx := x.ctx
  let burst := rs.any fun r => aKind r == 4 && !outsideRegion s ctx (aArg r ≥ 2 ^ 28) (aArg r % 2 ^ 28 * 512) (64 * aUnits r) &&
    regionBad s ctx (aArg r ≥ 2 ^ 28) (aArg r % 2 ^ 28 * 512) (64 * aUnits r)
  if burst || !fillsFree s n x.tag rs || !tallyWhole rs || !gatesLegal s new ctx n rs then some 0x01
  else (loaderCheck { old := s, new := new, ctx := ctx, recs := [(n, rs)], loader := false }).map Prod.fst

/-- The descriptor and the out-list of an SOPEN record. -/
def sopenOf (r : ActionRecord) : BitVec 256 × List Nat :=
  let d := descOfBytes r.data
  (d, (wordsOfBytes r.data 32 (iOutn d)).map fun w => w.toNat)

/-- The PREPARE checks of a hub (R339; spec/07_streams_ingest_readout.md R232, R247). -/
def hubChecks (s : State) (x : MemberConvoy) : Option Nat :=
  let reason (c : Option (Status × Nat)) : Option Nat := c.map fun e => if e.1 = stDoesNotFit then e.2 else 0x01
  x.records.findSome? fun r => match aKind r with
    | 0x10 => if (getShard s x.ctx).pacedSet then none else some 0x01
    | 0x11 => if aIndex r ≠ iStream (sopenOf r).1 then some 0x01 else reason (streamCheck s x.ctx (sopenOf r).1 (sopenOf r).2)
    | 0x13 => if aIndex r ≠ rStream (ropenOf r).1 then some 0x01 else reason (resultCheck s x.ctx (ropenOf r).1 (ropenOf r).2)
    | _ => none

/-- A member's checks end PREPARE: READY with its step, or the barrier goes and it answers ABORT (R338). -/
def endPrepare (s : State) (m : Member) (tag : Nat) : State :=
  match findShare s m tag with
  | none => s
  | some x =>
      let bad := match m with | .core n => coreChecks s n x | .hub => hubChecks s x
      match bad with
      | some r => sendAnswer (discardShare s m tag false) m x.ctx tag (.abort stConvoyMember (BitVec.ofNat 8 r))
      | none =>
          let h := x.barrier.getD (memberStep s m x.ctx)
          sendAnswer (modShare s m tag fun y => { y with prepared := true, filling := false }) m x.ctx tag (.ready h)

/-- on prepare of R338; the FILLs of a core end later. -/
def memberPrepare (s : State) (m : Member) (tag : Nat) (sc : Option Word) : State :=
  match findShare s m tag with
  | none => s
  | some x =>
      if x.prepared ∨ x.filling then s
      else match x.failed with
        | some r => sendAnswer (discardShare s m tag false) m x.ctx tag (.abort stConvoyMember r)
        | none =>
            let first := memberStep s m x.ctx
            let named := if (getShard s x.ctx).state = .stopped then none else sc
            let arms := armsBarrier s m x.ctx
            let step := match m with | .core n => (getCore s n).st.step | .hub => first
            let tooLate := match named with
              | some c => arms && (stepLt c first || (c - step).toNat ≥ 2 ^ 30)
              | none => false
            if tooLate then sendAnswer (discardShare s m tag false) m x.ctx tag (.abort stConvoyLate 0)
            else
              let h := named.getD first
              let fills := x.records.any fun r => aKind r == 4
              let s1 := modShare s m tag fun y =>
                { y with sc := named, barrier := if arms then some h else none, filling := fills }
              if fills then s1 else endPrepare s1 m tag

/-- The hub records that a committed convoy applies at its boundary (R328, R332, R343); `sc` is none in a stopped context. -/
def applyHubRec (s : State) (ctx : Nat) (sc : Option Word) (r : ActionRecord) : State :=
  match aKind r with
  | 0x11 => openStream s ctx (sopenOf r).1 (sopenOf r).2 sc
  | 0x13 => openEngine s ctx (ropenOf r).1 (ropenOf r).2 sc
  | 0x14 => closeEngine s (aIndex r)
  | _ => s

/-- A PACE record on the windows and releases from s_c on (R145 of spec/04_step_time.md). A change at step 0 has no window before
it: the new pace starts with W(0) = T0: DESIGN CHOICE (80). -/
def applyPace (s : State) (ctx : Nat) (sc : Option Word) (r : ActionRecord) : State :=
  let p := BitVec.ofNat 64 (aData r 0 8)
  let o := BitVec.ofNat 64 (aData r 8 8)
  modShard s ctx fun sh => match sc with
    | none => { sh with p := p, o := o }
    | some w =>
        let c := nearStep sh.nextRel w
        let start := if c = 0 then sh.t0.toNat else winStart sh (c - 1) + p.toNat
        { sh with changes := (sh.changes.filter fun x => x.sc != c) ++ [{ sc := c, w := BitVec.ofNat 64 start, p := p, o := o }] }

/-- The hub records that act from the decision on: a PACE gives the held rows their steps, and a stream with a committed SCLOSE
accepts no row (R332, R334). -/
def applyAtCommit (s : State) (ctx : Nat) (sc : Option Word) (r : ActionRecord) : State :=
  match aKind r with
  | 0x10 => applyPace s ctx sc r
  | 0x12 => closeStream s ctx (aIndex r) sc
  | _ => s

/-- A member's committed share applied and its locks released (R331, R332, R338). The readout records follow the range map, and a
handler that waits for a word which has changed goes on (spec/08_handler_unit.md R276). -/
def applyShare (s : State) (m : Member) (x : MemberConvoy) : State :=
  let sc := if (getShard s x.ctx).state = .stopped then none else x.commit
  let s1 := setCvy s m ((cvyOf s m).filter fun y => y.tag != x.tag)
  match m with
  | .hub => x.records.foldl (fun s r => applyHubRec s x.ctx sc r) s1
  | .core n =>
      let old := getCore s1 n
      modCore (applyRecs s1 n (some ((x.commit.getD 0))) x.records) n fun c =>
        let c1 := if readRanges old = readRanges c then c else moveRecs old c
        wakeWord (updHalt (advance 16 (cntHi c1 0x984 1)))

/-- Whether a committed share must wait for a running handler: it writes the handler store or its table
(spec/08_handler_unit.md R279). -/
def waitsHandler (s : State) (m : Member) (x : MemberConvoy) : Bool :=
  match m with
  | .hub => false
  | .core n => (getCore s n).hnd.run && x.records.any fun r => aKind r == 6 || aKind r == 7

/-- The step at which a member applies a committed share: s_c, or on a stopped context, which ignores it, the step at which a core
stands (R338, R343). -/
def commitStep (s : State) (m : Member) (ctx : Nat) (sc : Word) : Word :=
  match m with
  | .core n => if (getShard s ctx).state = .stopped then (getCore s n).st.step else sc
  | .hub => sc

/-- on commit of R338. A stopped context, and a hub without releases, apply at once (R338, R343), or when a running handler has ended
(spec/08_handler_unit.md R279). -/
def memberCommit (s : State) (m : Member) (tag : Nat) (sc0 : Word) : State :=
  match findShare s m tag with
  | none => s
  | some x =>
      if !x.prepared ∨ x.commit.isSome then s
      else
        let sc := commitStep s m x.ctx sc0
        let arms := armsBarrier s m x.ctx
        let isHub := m == .hub
        let s1 := modShare s m tag fun y =>
          { y with commit := some sc, sc := some sc, barrier := if arms && isHub then some sc else none }
        let step := if (getShard s x.ctx).state = .stopped then none else some sc
        let s2 := match m with
          | .hub => placeAllHeld (x.records.foldl (fun s r => applyAtCommit s x.ctx step r) s1) x.ctx
          | .core n => modCore s1 n updHalt
        let y := { x with commit := some sc, sc := some sc }
        let s3 := if arms || waitsHandler s2 m y then s2 else applyShare s2 m y
        sendAck s3 m x.ctx tag

/-- on abort of R338. -/
def memberAbort (s : State) (m : Member) (tag : Nat) (late : Bool) : State :=
  match findShare s m tag with
  | none => s
  | some x => if x.commit.isSome then s else sendAck (discardShare s m tag late) m x.ctx tag

/-- The earliest-tagged committed share of a member that may be applied now. -/
def nextApply (s : State) (m : Member) : Option MemberConvoy :=
  let may (x : MemberConvoy) : Bool := match x.commit with
    | none => false
    | some sc => !waitsHandler s m x && match m with
        | .core n => stepLe sc (getCore s n).st.step && ((getCore s n).st.phase == .waiting || (getCore s n).st.phase == .notRunning)
        | .hub => !hubPaced s x.ctx || stepLe sc (BitVec.ofNat 32 (getShard s x.ctx).nextRel)
  ((cvyOf s m).filter may).foldl (fun a x => match a with
    | none => some x
    | some y => if x.tag < y.tag then some x else some y) none

/-! ### Relays (R324, R344) -/

/-- The members of a convoy on this device: those that hold a share of it. -/
def holders (s : State) (tag : Nat) : List (Nat × Member) :=
  let cores := (s.cores.filter fun p => p.2.cvy.any fun x => x.tag == tag).map fun p => (devNo s, Member.core p.1)
  if s.hubCvy.any fun x => x.tag == tag then cores ++ [(devNo s, .hub)] else cores

/-- A relay record of a convoy of another device, made when the convoy unit has room for one (R324, R325), with the commit step that
the coordinator names. -/
def relayFor (s : State) (ctx tag : Nat) (sc : Option Word) : State :=
  if homeOf tag = devNo s ∨ (findConvoy s tag).isSome ∨ s.convoys.length ≥ 64 then s
  else { s with convoys := s.convoys ++ [{ tag := tag, ctx := ctx, relay := true, sc := sc }] }

/-- The context of the members of a convoy on this device. -/
def ctxOfTag (s : State) (tag : Nat) : Nat :=
  match findConvoy s tag with
  | some c => c.ctx
  | none => match holders s tag with
    | (_, m) :: _ => ((findShare s m tag).map MemberConvoy.ctx).getD 0
    | [] => 0

/-- A relay's refusal of a record that named core `n`: it names that core in SRC beside its MID, so that the coordinator can (R328;
spec/11_fabric_tolls.md R371; assumption 95). -/
def refuseFor (s : State) (ctx tag n : Nat) (reason : BitVec 8) : Packet :=
  mkPkt 6 0 (homeOf tag) 0x3FF 0 0 (srcWord (devNo s) n 6) tag ctx (genOf s ctx) 0x03
    (reason.toNat * 2 ^ 8 + stConvoyMember.toNat) 5 0x6

/-- The answer of a relay that speaks for itself: it refused a record whose core it does not have, its members have all answered, or
it has none (R328, R335, R344). -/
def relaySays (s : State) (c : Convoy) (sub : Nat) : State :=
  if sub ≠ 0x01 then
    (if c.members = [] then hubSend (dropConvoy s c.tag) (unitPkt s c.ctx (homeOf c.tag) 0x3FF 0 0 0x06 c.tag 0) else s)
  else match c.badMember with
    | some (_, n, r) => hubSend (modConvoy s c.tag fun x => { x with phase := .aborted }) (refuseFor s c.ctx c.tag n r)
    | none => relayReady s c.tag

/-- A coordinator's message at a relay: it is passed on to the members of this device (R324, R344). -/
def relayOn (s : State) (tag sub st pay : Nat) (f : Convoy → Convoy) : State :=
  if homeOf tag = devNo s then s
  else
    let s1 := relayFor s (ctxOfTag s tag) tag none
    let s2 := modConvoy s1 tag fun c => f { c with members := holders s1 tag }
    match findConvoy s2 tag with
    | none => s2
    | some c => relaySays (toMembers s2 c sub st pay) c sub

/-! ### The commands of members (R336-R340) -/

/-- The context that a record from another convoy unit belongs to: that of the packet that brought it, of the convoy, or of the
core. -/
def ctxOfRecord (s : State) (r : ActionRecord) : Nat :=
  match s.fab.hub.find? fun p => typ p == 0xC && payload p == 3 && stamp p == aTag r with
  | some p => pctx p
  | none => match findConvoy s (aTag r), memberOf r with
    | some c, _ => c.ctx
    | none, .core n => (getCore s n).ctx
    | none, .hub => 0

/-- The packets of a record that have arrived. -/
def recordIn (s : State) (r : ActionRecord) : List Packet :=
  (s.fab.hub.filter fun p => typ p == 0xC && payload p == 3 && stamp p == aTag r).take (cdiv (paddedLen r + 16) 512)

/-- The commit step that came with a record (assumption 94). -/
def recordSc (s : State) (r : ActionRecord) : Option Word :=
  let bs := ((recordIn s r).flatMap fun p => flitBytes p.flits).drop (paddedLen r)
  if ofBytes ((bs.drop 4).take 1) = 1 then some (BitVec.ofNat 32 (ofBytes (bs.take 4))) else none

/-- A record refused for want of a relay record: its member is marked failed (R325). -/
def refuseRoom (s : State) (ctx tag : Nat) (r : ActionRecord) : State :=
  modShare (joinShare s (memberOf r) ctx tag) (memberOf r) tag fun x => { x with failed := some (x.failed.getD 0x01) }

/-- A record from a master that may stage reaches its member, at the coordinator's device or a relay's (R324, R325, R328). -/
def stageRecord (s : State) (ctx tag : Nat) (r : ActionRecord) (sc : Option Word) : State :=
  let s1 := relayFor s ctx tag sc
  if aTcore r ≠ 0x3FF ∧ !boundTo s ctx (aTcore r) then
    let reason : BitVec 8 := if present s (aTcore r) then 0x08 else 0x10
    let s2 := modConvoy s1 tag fun c => { c with badMember := c.badMember.or (some (devNo s, aTcore r, reason)) }
    if homeOf tag = devNo s then s2 else hubSend s2 (refuseFor s ctx tag (aTcore r) reason)
  else if homeOf tag ≠ devNo s ∧ (findConvoy s1 tag).isNone then refuseRoom s1 ctx tag r
  else (stageHere s1 ctx tag false r).1

/-- CONVOY_RECORD_STAGE (R336): a record from a master that may stage reaches its member. -/
def execConvoyRecordStage (mid : Nat) (record : ActionRecord) (s : State) : Host.Outcome State Fault Refusal :=
  .next (unitTurn s 5 fun s =>
    let s1 := (recordIn s record).foldl hubDone s
    if (mid ≠ 6 ∧ mid ≠ 0xA ∧ mid ≠ 0xB) ∨ aTdev record ≠ devNo s then s1
    else stageRecord s1 (ctxOfRecord s record) (aTag record) record (recordSc s record))

/-- PREPARE_RECEIVE (R338): at a hub that relays, PREPARE goes on to the members. -/
def execPrepareReceive (m : Member) (tag : Nat) (sc : Option Word) (s : State) : Host.Outcome State Fault Refusal :=
  .next (fromUnit s m 0x01 tag fun s1 =>
    let st := tag + if sc.isNone then 2 ^ 15 else 0
    let s2 := if m = .hub then
        relayOn s1 tag 0x01 st ((sc.map fun w => w.toNat).getD 0) fun c =>
          { c with phase := if c.phase = .aborted then .aborted else .preparing, sc := sc, asks := c.asks + 1 }
      else s1
    memberPrepare s2 m tag sc)

/-- Whether the outrider of a core has none of the work of R182, before which a FILL makes way (R340). -/
def fillTurn (c : Core) : Bool :=
  c.syn.reads.isEmpty && (c.syn.ring.all fun e => e.fetch != .queued) && c.syn.pen.all fun e => e.stage != .queued

/-- CONVOY_FILL_DONE (R340): the copies are in place and the checks end; the copies wait for the outrider's other work. -/
def execConvoyFillDone (m : Member) (tag : Nat) (s : State) : Host.Outcome State Fault Refusal :=
  match findShare s m tag, m with
  | some x, .core n =>
      if x.filling ∧ fillTurn (getCore s n) then
        .next (endPrepare ((x.records.filter fun r => aKind r == 4 && fillsFree s n tag [r]).foldl (fun s r =>
          if outsideRegion s x.ctx (aArg r ≥ 2 ^ 28) (aArg r % 2 ^ 28 * 512) (64 * aUnits r) then s else applyFill s n r) s) m tag)
      else .next s
  | _, _ => .next s

/-- COMMIT_RECEIVE (R338). -/
def execCommitReceive (m : Member) (tag : Nat) (sc : Word) (s : State) : Host.Outcome State Fault Refusal :=
  .next (fromUnit s m 0x04 tag fun s1 =>
    let s2 := if m = .hub then relayOn s1 tag 0x04 tag sc.toNat fun c => { c with phase := .committing, sc := some sc } else s1
    memberCommit s2 m tag sc)

/-- The status that an ABORT for a late JOIN carries in PAYLOAD (R330; assumption 34). -/
def lateJoin : Nat := stBadState.toNat

/-- Whether the ABORT that has arrived at a member answers a late JOIN. -/
def abortIsLate (s : State) (m : Member) (tag : Nat) : Bool :=
  match m with
  | .core n => (getCore s n).arrived.any fun p =>
      typ p == 6 && subtype p == 5 && stamp p % 2 ^ 15 == tag && payload p == lateJoin
  | .hub => false

/-- ABORT_RECEIVE (R338); a relay passes the status on (spec/11_fabric_tolls.md R371). -/
def execAbortReceive (m : Member) (tag : Nat) (s : State) : Host.Outcome State Fault Refusal :=
  let late := abortIsLate s m tag
  let status := ((cvyPkt s m 0x05 tag).map payload).getD 0
  .next (fromUnit s m 0x05 tag fun s1 =>
    let s2 := if m = .hub then
        relayOn s1 tag 0x05 tag status fun c => { c with phase := .aborted, status := BitVec.ofNat 8 status }
      else s1
    memberAbort s2 m tag late)

/-- CONVOY_APPLY (R332): at the boundary before INTEGRATE of s_c, of a hub before its release. -/
def execConvoyApply (m : Member) (s : State) : Host.Outcome State Fault Refusal :=
  match nextApply s m with
  | none => .next s
  | some x => .next (applyShare s m x)


/-- A member whose QUERY returned LINK_DOWN is an orphan: it says so and keeps its barrier (R342). -/
def orphan (s : State) (m : Member) (tag : Nat) : State :=
  match m with
  | .core n =>
      let s1 := modCore s n fun c => cntSet c 0x980 0x80000000
      ctrlNotice s1 n 0x24 tag 0 5
  | .hub => hubTake s (mkPkt 7 0 (devNo s) 0x3FF 0 0 (BitVec.ofNat 32 6) tag (ctxOfTag s tag)
      (genOf s (ctxOfTag s tag)) 0x24 0 5 0x6)

/-- CONVOY_MEMBER_TIMER (R338): a READY member asks. A QUERY whose way leaves by a lost port has come back (R342; assumption
35). -/
def execConvoyMemberTimer (m : Member) (tag : Nat) (s : State) : Host.Outcome State Fault Refusal :=
  match findShare s m tag with
  | none => .next s
  | some x =>
      if x.prepared ∧ x.commit.isNone then
        if pathLost s (homeOf tag) then .next (orphan s m tag) else .next (memberSend s m x.ctx (homeOf tag) 0x07 tag 0)
      else .next s

/-! ### The commands of coordinators (R326, R330, R335-R337) -/

/-- The convoy that a command names by its id, when it belongs to the command's context. -/
def cmdConvoy (s : State) (f : Fetched) : Option Convoy :=
  (findConvoy s (tagOf s (mw f.manifest 0 % 64))).filter fun c => c.ctx == mCtx f.manifest && !c.relay

/-- CONVOY_BEGIN (R323, R326). -/
def execConvoyBegin (h : Nat) (s : State) : Host.Outcome State Fault Refusal :=
  .next (withCmd s h 0x28 fun s f =>
    let w := mw f.manifest 0
    let tag := tagOf s (w % 64)
    if (findConvoy s tag).isSome ∨ s.convoys.length ≥ 64 then complete s h stNoResource
    else
      let c : Convoy := {
        tag := tag, ctx := mCtx f.manifest, tc := w / 2 ^ 8 % 32, auto := w / 2 ^ 7 % 2 == 1
        sc := if w / 2 ^ 6 % 2 = 1 then none else some (BitVec.ofNat 32 (mw f.manifest 1)) }
      complete { s with convoys := s.convoys ++ [c] } h stOk)

/-- CONVOY_STAGE (R327-R329, R335). -/
def execConvoyStage (h : Nat) (s : State) : Host.Outcome State Fault Refusal :=
  .next (withCmd s h 0x29 fun s f => match cmdConvoy s f with
    | none => complete s h stBadState
    | some c =>
        if c.phase ≠ .opened then complete s h stBadState
        else match parseRecords (4 * f.bales.length) (linesBytes f.bales) with
          | none => complete s h stBadManifest
          | some rs =>
              let (s1, st) := stageAll c.ctx c.tag false (unitCycles s 4 rs.length) rs
              complete s1 h (st.getD stOk))

/-- The first core of the context that lacks a W record while another core carries one: of this device's cores, then of the members
on other devices (R339). -/
def lacksW (s : State) (c : Convoy) : Option (Nat × Nat) :=
  let here := devNo s
  let has (n : Nat) : Bool := ((findShare s (.core n) c.tag).map fun x => x.records.any changesW).getD false
  let own := (shardCores s c.ctx).map fun n => (here, n, has n)
  let far := c.members.filterMap fun p => match p with
    | (d, .core n) => if d = here then none else some (d, n, c.wsets.contains (d, n))
    | (_, .hub) => none
  if (own ++ far).any fun x => x.2.2 then ((own ++ far).find? fun x => !x.2.2).map fun x => (x.1, x.2.1) else none

/-- prepare_cmd of R337, with the checks that the coordinator makes first (R328, R339). A hub that is a member prepares with the
others. -/
def prepare (s : State) (c : Convoy) : State :=
  match c.badMember, lacksW s c with
  | some (d, n, r), _ => decideAbort s c stConvoyMember (memberResult d (.core n)) r.toNat
  | none, some (d, n) => decideAbort s c stConvoyMember (memberResult d (.core n)) 0x01
  | none, none =>
      let c1 := { c with phase := .preparing }
      let s1 := modConvoy s c.tag fun _ => c1
      let st := c.tag + if c.sc.isNone then 2 ^ 15 else 0
      allReady (loseFar (toMembers s1 c1 0x01 st ((c.sc.map fun w => w.toNat).getD 0)) c1) c.tag

/-- CONVOY_PREPARE (R337). -/
def execConvoyPrepare (h : Nat) (s : State) : Host.Outcome State Fault Refusal :=
  .next (withCmd s h 0x2A fun s f => match cmdConvoy s f with
    | none => complete s h stBadState
    | some c =>
        if c.phase ≠ .opened then complete s h stBadState
        else
          let c1 := { c with preCmd := some h }
          prepare (modConvoy (begun s h) c.tag fun _ => c1) c1)

/-- CONVOY_COMMIT (R335, R337). -/
def execConvoyCommit (h : Nat) (s : State) : Host.Outcome State Fault Refusal :=
  .next (withCmd s h 0x2B fun s f => match cmdConvoy s f with
    | none => complete s h stBadState
    | some c =>
        if c.phase ≠ .ready then complete s h stBadState
        else
          let c1 := { c with comCmd := some h }
          decideCommit (modConvoy (begun s h) c.tag fun _ => c1) c1)

/-- CONVOY_ABORT (R335, R341). -/
def execConvoyAbort (h : Nat) (s : State) : Host.Outcome State Fault Refusal :=
  .next (withCmd s h 0x2C fun s f => match cmdConvoy s f with
    | none => complete s h stBadState
    | some c =>
        if undecided c ∧ c.ownerCmd = none then decideAbort (complete s h stOk) c stConvoyMember 0 0
        else complete s h stBadState)

/-- CONVOY_ANSWER (R337). -/
def execConvoyAnswer (tag dev : Nat) (m : Member) (answer : Answer) (s : State) : Host.Outcome State Fault Refusal :=
  let sub := match answer with | .ready _ => 0x02 | .abort _ _ => 0x03
  .next (unitTurn s 5 fun s => takeAnswer (takeCvy s .hub sub tag) tag dev m answer)

/-- CONVOY_ACK (R335). -/
def execConvoyAck (tag dev : Nat) (m : Member) (s : State) : Host.Outcome State Fault Refusal :=
  .next (unitTurn s 5 fun s => takeAck (takeCvy s .hub 0x06 tag) tag dev m)

/-- The destination of a message of the convoy unit to one member. -/
def toMember (s : State) (ctx dev : Nat) (m : Member) (sub st pay : Nat) : State :=
  match m with
  | .core n => hubSend s (unitPkt s ctx dev n 0 0 sub st pay)
  | .hub =>
      let p := unitPkt s ctx dev 0x3FF 0 0 sub st pay
      if dev = devNo s then hubTake s p else hubSend s p

/-- A core that joins a PREPARING convoy is asked to prepare, a core of another device through its relay, which answers once more when
it has been asked before (R335, R344). -/
def joinLate (s : State) (c : Convoy) (dev core : Nat) : State :=
  let far : Bool := dev != devNo s
  let again : Bool := far && c.members.any fun p => p.1 == dev
  let s1 := modConvoy (addMember s c.tag dev (.core core)) c.tag fun x =>
    { x with extra := if again then x.extra ++ [(dev, .hub)] else x.extra }
  toMember s1 c.ctx dev (if far then .hub else .core core) 0x01 (c.tag + if c.sc.isNone then 2 ^ 15 else 0)
    ((c.sc.map fun w => w.toNat).getD 0)

/-- JOIN (R330, R335): a core of the convoy's context joins an OPEN or PREPARING convoy; in any other state, and where the context is
another, it is answered ABORT (assumption 34). -/
def execJoin (tag dev core : Nat) (s : State) : Host.Outcome State Fault Refusal :=
  .next (unitTurn s 5 fun s =>
    let ctx := (cvyPkt s .hub 0x09 tag).map pctx
    let s1 := takeCvy s .hub 0x09 tag
    match findConvoy s1 tag with
    | none => toMember s1 (ctx.getD (ctxOfTag s1 tag)) dev (.core core) 0x05 tag lateJoin
    | some c =>
        if ctx.any fun k => k != c.ctx then toMember s1 (ctx.getD 0) dev (.core core) 0x05 tag lateJoin
        else match c.phase with
          | .opened => addMember s1 tag dev (.core core)
          | .preparing => joinLate s1 c dev core
          | _ => toMember s1 c.ctx dev (.core core) 0x05 tag lateJoin)

/-- QUERY (R337): the reply by the convoy's state; a tag with no record is answered ABORT (assumption 34). -/
def execQuery (tag dev : Nat) (m : Member) (s : State) : Host.Outcome State Fault Refusal :=
  .next (unitTurn s 5 fun s =>
    let s1 := takeCvy s .hub 0x07 tag
    match findConvoy s1 tag with
    | none => toMember s1 (ctxOfTag s1 tag) dev m 0x05 tag 0
    | some c => match c.phase with
      | .committing => toMember s1 c.ctx dev m 0x04 tag ((c.sc.map fun w => w.toNat).getD 0)
      | .aborted => toMember s1 c.ctx dev m 0x05 tag c.status.toNat
      | _ => toMember s1 c.ctx dev m 0x08 tag 0)

/-- CONFLICT (R336, R341). -/
def execConflict (tag first : Nat) (s : State) : Host.Outcome State Fault Refusal :=
  .next (unitTurn s 5 fun s =>
    let s1 := takeCvy s .hub 0x0A tag
    match findConvoy s1 tag with
    | none => s1
    | some c => if undecided c ∧ first ≠ tag then decideAbort s1 c stConvoyConflict 0 0 else s1)

/-- CONVOY_COORDINATOR_TIMEOUT (R337). -/
def execConvoyCoordinatorTimeout (tag : Nat) (s : State) : Host.Outcome State Fault Refusal :=
  match findConvoy s tag with
  | none => .next s
  | some c => if undecided c then .next (decideAbort s c stConvoyTimeout 0 0) else .next s

/-! ### Lost devices and resets (R341, R342) -/

/-- A reset of a context ends its convoys: shares are discarded with no acknowledgement, and a convoy of this device that is
undecided answers CONTEXT_RESET (R341). -/
def resetConvoys (s : State) (ctx : Nat) : State :=
  let mine := (s.convoys.filter fun c => c.ctx == ctx).map Convoy.tag
  let s1 := mine.foldl (fun s tag => match findConvoy s tag with
    | none => s
    | some c =>
        let s1 := answerCmd (answerCmd (answerCmd s c.preCmd stContextReset 0 0) c.comCmd stContextReset 0 0) c.ownerCmd stContextReset 0 0
        let far := ((c.members.filter fun p => p.1 != devNo s).map Prod.fst).eraseDups
        let s2 := if c.relay then s1 else hubSendAll s1 (far.map fun d => unitPkt s1 ctx d 0x3FF 0 0 0x05 tag stContextReset.toNat)
        dropConvoy s2 tag) s
  let s2 := (shardCores s1 ctx).foldl (fun s n =>
    ((getCore s n).cvy.filter fun x => x.commit.isNone).foldl (fun s x => discardShare s (.core n) x.tag false) s) s1
  let s3 := modShardCores s2 ctx fun _ c => { c with cvy := [] }
  { s3 with hubCvy := s3.hubCvy.filter fun x => x.ctx != ctx }

/-! ### NACK (spec/09_queues_active_messages.md R303) -/

/-- A NACK to the convoy unit: a record did not reach its device (R341). -/
def nackUnit (s : State) (p : Packet) : State :=
  let tag := stamp p % 2 ^ 15
  if nkStatus p ≠ stLinkDown then s
  else match findConvoy s tag with
    | none => s
    | some c => match (c.members.map Prod.fst).find? fun d => pathLost s d with
      | some d => loseDevice s [tag] d stLinkDown
      | none => s

/-- NACK (spec/09_queues_active_messages.md R303): at a core, or at the engine of the hub that its MID names. -/
def execNack (core : Nat) (pkt : Packet) (s : State) : Host.Outcome State Fault Refusal :=
  if toHubNack pkt then
    let s1 := hubDone s pkt
    if fld pkt.head 67 64 = 8 then .next (nackReadout s1 pkt)
    else if fld pkt.head 67 64 ≤ 1 then .next (nackHost s1 pkt)
    else if fld pkt.head 67 64 = 6 then .next (nackUnit s1 pkt)
    else .next s1
  else .next (chanStep s core pkt fun _ c =>
    { core := if returnsEvent pkt then (if nkStatus pkt = stLinkDown then cntHi c 0xB0C 1 else c) else nackChan c pkt })

/-! ### Convoys of firmware (R326; spec/05_synapse_storage.md R221; spec/07_streams_ingest_readout.md R247) -/

/-- The lowest convoy id that is free on the device. -/
def freeId (s : State) : Option Nat := (List.range 64).find? fun i => (findConvoy s (tagOf s i)).isNone

/-- A convoy of firmware for a command: IMMEDIATE and AUTO, its records staged and prepared at once. `recs` gives the records for a
tag. A record that is refused ends it with the status of R341. -/
def ownConvoy (s : State) (f : Fetched) (result : Nat) (recs : Nat → List ActionRecord) : State :=
  match freeId s with
  | none => complete s f.handle stNoResource
  | some i =>
      if s.convoys.length ≥ 64 then complete s f.handle stNoResource
      else
        let tag := tagOf s i
        let n := mTimeout f.manifest
        let c : Convoy := {
          tag := tag, ctx := mCtx f.manifest, auto := true, tc := if n = 31 then 24 else n
          ownerCmd := some f.handle, result := result }
        let s1 := { begun s f.handle with convoys := s.convoys ++ [c] }
        let (s2, st) := stageAll c.ctx tag true s1 (recs tag)
        match findConvoy s2 tag, st with
        | none, _ => s2
        | some c2, none => prepare s2 c2
        | some c2, some e =>
            decideAbort s2 c2 (if e = stConvoyConflict then stConvoyConflict else stConvoyMember) (memberResult (devNo s) .hub) 0x01

/-- The header of a record of firmware at this device. -/
def ownHeader (s : State) (tag kind core index dlen : Nat) : BitVec 128 :=
  BitVec.ofNat 128 (kind * 2 ^ 120 + tag * 2 ^ 105 + devNo s * 2 ^ 96 + core * 2 ^ 86 + index * 2 ^ 72 + dlen * 2 ^ 19)

/-- STREAM_OPEN (spec/07_streams_ingest_readout.md R232): on a running context through a convoy. TOBJ and STREAM must agree. -/
def execStreamOpen (h : Nat) (s : State) : Host.Outcome State Fault Refusal :=
  .next (withCmd s h 0x18 fun s f =>
    let ctx := mCtx f.manifest
    let bs := linesBytes f.bales
    let d := descOfBytes bs
    let es := (wordsOfBytes bs 32 (iOutn d)).map fun w => w.toNat
    if iStream d ≠ mTobj f.manifest then complete s h stBadManifest
    else match streamCheck s ctx d es with
      | some (st, reason) => complete s h st reason
      | none =>
          if (getShard s ctx).state = .stopped then complete (openStream s ctx d es none) h stOk
          else
            let n := 32 + 8 * iOutn d
            ownConvoy s f 0 fun tag => [{ header := ownHeader s tag 0x11 0x3FF (iStream d) n, data := bs.take n }])

/-- RESULT_OPEN (spec/07_streams_ingest_readout.md R247): on a running context through a convoy. -/
def execResultOpen (h : Nat) (s : State) : Host.Outcome State Fault Refusal :=
  .next (withCmd s h 0x1B fun s f =>
    let ctx := mCtx f.manifest
    let bs := linesBytes f.bales
    let d : BitVec 64 := BitVec.ofNat 64 (ofBytes (bs.take 8))
    let rs := wordsOfBytes bs 8 (rNrange d)
    match resultCheck s ctx d rs with
    | some (st, reason) => complete s h st reason
    | none =>
        if (getShard s ctx).state = .stopped then complete (openResult s ctx d rs) h stOk
        else
          let n := 8 + 8 * rNrange d
          ownConvoy s f 0 fun tag => [{ header := ownHeader s tag 0x13 0x3FF (rStream d) n, data := bs.take n }])

/-- The learned S4 descriptors of a core whose entries are all dormant (spec/06_learning.md R221). -/
def dormantRows (s : State) (ctx n : Nat) : List Nat :=
  let c := getCore s n
  ((rowDescs c).filter fun p => dLrn p.2 && dFmt p.2 == 4 &&
    let ls := linesOf s ctx c p.2 0
    (List.range (dLen p.2 + 1)).all fun k => s4Dormant p.2 ls k).map Prod.fst

/-- The record that empties a descriptor; CONT of its way stays (spec/05_synapse_storage.md R165). -/
def emptyRec (s : State) (tag n i : Nat) : ActionRecord :=
  { header := ownHeader s tag 0x02 n i 16
    data := bytesOf 16 (setFld emptyDesc 88 88 (b1 (dCont (descOf (getCore s n) i)))).toNat }

/-- LOAD_SECTION_COMPACT (spec/06_learning.md R221): RESULT is the number of rows removed. -/
def execLoadSectionCompact (h : Nat) (s : State) : Host.Outcome State Fault Refusal :=
  .next (withCmd s h 0x08 fun s f =>
    let ctx := mCtx f.manifest
    if mw f.manifest 0 ≠ 2 then s
    else
      let rows := (shardCores s ctx).map fun n => (n, dormantRows s ctx n)
      let k := (rows.map fun p => p.2.length).sum
      if k = 0 then complete s h stOk 0
      else ownConvoy s f k fun tag => rows.flatMap fun p => p.2.map (emptyRec s tag p.1))

end Sys2Proof.Machine
end

