-- ==== Sys2Proof/Machine/Handler.lean ====
section
/-! DEFINITION. The handler unit: dispatch, the instructions, faults, and what the end of a handler sends
(spec/08_handler_unit.md R259-R284; spec/09_queues_active_messages.md R293, R298, R301, R305, R309, R311). -/

namespace Sys2Proof.Machine

/-! ### Registers and lanes (R259) -/

/-- Scalar register `r`; s0 reads 0. -/
def rv (c : Core) (r : Nat) : Word := if r % 32 = 0 then 0 else nget 0 c.hnd.sc (r % 32)
/-- A core with scalar register `r` written. -/
def wr (c : Core) (r : Nat) (v : Word) : Core := { c with hnd := setS c.hnd (r % 32) v }
/-- Vector register `r`. -/
def vv (c : Core) (r : Nat) : BitVec 512 := nget 0 c.hnd.v (r % 8)
/-- A core with vector register `r` written. -/
def wv (c : Core) (r : Nat) (v : BitVec 512) : Core := { c with hnd := { c.hnd with v := nset 0 c.hnd.v (r % 8) v } }
/-- Accumulator `r`. -/
def av (c : Core) (r : Nat) : BitVec 2048 := nget 0 c.hnd.acc (r % 4)
/-- A core with accumulator `r` written. -/
def wa (c : Core) (r : Nat) (v : BitVec 2048) : Core := { c with hnd := { c.hnd with acc := nset 0 c.hnd.acc (r % 4) v } }

/-- Lane `i` of a vector. -/
def lane (v : BitVec 512) (i : Nat) : Nat := fld v (4 * i + 3) (4 * i)
/-- Lane `i` of an accumulator. -/
def accLane (a : BitVec 2048) (i : Nat) : Int := signed 16 (fld a (16 * i + 15) (16 * i))
/-- Codes of `w` bits packed from bit 0 up. -/
def packLanes (w : Nat) (xs : List Nat) : Nat := xs.foldr (fun x r => x % 2 ^ w + 2 ^ w * r) 0
/-- A vector from its 128 lanes. -/
def mkVec (f : Nat → Nat) : BitVec 512 := BitVec.ofNat 512 (packLanes 4 ((List.range 128).map f))
/-- An accumulator from its 128 lanes. -/
def mkAcc (f : Nat → Int) : BitVec 2048 := BitVec.ofNat 2048 (packLanes 16 ((List.range 128).map fun i => wrap 16 (f i)))

/-- IMM as an unsigned number. -/
def immU (imm : Nat) : Word := BitVec.ofNat 32 (imm % 2 ^ 16)
/-- IMM sign-extended. -/
def immS (imm : Nat) : Word := (BitVec.ofNat 16 imm).signExtend 32

/-! ### The end of a handler (R267, R293, R298, R309; spec/09_queues_active_messages.md R296, R303, R305) -/

/-- What a message that leaves its slot sends: the slot frees, and the queue's kind tells what is returned: the credit of a
request, the reply slot of a reply, the round of a tally, the answer to an open. `done` counts an ended handler;
`yields` tells that the chain goes on (R293, R296, R298, R309). -/
def leaveSlot (v : Env) (c : Core) (m : QMsg) (done : Nat) (yields : Bool) : Eff :=
  let ch := m.chain
  let e := ch.entry
  let c1 := depart c m.queue done
  if m.kind = 1 then releaseRound v c1 m.queue m.round
  else if m.notice then { core := c1, out := [openAckPkt v c1 (qPdev e) (qPcore e) (qPchan e) m.queue] }
  else if m.kind = 2 then
    if !yields && ch.isReq && ch.yielded && !ch.replied then
      { core := c1, out := [qcreditPkt v c1 (qPdev e) (qPcore e) (qPchan e) ch.cgen 3] }
    else { core := c1 }
  else if qKind e = 1 then
    { core := c1, out := [qcreditPkt v c1 (qPdev e) (qPcore e) (qPchan e) ch.cgen
        (if ch.replied then 1 else if yields then 2 else 0)] }
  else if qKind e = 2 then { core := replySlotFreed c1 m.queue }
  else { core := c1 }

/-- The error response to the sender of a message that was dispatched (R267, R303). -/
def errorNack (v : Env) (c : Core) (ch : Chain) (st : Status) : Packet :=
  mkNack v (fld ch.sender 18 10) (fld ch.sender 9 0) ch.schan ch.cgen ch.mid.toNat c.ctx c.gen.toNat st false 4 3

/-- The entries of a reply to the host: 16 bytes of the payload each (spec/09_queues_active_messages.md R305). -/
def replyEntries (bs : List Byte) : List (BitVec 128) :=
  if bs = [] then [0]
  else (List.range ((bs.length + 15) / 16)).map fun i => BitVec.ofNat 128 (ofBytes ((bs.drop (16 * i)).take 16))

/-- A chain ends: QUEUE_SEND completes, or an error is answered. A chain that a tally completion began has no sender; its
fault goes to the management complex (R265, R267; spec/09_queues_active_messages.md R305). -/
def chainOver (s : State) (core : Nat) (ch : Chain) (err : Option Status) (fault : Option (Nat × Nat)) : State :=
  let c := getCore s core
  let v := envOf s core
  match ch.host with
  | some txn =>
      match sendCmd s txn with
      | none => s
      | some f => match err with
          | some st => complete s f.handle st
          | none => complete s f.handle stOk 0 (replyEntries ch.reply)
  | none => match err with
      | none => s
      | some st =>
          if qKind ch.entry = 3 then match fault with
            | some (hidx, code) => coreSend s core (ctrlPkt v c v.dev 0x23 hidx code 5)
            | none => s
          else coreSend s core (errorNack v c ch st)

/-- The unit falls idle. -/
def idle (h : HandlerState) : HandlerState := { h with run := false, wait := .none, loopState := none }

/-- The running handler ends by END, YIELD or a fault: its slot frees and its credits go out, then its chain ends unless it
yields. `c` is the core with the last effects of the handler (R267, R293). -/
def finish (s : State) (core : Nat) (c : Core) (yields : Bool) (err : Option Status) (fault : Option (Nat × Nat)) : State :=
  let m := c.hnd.cur
  let v := envOf s core
  let e := leaveSlot v { c with hnd := idle c.hnd } m 1 yields
  let s1 := applyEff s core { core := settle e.core, out := e.out }
  if yields then s1 else chainOver s1 core m.chain err fault

/-- The status of a fault code (R267). -/
def faultStatus (code : Nat) : Status :=
  match code with
  | 1 => stTimeout
  | 2 => stBadOpcode
  | 5 => stQueueFull
  | 6 => stUncorrectable
  | _ => stAccess

/-- A core whose VRQs in flight are discarded, each as the free values from `n` on tell that it has not written its register
(R267; assumptions 6, 96). -/
def dropVrqs (n : Nat) (c : Core) : Core :=
  let c1 := c.hnd.flight.zipIdx.foldl (fun c x => if Config.vrqLost (n + x.2) then wv c x.1.1 x.1.2.2 else c) c
  { c1 with hnd := { c1.hnd with flight := [] } }

/-- What a fault reports: codes 3 and 4 enter the customs log with `addr`, code 6 is a notice to the management complex with the PC
(R267; spec/14_contexts_recovery.md R443; assumption 6). -/
def faultReport (s : State) (core code addr pc : Nat) : State :=
  if code = 3 ∨ code = 4 then violTile s core 0xB (devNo s) core stAccess addr
  else if code = 6 then
    coreSend s core (ctrlPkt (envOf s core) (getCore s core) (devNo s) 0x22 (Config.sourceBlock 2).toNat pc 5)
  else s

/-- The running handler faults at its PC: the first fault is recorded, each is counted, a VRQ in flight is discarded, and the error
response goes out (R267, R283). -/
def faultAt (s : State) (core code addr : Nat) : State :=
  let c := dropVrqs s.free (getCore s core)
  let h := c.hnd
  let h1 := if h.fValid then h
    else { h with fValid := true, fCode := BitVec.ofNat 3 code, fHidx := h.hidx, fPc := h.pc, fSrc := h.cur.chain.sender }
  let s0 := { s with free := s.free + (getCore s core).hnd.flight.length }
  faultReport (finish s0 core (cntLo { c with hnd := h1 } 0xE00 1) false (some (faultStatus code)) (some (h.hidx.toNat, code)))
    core code addr h.pc.toNat

/-! ### Fetch and issue (R267, R271, R274) -/

/-- What the fetch at PC finds wrong: PC outside the loaded instructions, a reserved word, or an uncorrectable ECC error in the
instruction or in what it reads (R267). -/
def fetchFault (c : Core) : Option Nat :=
  if !inRanges c.hnd.loaded c.hnd.pc.toNat then some 4
  else if !insnOk (nget 0 c.hnd.store c.hnd.pc.toNat) then some 2
  else if c.hnd.failing.contains c.hnd.pc.toNat then some 6
  else none

/-- The fetch at PC: a running handler that does not wait faults on it at once. -/
def fetchAt (s : State) (core : Nat) : State :=
  let c := getCore s core
  if !c.hnd.run || c.hnd.wait != .none then s
  else match fetchFault c with
    | none => s
    | some k => faultAt s core k c.hnd.pc.toNat

/-- An instruction done: its core effects and packets, then the next instruction in order. -/
def advanceTo (s : State) (core : Nat) (c : Core) (out : List Packet := []) : State :=
  fetchAt (applyEff s core { core := { c with hnd := nextPc c.hnd }, out := out }) core

/-- A taken branch or jump: leaving the body of the active loop ends the loop (R274). -/
def jumpTo (s : State) (core : Nat) (c : Core) (pc : BitVec 13) : State :=
  let l := match c.hnd.loopState with
    | some (a, b, k) => if a ≤ pc.toNat ∧ pc.toNat ≤ b then some (a, b, k) else none
    | none => none
  fetchAt (setCore s core { c with hnd := { c.hnd with pc := pc, loopState := l } }) core

/-- The vector registers that an instruction reads or writes (R270, R271). -/
def usesV (w : Word) : List Nat :=
  match fld w 31 26 with
  | 0x1A | 0x1B | 0x25 | 0x29 | 0x2B => [fld w 23 21]
  | 0x20 | 0x21 => [fld w 22 20, fld w 19 17]
  | 0x22 => [fld w 17 15]
  | 0x23 => [fld w 20 18, fld w 17 15]
  | 0x26 | 0x27 | 0x28 => [fld w 25 23, fld w 22 20, fld w 19 17]
  | 0x2A => [fld w 9 7]
  | 0x31 => if fld w 1 0 = 2 then [fld w 4 2] else []
  | _ => []

/-- The VRQs in flight after `n` more cycles: one is ready ten cycles after its issue, and an instruction that uses its register has
waited for it (R281). -/
def ageFlight (n : Nat) (used : List Nat) (c : Core) : Core :=
  { c with hnd := { c.hnd with
    flight := (c.hnd.flight.map fun x => (x.1, x.2.1 + n, x.2.2)).filter fun x => x.2.1 < 10 && !used.contains x.1 } }

/-- The core as the instruction `w` finds it at its issue. -/
def issued (s : State) (core : Nat) (w : Word) : Core := ageFlight 1 (usesV w) (getCore s core)

/-- The row of an instruction: it acts when a handler runs on the core, waits for nothing, and the word at PC is the
instruction; a word that the fetch refuses faults (R265, R267; assumption 2). -/
def issue (s : State) (core : Nat) (w : Word) (k : Core → State) : State :=
  let c := getCore s core
  if !c.hnd.run || c.hnd.wait != .none then s
  else match fetchFault c with
    | some code => faultAt s core code c.hnd.pc.toNat
    | none => if nget 0 c.hnd.store c.hnd.pc.toNat = w then k (issued s core w) else s

/-- The class HANDLER (spec/11_fabric_tolls.md R356). -/
def handlerClass : Nat := 3

/-- A cycle of the handler that the datapath or the row-store port holds (R278, R284). -/
def dpWait (c : Core) : Core := cntSet c 0xE0C (bumpWord (cntGet c 0xE0C) 1)

/-- An instruction that takes a datapath cycle, a row-store cycle, or both, as the HANDLER toll leaves them; without one the
sequencer stalls and the held cycle counts (R30, R278; spec/11_fabric_tolls.md R365). -/
def onPorts (s : State) (core : Nat) (dp mem : Bool) (c : Core) (k : Core → State) : State :=
  if dp && !mayTake (tileGate s core 0) c.ports.dp handlerClass then setCore s core (dpWait (holdDp c))
  else if mem && !mayTake (tileGate s core 1) c.ports.mem handlerClass then setCore s core (dpWait (holdMem c))
  else k (chargePorts c handlerClass (b1 dp) (b1 mem))

/-! ### Dispatch (R260, R264, R265, R279) -/

/-- Whether dispatch is held for a convoy that writes the handler store or table at the boundary where the core
waits (R279). -/
def dispatchHeld (c : Core) : Bool :=
  c.cvy.any fun x =>
    (match x.commit with
      | some sc => stepLe sc c.st.step && (c.st.phase == .waiting || c.st.phase == .notRunning)
      | none => false) && x.records.any fun r => aKind r == 6 || aKind r == 7

/-- The descriptor of a message in its slot (R290). -/
def descAt (c : Core) (m : QMsg) : BitVec 128 := BitVec.ofNat 128 (ldmGet c (slotAddr m.slot) 16)

/-- The table entry that a message names (R263). -/
def entryOf (c : Core) (m : QMsg) : Nat := if m.kind = 2 then m.hidx % 64 else fld (descAt c m) 79 74

/-- The scalar registers at dispatch (R260, R264). -/
def dispatchRegs (c : Core) (m : QMsg) (e : BitVec 64) : NMap Word :=
  let d := descAt c m
  let k := m.kind
  let s1 : Nat := if k = 2 then 0 else fld d 61 44
  let s2 : Nat := if k = 2 then 0 else fld d 71 62
  let s6 : Word := if k = 2 then m.arg else if k = 1 then BitVec.ofNat 32 (qExpect (qEnt c m.queue)) else d.extractLsb' 0 32
  let low := [BitVec.ofNat 32 s1, BitVec.ofNat 32 s2, m.chain.sender, m.chain.s4, c.st.step, s6, BitVec.ofNat 32 (fld e 47 32)]
  let high := if k = 2 then (List.range 16).map fun i => BitVec.ofNat 32 (ldmGet c (slotAddr m.slot + 4 * i) 4) else []
  nsetList 0 (nsetList 0 [] 1 low) 16 high

/-- A handler started for a message (R260, R264, R265), three cycles after the last one ended (R265). -/
def startHandler (c : Core) (m : QMsg) (idx : Nat) (e : BitVec 64) (failing : List Nat) : Core :=
  let m1 := if m.kind = 2 then m else { m with chain := { m.chain with entry := qEnt c m.queue } }
  let c1 := ageFlight 3 [] (cntHi c 0xE00 1)
  { c1 with hnd := { c1.hnd with
      sc := dispatchRegs c m e, pc := BitVec.ofNat 13 (fld e 12 0), loopState := none, run := true, wait := .none
      hidx := BitVec.ofNat 6 idx, cur := m1, failing := failing } }

/-- HANDLER_DISPATCH (R265): the queue whose head arrived first is served; a message whose entry is not valid, or not of its
kind, is consumed and answered with BAD_STATE. -/
def execHandlerDispatch (start : HandlerRun) (s : State) : Host.Outcome State Fault Refusal :=
  let core := start.core
  let c := getCore s core
  if c.hnd.run || !c.hnd.en || dispatchHeld c then .next s
  else match c.q.msgs with
    | [] => .next s
    | m :: rest =>
        let idx := entryOf c m
        let e := nget 0 c.hnd.table idx
        let c1 := { c with q := { c.q with msgs := rest } }
        if bit e 63 ∧ fld e 62 61 = m.kind then .next (fetchAt (setCore s core (startHandler c1 m idx e start.failing)) core)
        else
          let m1 := if m.kind = 2 then m else { m with chain := { m.chain with entry := qEnt c m.queue } }
          let x := leaveSlot (envOf s core) (cntHi c1 0xE04 1) m1 0 false
          .next (chainOver (applyEff s core { core := settle x.core, out := x.out }) core m1.chain (some stBadState) none)

/-- HANDLER_CYCLE_LIMIT (R267). -/
def execHandlerCycleLimit (core : Nat) (s : State) : Host.Outcome State Fault Refusal :=
  if (getCore s core).hnd.run then .next (faultAt s core 1 0) else .next s

/-! ### Scalar instructions (R271) -/

/-- An instruction that writes one scalar register. -/
def scalarRow (s : State) (core : Nat) (w : Word) (rd : Nat) (f : Core → Word) : State :=
  issue s core w fun c => advanceTo s core (wr c rd (f c))

/-- RA op RB of ALU by FUNC. -/
def aluOp (func : Nat) (a b : Word) : Word :=
  match func with
  | 0 => a + b
  | 1 => a - b
  | 2 => a &&& b
  | 3 => a ||| b
  | 4 => a ^^^ b
  | 5 => a <<< fld b 4 0
  | 6 => a >>> fld b 4 0
  | 7 => a.sshiftRight (fld b 4 0)
  | 8 => BitVec.ofNat 32 (b1 (a.slt b))
  | 9 => BitVec.ofNat 32 (b1 (a.ult b))
  | 10 => a * b
  | 11 => if a.slt b then a else b
  | _ => if a.slt b then b else a

/-- ALU. -/
def execAlu (core rd ra rb func : Nat) (s : State) : Host.Outcome State Fault Refusal :=
  .next (scalarRow s core (encR 0x00 rd ra rb func) rd fun c => aluOp (func % 2048) (rv c ra) (rv c rb))
/-- ADDI. -/
def execAddi (core rd ra imm : Nat) (s : State) : Host.Outcome State Fault Refusal :=
  .next (scalarRow s core (encI 0x01 rd ra imm) rd fun c => rv c ra + immS imm)
/-- ANDI. -/
def execAndi (core rd ra imm : Nat) (s : State) : Host.Outcome State Fault Refusal :=
  .next (scalarRow s core (encI 0x02 rd ra imm) rd fun c => rv c ra &&& immU imm)
/-- ORI. -/
def execOri (core rd ra imm : Nat) (s : State) : Host.Outcome State Fault Refusal :=
  .next (scalarRow s core (encI 0x03 rd ra imm) rd fun c => rv c ra ||| immU imm)
/-- XORI. -/
def execXori (core rd ra imm : Nat) (s : State) : Host.Outcome State Fault Refusal :=
  .next (scalarRow s core (encI 0x04 rd ra imm) rd fun c => rv c ra ^^^ immU imm)
/-- LUI. -/
def execLui (core rd ra imm : Nat) (s : State) : Host.Outcome State Fault Refusal :=
  .next (scalarRow s core (encI 0x05 rd ra imm) rd fun _ => immU imm <<< 16)
/-- SLTI. -/
def execSlti (core rd ra imm : Nat) (s : State) : Host.Outcome State Fault Refusal :=
  .next (scalarRow s core (encI 0x06 rd ra imm) rd fun c => BitVec.ofNat 32 (b1 ((rv c ra).slt (immS imm))))

/-- A shift by an immediate: IMM[6:5] selects SLL, SRL or SRA. -/
def shiftOp (imm : Nat) (a : Word) : Word :=
  match imm / 32 % 4 with
  | 0 => a <<< (imm % 32)
  | 1 => a >>> (imm % 32)
  | _ => a.sshiftRight (imm % 32)

/-- SHI. -/
def execShi (core rd ra imm : Nat) (s : State) : Host.Outcome State Fault Refusal :=
  .next (scalarRow s core (encI 0x07 rd ra imm) rd fun c => shiftOp imm (rv c ra))

/-! ### Branches, jumps and loops (R271, R274) -/

/-- A branch: PC := PC + OFF when the comparison holds. -/
def branchRow (s : State) (core op ra rb off : Nat) (f : Word → Word → Bool) : State :=
  issue s core (encB op ra rb off) fun c =>
    if f (rv c ra) (rv c rb) then jumpTo s core c (c.hnd.pc + (BitVec.ofNat 16 off).setWidth 13) else advanceTo s core c

/-- BEQ. -/
def execBeq (core ra rb off : Nat) (s : State) : Host.Outcome State Fault Refusal :=
  .next (branchRow s core 0x08 ra rb off fun a b => a == b)
/-- BNE. -/
def execBne (core ra rb off : Nat) (s : State) : Host.Outcome State Fault Refusal :=
  .next (branchRow s core 0x09 ra rb off fun a b => a != b)
/-- BLT. -/
def execBlt (core ra rb off : Nat) (s : State) : Host.Outcome State Fault Refusal :=
  .next (branchRow s core 0x0A ra rb off fun a b => a.slt b)
/-- BGE. -/
def execBge (core ra rb off : Nat) (s : State) : Host.Outcome State Fault Refusal :=
  .next (branchRow s core 0x0B ra rb off fun a b => !a.slt b)
/-- BLTU. -/
def execBltu (core ra rb off : Nat) (s : State) : Host.Outcome State Fault Refusal :=
  .next (branchRow s core 0x0C ra rb off fun a b => a.ult b)
/-- BGEU. -/
def execBgeu (core ra rb off : Nat) (s : State) : Host.Outcome State Fault Refusal :=
  .next (branchRow s core 0x0D ra rb off fun a b => !a.ult b)

/-- JAL: RD := PC + 1; PC := PC + OFF. -/
def execJal (core rd off : Nat) (s : State) : Host.Outcome State Fault Refusal :=
  .next (issue s core (encJ 0x0E rd off) fun c =>
    jumpTo s core (wr c rd (c.hnd.pc.setWidth 32 + 1)) (c.hnd.pc + (BitVec.ofNat 21 off).setWidth 13))

/-- JR: PC := RA[12:0]. -/
def execJr (core rd ra rb func : Nat) (s : State) : Host.Outcome State Fault Refusal :=
  .next (issue s core (encR 0x0F rd ra rb func) fun c => jumpTo s core c ((rv c ra).setWidth 13))

/-- LOOP: the next IMM[9:0] instructions run RA times; inside a loop body it faults (R274). -/
def execLoop (core rd ra imm : Nat) (s : State) : Host.Outcome State Fault Refusal :=
  .next (issue s core (encI 0x10 rd ra imm) fun c =>
    let a := c.hnd.pc.toNat + 1
    let n := imm % 2 ^ 10
    let k := (rv c ra).toNat
    if c.hnd.loopState.isSome then faultAt s core 2 0
    else if k = 0 then jumpTo s core c (BitVec.ofNat 13 (a + n))
    else fetchAt (setCore s core { c with hnd := { c.hnd with pc := BitVec.ofNat 13 a, loopState := some (a, a + n - 1, k) } }) core)

/-- END (R271, R293). The low 26 bits of its word are ignored. -/
def execEndHandler (core rest : Nat) (s : State) : Host.Outcome State Fault Refusal :=
  .next (issue s core (BitVec.ofNat 32 (0x11 * 2 ^ 26 + rest % 2 ^ 26)) fun c => finish s core c false none none)

/-- YIELD: a continuation in queue 0, or a fault when it is full; the slot of the yielding handler frees in the same cycle (R268,
R293). -/
def execYieldTo (core rd ra imm : Nat) (s : State) : Host.Outcome State Fault Refusal :=
  .next (issue s core (encI 0x12 rd ra imm) fun c =>
    let c0 := { c with hnd := { c.hnd with run := false } }
    match (if qKind (qEnt c 0) = 0 ∧ qValid (qEnt c 0) then freeSlotOf c0 0 else none) with
    | none => faultAt s core 5 0
    | some k =>
        let ch := c.hnd.cur.chain
        let pend := ch.yielded || (ch.isReq && c.hnd.cur.kind == 0 && !ch.replied)
        let slot := qBase (qEnt c 0) + k
        let m : QMsg := { queue := 0, slot := slot, kind := 2, hidx := imm % 64, arg := rv c ra, chain := { ch with yielded := pend } }
        let s1 := finish s core c true none none
        let save (x : Core) : Core := (List.range 16).foldl (fun y i => ldmSet y (slotAddr slot + 4 * i) 4 (rv c (16 + i)).toNat) x
        modCore s1 core fun x => let y := save x; arrive { y with q := { y.q with msgs := y.q.msgs ++ [m] } } 0 0 1)

/-! ### Memory (R261, R262, R271) -/

/-- Whether `n` bytes lie in local data memory. -/
def inLdm (a n : Nat) : Bool := a + n ≤ 0x40000

/-- Whether a handler may write `n` bytes: not the queue status words and slots, the learning, readout, configuration and list
blocks, or the outrider buffer (R262). -/
def mayWrite (c : Core) (a n : Nat) : Bool :=
  inLdm a n && !bytesMeet (a, n) (0x2B000, 0x15000) && !bytesMeet (a, n) (outrider c)

/-- The address RA + IMM. -/
def addrOf (c : Core) (ra imm : Nat) : Nat := (rv c ra + immU imm).toNat

/-- A scalar load of `n` bytes. -/
def loadRow (s : State) (core op rd ra imm n : Nat) : State :=
  issue s core (encI op rd ra imm) fun c =>
    let a := addrOf c ra imm
    if a % n = 0 ∧ inLdm a n then advanceTo s core (wr c rd (BitVec.ofNat 32 (ldmGet c a n))) else faultAt s core 3 a

/-- A scalar store of `n` bytes. -/
def stRow (s : State) (core op rd ra imm n : Nat) : State :=
  issue s core (encI op rd ra imm) fun c =>
    let a := addrOf c ra imm
    if a % n = 0 ∧ mayWrite c a n then advanceTo s core (ldmSet c a n ((rv c rd).toNat % 256 ^ n)) else faultAt s core 3 a

/-- LDW. -/
def execLdw (core rd ra imm : Nat) (s : State) : Host.Outcome State Fault Refusal := .next (loadRow s core 0x14 rd ra imm 4)
/-- STW. -/
def execStw (core rd ra imm : Nat) (s : State) : Host.Outcome State Fault Refusal := .next (stRow s core 0x15 rd ra imm 4)
/-- LDH. -/
def execLdh (core rd ra imm : Nat) (s : State) : Host.Outcome State Fault Refusal := .next (loadRow s core 0x16 rd ra imm 2)
/-- STH. -/
def execSth (core rd ra imm : Nat) (s : State) : Host.Outcome State Fault Refusal := .next (stRow s core 0x17 rd ra imm 2)
/-- LDB. -/
def execLdb (core rd ra imm : Nat) (s : State) : Host.Outcome State Fault Refusal := .next (loadRow s core 0x18 rd ra imm 1)
/-- STB. -/
def execStb (core rd ra imm : Nat) (s : State) : Host.Outcome State Fault Refusal := .next (stRow s core 0x19 rd ra imm 1)

/-- The 64 bytes at an address, for VLD and VMACM: local data memory or the row store (R261). -/
def lineAt (c : Core) (a : Nat) : Option Line :=
  if a % 64 ≠ 0 then none
  else if inLdm a 64 then some (BitVec.ofNat 512 (ldmGet c a 64))
  else if 0x100000 ≤ a ∧ a < 0x200000 then some (nget 0 c.syn.rows ((a - 0x100000) / 64))
  else none

/-- Whether an address lies in the row store (R261). -/
def inRowStore (a : Nat) : Bool := 0x100000 ≤ a && a < 0x200000

/-- Whether a read waits for a line that is pending DEFERRED commit (R278; spec/06_learning.md R215). Such a wait is no held cycle of
TILE_HND_DPWAIT: DEDUCED (86). -/
def lineHeld (c : Core) (a : Nat) : Bool := inRowStore a && c.lrn.pending.contains ((a - 0x100000) / 64)

/-- An instruction that reads the 64 bytes at `a`: it waits, faults or goes on with them. -/
def withLine (s : State) (core : Nat) (c : Core) (a : Nat) (k : Line → State) : State :=
  match lineAt c a with
  | none => faultAt s core 3 a
  | some l => if lineHeld c a then s else k l

/-- VLD. -/
def execVld (core rd ra imm : Nat) (s : State) : Host.Outcome State Fault Refusal :=
  .next (issue s core (encI 0x1A rd ra imm) fun c =>
    let a := addrOf c ra imm
    withLine s core c a fun l =>
      if inRowStore a then onPorts s core false true c fun c => advanceTo s core (wv c rd l) else advanceTo s core (wv c rd l))

/-- VST. -/
def execVst (core rd ra imm : Nat) (s : State) : Host.Outcome State Fault Refusal :=
  .next (issue s core (encI 0x1B rd ra imm) fun c =>
    let a := addrOf c ra imm
    if a % 64 = 0 ∧ mayWrite c a 64 then advanceTo s core (ldmSet c a 64 (vv c rd).toNat) else faultAt s core 3 a)

/-- ACCLD. -/
def execAccld (core rd ra imm : Nat) (s : State) : Host.Outcome State Fault Refusal :=
  .next (issue s core (encI 0x1C rd ra imm) fun c =>
    let a := addrOf c ra imm
    if a % 64 = 0 ∧ inLdm a 256 then advanceTo s core (wa c rd (BitVec.ofNat 2048 (ldmGet c a 256))) else faultAt s core 3 a)

/-- ACCST. -/
def execAccst (core rd ra imm : Nat) (s : State) : Host.Outcome State Fault Refusal :=
  .next (issue s core (encI 0x1D rd ra imm) fun c =>
    let a := addrOf c ra imm
    if a % 64 = 0 ∧ mayWrite c a 256 then advanceTo s core (ldmSet c a 256 (av c rd).toNat) else faultAt s core 3 a)

/-! ### Vector arithmetic (R271-R273) -/

/-- The bounds of an accumulator lane. -/
def sat16 (x : Int) : Int := clampTo (-32768) 32767 x

/-- Whether a lane of the values saturates. -/
def saturates (f : Nat → Int) : Bool := (List.range 128).any fun i => sat16 (f i) != f i

/-- Lane values put into accumulator `d` with saturation; a lane that saturates sets ASAT (R271, R272). -/
def putAcc (c : Core) (d : Nat) (f : Nat → Int) : Core :=
  let c1 := wa c d (mkAcc fun i => sat16 (f i))
  if saturates f then { c1 with hnd := { c1.hnd with asat := true } } else c1

/-- The result of a MAC instruction in accumulator `d`; one with a lane that saturates counts (R272, R284). -/
def putMac (c : Core) (d : Nat) (f : Nat → Int) : Core :=
  let c1 := putAcc c d f
  if saturates f then cntHi c1 0xE08 1 else c1

/-- t of R271: the accumulator lane, or 0 with CLR. -/
def macBase (c : Core) (d clr i : Nat) : Int := if clr % 2 = 1 then 0 else accLane (av c d) i

/-- VMAC. -/
def execVmac (core d va vb za zb n clr neg : Nat) (s : State) : Host.Outcome State Fault Refusal :=
  .next (issue s core (encV 0x20 d va vb za zb n clr neg) fun c => onPorts s core true false c fun c =>
    let p (i : Nat) : Int := ((lane (vv c va) i : Int) - (za % 16 : Nat)) * ((lane (vv c vb) i : Int) - (zb % 16 : Nat))
    advanceTo s core (putMac c d fun i => macBase c d clr i + (if neg % 2 = 1 then -p i else p i)))

/-- VMACB. -/
def execVmacb (core d va vb za zb n clr neg : Nat) (s : State) : Host.Outcome State Fault Refusal :=
  .next (issue s core (encV 0x21 d va vb za zb n clr neg) fun c => onPorts s core true false c fun c =>
    let p (i : Nat) : Int := ((lane (vv c va) i : Int) - (za % 16 : Nat)) * ((lane (vv c vb) (n % 128) : Int) - (zb % 16 : Nat))
    advanceTo s core (putMac c d fun i => macBase c d clr i + (if neg % 2 = 1 then -p i else p i)))

/-- VMACM; with INC, RA is advanced and then RN. -/
def execVmacm (core d ra vb rn za zb inc clr : Nat) (s : State) : Host.Outcome State Fault Refusal :=
  .next (issue s core (encM 0x22 d ra vb rn za zb inc clr) fun c =>
    let a := (rv c ra).toNat
    withLine s core c a fun l => onPorts s core true (inRowStore a) c fun c =>
      let y : Int := (lane (vv c vb) (fld (rv c rn) 6 0) : Int) - (zb % 16 : Nat)
      let c1 := putMac c d fun i => macBase c d clr i + ((lane l i : Int) - (za % 16 : Nat)) * y
      let c2 := if inc % 2 = 1 then wr c1 ra (rv c1 ra + 64) else c1
      advanceTo s core (if inc % 2 = 1 then wr c2 rn (rv c2 rn + 1) else c2))

/-- VDOT. -/
def execVdot (core rd va vb za zb rest : Nat) (s : State) : Host.Outcome State Fault Refusal :=
  .next (issue s core (encS 0x23 rd va vb za zb rest) fun c => onPorts s core true false c fun c =>
    advanceTo s core (wr c rd (BitVec.ofInt 32 ((List.range 128).map fun i =>
      ((lane (vv c va) i : Int) - (za % 16 : Nat)) * ((lane (vv c vb) i : Int) - (zb % 16 : Nat))).sum)))

/-- ACCOP. -/
def execAccop (core rd ra rb func : Nat) (s : State) : Host.Outcome State Fault Refusal :=
  .next (issue s core (encR 0x24 rd ra rb func) fun c =>
    let a := av c rd
    advanceTo s core (match func % 2048 with
      | 0 => putAcc c rd fun i => accLane a i + accLane (av c ra) i
      | 1 => wa c rd (mkAcc fun i => accLane a i / 2 ^ fld (rv c rb) 3 0)
      | _ => wa c rd 0))

/-- The format that VRQ's FMT names. -/
def vrqFmt (k : Nat) : Fmt := match k with | 0 => .q4 | 1 => .q2 | 2 => .t2 | _ => .b1

/-- The lanes of an accumulator requantised in ascending order under a configuration word: the codes, the lanes clamped, and
the LFSR after the draws (R273). -/
def vrqLanes (cfg : Word) (a : BitVec 2048) (l : Word) : List Nat × Nat × Word :=
  let x := (List.range 128).foldl (fun (acc : List Nat × Nat × Word) i =>
    let y := requant (vrqFmt (fld cfg 13 12)) (fld cfg 7 0) (fld cfg 11 8) (accLane a i * 2 ^ fld cfg 16 14) acc.2.2
    (y.1.code :: acc.1, acc.2.1 + b1 (y.1.satLo || y.1.satHi), y.2)) ([], 0, l)
  (x.1.reverse, x.2)

/-- VRQ. Its register stands written from the issue on, as every later instruction that uses it finds it (R281), and a fault may
still take the result back (R267; assumption 96). -/
def execVrq (core rd ra rb func : Nat) (s : State) : Host.Outcome State Fault Refusal :=
  .next (issue s core (encR 0x25 rd ra rb func) fun c =>
    let cfg := rv c ra
    let x := vrqLanes cfg (av c rb) c.hnd.lfsr
    let c1 := wv c rd (BitVec.ofNat 512 (packLanes (vrqFmt (fld cfg 13 12)).width x.1))
    let c2 := { c1 with hnd := { c1.hnd with
      lfsr := x.2.2, rqclamp := c1.hnd.rqclamp || x.2.1 != 0, flight := c1.hnd.flight ++ [(rd % 8, 0, vv c rd)] } }
    advanceTo s core (if x.2.1 = 0 then c2 else cntLo c2 0xE04 x.2.1))

/-- VFUN. -/
def execVfun (core d va vb za zb n clr neg : Nat) (s : State) : Host.Outcome State Fault Refusal :=
  .next (issue s core (encV 0x26 d va vb za zb n clr neg) fun c =>
    advanceTo s core (wv c d (mkVec fun i =>
      let k := n % 128 + i
      if k < 128 then lane (vv c va) k else lane (vv c vb) (k - 128))))

/-- VPERM. -/
def execVperm (core d va vb za zb n clr neg : Nat) (s : State) : Host.Outcome State Fault Refusal :=
  .next (issue s core (encV 0x27 d va vb za zb n clr neg) fun c =>
    advanceTo s core (wv c d (mkVec fun i =>
      if i / 64 = n % 2 then lane (vv c va) (fld (vv c vb) (8 * (i % 64) + 6) (8 * (i % 64))) else lane (vv c d) i)))

/-- VSELM. -/
def execVselm (core d va vb za zb n clr neg : Nat) (s : State) : Host.Outcome State Fault Refusal :=
  .next (issue s core (encV 0x28 d va vb za zb n clr neg) fun c =>
    advanceTo s core (wv c d (mkVec fun i =>
      if i &&& (n % 128) = (za % 16 * 16 + zb % 16) % 128 then lane (vv c vb) i else lane (vv c va) i)))

/-- VSPLAT. -/
def execVsplat (core rd ra imm : Nat) (s : State) : Host.Outcome State Fault Refusal :=
  .next (issue s core (encI 0x29 rd ra imm) fun c => advanceTo s core (wv c rd (mkVec fun _ => fld (rv c ra) 3 0)))

/-- VEXT. -/
def execVext (core rd ra imm : Nat) (s : State) : Host.Outcome State Fault Refusal :=
  .next (scalarRow s core (encI 0x2A rd ra imm) rd fun c => BitVec.ofNat 32 (lane (vv c (imm / 128 % 8)) (imm % 128)))

/-- VINS. -/
def execVins (core rd ra imm : Nat) (s : State) : Host.Outcome State Fault Refusal :=
  .next (issue s core (encI 0x2B rd ra imm) fun c =>
    advanceTo s core (wv c rd (setFld (vv c rd) (4 * (imm % 128) + 3) (4 * (imm % 128)) (fld (rv c ra) 3 0))))

/-! ### Sends (R275; spec/09_queues_active_messages.md R298, R300, R301, R311, R315) -/

/-- A core with the chain of the running handler changed. -/
def modChain (c : Core) (f : Chain → Chain) : Core :=
  { c with hnd := { c.hnd with cur := { c.hnd.cur with chain := f c.hnd.cur.chain } } }

/-- Whether a landing of `len` bytes at `land` keeps the sender's rules for a window of `win` bytes (R301). A length above 512
bytes has no packet. -/
def landingOk (win land len : Nat) : Bool := len ≤ 512 && (if land = 0xFFF then len ≤ 48 else land * 64 + len ≤ win)

/-- The payload field and the flits of a message: the argument of a short one, or LAND, LEN and the bytes at `a` (R300). -/
def msgBody (c : Core) (a : Word) (land len : Nat) : Nat × List (BitVec 256) :=
  if len = 0 then (a.toNat, []) else (land * 2 ^ 20 + len * 2 ^ 10, bytesFlits (ngetList (0 : Byte) c.ldm a.toNat len))

/-- A reply on the channel of the message being handled: to the opener's reply queue, or kept for the host (R301, R305). A short reply
to the host keeps its argument as four bytes: DESIGN CHOICE (98). -/
def sendReply (s : State) (core : Nat) (c : Core) (rd : Nat) (a : Word) (land len hidx : Nat) : State :=
  let ch := c.hnd.cur.chain
  let e := ch.entry
  let v := envOf s core
  let c1 := modChain (wr c rd 0) fun x => { x with replied := true }
  if ch.replied ∨ (len ≠ 0 ∧ !inLdm a.toNat len) ∨ (!ch.isReq ∧ ch.host.isNone) then faultAt s core 3 a.toNat
  else if ch.isReq then
    if !landingOk ((fld e 15 4 + 1) * 64) land len then faultAt s core 3 a.toNat
    else
      let b := msgBody c a land len
      advanceTo s core c1 [mkPkt 4 2 (qPdev e) (qPcore e) 0 0 (msgSrc true v.dev core 0) (qRqueue e * 2 ^ 8 + qRqcgen e) c.ctx
        c.gen.toNat hidx b.1 3 0xB b.2]
  else if len > 256 then faultAt s core 3 a.toNat
  else advanceTo s core (modChain c1 fun x => { x with
    reply := if len = 0 then bytesOf 4 a.toNat else ngetList (0 : Byte) c.ldm a.toNat len })

/-- What a send does by the state of its channel: it goes, waits for a credit, or returns a status (R299, R311, R315). -/
inductive SendState where
  | goes
  | waits
  | returns (st : Status)
  deriving DecidableEq, Repr

/-- The state of a channel for a send. -/
def sendState (r : BitVec 128) : SendState :=
  match chState r with
  | 1 => .waits
  | 2 => if chKind r = 2 ∨ chCredits r ≠ 0 then .goes else .waits
  | 5 => .returns stStaleGen
  | _ => .returns stPeerClosed

/-- A send on channel `n` that has passed the checks of R301: packet `p` goes out on a credit, or the handler waits (R298, R311). A
tally channel turns to its other round (R309). -/
def sendOn (s : State) (core : Nat) (c : Core) (rd n : Nat) (p : Packet) : State :=
  let r := chan c n
  match sendState r with
  | .returns st => advanceTo s core (wr c rd (st.setWidth 32))
  | .waits => setCore s core { c with hnd := { c.hnd with wait := .credit n (rd % 32) } }
  | .goes =>
      let r1 := if chKind r = 2 then r else withCredits r (chCredits r - 1)
      let r2 := if chKind r = 1 then setFld r1 45 45 (1 - chRound r) else r1
      advanceTo s core (wr (setChan c n r2 none 0 0) rd 0) [p]

/-- The window that a send is held to: the peer's, which a channel that is OPENING learns with OPEN_ACK, when the held send issues
again (R301, R311). -/
def sendWin (r : BitVec 128) : Nat := if chState r = 1 then 2 ^ 18 else chWin r

/-- SEND (R275, R301). -/
def execSend (core rd ra rb func : Nat) (s : State) : Host.Outcome State Fault Refusal :=
  .next (issue s core (encR 0x30 rd ra rb func) fun c =>
    let a := rv c ra
    let d := rv c rb
    let n := fld d 7 0
    let land := fld d 31 20
    let len := fld d 19 10
    let hidx := func / 32 % 64
    if func % 2 = 1 then sendReply s core c rd a land len hidx
    else
      let r := chan c n
      if chState r = 0 ∨ (chKind r ≠ 0 ∧ chKind r ≠ 2) ∨ !landingOk (sendWin r) land len ∨ (len ≠ 0 ∧ !inLdm a.toNat len) then
        faultAt s core 3 a.toNat
      else
        let line := chKind r = 2
        let b := msgBody c a land len
        sendOn s core c rd n (mkPkt 4 2 (if line then devNo s else chPdev r) (chPcore r) (if line then fld r 44 43 else 0)
          (if line then fld r 42 38 else 0) (msgSrc false (devNo s) core n) (chPqueue r * 2 ^ 8 + (if line then 0 else chPcgen r))
          c.ctx c.gen.toNat hidx b.1 3 0xB b.2))

/-- Whether TALLYC suits a channel: one of kind TALLY, or one that is OPENING and shows no kind yet (R299, R311). -/
def tallyOk (r : BitVec 128) : Bool := chState r != 0 && (chKind r == 1 || (chState r == 1 && chKind r == 0))

/-- TALLYC (R275, R300, R308). -/
def execTallyc (core rd ra rb func : Nat) (s : State) : Host.Outcome State Fault Refusal :=
  .next (issue s core (encR 0x31 rd ra rb func) fun c =>
    let n := fld (rv c ra) 7 0
    let r := chan c n
    if !tallyOk r then faultAt s core 3 n
    else
      let pay := match func % 4 with
        | 0 => (rv c rb).toNat % 2 ^ 16
        | 1 => (rv c rb).toNat
        | _ => 0
      let fl := if func % 4 = 2 then burstFlits (vv c (func / 4 % 8)) else []
      sendOn s core c rd n (mkPkt 8 2 (chPdev r) (chPcore r) 0 0 (msgSrc false (devNo s) core n)
        (chPqueue r * 2 ^ 8 + chPcgen r) c.ctx c.gen.toNat (chRound r * 32) pay 3 0xB fl))

/-- SEND_WAIT_EXPIRE: the send returns QUEUE_FULL, writes LAST and counts (R311). -/
def execSendWaitExpire (core : Nat) (s : State) : Host.Outcome State Fault Refusal :=
  let c := getCore s core
  match c.hnd.wait with
  | .credit n rd =>
      let c1 := cntHi (setChan c n (chan c n) (some stQueueFull) 0 0) 0xF04 1
      .next (advanceTo s core (wr { c1 with hnd := { c1.hnd with wait := .none } } rd (stQueueFull.setWidth 32)))
  | _ => .next s

/-! ### Waits, convoys, queries and the modulator (R276, R277) -/

/-- WAITNE: waits while the word at RA equals RB; a FUNC of 0 sets no bound (R271, R276). -/
def execWaitne (core rd ra rb func : Nat) (s : State) : Host.Outcome State Fault Refusal :=
  .next (issue s core (encR 0x32 rd ra rb func) fun c =>
    let a := (rv c ra).toNat
    let w := BitVec.ofNat 32 (ldmGet c a 4)
    if a % 4 ≠ 0 ∨ !inLdm a 4 then faultAt s core 3 a
    else if w ≠ rv c rb then advanceTo s core (wr c rd w)
    else setCore s core { c with hnd := { c.hnd with wait := .waitne (rd % 32) a (rv c rb) (func % 2048 != 0) } })

/-- WAITNE_TIMEOUT: the bound expires, and the handler goes on with the word (R276). -/
def execWaitneTimeout (core : Nat) (s : State) : Host.Outcome State Fault Refusal :=
  let c := getCore s core
  match c.hnd.wait with
  | .waitne rd a _ true =>
      .next (advanceTo s core (wr { c with hnd := { c.hnd with wait := .none } } rd (BitVec.ofNat 32 (ldmGet c a 4))))
  | _ => .next s

/-- The context of a convoy as far as this device knows it: that of its record, or of a member here (R330). A convoy of another
device that nothing here takes part in is known to its coordinator only, which answers the JOIN with ABORT (assumption 34). -/
def convoyCtx (s : State) (tag : Nat) : Option Nat :=
  match findConvoy s tag, holders s tag with
  | some x, _ => some x.ctx
  | none, (_, m) :: _ => (findShare s m tag).map MemberConvoy.ctx
  | none, [] => none

/-- CSTG's staging at the core itself: the status, and JOIN for the first record (R277; spec/10_convoys.md R328, R330). -/
def cstgAt (s : State) (core tag : Nat) (r : ActionRecord) : State × Status :=
  let c := getCore s core
  if aTag r ≠ tag ∨ aTdev r ≠ devNo s ∨ aTcore r ≠ core ∨ (convoyCtx s tag).any (· != c.ctx) then (s, stBadState)
  else
    let first := (findShare s (.core core) tag).isNone
    let x := stageAt s (.core core) c.ctx tag false r
    let s1 := if first then memberSend x.1 (.core core) c.ctx (homeOf tag) 0x09 tag 0 else x.1
    (s1, match x.2 with
      | none => stOk
      | some st => if st = stBadManifest then stBadState else st)

/-- CSTG: the record at RB is staged into convoy RA (R271, R277). -/
def execCstg (core rd ra rb func : Nat) (s : State) : Host.Outcome State Fault Refusal :=
  .next (issue s core (encR 0x33 rd ra rb func) fun c =>
    let a := (rv c rb).toNat
    let hd := BitVec.ofNat 128 (ldmGet c a 16)
    let len := fld hd 28 19
    if !inLdm a (16 + len) then faultAt s core 3 a
    else
      let r : ActionRecord := { header := hd, data := ngetList (0 : Byte) c.ldm (a + 16) len }
      let x := cstgAt s core ((rv c ra).toNat % 2 ^ 15) r
      advanceTo x.1 core (wr (getCore x.1 core) rd (x.2.setWidth 32)))

/-- An item of QRY (R277). The cycle count of item 6 is a free value, taken from `free` (assumption 6). -/
def qryItem (c : Core) (dev core k free : Nat) : Word :=
  match k with
  | 0 => c.st.step
  | 1 => c.st.c
  | 2 => c.st.released
  | 3 => c.gen.setWidth 32
  | 4 => BitVec.ofNat 32 (b1 c.hnd.rqclamp * 2 + b1 c.hnd.asat)
  | 5 => BitVec.ofNat 32 (dev * 2 ^ 10 + core)
  | _ => Config.measured free

/-- QRY. -/
def execQry (core rd ra imm : Nat) (s : State) : Host.Outcome State Fault Refusal :=
  .next (issue s core (encI 0x34 rd ra imm) fun c =>
    let s1 := if imm % 8 = 6 then { s with free := s.free + 1 } else s
    advanceTo s1 core (wr c rd (qryItem c (devNo s) core (imm % 8) s.free)))

/-- MODW: a modulator write of RA[3:0] to the hub (R277). -/
def execModw (core rd ra rb func : Nat) (s : State) : Host.Outcome State Fault Refusal :=
  .next (issue s core (encR 0x35 rd ra rb func) fun c =>
    advanceTo s core c [toHub s core 7 0 0x0A (func % 2 * 16 + fld (rv c ra) 3 0) (rv c rb).toNat 3])

/-- MOD_DELIVER from the command router to every core of a shard on the device (R277; spec/06_learning.md R207). -/
def deliverMod (s : State) (ctx : Nat) (now : Bool) (value step : Nat) : State :=
  hubSendAll s ((shardCores s ctx).map fun n => fromHub s 0xC n 7 0 0x0B (b1 now * 16 + value % 16) ctx step 4)

/-- MOD_WRITE: the hub delivers a handler's modulator write (R277). -/
def execModWrite (pkt : Packet) (s : State) : Host.Outcome State Fault Refusal :=
  let s1 := hubDone s pkt
  if ofShard s1 pkt then .next (deliverMod s1 (pctx pkt) (bit pkt.head 52) (fld pkt.head 51 48) (payload pkt)) else .next s1

end Sys2Proof.Machine
end

