-- ==== Sys2Proof/Machine/Context.lean ====
section
/-! DEFINITION. Contexts and shards: creation, start, stop, context reset, run limits, the modulator, state access, the weight keep
and command timeouts (spec/14_contexts_recovery.md R430-R447; spec/13_host_interface.md R418-R422; spec/06_learning.md
R222-R227). -/

namespace Sys2Proof.Machine

/-! ### Creation and destruction (R432, R435, R439) -/

/-- The 64 MiB units of an edge space (spec/05_synapse_storage.md R178). -/
def edgeUnits (p : Part) : Nat := if p = .m128 then 1024 else 2048

/-- Whether a region of `size` units at `base` lies in the edge space and meets no other context's (spec/05_synapse_storage.md
R177). -/
def regionFits (s : State) (edge : Bool) (size base : Nat) : Bool :=
  base + size ≤ edgeUnits s.nv.part && (List.range 64).all fun c =>
    let r := regionOf s c edge
    r.2 == 0 || base + size ≤ r.1 || r.1 + r.2 ≤ base

/-- The base that firmware allocates: the lowest that fits; 0 for no region (spec/05_synapse_storage.md R177; assumption 40). -/
def allocRegion (s : State) (edge : Bool) (size : Nat) : Option Nat :=
  if size = 0 then some 0 else (List.range (edgeUnits s.nv.part)).find? (regionFits s edge size)

/-- A context's region registers written (spec/05_synapse_storage.md R178). -/
def setRegion (s : State) (ctx : Nat) (edge : Bool) (size base : Nat) : State :=
  { s with dep := { s.dep with rgn := nset 0 s.dep.rgn (2 * ctx + b1 edge) (BitVec.ofNat 32 (size * 2 ^ 16 + base)) } }

/-- The toll shares of CONTEXT_CREATE's words, by class (R421 of spec/13_host_interface.md). -/
def sharesOf (m : Line) : NMap (BitVec 7) :=
  nsetList 0 [] 0 (([mw m 3, mw m 4].flatMap fun w => [0, 8, 16, 24].map fun b => BitVec.ofNat 7 (w / 2 ^ b)))

/-- CONTEXT_CREATE: the shard, its regions under a fresh key pair, and its next generation (R435; spec/05_synapse_storage.md R180;
spec/13_host_interface.md R421). -/
def createContext (s : State) (f : Fetched) : State :=
  let m := f.manifest
  let ctx := mCtx m
  let old := getShard s ctx
  if old.state ≠ .free then complete s f.handle stNoResource
  else match allocRegion s false (mw m 1), allocRegion s true (mw m 2) with
    | some n, some so =>
        let s1 := setRegion (setRegion s ctx false (mw m 1) n) ctx true (mw m 2) so
        let sh : Shard := {
          state := .stopped, paced := mw m 0 / 2 ^ 6 % 2 = 1, overrun := BitVec.ofNat 2 (mw m 0 / 2 ^ 4)
          w := BitVec.ofNat 4 (mw m 0), gen := old.gen + 1, noticeCq := BitVec.ofNat 8 (mw m 0 / 2 ^ 8), shares := sharesOf m }
        complete (setShard { s1 with dep := rekey s1.dep ctx } ctx sh) f.handle stOk sh.gen.toNat
    | _, _ => complete s f.handle stNoResource

/-- CONTEXT_CREATE (spec/13_host_interface.md R421). -/
def execContextCreate (h : Nat) (s : State) : Host.Outcome State Fault Refusal := .next (withCmd s h 0x01 createContext)

/-- A core that a destroyed context leaves: every memory zero and no binding. Its counters, its timer watch and the packets at its
port stay (R439; assumption 41). -/
def zeroCore (c : Core) : Core := { watch := c.watch, cnt := c.cnt, arrived := c.arrived }

/-- The streams of a context closed (R432). -/
def closeStreams (s : State) (ctx : Nat) : State :=
  let s1 := (streamsIn s ctx fun _ => true).foldl (fun s i => setIn s i (freeStream (getIn s i))) s
  (resultsIn s1 ctx fun _ => true).foldl (fun s i => if (getRes s i).state = .closed then s else closeResult s i) s1

/-- The pace timer of a context freed (spec/16_timers.md R485). -/
def freePace (s : State) (ctx : Nat) : State :=
  match (getShard s ctx).timer with | some i => freeTimer s i | none => s

/-- What CONTEXT_DESTROY releases (R432, R439): the timer, the cores, both regions and their keys. -/
def destroyShard (s : State) (ctx : Nat) : State :=
  let s1 := freePace (closeStreams s ctx) ctx
  let s2 := modShardCores s1 ctx fun _ c => zeroCore c
  let s3 := setRegion (setRegion s2 ctx false 0 0) ctx true 0 0
  setShard { s3 with dep := dropKey s3.dep ctx } ctx { gen := (getShard s ctx).gen }

/-- CONTEXT_DESTROY (R439). -/
def execContextDestroy (h : Nat) (s : State) : Host.Outcome State Fault Refusal :=
  .next (withCmd s h 0x02 fun s f => complete (destroyShard s (mCtx f.manifest)) h stOk)

/-! ### Context reset (R444-R447) -/

/-- A core after the removal of a context reset, with the new generation (R445; spec/02_narrow_arithmetic.md R81;
spec/08_handler_unit.md R260, R269). -/
def removeWork (gen : BitVec 4) (c : Core) : Core :=
  let c1 := resetQueues (discardLearn c)
  { c1 with
    gen := gen
    st := { c1.st with
      step := 0, c := 0xFFFFFFFF, rg := [], cr := [], g := 0, phase := .notRunning, forceHalt := false, haltStep := none
      saveBarrier := none }
    nrn := { c1.nrn with accs := [], touch := [], fired := [], learnedIn := [], folded := [], lfsrAtClose := 0 }
    syn := { c1.syn with ring := [], setAside := [], pen := [], reads := [] }
    hnd := { idle c1.hnd with v := [], acc := [], flight := [] }
    cnt := [] }

/-- Whether a packet belongs to an earlier generation of a context. -/
def oldPacket (ctx gen : Nat) (p : Packet) : Bool := pctx p == ctx && pgen p != gen

/-- The entries of a receive buffer, with those of a long packet that is not complete (spec/12_osust_links.md R386). -/
def rxUsed (x : Port) (b : Nat) : Nat :=
  ((nget [] x.rx b).map entriesOf).sum + (match x.partialRx.find? fun q => q.1 == b with | some q => entriesOf q.2.1 | none => 0)

/-- The OFF bits after the occupancy of a receive buffer changed (spec/12_osust_links.md R386). -/
def rxOff (x : Port) (b : Nat) : Port :=
  let k := rxUsed x b
  let on : Bool := k ≥ 512 || (bit x.ourOff (5 - b) && k > 256)
  { x with ourOff := setFld x.ourOff (5 - b) (5 - b) (b1 on) }

/-- The OFF bits after any receive buffer changed. A port in LPI holds its receive side OFF (spec/12_osust_links.md R384). -/
def rxOffAll (x : Port) : Port := if x.state = .lpi then x else (List.range 6).foldl rxOff x

/-- Every buffer of the device with the packets of earlier generations of a context discarded, without toll and without NACK
(R444). -/
def purge (s : State) (ctx : Nat) : State :=
  let gone := oldPacket ctx (genOf s ctx)
  let s1 := s.fab.buf.foldl (fun (s : State) (q : Nat × List Flight) =>
    let fs := q.2.filter fun f => !gone f.pkt
    if fs.length = q.2.length then s
    else
      let s1 := (q.2.filter fun f => gone f.pkt).foldl (fun (x : State) f => unreserve x f.pkt) s
      { s1 with fab := setBuf s1.fab q.1 (q.1 % 4) fs }) s
  let keep (m : NMap (List Packet)) : NMap (List Packet) :=
    (m.map fun q => (q.1, q.2.filter fun p => !gone p)).filter fun q => q.2 ≠ []
  { s1 with
    fab := { s1.fab with
      lanes := s1.fab.lanes.filter fun p => !gone p
      hub := s1.fab.hub.filter fun p => !gone p }
    ports := s1.ports.map fun q => (q.1, rxOffAll { q.2 with tx := keep q.2.tx, rx := keep q.2.rx })
    cores := s1.cores.map fun q => (q.1, { q.2 with arrived := q.2.arrived.filter fun p => !gone p }) }

/-- The fetched commands of a context, CONTEXT_RESET apart, completed with CONTEXT_RESET (R419 of
spec/13_host_interface.md). -/
def endCommands (s : State) (ctx : Nat) : State :=
  (s.hif.fetched.filter fun f => namesCtx f.manifest && mCtx f.manifest == ctx && mOp f.manifest != 3).foldl
    (fun s f => complete s f.handle stContextReset) s

/-- The other devices that a shard names: in its lists, its declared channels and its result streams (R447). -/
def peerDevices (s : State) (ctx : Nat) : List Nat :=
  let lists := (shardCores s ctx).flatMap fun n =>
    let c := getCore s n
    (inList c ++ outList c).map lDev ++ c.q.declared.map fun p => chPdev p.2
  let results := (resultsIn s ctx fun st => rDest st.desc == 1).map fun i => fld (getRes s i).desc 37 29
  ((lists ++ results).filter fun d => d != devNo s).eraseDups

/-- The reset notices of firmware to other devices: a BULK of kind 2 whose one flit holds the context, the new generation and the
sender's device (R447; assumption 42). -/
def resetNotices (s : State) (ctx : Nat) (devs : List Nat) : State :=
  let g := genOf s ctx
  hubSendAll s (devs.map fun d =>
    mkPkt 0xC 2 d 0x3FF 0 0 0 0 ctx g 0 2 5 0x2 [BitVec.ofNat 256 (devNo s * 2 ^ 16 + g * 2 ^ 8 + ctx)])

/-- The keep slots of a shard with no write in progress (spec/06_learning.md R223). -/
def stopKeep (s : State) (ctx : Nat) : State :=
  (shardCores s ctx).foldl (fun s n => [0, 1].foldl (fun s k =>
    let x := keepSlot s n k
    { s with nv := { s.nv with keep := nset {} s.nv.keep (keepKey s n k) { x with writing := false } } }) s) s

/-- Removal, generation and the first of the drain for a context (R444, R445). `state` is the state of the shard after. -/
def resetShard (s : State) (ctx : Nat) (state : ShardState) : State :=
  let devs := peerDevices s ctx
  let s1 := endCommands s ctx
  let s2 := modShard s1 ctx fun sh => { sh with
    state := state, gen := sh.gen + 1, waiters := [], stopAt := none, stopCmd := none, saving := none, restoring := none }
  let s3 := stopKeep (resetConvoys s2 ctx) ctx
  let s4 := modShardCores (resetResults (resetStreams s3 ctx) ctx) ctx fun _ c => removeWork (getShard s2 ctx).gen c
  resetNotices (purge s4 ctx) ctx devs

/-- A context reset begun for the commands given (R444). -/
def startReset (s : State) (ctx : Nat) (cmds : List Nat) : State :=
  modShard (resetShard s ctx .resetting) ctx fun sh => { sh with resetCmds := cmds }

/-- CONTEXT_RESET: a reset begins, or the command is merged into the one that runs (R444, R446). -/
def execContextReset (h : Nat) (s : State) : Host.Outcome State Fault Refusal :=
  .next (withCmd s h 0x03 fun s f =>
    let ctx := mCtx f.manifest
    if (getShard s ctx).state = .resetting then modShard (begun s h) ctx fun sh => { sh with resetCmds := sh.resetCmds ++ [h] }
    else startReset (begun s h) ctx [h])

/-- CONTEXT_RESET_DRAIN_DONE: the last packets of the old generation are gone; the shard is STOPPED and the commands complete with
the new generation (R444). -/
def execContextResetDrainDone (ctx : Nat) (s : State) : Host.Outcome State Fault Refusal :=
  let sh := getShard s ctx
  if sh.state ≠ .resetting then .next s
  else
    let s1 := setShard (purge s ctx) ctx { sh with state := .stopped, resetCmds := [] }
    .next (sh.resetCmds.foldl (fun s h => complete s h stOk sh.gen.toNat) s1)

/-! ### START (R440) -/

/-- A seed xor a constant, or 1 for 0 (spec/02_narrow_arithmetic.md R78; spec/06_learning.md R217). -/
def seedXor (x k : Word) : Word := if x ^^^ k = 0 then 1 else x ^^^ k

/-- The sidecar at START: XLAST 0xFF, and every field but L clear (spec/06_learning.md R197). -/
def startSidecar (c : Core) : List Host.Cell :=
  (c.ldm.filter fun p => p.1 < 0x3C000) ++
    ((List.range 0x1000).flatMap fun i =>
      if ldmGet c (sideAddr i) 1 % 2 = 1 then [(sideAddr i, (1 : Byte)), (sideAddr i + 1, (0xFF : Byte))]
      else [(sideAddr i + 1, (0xFF : Byte))]) ++
    c.ldm.filter fun p => 0x3E000 ≤ p.1

/-- The state words at START: LAST 0xFF and the four flags 0 in every slot (spec/03_neuron_model.md R84). -/
def startWords (c : Core) : NMap (BitVec 64) :=
  (c.nrn.words.map fun p => (p.1, setFld (setFld p.2 39 36 0) 31 24 0xFF)).filter fun p => p.2 ≠ 0xFF000000

/-- A core at START (R440; spec/03_neuron_model.md R84; spec/04_step_time.md R114, R136, R137; spec/08_handler_unit.md
R260). No event of an earlier run stands in its ring or pen: DEDUCED (71). Where CTX_SEED xor the core's term is 0, the seed_core of the
handler's and the learning LFSR is the 1 that the core uses in its place (spec/02_narrow_arithmetic.md R76, R78): DESIGN
CHOICE (85). -/
def startCore (sh : Shard) (dev n : Nat) (c : Core) : Core :=
  let seed := seedCore sh.seed dev n
  let w := c.st.w.toNat
  { c with
    st := { c.st with
      step := 0, phase := .waiting, c := 0xFFFFFFFF, rg := []
      cr := nsetList 0 [] 0 (List.replicate w c.st.outCount), g := BitVec.ofNat 32 (w + 2 ^ 32 - 1)
      released := 0xFFFFFFFF, runLimit := sh.limit, free := sh.free, forceHalt := false, haltStep := none, saveBarrier := none }
    nrn := { c.nrn with started := true, words := startWords c, accs := [], touch := [], lfsr := seed }
    syn := { c.syn with ring := [], setAside := [], pen := [], reads := [] }
    lrn := { c.lrn with lfsr := seedXor seed 0xA5A5A5A5 }
    hnd := { c.hnd with v := [], acc := [], flight := [], lfsr := seedXor seed 0x5A5A5A5A }
    ldm := startSidecar c }

/-- The shard started: cores, queues, streams, pace and the releases that are already due (R440; spec/16_timers.md R486). -/
def startShard (s : State) (ctx : Nat) (seed : Word) : State :=
  let s1 := modShard s ctx fun sh => { sh with
    state := .running, seed := seed, nextRel := 0, changes := [], stopAt := none, ranSince := true }
  let s2 := modShardCores s1 ctx (startCore (getShard s1 ctx) (devNo s))
  let s3 := startShardQueues s2 ctx
  let s4 := startResults (startStreams s3 ctx) ctx
  match nextRelease s4 ctx with
  | some k => sendRelease s4 ctx k
  | none => s4

/-- START (R440). -/
def execStart (h : Nat) (s : State) : Host.Outcome State Fault Refusal :=
  .next (withCmd s h 0x09 fun s f =>
    let ctx := mCtx f.manifest
    let sh := getShard s ctx
    if sh.state ≠ .stopped ∨ sh.sections = 0 ∨ (sh.paced ∧ !sh.pacedSet) then complete s h stBadState
    else complete (startShard s ctx (BitVec.ofNat 32 (mw f.manifest 0))) h stOk 0)

/-! ### Run limits and STOP (R434, R441; spec/04_step_time.md R141) -/

/-- The highest STEP of a shard. -/
def highStep (s : State) (ctx : Nat) : Word :=
  match (shardCores s ctx).map fun n => (getCore s n).st.step with
  | [] => 0
  | x :: xs => xs.foldl (fun a b => if stepLt a b then b else a) x

/-- The lowest STEP of a shard. -/
def lowStep (s : State) (ctx : Nat) : Word :=
  match (shardCores s ctx).map fun n => (getCore s n).st.step with
  | [] => 0
  | x :: xs => xs.foldl (fun a b => if stepLt b a then b else a) x

/-- Whether customs accepts the run limit and FREE from a master at a core: the command router stamps MID 0xC on them, firmware 0x2
(spec/01_device_organisation.md R39; spec/04_step_time.md R157). -/
def limitAccepted (s : State) (n mid : Nat) (limit : Word) : Bool :=
  (tileRefuses s n mid 0x114 limit).isNone && (tileRefuses s n mid 0x104 0).isNone

/-- A run limit and FREE written by a master to every core of a shard (spec/04_step_time.md R141). -/
def writeLimit (s : State) (ctx mid : Nat) (limit : Word) (free : Bool) : State :=
  modShardCores s ctx fun n c =>
    if limitAccepted s n mid limit then updHalt { c with st := { c.st with runLimit := limit, free := free } } else c

/-- Whether every core of a shard waits at a step. -/
def allWaitAt (s : State) (ctx : Nat) (limit : Word) : Bool :=
  (shardCores s ctx).all fun n => (getCore s n).st.phase == .waiting && (getCore s n).st.step == limit

/-- STEP_RUN: the limit and FREE reach every core; in a STOPPED shard they also stand at START, and a STOPPING shard holds the
command until STOP completes (R434, R440; spec/04_step_time.md R141). -/
def execStepRun (h : Nat) (s : State) : Host.Outcome State Fault Refusal :=
  .next (withCmd s h 0x10 fun s f =>
    let m := f.manifest
    let ctx := mCtx m
    let sh := getShard s ctx
    let l := BitVec.ofNat 32 (mw m 0)
    let free : Bool := mw m 1 % 2 = 1
    if sh.state = .stopping then s
    else
      let s1 := if sh.state = .stopped ∧ !f.taken then setShard s ctx { sh with limit := l, free := free } else s
      let s2 := writeLimit s1 ctx 0xC l free
      if mw m 1 / 2 % 2 = 1 then modShard (begun s2 h) ctx fun x => { x with waiters := x.waiters ++ [(h, l)] }
      else complete s2 h stOk (lowStep s2 ctx).toNat)

/-- STEP_RUN_WAIT_DONE: every core of the shard waits at STEP = L (spec/13_host_interface.md R421). -/
def execStepRunWaitDone (h : Nat) (s : State) : Host.Outcome State Fault Refusal :=
  match (s.shards.find? fun q => q.2.waiters.any fun w => w.1 == h) with
  | none => .next s
  | some (ctx, sh) =>
      match sh.waiters.find? fun w => w.1 == h with
      | none => .next s
      | some w =>
          if sh.state = .running ∧ allWaitAt s ctx w.2 then
            .next (complete (setShard s ctx { sh with waiters := sh.waiters.filter fun x => x.1 != h }) h stOk (lowStep s ctx).toNat)
          else .next s

/-- STOP: the limit H + 1 reaches every core (R441). -/
def execStop (h : Nat) (s : State) : Host.Outcome State Fault Refusal :=
  .next (withCmd s h 0x0A fun s f =>
    let ctx := mCtx f.manifest
    if (getShard s ctx).state ≠ .running then complete s h stBadState
    else
      let l := highStep s ctx + 1
      modShard (writeLimit (begun s h) ctx 2 l false) ctx fun sh => { sh with state := .stopping, stopAt := some l, stopCmd := some h })

/-- The queues of a core at the end of STOP: CONT, TALLY and INBOX queues are no longer OPEN (spec/09_queues_active_messages.md
R288; assumption 43). -/
def stopQueues (c : Core) : Core :=
  c.q.table.foldl (fun c p =>
    if qValid p.2 ∧ (qKind p.2 = 0 ∨ qKind p.2 = 3 ∨ qKind p.2 = 4) ∧ qState c p.1 = 1 then setQState c p.1 2 else c) c

/-- The run-time channels of a core close (R441; spec/09_queues_active_messages.md R299). -/
def closeChannels (s : State) (n : Nat) : State :=
  ((getCore s n).q.chans.filter fun p => !((getCore s n).q.declared.any fun q => q.1 == p.1)).foldl
    (fun s p => applyEff s n (closeStart (envOf s n) (getCore s n) p.1)) s

/-- The shard after its cores wait at H + 1: its releases halt with its state, and the timer keeps its time base
(R441; spec/06_learning.md R218; spec/16_timers.md R486, R492). DEDUCED (72). The cores go on waiting to open, PHASE 0, which
spec/04_step_time.md R157 does not say of a stopped shard: DESIGN CHOICE (90). -/
def stopShard (s : State) (ctx : Nat) (l : Word) : State :=
  let sh := getShard s ctx
  let s1 := stopResults (stopStreams s ctx) ctx
  let s2 := (shardCores s1 ctx).foldl closeChannels s1
  let s3 := modShardCores s2 ctx fun _ c => wakeWord (stopQueues (discardLearn c))
  let s4 := modShard s3 ctx fun x => { x with state := .stopped, waiters := [], stopAt := none, stopCmd := none }
  let s5 := sh.waiters.foldl (fun s w => complete s w.1 stOk (lowStep s ctx).toNat) s4
  match sh.stopCmd with
  | some h => complete s5 h stOk l.toNat
  | none => s5

/-- STOP_DONE: every core waits at H + 1, and no barrier holds one there (R441). -/
def execStopDone (ctx : Nat) (s : State) : Host.Outcome State Fault Refusal :=
  let sh := getShard s ctx
  match sh.stopAt with
  | none => .next s
  | some l =>
      if sh.state = .stopping ∧ allWaitAt s ctx l ∧ (shardCores s ctx).all (fun n => !barred (getCore s n) l) then
        .next (stopShard s ctx l)
      else .next s

/-- MODULATOR_SET (spec/06_learning.md R207; spec/13_host_interface.md R421). -/
def execModulatorSet (h : Nat) (s : State) : Host.Outcome State Fault Refusal :=
  .next (withCmd s h 0x12 fun s f =>
    let m := f.manifest
    complete (deliverMod s (mCtx m) (mw m 0 / 2 ^ 4 % 2 = 1) (mw m 0 % 16) (mw m 1)) h stOk)

/-! ### State access (R107, R108 of spec/03_neuron_model.md; R422 of spec/13_host_interface.md) -/

/-- The bytes of a state space (spec/13_host_interface.md R422). -/
def spaceSize (sp : Nat) : Nat :=
  match sp with
  | 0 => 65536
  | 1 => 32768
  | 2 => 8192
  | 3 => 2 ^ 20
  | 4 => 65536
  | 5 => 2 ^ 18
  | _ => 2 ^ 14

/-- The byte at which an index of a space begins. -/
def spaceFirst (sp i : Nat) : Nat :=
  match sp with
  | 0 => 8 * i
  | 1 => 4 * i
  | 3 => 64 * i
  | 4 => 16 * i
  | _ => i

/-- One byte of a state space of a core. -/
def spaceByte (s : State) (core sp a : Nat) : Byte :=
  let c := getCore s core
  match sp with
  | 0 => BitVec.ofNat 8 ((wordOf c (a / 8)).toNat / 256 ^ (a % 8))
  | 1 => BitVec.ofNat 8 (wrap 32 (accOf c (a / 4)) / 256 ^ (a % 4))
  | 2 => BitVec.ofNat 8 ((groupSet c (a / 128)).toNat / 256 ^ (a % 128))
  | 3 => BitVec.ofNat 8 ((nget 0 c.syn.rows (a / 64)).toNat / 256 ^ (a % 64))
  | 4 => BitVec.ofNat 8 ((descOf c (a / 16)).toNat / 256 ^ (a % 16))
  | 5 => nget 0 c.ldm a
  | _ => BitVec.ofNat 8 ((tileRead s core (a / 4 * 4)).toNat / 256 ^ (a % 4))

/-- Whether a core's state may be read or written now: between CLOSE of one step and INTEGRATE of the next, after the convoy actions
that commit there, or while it does not run (spec/03_neuron_model.md R107, R108; spec/04_step_time.md R119). -/
def atBoundary (c : Core) : Bool := (c.st.phase == .waiting && !unapplied c c.st.step) || c.st.phase == .notRunning

/-- STATE_READ (spec/03_neuron_model.md R107; spec/13_host_interface.md R422). On a stopped context, and before any step has closed,
RESULT is STEP - 1 too: DESIGN CHOICE (89). -/
def execStateRead (h : Nat) (s : State) : Host.Outcome State Fault Refusal :=
  .next (withCmd s h 0x38 fun s f =>
    let m := f.manifest
    let core := mTcore m
    let sp := mw m 0
    let a := spaceFirst sp (mw m 1)
    let c := getCore s core
    if a + mw m 2 > spaceSize sp then complete s h stAccess
    else if !atBoundary c then s
    else complete s h stOk (c.st.step - 1).toNat (replyEntries ((List.range (mw m 2)).map fun i => spaceByte s core sp (a + i))))

/-- A value with byte `k` replaced. -/
def setByte {n : Nat} (x : BitVec n) (k : Nat) (b : Byte) : BitVec n := setFld x (8 * k + 7) (8 * k) b.toNat

/-- A core with one byte of a state space written. -/
def writeSpace (c : Core) (sp a : Nat) (b : Byte) : Core :=
  match sp with
  | 0 => setWord c (a / 8) (setByte (wordOf c (a / 8)) (a % 8) b)
  | 1 => { c with nrn := setAcc c.nrn (a / 4) (signed 24 ((setByte (BitVec.ofNat 32 (wrap 32 (accOf c (a / 4)))) (a % 4) b).toNat % 2 ^ 24)) }
  | 2 => { c with nrn := { c.nrn with groups := nset 0 c.nrn.groups (a / 128) (setByte (groupSet c (a / 128)) (a % 128) b &&& groupRw) } }
  | 3 => { c with syn := { c.syn with rows := nset 0 c.syn.rows (a / 64) (setByte (nget 0 c.syn.rows (a / 64)) (a % 64) b) } }
  | 4 => setDesc c (a / 16) (setByte (descOf c (a / 16)) (a % 16) b)
  | _ => ldmPutByte c a b

/-- Whether a row entry or an open stream of a core addresses a companion slot (spec/03_neuron_model.md R86). -/
def hitsCompanion (s : State) (ctx n : Nat) (c : Core) : Bool :=
  ((rowDescs c).any fun p => (sources p.2).any fun i => (elemsOf s ctx c p.2 i).any fun e => companion c e.1) ||
    c.nrn.words.any fun p => companion c p.1 && anchorSlot s n p.1

/-- Whether the values that STATE_WRITE leaves break R56 or R86 on encodings (spec/02_narrow_arithmetic.md R56;
spec/03_neuron_model.md R86, R108): the state words written, the group sets, the descriptors, and the T2 rows on the lines. -/
def spaceBad (c : Core) (sp a n : Nat) : Bool :=
  match sp with
  | 0 => (List.range ((n + 7) / 8)).any fun i =>
      let k := a / 8 + i
      let w := wordOf c k
      let dn := gDnib (groupSet c (wGroup w))
      (dn && k % 2 == 1 && setFld w 45 40 0 != 0) || (!dn && fld w 35 32 != 0)
  | 2 => (List.range 64).any fun g => 128 * g < a + n && a < 128 * g + 128 && gDnib (groupSet c g) && scExp (gMscale (groupSet c g)) < -4
  | 3 => (rowDescs c).any fun p => dFmt p.2 == 3 && !dDepot p.2 && (sources p.2).any fun i =>
      rowLine p.2 i * 64 < a + n && a < (rowLine p.2 i + denseLines p.2) * 64 &&
        (rowCycles p.2 (rowOf c p.2 i) i).flatten.any fun e => e.2 == 3
  | 4 => (List.range ((n + 15) / 16)).any fun i =>
      let d := descOf c (a / 16 + i)
      (dFmt d == 1 && dZero d > 3) || ((dFmt d == 2 || dFmt d == 3) && dZero d != 0) ||
        (dFmt d == 3 && !dDepot d && (sources d).any fun j => (rowCycles d (rowOf c d j) j).flatten.any fun e => e.2 == 3)
  | _ => false

/-- STATE_WRITE (spec/03_neuron_model.md R89, R108; spec/13_host_interface.md R422). A range outside its space completes as a
read of it does. -/
def execStateWrite (h : Nat) (s : State) : Host.Outcome State Fault Refusal :=
  .next (withCmd s h 0x39 fun s f =>
    let m := f.manifest
    let core := mTcore m
    let sp := mw m 0
    let n := mw m 2
    let a := spaceFirst sp (mw m 1)
    let c := getCore s core
    if a + n > spaceSize sp then complete s h stAccess
    else if (getShard s (mCtx m)).state ≠ .stopped ∧ sp ≠ 0 then complete s h stBadState
    else if !atBoundary c then s
    else
      let c0 := ((linesBytes f.bales).take n).zipIdx.foldl (fun c x => writeSpace c sp (a + x.2) x.1) c
      let c1 := if sp = 4 then syncGset c0 else c0
      if spaceBad c1 sp a n || (sp != 1 && sp != 5 && hitsCompanion s (mCtx m) core c1) then complete s h stDoesNotFit
      else complete (setCore s core (wakeWord c1)) h stOk (c.st.step - 1).toNat)

/-! ### The weight keep (R222-R227 of spec/06_learning.md) -/

/-- The learned descriptors of a core in ascending DIDX. -/
def learnedDescs (c : Core) : List (Nat × BitVec 128) := (rowDescs c).filter fun p => dLrn p.2

/-- The depot writes of a core that are still on their way, in the order in which they reach the channels: those at the lanes, then
those in the buffers of its column, the farthest from the core first (spec/01_device_organisation.md R25). -/
def writesUnderway (s : State) (ctx n : Nat) : List Packet :=
  let mine (p : Packet) : Bool := typ p == 0xB && pctx p == ctx && dcore p == n
  let here := (tileOf s n).getD 0 / 34
  let far (q : Nat × List Flight) : Nat := let r := q.1 / 32 / 34; if r ≤ here then here - r else r - here
  let bufs := (s.fab.buf.filter fun q => q.2.any fun f => mine f.pkt).mergeSort fun a b => far b ≤ far a
  (s.fab.lanes ++ bufs.flatMap fun q => q.2.map fun f => f.pkt).filter mine

/-- The state as the depot will stand once a core's writes have landed. -/
def landed (s : State) (ctx n : Nat) : State :=
  { s with dep := (writesUnderway s ctx n).foldl (fun d p =>
      depotPut d (pctx p) (span p ≥ 16) (srcOf p) (flitLines p.flits)) s.dep }

/-- The image of a core: its learned lines in ascending DIDX, each row's lines in order, as they stand (R222). -/
def keepImage (s : State) (ctx n : Nat) : List Line :=
  let c := getCore s n
  (learnedDescs c).flatMap fun p => linesOf (landed s ctx n) ctx c p.2 0

/-- LAYOUT: the first 128 bits of a digest of the measurement and of DIDX, FMT, DEPOT and line count of every learned descriptor
(R222; assumption 44). -/
def keepLayout (s : State) (ctx n : Nat) : BitVec 128 :=
  let c := getCore s n
  let parts := (learnedDescs c).flatMap fun p =>
    bytesOf 2 p.1 ++ bytesOf 1 (dFmt p.2) ++ bytesOf 1 (b1 (dDepot p.2)) ++ bytesOf 2 (linesOf s ctx c p.2 0).length
  (Config.sha384 (bytesOf 48 (getShard s ctx).measure.toNat ++ parts)).extractLsb' 0 128

/-- The cores of a shard that hold learned lines. -/
def keepCores (s : State) (ctx : Nat) : List Nat := (shardCores s ctx).filter fun n => !(learnedDescs (getCore s n)).isEmpty

/-- The sequence numbers committed in a core's two slots. -/
def keepSeqs (s : State) (n : Nat) : List Nat :=
  ([0, 1].filter fun k => keepCommitted s (keepSlot s n k)).map fun k => fld (keepSlot s n k).marker 63 48

/-- Nc: the newest sequence committed in every core that holds learned lines, modulo 2^16 (R223). -/
def keepCommon (s : State) (ctx : Nat) : Option Nat :=
  match keepCores s ctx with
  | [] => none
  | n :: ns =>
      ((keepSeqs s n).filter fun q => ns.all fun k => (keepSeqs s k).contains q).foldl (fun a q => match a with
        | none => some q
        | some b => if (q + 2 ^ 16 - b) % 2 ^ 16 < 2 ^ 15 then some q else some b) none

/-- The committed slot of a core with a sequence number. -/
def slotWith (s : State) (n : Nat) (q : Nat) : Option Nat :=
  [0, 1].find? fun k => keepCommitted s (keepSlot s n k) && fld (keepSlot s n k).marker 63 48 == q

/-- The slot of a core that a save writes: the one that does not hold Nc (R223); slot A where none does (assumption 45). -/
def saveSlot (s : State) (ctx n : Nat) : Nat :=
  match (keepCommon s ctx).bind (slotWith s n) with
  | some k => 1 - k
  | none => 0

/-- The state with a keep slot of a core replaced. -/
def setKeep (s : State) (n k : Nat) (x : KeepSlot) : State :=
  { s with nv := { s.nv with keep := nset {} s.nv.keep (keepKey s n k) x } }

/-- Whether a keep command may run at the step that it names: the device is in S0; a stopped shard names none, and a running one a
step that no core has passed (R224, R226, R227; assumption 46). -/
def keepMay (s : State) (m : Line) : Bool :=
  let named : Bool := mw m 0 % 2 = 1
  let sh := getShard s (mCtx m)
  s.pwr.state == .s0 && (if sh.state = .stopped then !named else
    named && (shardCores s (mCtx m)).all fun n =>
      let c := getCore s n
      let b := BitVec.ofNat 32 (mw m 1) + 1
      stepLt c.st.step b || (c.st.step == b && c.st.phase == .waiting))

/-- A save barrier before INTEGRATE of the step after the one named, on every core of a running shard (R224). -/
def holdSave (s : State) (m : Line) : State :=
  if (getShard s (mCtx m)).state = .stopped then s
  else modShardCores s (mCtx m) fun _ c => { c with st := { c.st with saveBarrier := some (BitVec.ofNat 32 (mw m 1) + 1) } }

/-- The step at which the barrier of a keep command holds; none on a stopped shard. -/
def keepStep (s : State) (m : Line) : Option Word :=
  if (getShard s (mCtx m)).state = .stopped then none else some (BitVec.ofNat 32 (mw m 1) + 1)

/-- Whether a core of a shard that saves stands at the step where its image is taken: the close of the named step, or any time on a
stopped shard (R224). -/
def atSave (c : Core) (b : Option Word) : Bool :=
  match b with | none => true | some l => c.st.phase == .waiting && c.st.step == l

/-- A core whose shard saves begins to write its image, the learned weights as they stand now, into the slot that does not hold Nc,
which holds no committed image from then on (R223, R224). -/
def beginImage (s : State) (ctx n : Nat) : State :=
  let k := saveSlot s ctx n
  let x := keepSlot s n k
  setKeep s n k { image := keepImage s ctx n, key := s.nv.keyEpoch, marker := setFld x.marker 0 0 0, writing := true }

/-- The cores among some whose image is due, written. -/
def beginImages (s : State) (ctx : Nat) (ns : List Nat) (b : Option Word) : State :=
  (ns.filter fun n => atSave (getCore s n) b && !(learnedDescs (getCore s n)).isEmpty &&
    !(keepSlot s n 0).writing && !(keepSlot s n 1).writing).foldl (fun s n => beginImage s ctx n) s

/-- WEIGHT_SAVE: the next sequence number and the barrier. A core that stands at the step named, or whose shard is stopped, writes
its image now; every other at the close of that step (R223, R224). -/
def execWeightSave (h : Nat) (s : State) : Host.Outcome State Fault Refusal :=
  .next (withCmd s h 0x30 fun s f =>
    let m := f.manifest
    let ctx := mCtx m
    if !keepMay s m then complete s h stBadState
    else
      let seq := s.nv.saveSeq + 1
      let s1 := holdSave (begun s h) m
      let s2 := modShard { s1 with nv := { s1.nv with saveSeq := seq } } ctx fun sh => { sh with saving := some (h, seq, keepStep s m) }
      beginImages s2 ctx (shardCores s2 ctx) (keepStep s m))

/-- CLOSE_END (spec/04_step_time.md R114): the step closes, and a core that holds a save barrier there writes its image (R224). -/
def execCloseEnd (core : Nat) (s : State) : Host.Outcome State Fault Refusal :=
  let c := getCore s core
  if c.st.phase = .close then
    let s1 := applyEff s core (endClose (envOf s core) c)
    match (getShard s1 c.ctx).saving with
    | some (_, _, b) => .next (beginImages s1 c.ctx [core] b)
    | none => .next s1
  else .next s

/-- The marker of an image, with its tag under the keep key (R222). -/
def mkMarker (s : State) (ctx n : Nat) (seq : BitVec 16) (image : List Line) : BitVec 512 :=
  let low : BitVec 384 := keepLayout s ctx n ++
    BitVec.ofNat 256 (seq.toNat * 2 ^ 48 + ctx * 2 ^ 42 + image.length % 2 ^ 13 * 2 ^ 29 + 1)
  Config.keepTag s.nv.keyEpoch image low ++ low

/-- Whether every core of a shard stands at the barrier of a keep command. -/
def keepReady (s : State) (ctx : Nat) (b : Option Word) : Bool :=
  match b with | none => true | some l => allWaitAt s ctx l

/-- The save barriers of a shard released. -/
def freeSave (s : State) (ctx : Nat) : State :=
  modShardCores s ctx fun _ c => updHalt { c with st := { c.st with saveBarrier := none } }

/-- The marker written last into a slot of a core whose image is in place, with COMMIT (R223). -/
def commitImage (s : State) (ctx n : Nat) (seq : BitVec 16) : State :=
  [0, 1].foldl (fun s k =>
    let x := keepSlot s n k
    if x.writing then setKeep s n k { x with marker := mkMarker s ctx n seq x.image, writing := false } else s) s

/-- WEIGHT_SAVE_DONE: each core's image is in its slot and then its marker; the barrier is released and the command completes with
the sequence number (R223-R225). -/
def execWeightSaveDone (ctx : Nat) (s : State) : Host.Outcome State Fault Refusal :=
  match (getShard s ctx).saving with
  | none => .next s
  | some (h, seq, b) =>
      if !keepReady s ctx b then .next s
      else
        let s1 := (keepCores s ctx).foldl (fun x n => commitImage x ctx n seq) s
        .next (complete (freeSave (modShard s1 ctx fun sh => { sh with
          saving := none, ranSince := sh.ranSince && b.isSome }) ctx) h stOk seq.toNat)

/-- Whether a core's slot fits the context as it is loaded (R226). -/
def keepFits (s : State) (ctx n q : Nat) : Bool :=
  match slotWith s n q with
  | none => false
  | some k =>
      let m := (keepSlot s n k).marker
      fld m 47 42 == ctx && fld m 41 29 == (keepImage s ctx n).length % 2 ^ 13 && m.extractLsb' 256 128 == keepLayout s ctx n

/-- WEIGHT_RESTORE: the newest common sequence is checked on every core, and the restore begins (R226). -/
def execWeightRestore (h : Nat) (s : State) : Host.Outcome State Fault Refusal :=
  .next (withCmd s h 0x31 fun s f =>
    let m := f.manifest
    let ctx := mCtx m
    match (if keepMay s m then keepCommon s ctx else none) with
    | none => complete s h stBadState
    | some q =>
        if !(keepCores s ctx).all fun n => keepFits s ctx n q then complete s h stBadState
        else modShard (holdSave (begun s h) m) ctx fun sh => { sh with restoring := some (h, BitVec.ofNat 16 q, keepStep s m) })

/-- The rows of an image: each learned descriptor with its lines. -/
def imageRows (s : State) (ctx : Nat) (c : Core) : List Line → List (Nat × BitVec 128) → List (Nat × BitVec 128 × List Line)
  | _, [] => []
  | ls, p :: ps =>
      let k := (linesOf s ctx c p.2 0).length
      (p.1, p.2, ls.take k) :: imageRows s ctx c (ls.drop k) ps

/-- An image written back to the rows of a core: into the row store, and as a commit does through the outrider into the depot, which
replaces the copies that its buffer holds or awaits (R216, R226). -/
def putImage (v : Env) (c : Core) (rows : List (Nat × BitVec 128 × List Line)) : Eff :=
  let c1 := rows.foldl (fun c r =>
    if dDepot r.2.1 then { c with lrn := { c.lrn with
      depotOut := (c.lrn.depotOut.filter fun p => p.1 != r.1) ++ [(r.1, r.2.2)] } }
    else { c with syn := { c.syn with rows := nsetList 0 c.syn.rows (rowLine r.2.1 0) r.2.2 } }) c
  commitLearn v c1

/-- A core's rows restored from its committed slot with a sequence number (R226). -/
def restoreCore (s : State) (ctx n q : Nat) : State :=
  match slotWith s n q with
  | none => s
  | some k =>
      let c := getCore s n
      applyEff s n (putImage (envOf s n) c (imageRows s ctx c (keepOpen s.nv.keyEpoch (keepSlot s n k)) (learnedDescs c)))

/-- WEIGHT_RESTORE_DONE: every core's lines stand as the image holds them; the barrier is released and the command completes with
the sequence number (R226). -/
def execWeightRestoreDone (ctx : Nat) (s : State) : Host.Outcome State Fault Refusal :=
  match (getShard s ctx).restoring with
  | none => .next s
  | some (h, q, b) =>
      if !keepReady s ctx b then .next s
      else
        let s1 := (keepCores s ctx).foldl (fun x n => restoreCore x ctx n q.toNat) s
        .next (complete (freeSave (modShard s1 ctx fun sh => { sh with restoring := none }) ctx) h stOk q.toNat)

/-! ### Command timeouts (R418 of spec/13_host_interface.md) -/

/-- Whether a command has started for its timer: a COMMIT that has not passed its all-or-none point has not. -/
def hasStarted (f : Fetched) : Bool :=
  f.begun || (f.taken && !(mOp f.manifest == 0x08 && mw f.manifest 0 == 1))

/-- The progress that RESULT holds at a timeout: the tiles tested of a BIST_RUN. -/
def progressOf (s : State) (f : Fetched) : Nat := if mOp f.manifest = 0x48 ∧ f.begun then s.bst.tiles.toNat else 0

/-- COMMAND_TIMEOUT: a command that has not started never runs; the completion of any other is given now and suppressed later. With
RESET_ON_TIMEOUT its context is reset (spec/13_host_interface.md R418; R444). -/
def execCommandTimeout (h : Nat) (s : State) : Host.Outcome State Fault Refusal :=
  match findCmd s h with
  | none => .next s
  | some f =>
      if f.held ∨ mTimeout f.manifest = 31 then .next s
      else
        let s1 :=
          if hasStarted f then modCmd (answer s f stTimeout (progressOf s f) [0]) h fun x => { x with held := true }
          else complete s h stTimeout
        let st := (getShard s1 (mCtx f.manifest)).state
        if mReset f.manifest ∧ namesCtx f.manifest ∧ st ≠ .free ∧ st ≠ .resetting then .next (startReset s1 (mCtx f.manifest) [])
        else .next s1

end Sys2Proof.Machine
end

