-- ==== Sys2Proof/Machine/Links.lean ====
section
/-! DEFINITION. The Osust ports: frames, retry, training and states, transit, and the front-end profile
(spec/12_osust_links.md R375-R403). -/

namespace Sys2Proof.Machine

/-! ### Frames (R378-R381) -/

/-- The CRC of a frame: over its header, its controls and its slots, from bit 0 upward (R378, R380). -/
def frameCrc (f : Frame) : Word :=
  crc32c ((48, f.hdr.toNat) :: (f.ctls.map fun c => (16, c.toNat)) ++ f.slots.map fun d => (256, d.toNat))

/-! ### Lanes and their code (R379) -/

/-- A frame as the number whose bit b is logical bit b (R378). -/
def frameNat (f : Frame) : Nat :=
  f.hdr.toNat + 2 ^ 48 * packLanes 16 (f.ctls.map BitVec.toNat) + 2 ^ 448 * packLanes 256 (f.slots.map BitVec.toNat) +
    2 ^ 6848 * f.crc.toNat

/-- The frame of 25 slots whose logical bits a number holds (R378). -/
def frameOf (n : Nat) : Frame :=
  { hdr := BitVec.ofNat 48 n
    ctls := (List.range 25).map fun j => BitVec.ofNat 16 (n / 2 ^ (48 + 16 * j))
    slots := (List.range 25).map fun j => BitVec.ofNat 256 (n / 2 ^ (448 + 256 * j))
    crc := BitVec.ofNat 32 (n / 2 ^ 6848) }

/-- The data bits of lane `l`: bit j is logical bit 16 j + l (R379). -/
def laneData (n l : Nat) : Nat := packLanes 1 ((List.range 430).map fun j => b1 (n.testBit (16 * j + l)))

/-- The number whose logical bits sixteen lanes' data bits give (R379). -/
def lanesNat (ds : List Nat) : Nat := packLanes 16 ((List.range 430).map fun j => packLanes 1 (ds.map fun d => b1 (d.testBit j)))

/-- x times an element of GF(2^9) under x^9 + x^4 + 1 (R379). -/
def gfX (a : Nat) : Nat := if a ≥ 256 then (2 * a) ^^^ 0x211 else 2 * a

/-- The product of two elements of GF(2^9). -/
def gfMul (a b : Nat) : Nat := (List.range 9).foldr (fun i r => gfX r ^^^ if a.testBit i then b else 0) 0

/-- The `n`-th power of x in GF(2^9). -/
def gfPow : Nat → Nat
  | 0 => 1
  | n + 1 => gfX (gfPow n)

/-- The third power of an element. -/
def gfCube (a : Nat) : Nat := gfMul a (gfMul a a)

/-- The 18 parity bits of a lane's data bits, the remainder of the code's generator polynomial, the product of the minimal
polynomials x^9 + x^4 + 1 and x^9 + x^6 + x^4 + x^3 + 1 (R379). The bit sent first is the coefficient of the highest power: DEDUCED
(100). -/
def laneParity (d : Nat) : Nat :=
  (List.range 430).foldl (fun r j =>
    let fed := r.testBit 17 != d.testBit j
    (2 * r) % 2 ^ 18 ^^^ if fed then 0x095C9 else 0) 0

/-- A lane of a frame: its data bits, then its parity bits, in the order in which they are sent (R379). -/
def laneWord (d : Nat) : BitVec 448 :=
  let r := laneParity d
  BitVec.ofNat 448 (d % 2 ^ 430 + 2 ^ 430 * packLanes 1 ((List.range 18).map fun k => b1 (r.testBit (17 - k))))

/-- What the sixteen lanes carry for a frame (R379). -/
def lanesOf (f : Frame) : List (BitVec 448) := (List.range 16).map fun l => laneWord (laneData (frameNat f) l)

/-- The syndromes of a lane's bits at x and at the third power of x. -/
def syndromes (w : BitVec 448) : Nat × Nat :=
  (List.range 448).foldl (fun a i =>
    let c := b1 (bit w i)
    (gfX a.1 ^^^ c, gfX (gfX (gfX a.2)) ^^^ c)) (0, 0)

/-- The bits of a lane that are wrong, given its syndromes: none, one or two positions, or none that at most two wrong bits would
give (R379). -/
def wrongBits (s1 s3 : Nat) : Option (List Nat) :=
  let pows := (List.range 448).map gfPow
  if s1 = 0 ∧ s3 = 0 then some []
  else match pows.findIdx? fun x => x = s1 ∧ gfCube x = s3 with
    | some d => some [447 - d]
    | none =>
        match pows.findIdx? fun x => x != s1 && gfCube x ^^^ gfCube (x ^^^ s1) == s3 && pows.contains (x ^^^ s1) with
        | some d => (pows.findIdx? fun y => y = gfPow d ^^^ s1).map fun e => [447 - d, 447 - e]
        | none => none

/-- A lane decoded: its data bits, and whether bits were corrected; none when it is uncorrectable (R379). -/
def laneDecode (w : BitVec 448) : Option (Nat × Bool) :=
  let s := syndromes w
  (wrongBits s.1 s.2).map fun es => ((w ^^^ BitVec.ofNat 448 ((es.map fun e => 2 ^ e).sum)).toNat % 2 ^ 430, !es.isEmpty)

/-- The lanes of a received frame that are uncorrectable (R380, R382). -/
def badLanes (r : RxFrame) : List Nat := (List.range 16).filter fun l => ((r.lanes[l]?).bind laneDecode).isNone

/-- Whether bits of a received frame were corrected (R403). -/
def laneFixed (r : RxFrame) : Bool := r.lanes.any fun w => match laneDecode w with | some (_, c) => c | none => false

/-- The frame that the lanes brought, when it is good: every lane decodes and the CRC matches (R380). -/
def goodFrame (r : RxFrame) : Option Frame :=
  let ds := ((List.range 16).filterMap fun l => (r.lanes[l]?).bind laneDecode).map Prod.fst
  let f := frameOf (lanesNat ds)
  if (badLanes r).isEmpty && f.crc == frameCrc f then some f else none

/-! ### Headers and slots (R378) -/

/-- SEQ of a header (R378). -/
def hSeq (h : BitVec 48) : BitVec 12 := h.extractLsb' 36 12
/-- ACK. -/
def hAck (h : BitVec 48) : BitVec 12 := h.extractLsb' 24 12
/-- NAK. -/
def hNak (h : BitVec 48) : Bool := bit h 23
/-- OFF. -/
def hOff (h : BitVec 48) : BitVec 6 := h.extractLsb' 17 6
/-- RESET. -/
def hReset (h : BitVec 48) : Bool := bit h 16
/-- WAKE. -/
def hWake (h : BitVec 48) : Bool := bit h 15
/-- IDLE. -/
def hIdle (h : BitVec 48) : Bool := bit h 14

/-- The bit of an OFF field for a buffer number: [22] of the header is VC-H class 0 (R378). -/
def offBit (off : BitVec 6) (b : Nat) : Bool := bit off (5 - b)

/-- Whether the die behind the ports runs: in S2, S3 and S4 it does not, and in their headers the ports set RESET (R398, R399). -/
def dieRuns (s : State) : Bool := s.pwr.state == .s0 || s.pwr.state == .s1

/-- Whether the die behind a port is in compute reset, or does not run: its headers carry RESET and arriving packets are answered
with LINK_DOWN (R398, R399). A compute reset lasts at a port until the next frame that it sends: DESIGN CHOICE (56). -/
def dieStops (s : State) (x : Port) : Bool := !dieRuns s || x.inReset

/-- Whether a port asks its peer to leave LPI: a slot waits in its transmit buffers while the port is in LPI, or while the peer holds
every buffer OFF, as a port in LPI does (R378, R384, R399). DEDUCED (99). -/
def raisesWake (x : Port) : Bool := (x.state == .lpi || x.peerOff == 0x3F) && x.tx.any fun q => !q.2.isEmpty

/-- The header of a frame that a port sends now (R378, R381, R398, R399). -/
def mkHdr (s : State) (x : Port) (seq : BitVec 12) (idle : Bool) : BitVec 48 :=
  seq ++ x.lastGood ++ BitVec.ofBool x.sendNak ++ x.ourOff ++ BitVec.ofBool (dieStops s x) ++ BitVec.ofBool (raisesWake x) ++
    BitVec.ofBool idle ++ (0 : BitVec 14)

/-- A frame of 25 slots from the slots in use (R378). -/
def mkFrame (hdr : BitVec 48) (us : List (BitVec 16 × BitVec 256)) : Frame :=
  let fill := List.replicate (25 - us.length) ((0 : BitVec 16), (0 : BitVec 256))
  let f : Frame := { hdr := hdr, ctls := (us ++ fill).map Prod.fst, slots := (us ++ fill).map Prod.snd, crc := 0 }
  { f with crc := frameCrc f }

/-- A slot control (R378). -/
def mkCtl (slot : Nat) (last : Bool) (lo : Packet) (up : Option Packet) : BitVec 16 :=
  let u : Nat := match up with
    | some q => 2 ^ 12 + vcOf q * 2 ^ 5 + q.cls.toNat * 2 ^ 2 + b1 q.dc
    | none => 0
  BitVec.ofNat 16 (slot * 2 ^ 14 + b1 last * 2 ^ 13 + vcOf lo * 2 ^ 10 + lo.cls.toNat * 2 ^ 7 + b1 lo.dc * 2 + u)

/-- The slots of a long packet: its head, then its flits (R350). -/
def longUnits (p : Packet) : List (BitVec 16 × BitVec 256) :=
  (mkCtl 2 false p none, p.head.setWidth 256) ::
    p.flits.zipIdx.map fun f => (mkCtl 3 (f.2 + 1 == p.flits.length) p none, f.1)

/-- The slots of a list of packets: two neighbouring short packets share one (R350). -/
def packSlots : List Packet → List (BitVec 16 × BitVec 256)
  | [] => []
  | [p] => if p.flits = [] then [(mkCtl 1 false p none, p.head.setWidth 256)] else longUnits p
  | p :: q :: r =>
      if p.flits = [] then
        if q.flits = [] then (mkCtl 1 false p (some q), q.head ++ p.head) :: packSlots r
        else (mkCtl 1 false p none, p.head.setWidth 256) :: packSlots (q :: r)
      else longUnits p ++ packSlots (q :: r)

/-- The packets at the head of a buffer that still fit a frame, added to those taken (R378). -/
def takeFit (acc : List Packet) : List Packet → List Packet × List Packet
  | [] => (acc, [])
  | p :: ps => if (packSlots (acc ++ [p])).length ≤ 25 then takeFit (acc ++ [p]) ps else (acc, p :: ps)

/-- The new packets of the next frame and the transmit buffers without them: the buffers in the rank of their VCs, class 0
first, each that the peer does not hold OFF (R352 of spec/11_fabric_tolls.md; R386; assumption 49). -/
def takeNew (x : Port) : List Packet × NMap (List Packet) :=
  (List.range 6).foldl (fun a b =>
    if offBit x.peerOff b then a
    else let r := takeFit a.1 (nget [] a.2 b); (r.1, nset [] a.2 b r.2)) ([], x.tx)

/-- A frame leaves on the sixteen lanes (R378, R379). -/
def onLine (x : Port) (f : Frame) : Port := { x with lastTx := some f, line := lanesOf f, inReset := false }

/-- The idle frame of a port (R378, R381). -/
def sendIdle (s : State) (x : Port) : Port := onLine x (mkFrame (mkHdr s x 0 true) [])

/-- The frame that an ACTIVE port sends: the first unacknowledged frame that a replay owes, a new data frame while the retry buffer
has room, or an idle frame (R378, R381). -/
def sendFrame (s : State) (x : Port) : Port :=
  match x.retry.find? fun f => !f.sent with
  | some f =>
      let g := mkFrame (mkHdr s x f.seq false) (f.frame.ctls.zip f.frame.slots)
      { onLine x g with
        replay := satAdd x.replay 1
        retry := x.retry.map fun y => if y.seq = f.seq then { y with sent := true, replays := y.replays + 1 } else y }
  | none =>
      let (ps, tx) := takeNew x
      if ps = [] ∨ x.retry.length ≥ 128 then sendIdle s x
      else
        let g := mkFrame (mkHdr s x x.nextSeq false) (packSlots ps)
        { onLine x g with
          nextSeq := x.nextSeq + 1, tx := tx
          retry := x.retry ++ [{ seq := x.nextSeq, frame := g, packets := ps }] }

/-- A port that leaves LPI deskews again; its receive side stands as its buffers do (R384, R399). -/
def leavePortLpi (x : Port) : Port := if x.state = .lpi then rxOffAll { x with state := .align } else x

/-- LINK_FRAME_TRANSMIT (R378, R381, R384). A port of a device in compute reset sends an idle frame with RESET (R398); one in LPI for
which a slot waits raises WAKE and leaves LPI (R399). -/
def execLinkFrameTransmit (port : Nat) (s : State) : Host.Outcome State Fault Refusal :=
  let x := getPort s port
  if port < 6 ∧ x.state = .active then .next (setPort s port (if x.inReset then sendIdle s x else sendFrame s x))
  else if port < 6 ∧ x.state = .lpi ∧ raisesWake x then .next (setPort s port (leavePortLpi (sendIdle s x)))
  else .next s

/-! ### Port states (R384, R394, R396) -/

/-- The link layer of a port as it stands before training (R381, R386; assumption 47). The packets in the receive buffers stay. -/
def linkClear (x : Port) : Port :=
  { x with
    peerReset := false, inReset := false, nextSeq := 1, lastGood := 0, sendNak := false, nakTaken := none, peerOff := 0
    retry := [], tx := [], reserved := [], laneUe := [], partialRx := [], retraining := false }

/-- REACHABLE for the present port states, once the route book is built (R393; spec/11_fabric_tolls.md R372). -/
def bookReach (s : State) : State :=
  if !s.fab.rbBuilt then s
  else
    let ok (d : Nat) : Bool := inShape s.shape d && match shapePort s.shape (devNo s) d with
      | none => true
      | some p => (getPort s p).state == .active
    { s with fab := { s.fab with reachable := (List.range 512).filter ok } }

/-- The attachment tile at which a port returns a packet (R390, R394; spec/01_device_organisation.md R16). -/
def returnTile (port : Nat) (p : Packet) : Nat :=
  portTile port ((if p.mid = 0xB then (returnTo p).2.1 else dcore p) / 32)

/-- A packet returned at a port with LINK_DOWN (R394). -/
def returnDown (s : State) (port : Nat) (p : Packet) : State :=
  returnPkt (modPort s port fun x => if vcOf p = 0 then x else { x with ldnack := satAdd x.ldnack 1 }) (returnTile port p) p stLinkDown

/-- LINK_DOWN notices to the contexts with a peer device whose route leaves by the port (R443 of
spec/14_contexts_recovery.md). -/
def downNotices (s : State) (port : Nat) : State :=
  (ctxsIn s fun sh => sh.state != .free).foldl (fun s c =>
    ((peerDevices s c).filter fun d => ((fePort s d).or (shapePort s.shape (devNo s) d)) == some port).foldl (fun s d =>
      notice s c { status := stLinkDown, result := BitVec.ofNat 32 port, payload := BitVec.ofNat 96 d }) s) s

/-- The devices with members of a convoy that this device reaches by a port. -/
def beyondPort (s : State) (port : Nat) (c : Convoy) : List Nat :=
  ((c.members.map Prod.fst).eraseDups).filter fun d => d != devNo s && shapePort s.shape (devNo s) d == some port

/-- What a port that enters DOWN means to the convoys: every device beyond it is lost to a convoy whose PREPARE or COMMIT is under way,
with LINK_DOWN (spec/10_convoys.md R341, R342). -/
def convoysLose (s : State) (port : Nat) : State :=
  s.convoys.foldl (fun s c =>
    if c.phase = .preparing ∨ c.phase = .committing then
      (beyondPort s port c).foldl (fun s d => loseDevice s [c.tag] d stLinkDown) s
    else s) s

/-- What a port that enters DOWN reports: the peer's removal to the convoys, then the devices beyond it, and the notices of the
contexts (R397; spec/10_convoys.md R341, R342). -/
def downReports (s : State) (port : Nat) (removed : Bool) : State :=
  let s1 := if removed then loseDevice s (s.convoys.map Convoy.tag) (getPort s port).peerDev.toNat stDeviceRemoved else s
  downNotices (convoysLose s1 port) port

/-- A port taken to a state in which it returns packets: DOWN, MISWIRED or DISABLED. What waits in its frames and transmit buffers
is returned (R394, R396; assumption 47). -/
def loseLink (s : State) (port : Nat) (st : PortState) (removed : Bool) : State :=
  let x := getPort s port
  let ps := x.retry.flatMap (fun f => f.packets) ++ x.tx.flatMap Prod.snd
  let y := { linkClear x with
    state := st
    lanes := if st = .miswired then x.lanes else 0
    downs := if st = .down then satAdd x.downs 1 else x.downs }
  let s1 := ps.foldl (fun s p => returnDown s port p) (setPort s port y)
  bookReach (if st = .down then downReports s1 port removed else s1)

/-- The states from which a failure takes a port to DOWN: any in which it trains, runs or sleeps (R384). -/
def runs (x : Port) : Bool :=
  [PortState.detect, .trainEq, .align, .param, .active, .retrain, .lpi, .miswired].contains x.state

/-- A port that fails enters DOWN (R384). -/
def portDown (s : State) (port : Nat) (removed : Bool := false) : State :=
  if port < 6 ∧ runs (getPort s port) then loseLink s port .down removed else s

/-- A port that leaves ACTIVE for RETRAIN keeps its retry buffer; the replay counts start again (R382, R384). -/
def toRetrain (s : State) (port : Nat) : State :=
  bookReach (modPort s port fun x => { x with
    state := .retrain, retraining := true, retrains := satAdd x.retrains 1, laneUe := []
    retry := x.retry.map fun f => { f with replays := 0 } })

/-- A port that reaches ACTIVE replays from the first unacknowledged frame (R384). -/
def toActive (s : State) (port : Nat) : State :=
  bookReach (modPort s port fun x => { x with
    state := .active, retraining := false, nakTaken := none
    retry := x.retry.map fun f => { f with sent := false } })

/-- Every port state change that one state allows: from `a` to `b`. -/
def portStep (s : State) (port : Nat) (a b : PortState) : State :=
  if port < 6 ∧ (getPort s port).state = a then modPort s port fun x => { x with state := b } else s

/-- PORT_DETECT_LOCK (R384). -/
def execPortDetectLock (port : Nat) (s : State) : Host.Outcome State Fault Refusal :=
  if port < 6 ∧ (getPort s port).state = .detect then
    .next (modPort s port fun x => { x with state := .trainEq, lanes := 0xFFFF })
  else .next s

/-- PORT_TRAIN_EQ_DONE (R384). -/
def execPortTrainEqDone (port : Nat) (s : State) : Host.Outcome State Fault Refusal := .next (portStep s port .trainEq .align)

/-- PORT_TRAIN_EQ_TIMEOUT (R384). -/
def execPortTrainEqTimeout (port : Nat) (s : State) : Host.Outcome State Fault Refusal :=
  .next (if (getPort s port).state = .trainEq then portDown s port else s)

/-- What this side sends in PARAM: its device number, the port's, LNK_SHAPE and its kind (R385). -/
def ownParams (s : State) (port : Nat) : PeerParams :=
  { dev := BitVec.ofNat 9 (devNo s), port := BitVec.ofNat 3 port, shape := s.shape, frontEnd := false }

/-- The parameters of this side sent by a port in PARAM or MISWIRED (R384, R385). -/
def sendParams (s : State) (port : Nat) : State := modPort s port fun x => { x with sentPar := some (ownParams s port) }

/-- PORT_ALIGN_DONE, in ALIGN or in the ALIGN of a RETRAIN: the port enters PARAM and sends its parameters (R384, R385;
assumption 47). -/
def execPortAlignDone (port : Nat) (s : State) : Host.Outcome State Fault Refusal :=
  let x := getPort s port
  if port < 6 ∧ (x.state = .align ∨ x.state = .retrain) then
    .next (sendParams (setPort s port { x with state := .param }) port)
  else .next s

/-- PORT_ALIGN_TIMEOUT (R384). -/
def execPortAlignTimeout (port : Nat) (s : State) : Host.Outcome State Fault Refusal :=
  .next (if (getPort s port).state = .align ∨ (getPort s port).state = .retrain then portDown s port else s)

/-- Whether the peer's coordinates are those of the neighbour of a port (R385). -/
def neighbour (s : State) (port dev : Nat) : Bool :=
  let dim := port % 3
  let n := sizeOf' s.shape dim
  let c := coordOf (devNo s) dim
  let d := coordOf dev dim
  let next := if wraps s.shape dim then (if port < 3 then (c + 1) % n else (c + n - 1) % n) == d
    else if port < 3 then c + 1 == d else d + 1 == c
  next && (List.range 3).all fun k => k == dim || coordOf dev k == coordOf (devNo s) k

/-- Whether the parameters of a peer match (R385). -/
def paramsMatch (s : State) (port : Nat) (p : PeerParams) : Bool :=
  if (getPort s port).fe then p.frontEnd
  else !p.frontEnd && fld p.shape 28 17 == fld s.shape 28 17 && fld p.shape 7 0 == fld s.shape 7 0 &&
    neighbour s port p.dev.toNat && p.port.toNat == (port + 3) % 6

/-- The parameters of a peer taken, and the state that follows (R385, R403). -/
def takeParams (s : State) (port : Nat) (p : PeerParams) : State :=
  let s1 := modPort s port fun x => { x with
    peerFe := p.frontEnd, peerBook := BitVec.ofNat 8 (fld p.shape 7 0), peerPort := p.port, peerDev := p.dev }
  if paramsMatch s1 port p then toActive s1 port
  else if (getPort s1 port).state = .miswired then s1 else loseLink s1 port .miswired false

/-- PARAM_EXCHANGE (R385). -/
def execParamExchange (port : Nat) (peer : PeerParams) (s : State) : Host.Outcome State Fault Refusal :=
  if port < 6 ∧ (getPort s port).state = .param then .next (takeParams s port peer) else .next s

/-- MISWIRED_PARAM_RETRY: both sides send their parameters again (R384). -/
def execMiswiredParamRetry (port : Nat) (peer : PeerParams) (s : State) : Host.Outcome State Fault Refusal :=
  if port < 6 ∧ (getPort s port).state = .miswired then .next (takeParams (sendParams s port) port peer) else .next s

/-- PORT_RETRAIN_TIMEOUT: the 200 µs of a RETRAIN end before ACTIVE (R384). -/
def execPortRetrainTimeout (port : Nat) (s : State) : Host.Outcome State Fault Refusal :=
  .next (if (getPort s port).retraining then portDown s port else s)

/-- PORT_DOWN_RETRY (R384). -/
def execPortDownRetry (port : Nat) (s : State) : Host.Outcome State Fault Refusal :=
  .next (if (getPort s port).en then portStep s port .down .detect else s)

/-- LINK_ACK_TIMEOUT (R382). -/
def execLinkAckTimeout (port : Nat) (s : State) : Host.Outcome State Fault Refusal :=
  let x := getPort s port
  .next (if port < 6 ∧ x.state = .active ∧ x.retry ≠ [] then toRetrain s port else s)

/-- LINK_REPLAY_LIMIT: a frame was replayed 8 times without an acknowledgement (R382). -/
def execLinkReplayLimit (port : Nat) (s : State) : Host.Outcome State Fault Refusal :=
  let x := getPort s port
  .next (if port < 6 ∧ x.state = .active ∧ x.retry.any (fun f => f.replays ≥ 8) then toRetrain s port else s)

/-- LINK_LANE_UE_LIMIT: a lane was uncorrectable in 4 consecutive frames (R382). -/
def execLinkLaneUeLimit (port : Nat) (s : State) : Host.Outcome State Fault Refusal :=
  let x := getPort s port
  .next (if port < 6 ∧ x.state = .active ∧ x.laneUe.any (fun l => l.2 ≥ 4) then toRetrain s port else s)

/-- LOSS_OF_SIGNAL: the port enters DOWN; a hot removal of the peer is reported to the convoy unit and to the contexts that name
the device (R384, R397; spec/14_contexts_recovery.md R443, R453). -/
def execLossOfSignal (port : Nat) (removed : Bool) (s : State) : Host.Outcome State Fault Refusal :=
  let d := (getPort s port).peerDev.toNat
  let s1 := portDown s port removed
  if port < 6 ∧ runs (getPort s port) ∧ removed then
    .next ((ctxsIn s1 fun sh => sh.state != .free).foldl (fun s c =>
      if (peerDevices s c).contains d then notice s c { status := stDeviceRemoved, result := 0, payload := BitVec.ofNat 96 d }
      else s) s1)
  else .next s1

/-! ### Receiving (R381, R386, R400) -/

/-- The rules of the front-end profile for a packet that arrives (R400): class 0 of VC-B to this device, a MSG with REPLY 0, or a BULK
of kind 1 to the hub. -/
def profileOk (s : State) (p : Packet) : Bool :=
  vcOf p == 2 && !p.dc && ddev p == devNo s &&
    ((typ p == 4 && !mReply p) || (typ p == 0xC && payload p == 1 && dcore p == 0x3FF))

/-- A packet of a front-end peer with its source: device FEDEV and core 0 (R400). -/
def feStamp (x : Port) (p : Packet) : Packet :=
  if typ p = 4 then { p with head := setFld (setFld p.head 94 86 x.fedev.toNat) 85 76 0 }
  else if typ p = 0xC then p else { p with head := setFld (setFld p.head 95 87 x.fedev.toNat) 86 77 0 }

/-- A packet complete at the receive side of a port: stamped, and put into its buffer (R37 of spec/01_device_organisation.md; R386),
or answered with LINK_DOWN while the die does not run (R398, R399), or with ACCESS_VIOLATION when it breaks the front-end profile
(R400). -/
def rxPacket (s : State) (port : Nat) (p0 : Packet) : State :=
  let x := getPort s port
  let p1 : Packet := { p0 with mid := 0xA }
  let p := if x.fe then feStamp x p1 else p1
  let b := bufNo (vcOf p) p.dc
  let tile := portTile port (dcore p / 32)
  if x.fe ∧ !profileOk s p then returnPkt (setPort s port { x with feDrop := satAdd x.feDrop 1 }) tile p stAccess
  else if dieStops s x then returnDown s port p
  else setPort s port (rxOff { x with rx := nset [] x.rx b (nget [] x.rx b ++ [p]) } b)

/-- The halves of a slot as short packets: the head bits, VC, class and dateline class of each (R350, R378). -/
def shortsOf (c : BitVec 16) (d : BitVec 256) : List Packet :=
  { head := d.extractLsb' 0 128, cls := BitVec.ofNat 3 (fld c 9 7), dc := bit c 1 } ::
    (if bit c 12 then [{ head := d.extractLsb' 128 128, cls := BitVec.ofNat 3 (fld c 4 2), dc := bit c 0 }] else [])

/-- Whether a slot came from a front-end peer on a VC and class that the last frame sent to it holds OFF (R400). -/
def lateSlot (x : Port) (c : BitVec 16) : Bool :=
  x.fe && match x.lastTx with
    | some f => offBit (hOff f.hdr) (bufNo (fld c 11 10) (bit c 1))
    | none => false

/-- One slot of an accepted frame (R350, R381). -/
def rxSlot (s : State) (port : Nat) (u : BitVec 16 × BitVec 256) : State :=
  let c := u.1
  let x := getPort s port
  let b := bufNo (fld c 11 10) (bit c 1)
  let rest := x.partialRx.filter fun q => q.1 != b
  if fld c 15 14 ≠ 0 ∧ lateSlot x c then setPort s port { x with feDrop := satAdd x.feDrop 1, partialRx := rest }
  else match fld c 15 14 with
    | 1 => (shortsOf c u.2).foldl (fun s p => rxPacket s port p) s
    | 2 =>
        let p : Packet := { head := u.2.extractLsb' 0 128, cls := BitVec.ofNat 3 (fld c 9 7), dc := bit c 1 }
        setPort s port (rxOff { x with partialRx := nput b (p, 0) rest } b)
    | 3 =>
        match x.partialRx.find? fun q => q.1 == b with
        | none => s
        | some q =>
            let p : Packet := { q.2.1 with flits := q.2.1.flits ++ [u.2] }
            if bit c 13 then rxPacket (setPort s port { x with partialRx := rest }) port p
            else setPort s port (rxOff { x with partialRx := nput b (p, 0) rest } b)
    | _ => s

/-- The acknowledgement of a header: the frames up to ACK leave the retry buffer; the first NAK for an ACK owes a replay of every
other (R381). -/
def linkAck (x : Port) (h : BitVec 48) : Port :=
  let left := if x.retry.any (fun f => f.seq == hAck h) then (x.retry.dropWhile fun f => f.seq != hAck h).drop 1 else x.retry
  let nak := hNak h && x.nakTaken != some (hAck h)
  { x with
    peerOff := hOff h, peerReset := hReset h
    nakTaken := if nak then some (hAck h) else x.nakTaken
    retry := if nak then left.map fun f => { f with sent := false } else left }

/-- The lanes' runs of uncorrectable frames after a frame (R382). -/
def laneRuns (old : NMap Nat) (bad : List Nat) : NMap Nat :=
  (List.range 16).foldl (fun m l => if bad.contains l then nset 0 m l (nget 0 old l + 1) else m) []

/-- Whether the packet at the head of a receive buffer is for this device alone. -/
def forHere (s : State) (p : Packet) : Bool := (exitPort s p).isNone

/-- The head of a receive buffer taken out. -/
def rxPop (s : State) (port b : Nat) : State :=
  modPort s port fun x => rxOff { x with rx := nset [] x.rx b ((nget [] x.rx b).drop 1) } b

/-- The dateline class that a packet has as it enters the mesh: class 1 ends with its dimension (R391). -/
def entryForm (port : Nat) (exit : Option Nat) (p : Packet) : Packet :=
  { p with dc := p.dc && match exit with | some q => q % 3 == port % 3 | none => false }

/-- The head packet of a receive buffer moved on to the mesh: at once when it is for this device, and as a transit packet once the
exit port's transmit buffer has reserved its entries; an exit port that returns packets needs none. A stale packet is discarded
(R387, R390; spec/14_contexts_recovery.md R444). -/
def rxForward (s : State) (port b : Nat) : State :=
  match nget [] (getPort s port).rx b with
  | [] => s
  | p :: _ =>
      let tile := portTile port (dcore p / 32)
      if stale s p then rxPop s port b
      else if s.fab.off.contains (bufKey tile 6 (vcOf p)) then s
      else
        let exit := exitPort s p
        let p1 := entryForm port exit p
        let enter (s : State) : State :=
          let s1 := rxPop s port b
          { s1 with fab := enterBuf s1.fab tile 6 p1 none }
        match exit with
        | none => enter s
        | some q =>
            let k := bufNo (vcOf p) (txForm s q p1).dc
            if portLost (getPort s q) then enter s
            else if txUsed (getPort s q) k + entriesOf p > 64 then s
            else enter (modPort s q fun y => { y with reserved := nmod 0 y.reserved k (· + entriesOf p) })

/-- The packets for this device at the head of a receive buffer moved on, while the mesh takes them. -/
def rxDrain : Nat → State → Nat → Nat → State
  | 0, s, _, _ => s
  | n + 1, s, port, b =>
      match nget [] (getPort s port).rx b with
      | [] => s
      | p :: _ => if forHere s p then rxDrain n (rxForward s port b) port b else s

/-- A frame at an ACTIVE port: a bad frame is discarded and asks for a replay; a good one gives ACK, NAK, OFF and RESET, and, when it
is the data frame next in order, its slots (R380, R381, R384). -/
def takeFrame (s : State) (port : Nat) (frame : RxFrame) : State :=
  let x := getPort s port
  let x1 := { x with
    corr := if laneFixed frame then satAdd x.corr 1 else x.corr, laneUe := laneRuns x.laneUe (badLanes frame) }
  match goodFrame frame with
  | none => setPort s port { x1 with sendNak := true }
  | some f =>
      let x2 := linkAck x1 f.hdr
      if hIdle f.hdr ∨ hSeq f.hdr ≠ x2.lastGood + 1 then setPort s port x2
      else
        let s1 := setPort s port { x2 with lastGood := hSeq f.hdr, sendNak := false }
        let s2 := (f.ctls.zip f.slots).foldl (fun s u => rxSlot s port u) s1
        (List.range 6).foldl (fun s b => rxDrain (nget [] (getPort s port).rx b).length s port b) s2

/-- TRANSIT_RESERVE: the packet at the head of a receive buffer leaves it once its exit transmit buffer has reserved its entries
(R387). -/
def execTransitReserve (port buffer : Nat) (s : State) : Host.Outcome State Fault Refusal :=
  if port < 6 ∧ buffer < 6 then .next (rxForward s port buffer) else .next s

/-! ### Link registers (R388, R403) -/

/-- The BAR0 address of a register of port `p`. -/
def portAddr (p off : Nat) : Nat := 0x300100 + 0x40 * p + off

/-- Whether LNK_SHAPE keeps R388: no coordinate at or above its size, no wrap bit in a dimension of size 1 or 2. -/
def shapeLegal (v : Word) : Bool :=
  (List.range 3).all fun d =>
    fld v (10 + 3 * d) (8 + 3 * d) < sizeOf' v d && (!wraps v d || sizeOf' v d ≥ 3)

/-- A write to LNK_SHAPE (R388, R403): RWL, from MID 0x0 to 0x2; firmware rebuilds the route book's device table. -/
def shapeWrite (s : State) (mid : Nat) (v : Word) : State :=
  if mid > 2 then clogBar s mid 0x300000 stAccess
  else if s.glb.locked then clogBar s mid 0x300000 stLocked
  else if !shapeLegal v then clogBar s mid 0x300000 stAccess
  else bookReach { s with shape := v &&& 0x1FFFFFFF }

/-- LINK_SHAPE_WRITE (R388). -/
def execLinkShapeWrite (mid : Nat) (value : Word) (s : State) : Host.Outcome State Fault Refusal := .next (shapeWrite s mid value)

/-- EN of a port written: 1 takes it from DISABLED to DETECT, 0 takes it to DISABLED (R384). -/
def setEn (s : State) (p : Nat) (en : Bool) : State :=
  let s1 := modPort s p fun x => { x with en := en }
  if en then portStep s1 p .disabled .detect
  else if (getPort s1 p).state = .disabled then s1 else loseLink s1 p .disabled false

/-- The RWL fields of LNK_Pp_CTL as the register holds them. -/
def ctlFields (x : Port) : Nat := b1 x.en * 2 ^ 31 + b1 x.fe * 2 ^ 30 + x.fedev.toNat * 2 ^ 21

/-- The RWL fields EN, FE and FEDEV of LNK_Pp_CTL written: from MID 0x0 to 0x2, before lock (R403; assumption 50). -/
def ctlLocked (s : State) (mid p : Nat) (v : Word) : State :=
  let x := getPort s p
  if mid > 2 then clogBar s mid (portAddr p 0) stAccess
  else if s.glb.locked then clogBar s mid (portAddr p 0) stLocked
  else setEn (setPort s p { x with fe := bit v 30, fedev := BitVec.ofNat 9 (fld v 29 21) }) p (bit v 31)

/-- A write to LNK_Pp_CTL: its RWL fields, WAKE_EN, and RETRAIN, which takes an ACTIVE port to RETRAIN (R382, R403). -/
def portCtl (s : State) (mid p : Nat) (v : Word) : State :=
  let s1 := modPort (ctlLocked s mid p v) p fun x => { x with wakeEn := bit v 16 }
  if bit v 15 ∧ (getPort s1 p).state = .active then toRetrain s1 p else s1

/-- PORT_ENABLE: a write to LNK_Pp_CTL with its EN (R384). -/
def execPortEnable (mid port : Nat) (value : Word) (s : State) : Host.Outcome State Fault Refusal :=
  if port < 6 then .next (portCtl s mid port value) else .next s

/-- PORT_RETRAIN_REQUEST: RETRAIN written with the other fields as they stand (R382). -/
def execPortRetrainRequest (mid port : Nat) (s : State) : Host.Outcome State Fault Refusal :=
  if port < 6 then
    let x := getPort s port
    .next (portCtl s mid port (BitVec.ofNat 32 (ctlFields x + b1 x.wakeEn * 2 ^ 16 + 2 ^ 15)))
  else .next s

/-- The code of a port state (R384). -/
def PortState.code : PortState → Nat
  | .disabled => 0
  | .detect => 1
  | .trainEq => 2
  | .align => 3
  | .param => 4
  | .active => 5
  | .retrain => 6
  | .lpi => 7
  | .down => 8
  | .miswired => 9

/-- A register of the LNK block (R403); `off` is a multiple of 4 within the block. -/
def lnkRead (s : State) (off : Nat) : Word :=
  if off = 0 then s.shape
  else if off < 0x100 ∨ off ≥ 0x100 + 0x40 * 6 then 0
  else
    let x := getPort s ((off - 0x100) / 0x40)
    let w (hi lo : BitVec 16) : Word := hi ++ lo
    match off % 0x40 with
    | 0x00 => BitVec.ofNat 32 (ctlFields x + b1 x.wakeEn * 2 ^ 16)
    | 0x04 => BitVec.ofNat 32 (x.state.code * 2 ^ 28 + b1 x.peerReset * 2 ^ 27 + x.lanes.toNat)
    | 0x08 => BitVec.ofNat 32 (b1 x.peerFe * 2 ^ 20 + x.peerBook.toNat * 2 ^ 12 + x.peerPort.toNat * 2 ^ 9 + x.peerDev.toNat)
    | 0x0C => w x.corr x.replay
    | 0x10 => w x.retrains x.ldnack
    | 0x14 => w x.downs x.feDrop
    | _ => 0

/-- The LNK block after a read of a register: its RC fields are clear (R403). -/
def lnkClear (s : State) (off : Nat) : State :=
  if off < 0x100 ∨ off ≥ 0x100 + 0x40 * 6 then s
  else
    let p := (off - 0x100) / 0x40
    match off % 0x40 with
    | 0x0C => modPort s p fun x => { x with corr := 0, replay := 0 }
    | 0x10 => modPort s p fun x => { x with retrains := 0, ldnack := 0 }
    | 0x14 => modPort s p fun x => { x with downs := 0, feDrop := 0 }
    | _ => s

end Sys2Proof.Machine
end

