-- ==== Sys2Proof/Machine/Bringup.lean ====
section
/-! DEFINITION. The defect ledger, the remap, secure boot, the start sequence and the reset domains
(spec/19_bringup_selftest.md R540-R550; spec/01_device_organisation.md R18-R21; spec/18_security_debug.md R515-R523;
spec/14_contexts_recovery.md R448, R449). -/

namespace Sys2Proof.Machine

/-! ### The defect ledger (spec/19_bringup_selftest.md R545-R548) -/

/-- One bit through the CRC-16 register: polynomial 0x1021 (R545). -/
def crc16Step (r : BitVec 16) (b : Bool) : BitVec 16 := if r.getLsbD 15 != b then (r <<< 1) ^^^ 0x1021 else r <<< 1

/-- CHECK of an entry: over its bits [127:32] from bit 127 down (R545; assumption 52). -/
def entryCheck (e : BitVec 128) : BitVec 16 :=
  ((List.range 96).map fun i => bit e (127 - i)).foldl crc16Step 0xFFFF

/-- KIND of a ledger entry: 1 ROWFIX, 2 CORE, 3 WAYSTATION (R545). -/
def eKind (e : BitVec 128) : Nat := fld e 127 120
/-- The tile of an entry as py × 34 + px. -/
def eTile (e : BitVec 128) : Nat := fld e 113 109 * 34 + fld e 119 114
/-- The array of an entry as MEM × 16 + ARRAY. -/
def eArray (e : BitVec 128) : Nat := fld e 108 105 * 16 + fld e 104 101
/-- SPARE of an entry. -/
def eSpare (e : BitVec 128) : Nat := fld e 88 87

/-- An entry from its fields, complete (R545). -/
def mkEntryL (kind tile array row spare source : Nat) (cold : BitVec 24) : BitVec 128 :=
  let v := kind * 2 ^ 120 + tile % 34 * 2 ^ 114 + tile / 34 * 2 ^ 109 + array * 2 ^ 101 + row % 2 ^ 12 * 2 ^ 89 + spare * 2 ^ 87 +
    source * 2 ^ 85 + cold.toNat * 2 ^ 61
  let e : BitVec 128 := BitVec.ofNat 128 v
  setFld (setFld e 31 16 (entryCheck e).toNat) 15 0 0x5AA5

/-- Whether an entry is valid (R546). -/
def entryValid (e : BitVec 128) : Bool := fld e 15 0 == 0x5AA5 && fld e 31 16 == (entryCheck e).toNat

/-- The ledger: the entries valid in either copy (R546). -/
def ledgerOf (n : NonVolatile) : List (BitVec 128) :=
  let a := n.ledgerA.filter entryValid
  a ++ (n.ledgerB.filter entryValid).filter fun e => !a.contains e

/-- The copies reconciled at a cold start, with MISMATCH when an entry was valid in one only (R546). -/
def reconcile (s : State) : State :=
  let a := s.nv.ledgerA.filter entryValid
  let b := s.nv.ledgerB.filter entryValid
  let addB := a.filter fun e => !b.contains e
  let addA := b.filter fun e => !a.contains e
  { s with
    nv := { s.nv with ledgerA := s.nv.ledgerA ++ addA, ledgerB := s.nv.ledgerB ++ addB }
    bst := { s.bst with mismatch := s.bst.mismatch || !(addA ++ addB).isEmpty } }

/-- An entry appended to both copies; with the ledger full the core of its tile is spared until the next cold reset (R546,
R548). -/
def appendEntry (s : State) (e : BitVec 128) : State :=
  if (ledgerOf s.nv).length < 256 then
    { s with nv := { s.nv with ledgerA := s.nv.ledgerA ++ [e], ledgerB := s.nv.ledgerB ++ [e] } }
  else { s with bst := { s.bst with full := true, spared := eTile e :: s.bst.spared.erase (eTile e) } }

/-- A number put into a rising list without repeats. -/
def insNat (k : Nat) : List Nat → List Nat
  | [] => [k]
  | x :: xs => if k < x then k :: x :: xs else if k = x then x :: xs else x :: insNat k xs

/-- The distinct numbers of a list, rising. -/
def sortNat (xs : List Nat) : List Nat := xs.foldl (fun a x => insNat x a) []

/-- The spare rows of an array (R544): logic and the waystation buffers have none. -/
def spareRows (array : Nat) : Nat := if array / 16 ≤ 6 then 4 else 0

/-- The spare rows that a tile's ROWFIX entries use in an array. -/
def sparesUsed (l : List (BitVec 128)) (tile array : Nat) : List Nat :=
  (l.filter fun e => eKind e == 1 && eTile e == tile && eArray e == array).map eSpare

/-- The failing rows of an array, ascending. -/
def failRows (fs : List TestFailure) (array : Nat) : List Nat :=
  sortNat ((fs.filter fun f => f.mem * 16 + f.array == array).map TestFailure.row)

/-- Whether an array has more failing rows than free spare rows. A row that fails in its spare row counts again (R547; assumption
53). -/
def arrayShort (l : List (BitVec 128)) (tile : Nat) (fs : List TestFailure) (array : Nat) : Bool :=
  spareRows array < (failRows fs array).length + (sparesUsed l tile array).length

/-- The ROWFIX entries of an array, each row on the lowest free spare (R547). -/
def fixRows (s : State) (tile array source : Nat) : List Nat → State
  | [] => s
  | r :: rs =>
      let used := sparesUsed (ledgerOf s.nv) tile array
      let spare := ((List.range 4).find? fun k => !used.contains k).getD 0
      fixRows (appendEntry s (mkEntryL 1 tile array r spare source s.nv.coldCount)) tile array source rs

/-- The analysis of one tile's failures (R547). -/
def repairTile (s : State) (source tile : Nat) (fs : List TestFailure) : State :=
  let l := ledgerOf s.nv
  let arrays := sortNat (fs.map fun f => f.mem * 16 + f.array)
  if fs = [] ∨ l.any (fun e => eTile e == tile && (eKind e == 2 || eKind e == 3)) then s
  else if fs.any fun f => f.mem == 7 then appendEntry s (mkEntryL 3 tile 0x70 0 0 source s.nv.coldCount)
  else match arrays.find? (arrayShort l tile fs) with
    | some a => appendEntry s (mkEntryL 2 tile a 0 0 source s.nv.coldCount)
    | none => arrays.foldl (fun s a => fixRows s tile a source (failRows fs a)) s

/-- The failures of a test, tile by tile in ascending PY, then PX (R547). -/
def repairAll (s : State) (source : Nat) (fs : List TestFailure) : State :=
  (sortNat (fs.map fun f => f.py * 34 + f.px)).foldl (fun s t =>
    repairTile s source t (fs.filter fun f => f.py * 34 + f.px == t)) s

/-! ### The remap (spec/01_device_organisation.md R18, R21) -/

/-- Whether the core of a tile is spared: by the ledger, or for this power-on (R18; spec/19_bringup_selftest.md R548). -/
def coreSpared (s : State) (tile : Nat) : Bool :=
  (ledgerOf s.nv).any (fun e => eKind e == 2 && eTile e == tile) || s.bst.spared.contains tile

/-- The healthy columns of a row, from west to east. -/
def healthyCols (s : State) (y : Nat) : List Nat := (List.range 34).filter fun px => !coreSpared s (y * 34 + px)

/-- The remap built, with the healthy tiles left over (R18; spec/01_device_organisation.md R48). -/
def buildRemap (s : State) : State :=
  { s with
    remap := (List.range 32).map fun y => (y, (healthyCols s y).take 32)
    glb := { s.glb with sparesFree := ((List.range 32).map fun y => (healthyCols s y).length - 32).sum } }

/-- The present logical cores, in ascending order. -/
def presentCores (s : State) : List Nat := (List.range 1024).filter (present s)

/-! ### The energy table (spec/17_power.md R509, R510) -/

/-- The measured entry of a core at a level: four free values of 16 bits (assumption 6). -/
def measuredEntry (k n l : Nat) : BitVec 64 := Config.measured (k + 8 * n + 2 * l + 1) ++ Config.measured (k + 8 * n + 2 * l)

/-- The entries of cores measured at a level, with the temperature (R509, R510). -/
def calibrate (s : State) (l : Nat) (cores : List Nat) : State :=
  { s with
    free := s.free + 8193
    pwr := { s.pwr with
      energy := cores.foldl (fun m n => nset 0 m (4 * n + l) (measuredEntry (s.free + 1) n l)) s.pwr.energy
      energyTj := nset 0 s.pwr.energyTj l ((Config.measured s.free).extractLsb' 0 16)
      energyMeas := nset 0 s.pwr.energyMeas l 1 } }

/-- VCORE² above that of PL3, in parts of 2,600, for an interpolated level (R496, R509). -/
def vcoreShare (l : Nat) : Int := if l = 1 then 1599 else 575

/-- A 16-bit quantity interpolated linearly in VCORE² between PL3 and PL0; a value between two integers rounds up or down as a free
value says (R509; assumption 6). -/
def interpolate (k l : Nat) (e0 e3 : Nat) : Nat :=
  let x : Int := (e3 : Int) * 2600 + ((e0 : Int) - e3) * vcoreShare l
  (x / 2600 + (if x % 2600 ≠ 0 ∧ Config.roundUp k then 1 else 0)).toNat

/-- The entry of a core at an interpolated level. -/
def interpolated (k l : Nat) (e0 e3 : BitVec 64) : BitVec 64 :=
  BitVec.ofNat 64 (((List.range 4).map fun q =>
    interpolate (k + q) l (fld e0 (16 * q + 15) (16 * q)) (fld e3 (16 * q + 15) (16 * q)) * 2 ^ (16 * q)).sum)

/-- PL1 and PL2 interpolated from PL0 and PL3 (R509). -/
def interpolateAll (s : State) (cores : List Nat) : State :=
  let e (n l : Nat) : BitVec 64 := nget 0 s.pwr.energy (4 * n + l)
  { s with
    free := s.free + 8192
    pwr := { s.pwr with energy := cores.foldl (fun m n => [1, 2].foldl (fun m l =>
      nset 0 m (4 * n + l) (interpolated (s.free + 8 * n + 4 * (l - 1)) l (e n 0) (e n 3))) m) s.pwr.energy } }

/-- The calibration of a cold or warm start (R509). -/
def calibrateStart (s : State) : State :=
  let cores := presentCores s
  interpolateAll (calibrate (calibrate s 0 cores) 3 cores) cores

/-! ### Firmware images (spec/18_security_debug.md R520-R522) -/

/-- `n` bytes of an image from byte `off` as a number. -/
def imgNum (b : List Byte) (off n : Nat) : Nat := ofBytes ((b.drop off).take n)
/-- Bytes [a, b) of an image. -/
def imgPart (img : List Byte) (a b : Nat) : List Byte := (img.drop a).take (b - a)

/-- R521: whether an image verifies. -/
def imageOk (n : NonVolatile) (img : List Byte) : Bool :=
  let slot := imgNum img 4 1
  let revoke := imgNum img 6 1 % 16
  let left := (List.range 4).filter fun k => bit n.slotValid k && !bit n.slotRevoked k
  let len := imgNum img 8 4
  imgNum img 0 2 == 1 && imgNum img 5 1 ≤ 64 && len ≤ 8371488 &&
    slot ≤ 3 && bit n.slotValid slot && !bit n.slotRevoked slot &&
    Config.sha384 (imgPart img 0x40 0x200) == Config.slotHash slot &&
    revoke / 2 ^ slot % 2 == 0 && !(left.all fun k => revoke / 2 ^ k % 2 == 1) &&
    n.rollback.toNat ≤ imgNum img 5 1 &&
    (Config.sha384 (imgPart img 0x42E0 (0x42E0 + len))).toNat == imgNum img 0x10 48 &&
    Config.rsaPssVerify (imgPart img 0x40 0x200) (imgPart img 0 0x200) (imgPart img 0x200 0x380) &&
    Config.slhDsaVerify (imgPart img 0x40 0x200) (imgPart img 0 0x200) (imgPart img 0x380 0x42E0)

/-- Whether a firmware copy verifies. The image that the module came with is signed under slot 0 with SVN 0 (assumption 51). -/
def copyOk (n : NonVolatile) (c : FwCopy) : Bool :=
  if c.shipped then bit n.slotValid 0 && !bit n.slotRevoked 0 && n.rollback == 0 else imageOk n c.bytes

/-- SVN of a copy. -/
def copySvn (c : FwCopy) : Nat := if c.shipped then 0 else imgNum c.bytes 5 1
/-- KEYSLOT of a copy. -/
def copySlot (c : FwCopy) : Nat := if c.shipped then 0 else imgNum c.bytes 4 1
/-- BODY_HASH of a copy. -/
def copyHash (c : FwCopy) : BitVec 384 := if c.shipped then Config.shippedHash else BitVec.ofNat 384 (imgNum c.bytes 0x10 48)

/-- The copies in the order of verification: the VALID one with the higher SEQ first (R522). False is copy A. -/
def bootOrder (n : NonVolatile) : List Bool :=
  let b := n.copyB.valid && (!n.copyA.valid || n.copyA.seq.toNat < n.copyB.seq.toNat)
  [b, !b]

/-- A copy by its name. -/
def copyOf (n : NonVolatile) (b : Bool) : FwCopy := if b then n.copyB else n.copyA

/-- IDHASH: the hash of the identity public keys; 0 without identity (spec/18_security_debug.md R525, R539). -/
def idHash (s : State) : BitVec 384 :=
  if s.nv.identity ∧ !s.sec.pufFail then Config.sha384 (Config.identityKeyBlock s.nv.keyEpoch) else 0

/-- The copy that passes loaded, or recovery (R522). -/
def loadFirmware (s : State) : State :=
  match (bootOrder s.nv).find? fun b => copyOk s.nv (copyOf s.nv b) with
  | some b =>
      let c := copyOf s.nv b
      { s with
        mgmt := { s.mgmt with running := true }
        sec := { s.sec with
          recovery := false, fwCopy := b, fwSlot := BitVec.ofNat 2 (copySlot c), fwSvn := BitVec.ofNat 7 (copySvn c), fwHash := copyHash c }
        sdio := { s.sdio with recovery := false } }
  | none =>
      { s with
        mgmt := { s.mgmt with running := true }
        boot := .stopped
        sec := { s.sec with recovery := true, fwHash := 0 }
        sdio := { s.sdio with recovery := true } }

/-- Step 3: the boot ROM reads the fuses, rebuilds the PUF root and the identity keys, and verifies firmware. In BLANK it waits for
the debug port, and in SCRAPPED it stops (R512, R517, R522). -/
def bootRom (s : State) : State :=
  if s.nv.lcState = 0 ∨ s.nv.lcState = 5 then { s with boot := .stopped }
  else
    let s1 := { s with sec := { s.sec with pufFail := s.nv.lcState == 4 } }
    loadFirmware { s1 with sec := { s1.sec with idhash := idHash s1 } }

/-! ### The start sequence (spec/19_bringup_selftest.md R540-R542) -/

/-- The fuses that firmware burns at Ready: ROLLBACK up to the SVN of an image with ARB_COMMIT, and the revocations of REVOKE
(spec/18_security_debug.md R523). -/
def burnFuses (s : State) : State :=
  let c := copyOf s.nv s.sec.fwCopy
  if c.shipped then s
  else { s with nv := { s.nv with
    rollback := if imgNum c.bytes 2 2 % 2 = 1 then BitVec.ofNat 7 (max s.nv.rollback.toNat (min (copySvn c) 64)) else s.nv.rollback
    slotRevoked := s.nv.slotRevoked ||| BitVec.ofNat 4 (imgNum c.bytes 6 1) } }

/-- Step 9: Ready (R542). -/
def becomeReady (s : State) : State :=
  bookReach (burnFuses { s with
    boot := .ready, ddrDone := true, sdio := { s.sdio with ready := true }, fab := { s.fab with rbBuilt := true } })

/-- Steps 6 to 8: remap, route book, zeroed tiles and calibration (R540, R541). -/
def mapAndMeasure (s : State) : State := calibrateStart { buildRemap s with cores := [] }

/-- Whether a waystation is defective, which ends the sequence (R20). -/
def waystationBad (s : State) (fs : List TestFailure) : Bool :=
  (ledgerOf s.nv).any (fun e => eKind e == 3) || fs.any fun f => f.mem == 7

/-- The cold sequence from reference selection to the end of step 8, with the failures of the start test (R34 of
spec/01_device_organisation.md; R540, R543, R547). -/
def coldSequence (s : State) (refclk : Bool) (fs : List TestFailure) : State :=
  let s1 := bootRom { s with glb := { s.glb with refsrc := !refclk, pllLock := true } }
  if s1.boot = .stopped then s1
  else
    let s2 := reconcile { s1 with nv := { s1.nv with coldCount := s1.nv.coldCount + 1 } }
    let s3 := repairAll s2 0 fs
    if waystationBad s3 fs then { s3 with boot := .defective } else { mapAndMeasure s3 with boot := .training }

/-- The sequence of a warm reset: from boot verification, without a start test (R448 of spec/14_contexts_recovery.md; R542;
assumption 54). -/
def warmSequence (s : State) (refclk : Bool) : State :=
  let s1 := bootRom { s with glb := { s.glb with refsrc := !refclk, pllLock := true } }
  if s1.boot = .stopped then s1
  else if waystationBad s1 [] then { s1 with boot := .defective } else becomeReady (mapAndMeasure s1)

/-! ### Cold and warm reset (spec/14_contexts_recovery.md R448, R449) -/

/-- The hot-swap side of the power registers, which no reset of the die touches (spec/20_module_electrical.md R567-R573). -/
def hotSwap (p : Power) : Power :=
  { output := p.output, seated := p.seated, pfail := p.pfail, limitOff := p.limitOff, lockUv := p.lockUv, lockOv := p.lockOv
    pmOff := p.pmOff, status := p.status }

/-- The debug level after a session ends: NONE, and FULL in BLANK (spec/18_security_debug.md R512). -/
def restLevel (s : State) : BitVec 2 := if s.nv.lcState = 0 then 2 else 0

/-- The non-volatile state as a reset leaves it: no save writes a keep slot any more (spec/06_learning.md R223, R229). -/
def quietKeep (nv : NonVolatile) : NonVolatile :=
  { nv with keep := (nv.keep.map fun q => (q.1, { q.2 with writing := false })).filter fun q => q.2 != {} }

/-- The depot after a reset: no region, no key, and nothing that reads back (spec/18_security_debug.md R517). -/
def freshDepot (d : Depot) : Depot := { wipeDepot d with rgn := [], keys := [] }

/-- The machine right after a cold reset with a cause bit: everything but the non-volatile state is at its reset value (R448,
R449). -/
def coldState (s : State) (cause : Nat) : State :=
  { nv := quietKeep s.nv
    free := s.free + 1
    pending := s.pending
    dep := freshDepot s.dep
    glb := { cause := BitVec.ofNat 11 (2 ^ cause) }
    pwr := hotSwap s.pwr
    sec := { nonce := Config.drbg s.free, level := restLevel s, everFull := s.nv.lcState == 0 }
    boot := .coldPending }

/-- Fresh keys for every context that holds regions (spec/18_security_debug.md R517, R518). -/
def rekeyAll (s : State) : State :=
  { s with dep := (s.dep.keys.map Prod.fst).foldl rekey s.dep }

/-- The machine right after a warm reset with a cause bit: everything but the PCIe link state is at its reset value, save what the
registers keep since cold reset (R448, R449; spec/18_security_debug.md R535, R539; assumption 55). -/
def warmState (s : State) (cause : Nat) : State :=
  { nv := quietKeep s.nv
    free := s.free
    pending := s.pending
    dep := freshDepot s.dep
    glb := { cause := s.glb.cause ||| BitVec.ofNat 11 (2 ^ cause) }
    pwr := hotSwap s.pwr
    sec := {
      nonce := s.sec.nonce, level := restLevel s, everFull := s.sec.everFull, everNs := s.sec.everNs, zeroised := s.sec.zeroised
      tamper := s.sec.tamper, tamperCnt := s.sec.tamperCnt, reports := s.sec.reports, jtag := s.sec.jtag }
    bst := { full := s.bst.full, spared := s.bst.spared }
    mgmt := { restarts := s.mgmt.restarts }
    boot := .warmPending }

/-- PERST: a cold reset while the module is powered (spec/20_module_electrical.md R574; R449). -/
def execPerst (s : State) : Host.Outcome State Fault Refusal := .next (if s.boot = .off ∧ s.pwr.state ≠ .s4 then s else coldState s 6)

/-- COLD_RESET: the start sequence after a cold reset, which the loss of power begins when none is pending (R540). -/
def execColdReset (refclkPresent : Bool) (failures : List TestFailure) (s : State) : Host.Outcome State Fault Refusal :=
  if s.boot = .off then .next s
  else .next (coldSequence (if s.boot = .coldPending then s else coldState s 7) refclkPresent failures)

/-- DDR_TRAINING_DONE: the module reaches Ready, or reports UNCORRECTABLE when a channel fails (R540). -/
def execDdrTrainingDone (failed : Bool) (s : State) : Host.Outcome State Fault Refusal :=
  if s.boot = .training then .next (if failed then { s with boot := .defective } else becomeReady s) else .next s

/-- The bit of GLB_RESET_CAUSE for a warm reset (R449). -/
def warmBit : WarmCause → Nat
  | .register => 5
  | .functionLevel => 4
  | .clock => 3
  | .tamper => 9
  | .extest => 10

/-- WARM_RESET: the reset, unless its trigger has made it, and the start sequence from boot verification (R448). -/
def execWarmReset (cause : WarmCause) (refclkPresent : Bool) (s : State) : Host.Outcome State Fault Refusal :=
  match s.boot with
  | .off => .next s
  | .coldPending => .next s
  | .warmPending => .next (warmSequence s refclkPresent)
  | _ => .next (warmSequence (warmState s (warmBit cause)) refclkPresent)

/-! ### Zeroisation (spec/18_security_debug.md R518, R536) -/

/-- A debug session ended (R536): its harts run again. -/
def endSession (s : State) : State := { s with sec := { s.sec with level := restLevel s, haltedHarts := [] } }

/-- Session keys cleared and replaced, the debug session ended (R518). -/
def zeroise (s : State) : State :=
  let s1 := endSession (rekeyAll s)
  { s1 with sec := { s1.sec with zeroised := true } }

/-- Tamper trips recorded: their cause bits and their number (spec/18_security_debug.md R529, R539). -/
def tamperMark (s : State) (bits : List Nat) : State :=
  { s with sec := { s.sec with
      tamper := bits.foldl (fun t b => t ||| BitVec.ofNat 5 (2 ^ b)) s.sec.tamper
      tamperCnt := satAdd s.sec.tamperCnt bits.length } }

/-- The root PLL has lost its lock, until a start sequence locks it again (spec/01_device_organisation.md R49; R540). -/
def unlocked (s : State) : State := { s with glb := { s.glb with pllLock := false } }

/-- REFCLK_LOSS: zeroisation, the cause bit, and a warm reset (R35 of spec/01_device_organisation.md; R529). -/
def execRefclkLoss (s : State) : Host.Outcome State Fault Refusal :=
  if s.boot = .off then .next s else .next (unlocked (warmState (tamperMark (zeroise s) [0]) 3))

/-- TAMPER_TRIP: zeroisation, the cause bits and a warm reset (R529). -/
def execTamperTrip (pll glitch temp : Bool) (s : State) : Host.Outcome State Fault Refusal :=
  let bits := (if pll then [1] else []) ++ (if glitch then [2] else []) ++ (if temp then [4] else [])
  if s.boot = .off ∨ bits = [] then .next s
  else
    let s1 := warmState (tamperMark (zeroise s) bits) 9
    .next (if pll then unlocked s1 else s1)

/-- EXTEST_EXIT: a warm reset (R531). -/
def execExtestExit (s : State) : Host.Outcome State Fault Refusal :=
  if s.sec.jtag = .extest then .next (warmState { s with sec := { s.sec with jtag := .idcode } } 10) else .next s

/-! ### Compute reset (spec/14_contexts_recovery.md R448) -/

/-- A context reset by a compute reset. One that resets already ends with the same generation (R446). -/
def computeShard (s : State) (ctx : Nat) : State :=
  let sh := getShard s ctx
  if sh.state = .resetting then
    let s1 := setShard (purge s ctx) ctx { sh with state := .stopped, resetCmds := [] }
    sh.resetCmds.foldl (fun s h => complete s h stOk sh.gen.toNat) s1
  else resetShard s ctx .stopped

/-- What a compute reset leaves of a shard: no section, no pace, nothing of its runs (R448). -/
def bareShard (sh : Shard) : Shard :=
  if sh.state = .free then sh
  else { sh with
    measure := 0, sections := 0, seed := 0, limit := 0, free := false, timer := none, pacedSet := false, p := 0, o := 0, t0 := 0
    nextRel := 0, changes := [], ranSince := false }

/-- The timers' watches set again in cores that a reset has cleared (spec/16_timers.md R479, R488). -/
def watchAll (s : State) : State := syncWatch s (s.tmr.map fun q => q.2.index.toNat)

/-- The compute reset with its bits of GLB_RESET_CAUSE: every context reset, and every tile, stream, pace and convoy state at its reset value. Toll
gates stay. The ACTIVE ports send RESET (spec/12_osust_links.md R398) (R448; assumption 56). -/
def computeReset (s : State) (cause : BitVec 11) : State :=
  let s1 := (ctxsIn s fun sh => sh.state != .free).foldl computeShard s
  watchAll { s1 with
    shards := s1.shards.map fun q => (q.1, bareShard q.2)
    tmr := s1.tmr.filter fun q => q.2.mode != .pace
    cores := [], ingest := [], results := [], convoys := [], hubCvy := [], asked := []
    fab := { s1.fab with buf := [], off := [], lanes := [] }
    ports := s1.ports.map fun q => (q.1, { q.2 with reserved := [], inReset := q.2.state == .active })
    glb := { s1.glb with cause := s1.glb.cause ||| cause } }

/-- COMPUTE_RESET (R448). -/
def execComputeReset (cause : ComputeCause) (s : State) : Host.Outcome State Fault Refusal :=
  .next (computeReset s (match cause with | .register => 0x004 | .brownOut => 0x002 | .drain => 0x100))

/-- CONTEXT_RESET_DRAIN_TIMEOUT: the commands complete with UNCORRECTABLE and a compute reset starts (R444). -/
def execContextResetDrainTimeout (ctx : Nat) (s : State) : Host.Outcome State Fault Refusal :=
  let sh := getShard s ctx
  if sh.state ≠ .resetting then .next s
  else
    let s1 := sh.resetCmds.foldl (fun s h => complete s h stUncorrectable) (setShard s ctx { sh with resetCmds := [] })
    .next (computeReset s1 0x100)

end Sys2Proof.Machine
end

