-- ==== Sys2Proof/Machine/Mgmt.lean ====
section
/-! DEFINITION. The management complex: restarts, integrity, and the notices that firmware turns into context notices
(spec/15_management_mailboxes.md R454-R465; spec/14_contexts_recovery.md R443, R447). -/

namespace Sys2Proof.Machine

/-! ### Notices (spec/14_contexts_recovery.md R443; spec/11_fabric_tolls.md R371) -/

/-- The core that sent a notice, as PAYLOAD bytes 0-1. -/
def noticeCore (p : Packet) : BitVec 96 := BitVec.ofNat 96 (srcCore p)

/-- The contexts to which an UNCORRECTABLE is attributed: the packet's own, else every RUNNING shard (R443). -/
def ueContexts (s : State) (p : Packet) : List Nat :=
  if (getShard s (pctx p)).state ≠ .free ∧ genOf s (pctx p) = pgen p then [pctx p] else ctxsIn s fun sh => sh.state == .running

/-- A notice of a core of the present generation, turned into a context notice. -/
def ownNotice (s : State) (p : Packet) (st : Status) (result : Nat) (pay : BitVec 96) : State :=
  if (getShard s (pctx p)).state ≠ .free ∧ genOf s (pctx p) = pgen p then
    notice s (pctx p) { status := st, result := BitVec.ofNat 32 result, payload := pay }
  else s

/-- A step watchdog notice (R443). -/
def wdogNotice (s : State) (p : Packet) : State := ownNotice s p stTimeout (payload p) (noticeCore p)

/-- A loss notice: the results of the step are marked too (R443; spec/05_synapse_storage.md R190). -/
def lossNotice (s : State) (p : Packet) : State :=
  let s1 := ownNotice s p stEventLoss (payload p) (noticeCore p)
  if genOf s (pctx p) = pgen p then markLosses s1 (pctx p) (BitVec.ofNat 32 (payload p)) else s1

/-- An uncorrectable error: RESULT names the reporting core when it lies in the shard, else 0x3FF (R443). -/
def ueNotice (s : State) (p : Packet) : State :=
  (ueContexts s p).foldl (fun s c =>
    notice s c { status := stUncorrectable
                 result := if boundTo s c (srcCore p) then BitVec.ofNat 32 (srcCore p) else 0x3FF
                 payload := BitVec.ofNat 96 (payload p) }) s

/-- A tally-completion handler fault (R443; spec/08_handler_unit.md R267). -/
def faultNotice (s : State) (p : Packet) : State :=
  ownNotice s p (faultStatus (payload p % 8)) (stamp p % 64) (BitVec.ofNat 96 (payload p % 8 * 2 ^ 16 + srcCore p))

/-- An orphaned convoy member (R443; spec/10_convoys.md R342). -/
def orphanNotice (s : State) (p : Packet) : State := ownNotice s p stConvoyTimeout (stamp p) (noticeCore p)

/-- The one flit of a reset notice: device, generation and context (R447; assumption 42). -/
def resetFlit (p : Packet) : BitVec 256 := p.flits.headD 0

/-- A reset notice of a peer device (R447). -/
def peerNotice (s : State) (p : Packet) : State :=
  let c := fld (resetFlit p) 7 0 % 64
  if (getShard s c).state = .free then s
  else notice s c { status := stContextReset, result := BitVec.ofNat 32 (fld (resetFlit p) 15 8)
                    payload := BitVec.ofNat 96 (fld (resetFlit p) 31 16) }

/-- A notice by its subtype, or a reset notice. -/
def anyNotice (s : State) (p : Packet) : State :=
  if typ p = 0xC then peerNotice s p
  else match subtype p with
    | 0x20 => wdogNotice s p
    | 0x21 => lossNotice s p
    | 0x22 => ueNotice s p
    | 0x23 => faultNotice s p
    | 0x24 => orphanNotice s p
    | _ => s

/-- A notice that reaches the complex: firmware acts on it, or it waits in the hub buffer of 256 entries while management restarts,
past which it is folded (spec/15_management_mailboxes.md R463). -/
def takeNotice (f : State → Packet → State) (s : State) (p : Packet) : State :=
  let s1 := hubDone s p
  if s1.mgmt.restarting ∧ s1.mgmt.notices.length < 256 then { s1 with mgmt := { s1.mgmt with notices := s1.mgmt.notices ++ [p] } }
  else f s1 p

/-- WDOG_NOTICE (R443). -/
def execWdogNotice (pkt : Packet) (s : State) : Host.Outcome State Fault Refusal := .next (takeNotice wdogNotice s pkt)
/-- LOSS_NOTICE (R443). -/
def execLossNotice (pkt : Packet) (s : State) : Host.Outcome State Fault Refusal := .next (takeNotice lossNotice s pkt)
/-- UE_NOTICE (R443). -/
def execUeNotice (pkt : Packet) (s : State) : Host.Outcome State Fault Refusal := .next (takeNotice ueNotice s pkt)
/-- FAULT_NOTICE (R443). -/
def execFaultNotice (pkt : Packet) (s : State) : Host.Outcome State Fault Refusal := .next (takeNotice faultNotice s pkt)
/-- ORPHAN_NOTICE (spec/10_convoys.md R342). -/
def execOrphanNotice (pkt : Packet) (s : State) : Host.Outcome State Fault Refusal := .next (takeNotice orphanNotice s pkt)
/-- PEER_RESET_NOTICE (R447). -/
def execPeerResetNotice (pkt : Packet) (s : State) : Host.Outcome State Fault Refusal := .next (takeNotice peerNotice s pkt)

/-- NOTICE_FOLD_TIMER: the period of 1 ms of a shard's notices ends, and what was folded or held is written (R443). -/
def execNoticeFoldTimer (ctx : Nat) (s : State) : Host.Outcome State Fault Refusal :=
  .next (if ctx < 64 then flushNotices (modShard s ctx fun sh => { sh with sent := [] }) ctx else s)

/-! ### Restart (R461-R463) -/

/-- MBX_RCAUSE.CAUSE (R476). -/
def rcauseCode : RestartCause → Nat
  | .watchdog => 1
  | .sramError => 2
  | .parity => 3
  | .selfCheck => 4
  | .register => 5

/-- A keep command of a shard stopped at its line boundary: the committed slot stands and the command completes with the cause's
status (spec/06_learning.md R223). -/
def breakKeep (s : State) (ctx : Nat) (st : Status) : State :=
  let sh := getShard s ctx
  if sh.saving.isNone ∧ sh.restoring.isNone then s
  else
    let s1 := freeSave (stopKeep (modShard s ctx fun x => { x with saving := none, restoring := none }) ctx) ctx
    let s2 := match sh.saving with | some q => complete s1 q.1 st | none => s1
    match sh.restoring with | some q => complete s2 q.1 st | none => s2

/-- Every keep command stopped. -/
def breakKeeps (s : State) (st : Status) : State := (ctxsIn s fun _ => true).foldl (fun s c => breakKeep s c st) s

/-- A management restart begun: the harts are held, and the commands that they serve complete with TIMEOUT, a save with the
committed slot intact (R462, R463; R449 of spec/14_contexts_recovery.md; assumption 57). -/
def startRestart (s : State) (hart : Nat) (cause : RestartCause) : State :=
  let served := s.mgmt.hart0.toList ++ s.mgmt.hart1.toList
  let s1 := breakKeeps (served.foldl (fun s h => complete s h stTimeout) s) stTimeout
  { s1 with
    mgmt := { s1.mgmt with
      restarting := true, hart0 := none, hart1 := none, restarts := satAdd s1.mgmt.restarts 1
      hart := BitVec.ofNat 2 hart, cause := BitVec.ofNat 4 (rcauseCode cause) }
    glb := { s1.glb with cause := if cause = .watchdog ∨ cause = .register then s1.glb.cause ||| 1 else s1.glb.cause } }

/-- The restart's end: the code that the boot ROM recorded, or firmware reloaded from flash; then the queue and the notices go on
(R462, R463). -/
def endRestart (s : State) (hashMatches : Bool) : State :=
  let s1 := { s with mgmt := { s.mgmt with restarting := false, flashReload := !hashMatches, notices := [] } }
  let s2 := if hashMatches then s1 else loadFirmware s1
  (ctxsIn s2 fun sh => sh.notices != []).foldl flushNotices (s.mgmt.notices.foldl anyNotice s2)

/-- MANAGEMENT_RESTART: the restart that a trigger began, or one that begins with the cause given, runs to its end (R462). -/
def execManagementRestart (hart : Nat) (cause : RestartCause) (hashMatches : Bool) (s : State) : Host.Outcome State Fault Refusal :=
  if s.mgmt.running then
    .next (endRestart (if s.mgmt.restarting then s else startRestart s hart cause) hashMatches)
  else .next s

/-- Whether a hart runs: firmware is loaded, no restart holds it and no debug session halts it (R461). -/
def hartRuns (s : State) (hart : Nat) : Bool := s.mgmt.running && !s.mgmt.restarting && !s.sec.haltedHarts.contains hart

/-- MGMT_WATCHDOG_EXPIRE (R461). The watchdogs run from the end of the start sequence on. -/
def execMgmtWatchdogExpire (hart : Nat) (s : State) : Host.Outcome State Fault Refusal :=
  if hart < 4 ∧ s.boot = .ready ∧ hartRuns s hart then .next (startRestart s hart .watchdog) else .next s

/-- MGMT_SCRUB: corrected errors are counted; an uncorrectable one starts a restart (R464). -/
def execMgmtScrub (hart corrected : Nat) (uncorrectable : Bool) (s : State) : Host.Outcome State Fault Refusal :=
  let s1 := { s with mgmt := { s.mgmt with ce := satAdd s.mgmt.ce corrected } }
  if uncorrectable then
    let s2 := { s1 with mgmt := { s1.mgmt with ue := satAdd s1.mgmt.ue 1 } }
    .next (if s2.mgmt.restarting then s2 else startRestart s2 hart .sramError)
  else .next s1

/-- MGMT_SELF_CHECK: a mismatch is counted and starts a restart (R464). -/
def execMgmtSelfCheck (hart : Nat) (hashMatches : Bool) (s : State) : Host.Outcome State Fault Refusal :=
  if hashMatches ∨ !hartRuns s hart then .next s
  else .next (startRestart { s with mgmt := { s.mgmt with selfchk := satAdd s.mgmt.selfchk 1 } } hart .selfCheck)

/-- MGMT_PARITY_FAILURE: on an entry of the command queue, that command completes with UNCORRECTABLE and the others stand; anywhere
else a restart starts (R464, R465). -/
def execMgmtParityFailure (hart : Nat) (entry : Option Nat) (s : State) : Host.Outcome State Fault Refusal :=
  let s1 := { s with mgmt := { s.mgmt with parity := satAdd s.mgmt.parity 1 } }
  match entry with
  | some h => .next (if s1.mgmt.queue.contains h then complete s1 h stUncorrectable else s1)
  | none => .next (if s1.mgmt.restarting then s1 else startRestart s1 hart .parity)

/-- HEARTBEAT: hart 2 counts, wrapping (R476). -/
def execHeartbeat (s : State) : Host.Outcome State Fault Refusal :=
  .next (if hartRuns s 2 then { s with mgmt := { s.mgmt with heartbeat := s.mgmt.heartbeat + 1 } } else s)

/-! ### Health registers (R476) -/

/-- A register of the health block; `off` counts from 0x0070_0800. The wait of the oldest command not yet taken is a measured time, a
free value (assumption 6). -/
def healthRead (s : State) (off : Nat) : Word :=
  let m := s.mgmt
  match off with
  | 0x0 => BitVec.ofNat 32 (b1 (mgpBusy s) * 2 ^ 31 + b1 m.restarting * 2 ^ 30 + b1 m.flashReload * 2 ^ 29 +
      min m.queue.length 256 * 2 ^ 16 + m.restarts.toNat * 2 ^ 8 + m.heartbeat.toNat)
  | 0x4 => m.maxUs ++ (if m.queue = [] then (0 : BitVec 16) else (Config.measured s.free).extractLsb' 0 16)
  | 0x8 => m.ce ++ m.ue ++ m.parity ++ m.selfchk
  | 0xC => BitVec.ofNat 32 (m.hart.toNat * 2 ^ 4 + m.cause.toNat)
  | _ => 0

/-- The state after a read of a register of the health block: its RC fields are clear, and the free value is used up. -/
def healthClear (s : State) (off : Nat) : State :=
  match off with
  | 0x4 => { s with free := s.free + 1, mgmt := { s.mgmt with maxUs := 0 } }
  | 0x8 => { s with mgmt := { s.mgmt with ce := 0, ue := 0, parity := 0, selfchk := 0 } }
  | _ => s

end Sys2Proof.Machine
end

