-- ==== Sys2Proof/Machine/Power.lean ====
section
/-! DEFINITION. Power: performance levels, thermal control, sleep states and wake, the input and the hot-swap controller
(spec/17_power.md R493-R511; spec/20_module_electrical.md R567-R573). -/

namespace Sys2Proof.Machine

/-! ### Performance levels (R496-R500) -/

/-- The level that the requests and limits call for (R497, R500). -/
def wantedPl (p : Power) : BitVec 2 := if p.hwlimit then 3 else if p.plReq.toNat < p.plTherm.toNat then p.plTherm else p.plReq

/-- The rated maximum of a level in W (R496). -/
def ratedMax (pl : Nat) : Nat := match pl with | 0 => 480 | 1 => 427 | 2 => 374 | _ => 346

/-- The divisor changed to a level: the toll window in progress ends early (R498; spec/11_fabric_tolls.md R363). -/
def setDivisor (s : State) (pl : BitVec 2) : State :=
  if s.pwr.pl = pl then s else let s1 := turnWindow s; { s1 with pwr := { s1.pwr with pl := pl } }

/-- A level change begun in S0: to a slower level the divisor changes at once, to a faster one after the ramp (R498). -/
def startLevel (s : State) : State :=
  let w := wantedPl s.pwr
  if s.pwr.state ≠ .s0 ∨ w = s.pwr.pl then s
  else
    let s1 := if s.pwr.pl.toNat < w.toNat then setDivisor s w else s
    { s1 with pwr := { s1.pwr with changing := true } }

/-- The commands that wait for the level to settle complete (R499). -/
def endPlCmds (s : State) : State :=
  s.pwr.plCmds.foldl (fun s h => complete s h stOk) { s with pwr := { s.pwr with plCmds := [] } }

/-- PL_CHANGE_DONE: the ramp and the divisor change of a level change end (R498). -/
def execPlChangeDone (s : State) : Host.Outcome State Fault Refusal :=
  if s.pwr.changing then
    let s1 := setDivisor s (wantedPl s.pwr)
    .next (endPlCmds { s1 with pwr := { s1.pwr with changing := false } })
  else .next s

/-- PL_REQ set by a POWER_SET: POWER_LIMIT above the cap, else completion once the level has settled (R499). -/
def requestPl (s : State) (f : Fetched) (pl : BitVec 2) : State :=
  if s.pwr.capW.toNat < ratedMax pl.toNat then complete s f.handle stPowerLimit
  else
    let s1 := startLevel { s with pwr := { s.pwr with plReq := pl } }
    if s1.pwr.changing then
      let s2 := begun s1 f.handle
      { s2 with pwr := { s2.pwr with plCmds := s2.pwr.plCmds ++ [f.handle] } }
    else complete s1 f.handle stOk

/-- A reading of the sensors as TJ_C: 0 below 0 °C (R511). -/
def tjOf (t : Int) : BitVec 8 := BitVec.ofNat 8 (min t.toNat 255)

/-- The measured power registers refreshed with free values (R511; assumption 6). -/
def refreshPower (s : State) : State :=
  let k := s.free
  let m (i : Nat) : Word := Config.measured (k + i)
  let avg := (m 1).extractLsb' 0 16
  { s with
    free := k + 8
    pwr := { s.pwr with
      vin := (m 0).extractLsb' 16 16, iin := (m 0).extractLsb' 0 16, pAvg := avg
      pMax := if s.pwr.pMax.toNat < avg.toNat then avg else s.pwr.pMax
      rails := nsetList 0 [] 0 ((List.range 6).map fun r => m (2 + r)) } }

/-- PL_THERM and its counts after a reading, one each 1 ms (R500). -/
def throttle (p : Power) (t : Int) : Power :=
  let slower : BitVec 2 := if p.plTherm = 3 then 3 else p.plTherm + 1
  if (p.throttleC.toNat : Int) < t then
    if p.aboveMs = 0 ∨ p.aboveMs = 10 then { p with plTherm := slower, aboveMs := 1, belowMs := 0 }
    else { p with aboveMs := p.aboveMs + 1, belowMs := 0 }
  else if t < (p.throttleC.toNat : Int) - 5 then
    if p.belowMs = 100 then
      { p with plTherm := if p.plTherm = 0 then 0 else p.plTherm - 1, aboveMs := 0, belowMs := 1 }
    else { p with aboveMs := 0, belowMs := p.belowMs + 1 }
  else { p with aboveMs := 0, belowMs := 0 }

/-- THERMAL_POLL: hart 3 reads the sensors (R500, R511). -/
def execThermalPoll (hottest : Int) (s : State) : Host.Outcome State Fault Refusal :=
  if !hartRuns s 3 then .next s
  else
    let s1 := refreshPower s
    let p := throttle s1.pwr hottest
    let tj := tjOf hottest
    .next (startLevel { s1 with pwr := { p with tj := tj, tjMax := if p.tjMax.toNat < tj.toNat then tj else p.tjMax } })

/-- THERMAL_HW_LIMIT: a sensor reads 105 °C and the level is forced to PL3 (R500). -/
def execThermalHwLimit (s : State) : Host.Outcome State Fault Refusal :=
  .next (startLevel { s with pwr := { s.pwr with hwlimit := true } })

/-- THERMAL_HW_RELEASE: every sensor reads below 100 °C (R500). -/
def execThermalHwRelease (s : State) : Host.Outcome State Fault Refusal :=
  .next (startLevel { s with pwr := { s.pwr with hwlimit := false } })

/-! ### Wake (R504-R506) -/

/-- The sources that leave a state, as bits of PWR_WAKE_STAT (R504). -/
def wakeMask : PowerState → BitVec 13
  | .s1 => 0x0EFF
  | .s2 => 0x1EFF
  | .s3 => 0x0CFF
  | _ => 0

/-- S0 at WAKE_PL, which becomes PL_REQ (R505). -/
def atWakePl (s : State) : State :=
  let p := { s.pwr with state := PowerState.s0, plReq := s.pwr.wakePl, latched := 0, changing := false }
  setDivisor { s with pwr := p } (wantedPl p)

/-- The ports that are in LPI leave it (R399 of spec/12_osust_links.md). -/
def leaveLpi (s : State) : State := (List.range 6).foldl (fun s p => modPort s p leavePortLpi) s

/-- A wake from the present lower state to S0 (R505). -/
def wakeNow (s : State) : State :=
  match s.pwr.state with
  | .s1 => atWakePl s
  | .s2 =>
      let s1 := leaveLpi (atWakePl s)
      calibrate s1 s1.pwr.pl.toNat (presentCores s1)
  | .s3 =>
      let s1 := watchAll (atWakePl (buildRemap s))
      let s2 := calibrate s1 s1.pwr.pl.toNat (presentCores s1)
      bookReach { s2 with
        boot := .ready, ddrDone := true, fab := { s2.fab with rbBuilt := true }, glb := { s2.glb with pllLock := true } }
  | _ => s

/-- The bit of a wake source; a trigger input fires only where it is enabled (R504, R511). -/
def sourceBit (s : State) : WakeSource → Option Nat
  | .host => some 9
  | .sdio => some 10
  | .trigger p => if p < 8 ∧ bit s.pwr.wakeEn p then some p else none
  | .timer => some 11
  | .link => if (List.range 6).any fun p => (getPort s p).wakeEn then some 12 else none

/-- A source fires; in a lower state that it leaves, the device returns to S0 (R504-R506). -/
def wakeBy (s : State) (b : Nat) : State :=
  let s1 := wakeFires s b
  if s1.pwr.target.isNone ∧ bit (wakeMask s1.pwr.state) b then wakeNow s1 else s1

/-- WAKE (R504-R506). -/
def execWake (source : WakeSource) (s : State) : Host.Outcome State Fault Refusal :=
  match sourceBit s source with
  | none => .next s
  | some b => .next (wakeBy s b)

/-- A WAKE from the peer of a port in LPI: the port leaves LPI, and with WAKE_EN the device leaves S2 (R504; spec/12_osust_links.md
R399). -/
def peerWake (s : State) (port : Nat) : State :=
  let s1 := modPort s port leavePortLpi
  if (getPort s port).wakeEn then wakeBy s1 12 else s1

/-- LPI_WAKE: a WAKE from either side takes a port out of LPI (R504; spec/12_osust_links.md R399). -/
def execLpiWake (port : Nat) (fromPeer : Bool) (s : State) : Host.Outcome State Fault Refusal :=
  if port < 6 ∧ (getPort s port).state = .lpi then
    .next (if fromPeer then peerWake s port else modPort s port leavePortLpi)
  else .next s

/-- LINK_FRAME_RECEIVE (spec/12_osust_links.md R378, R380, R381, R384, R399): a port in LPI heeds WAKE in a good header; any port but an
ACTIVE one discards the rest. -/
def execLinkFrameReceive (port : Nat) (frame : RxFrame) (s : State) : Host.Outcome State Fault Refusal :=
  let x := getPort s port
  if port ≥ 6 then .next s
  else if x.state = .active then .next (takeFrame s port frame)
  else if x.state = .lpi ∧ (goodFrame frame).any (fun f => hWake f.hdr) then .next (peerWake s port)
  else .next s

/-! ### Sleep states (R501-R503) -/

/-- Whether a convoy is open on the device (R502). -/
def convoyOpen (s : State) : Bool := !s.convoys.isEmpty || !s.hubCvy.isEmpty || s.cores.any fun q => !q.2.cvy.isEmpty

/-- Whether entry to a lower state completes with BAD_STATE (R502). -/
def sleepBad (s : State) : Bool :=
  convoyOpen s || !(ctxsIn s fun sh => sh.state == .running || sh.state == .stopping || sh.state == .resetting).isEmpty

/-- Whether a POWER_SET waits: a level or state change, a keep command or a test is in progress (R227 of spec/06_learning.md; R499,
R502). -/
def powerBusy (s : State) : Bool :=
  s.pwr.changing || s.pwr.target.isSome || s.bst.running.isSome ||
    !(ctxsIn s fun sh => sh.saving.isSome || sh.restoring.isSome).isEmpty

/-- The code of a state in W0[2:0]. -/
def stateOf (k : Nat) : PowerState := match k with | 0 => .s0 | 1 => .s1 | 2 => .s2 | 3 => .s3 | _ => .s4

/-- Check 3 and 4 of a debug token end with BAD_STATE when a power-state change begins or a brown-out comes first
(spec/18_security_debug.md R535). -/
def dropToken (s : State) : State :=
  if s.sec.request = .token then { s with sec := { s.sec with request := .none, result := stBadState } } else s

/-- The shards whose learned lines step 2 saves: those that have run since their last save (R503). -/
def unsaved (s : State) : List Nat := ctxsIn s fun sh => sh.state != .free && sh.ranSince

/-- The images of an automatic save written (R503; spec/06_learning.md R223). -/
def openSave (s : State) (ctx : Nat) : State := beginImages s ctx (shardCores s ctx) none

/-- An automatic save ended: markers under the next sequence number (R503; spec/06_learning.md R223). -/
def closeSave (s : State) (ctx : Nat) : State :=
  let seq := s.nv.saveSeq + 1
  let s1 := (keepCores s ctx).foldl (fun x n => commitImage x ctx n seq) s
  modShard { s1 with nv := { s1.nv with saveSeq := seq } } ctx fun sh => { sh with ranSince := false }

/-- A FULL debug session outside TEST ends on entry to S2 and S3 (spec/18_security_debug.md R536). -/
def endFull (s : State) : State := if s.sec.level = 2 ∧ s.nv.lcState ≠ 1 then endSession s else s

/-- The ports that are ACTIVE enter LPI, their receive sides OFF in a last header (R384, R399 of spec/12_osust_links.md). -/
def enterLpi (s : State) : State :=
  bookReach ((List.range 6).foldl (fun s p => modPort s p fun x =>
    if x.state = .active then { sendIdle s { x with ourOff := 0x3F } with state := .lpi } else x) s)

/-- S3: everything off but the always-on island, which keeps timers, mailboxes, SDIO, secure SRAM and secure keys; a wake from it has
the effects of a warm reset on the rest (R501, R505). -/
def intoS3 (s : State) : State :=
  let x := warmState (endFull s) 0
  { x with
    glb := { cause := s.glb.cause, refsrc := s.glb.refsrc, pllLock := false }
    tmr := s.tmr, mbx := s.mbx, sdio := s.sdio
    mgmt := { s.mgmt with queue := [], late := [], hart0 := none, hart1 := none }
    sec := (endFull s).sec
    pwr := { s.pwr with state := .s3, target := none, entryCmd := none }
    boot := s.boot }

/-- S4: only the non-volatile state is left (R501). -/
def intoS4 (s : State) : State :=
  let x := coldState s 7
  { x with boot := .off, glb := { x.glb with cause := 0, pllLock := false }, pwr := { x.pwr with state := .s4 } }

/-- A lower state reached, after the saves and the compute reset of its entry (R503). -/
def reachState (s : State) (st : PowerState) (h : Nat) : State :=
  match st with
  | .s1 =>
      let s1 := complete (setDivisor s 3) h stOk
      { s1 with pwr := { s1.pwr with state := .s1, target := none, entryCmd := none } }
  | .s2 =>
      let s1 := complete (enterLpi (endFull (computeReset ((unsaved s).foldl closeSave s) 0))) h stOk
      { s1 with pwr := { s1.pwr with state := .s2, target := none, entryCmd := none } }
  | .s3 => intoS3 (complete (computeReset ((unsaved s).foldl closeSave s) 0) h stOk)
  | .s4 => intoS4 (complete (computeReset ((unsaved s).foldl closeSave s) 0) h stOk)
  | .s0 => s

/-- SLEEP_ENTRY_DONE: the state is reached, and a wake that was latched meanwhile leaves it at once (R503, R506). -/
def execSleepEntryDone (s : State) : Host.Outcome State Fault Refusal :=
  match s.pwr.target, s.pwr.entryCmd with
  | some st, some h =>
      let s1 := reachState s st h
      .next (if s.pwr.latched &&& wakeMask st ≠ 0 then wakeNow s1 else s1)
  | _, _ => .next s

/-- A device in a lower state woken first by a POWER_SET, under the host-command source (R502). -/
def wokenFirst (s : State) : State :=
  if s.pwr.state = .s1 ∨ s.pwr.state = .s2 ∨ s.pwr.state = .s3 then wakeNow (wakeFires s 9) else s

/-- POWER_SET_PL: POWER_SET with W0[6] (R499). -/
def execPowerSetPl (h : Nat) (s : State) : Host.Outcome State Fault Refusal :=
  .next (withCmd s h 0x49 fun s f =>
    if mw f.manifest 0 / 2 ^ 6 % 2 = 0 ∨ powerBusy s then s
    else requestPl (wokenFirst s) f (BitVec.ofNat 2 (mw f.manifest 0 / 2 ^ 4)))

/-- POWER_SET_STATE: POWER_SET without W0[6] (R502, R503). -/
def execPowerSetState (h : Nat) (s : State) : Host.Outcome State Fault Refusal :=
  .next (withCmd s h 0x49 fun s f =>
    let w := mw f.manifest 0
    if w / 2 ^ 6 % 2 = 1 ∨ powerBusy s then s
    else
      let s1 := wokenFirst s
      let st := stateOf (w % 8)
      if st = .s0 then requestPl s1 f (BitVec.ofNat 2 (w / 2 ^ 4))
      else if sleepBad s1 then complete s1 h stBadState
      else
        let s2 := dropToken (begun s1 h)
        let s3 := if st = .s1 then s2 else (unsaved s2).foldl openSave s2
        { s3 with pwr := { s3.pwr with target := some st, entryCmd := some h, latched := 0 } })

/-! ### Brown-out (R507) -/

/-- BROWN_OUT: zeroisation, the tamper bit, a compute reset, and PL3 (R507). -/
def execBrownOut (rail : Nat) (s : State) : Host.Outcome State Fault Refusal :=
  if s.boot = .off ∨ !s.pwr.armed ∨ rail ≥ 4 then .next s
  else
    let s1 := computeReset (tamperMark (zeroise (dropToken s)) [3]) 0x002
    let s2 := { s1 with
      pwr := { s1.pwr with brownout := true, boRail := BitVec.ofNat 2 rail, plReq := 3, changing := false }
      nv := match s1.sec.request with | .transition _ => { s1.nv with torn := true } | _ => s1.nv
      sec := match s1.sec.request with | .transition _ => { s1.sec with request := .none } | _ => s1.sec }
    .next (endPlCmds (if s2.pwr.state = .s0 then setDivisor s2 3 else s2))

/-! ### Input, presence and the PM bus (R493, R494; spec/20_module_electrical.md R567-R573; spec/14_contexts_recovery.md R453) -/

/-- The actions of a removal or a power-fail warning, taken once: session keys zeroised, keep and depot writes stopped, the brown-out
detector disarmed (R494, R507; R453 of spec/14_contexts_recovery.md; assumption 58). -/
def removalActions (s : State) : State :=
  if s.pwr.pfail then s
  else
    let s1 := breakKeeps (zeroise s) stDeviceRemoved
    { s1 with pwr := { s1.pwr with pfail := true, armed := false } }

/-- Whether nothing keeps the hot-swap output off (R493; R568, R572 of spec/20_module_electrical.md). -/
def mayTurnOn (p : Power) : Bool := p.seated == 7 && !p.limitOff && !p.lockUv && !p.lockOv && !p.pmOff

/-- The output off: the volatile state is lost, and a life-cycle transition in progress is torn (R494; spec/18_security_debug.md
R515). -/
def outputOff (s : State) : State :=
  let x := coldState s 7
  { x with
    boot := .off
    nv := match s.sec.request with | .transition _ => { x.nv with torn := true } | _ => x.nv
    pwr := { x.pwr with output := false, status := x.pwr.status ||| 8 } }

/-- The output on, when nothing keeps it off: a cold reset with cause COLD_POWER (R494; R568 of
spec/20_module_electrical.md). -/
def outputOn (s : State) : State :=
  if s.pwr.output ∨ !mayTurnOn s.pwr then s
  else let x := coldState s 7; { x with pwr := { x.pwr with output := true, pfail := false } }

/-- POWER_FAIL_WARNING (R494). -/
def execPowerFailWarning (s : State) : Host.Outcome State Fault Refusal := .next (if s.boot = .off then s else removalActions s)

/-- CURRENT_LIMIT_TRIP: the output turns off (R493). -/
def execCurrentLimitTrip (s : State) : Host.Outcome State Fault Refusal :=
  if s.pwr.output then
    let x := outputOff s
    .next { x with pwr := { x.pwr with limitOff := true, status := x.pwr.status ||| 4 } }
  else .next s

/-- CURRENT_LIMIT_RETRY: the output turns on again (R493). -/
def execCurrentLimitRetry (s : State) : Host.Outcome State Fault Refusal :=
  .next (if s.pwr.limitOff then outputOn { s with pwr := { s.pwr with limitOff := false } } else s)

/-- INPUT_LOCKOUT: the input, in units of 10 mV, crosses a threshold of the lockouts (R493). -/
def execInputLockout (vinCentivolt : Nat) (rising : Bool) (s : State) : Host.Outcome State Fault Refusal :=
  let p := s.pwr
  let uv : Bool := if rising then p.lockUv && vinCentivolt ≤ 3900 else p.lockUv || vinCentivolt < 3800
  let ov : Bool := vinCentivolt > 6200
  let q := { p with lockUv := uv, lockOv := ov, status := p.status ||| BitVec.ofNat 4 (b1 (uv && !p.lockUv) + 2 * b1 (ov && !p.lockOv)) }
  let s1 := { s with pwr := q }
  .next (if uv ∨ ov then (if p.output then outputOff s1 else s1) else outputOn s1)

/-- PRESENCE_SEATED: the three contacts have read seated for 20 ms (R568 of spec/20_module_electrical.md). -/
def execPresenceSeated (s : State) : Host.Outcome State Fault Refusal :=
  .next (outputOn { s with pwr := { s.pwr with seated := 7 } })

/-- PRESENCE_OPEN: the removal actions, and the output turns off (R569 of spec/20_module_electrical.md). -/
def execPresenceOpen (contact : Nat) (s : State) : Host.Outcome State Fault Refusal :=
  if contact ≥ 3 then .next s
  else
    let s1 := { s with pwr := { s.pwr with seated := setFld s.pwr.seated contact contact 0 } }
    .next (if s.pwr.output then outputOff (removalActions s1) else s1)

/-- PMBUS_COMMAND: OPERATION, CLEAR_FAULTS, or a reading; any other command is not acknowledged and changes nothing (R572 of
spec/20_module_electrical.md; assumption 59). -/
def execPmbusCommand (code data : Nat) (s : State) : Host.Outcome State Fault Refusal :=
  match code with
  | 0x01 =>
      if s.pwr.limitOff then .next s
      else if data = 0x80 then .next (outputOn { s with pwr := { s.pwr with pmOff := false } })
      else if data = 0x00 then
        let s1 := { s with pwr := { s.pwr with pmOff := true } }
        .next (if s.pwr.output then outputOff (removalActions s1) else s1)
      else .next s
  | 0x03 => .next { s with pwr := { s.pwr with status := 0 } }
  | 0x79 => .next { s with rdata := s.pwr.status.setWidth 64 }
  | c =>
      if c = 0x88 ∨ c = 0x89 ∨ c = 0x8D ∨ c = 0x97 then
        .next { s with rdata := ((Config.measured s.free).extractLsb' 0 16).setWidth 64, free := s.free + 1 }
      else .next s

/-! ### PWR registers (R511) -/

/-- PWR_STAT.STATE. -/
def PowerState.code : PowerState → Nat
  | .s0 => 0
  | .s1 => 1
  | .s2 => 2
  | .s3 => 3
  | .s4 => 4

/-- A register of the PWR block. -/
def pwrRead (s : State) (off : Nat) : Word :=
  let p := s.pwr
  let low := p.state == .s2 || p.state == .s3
  match off with
  | 0x00 => BitVec.ofNat 32 (p.capW.toNat * 2 ^ 16 + p.wakePl.toNat * 2 ^ 4)
  | 0x04 => BitVec.ofNat 32 (p.state.code * 2 ^ 29 + b1 (p.target.isSome || p.changing) * 2 ^ 28 + p.plReq.toNat * 2 ^ 26 +
      p.plTherm.toNat * 2 ^ 24 + p.pl.toNat * 2 ^ 22 + b1 (p.plTherm != 0) * 2 ^ 21 + b1 p.hwlimit * 2 ^ 20 +
      b1 p.brownout * 2 ^ 19 + b1 low * 2 ^ 18 + p.boRail.toNat * 2 ^ 16)
  | 0x08 => p.wakeEn.setWidth 32
  | 0x0C => p.wakeStat.setWidth 32
  | 0x10 => p.throttleC ++ p.tjMax ++ p.tj ++ (0 : BitVec 8)
  | 0x14 => p.vin ++ p.iin
  | 0x18 => p.pAvg ++ p.pMax
  | _ => if 0x20 ≤ off ∧ off < 0x38 then nget 0 p.rails ((off - 0x20) / 4) else 0

/-- The PWR block after a read of a register: its RC fields are clear. -/
def pwrClear (s : State) (off : Nat) : State :=
  match off with
  | 0x10 => { s with pwr := { s.pwr with tjMax := 0 } }
  | 0x18 => { s with pwr := { s.pwr with pMax := 0 } }
  | _ => s

/-- The BAR0 address of a PWR register. -/
def pwrAddr (off : Nat) : Nat := 0x800000 + off

/-- A write of a PWR register (R511): from MID 0x0 to 0x3, with every field in its range; after lock its RWL field keeps its value, the
write is logged with LOCKED, and the rest of it stands (assumption 50). -/
def pwrWrite (s : State) (mid off : Nat) (v : Word) : State :=
  let p := s.pwr
  if mid > 3 then clogBar s mid (pwrAddr off) stAccess
  else match off with
    | 0x00 =>
        let cap := fld v 31 16
        if cap < 346 ∨ 480 < cap then clogBar s mid (pwrAddr off) stAccess
        else
          let s1 := { s with pwr := { p with wakePl := BitVec.ofNat 2 (fld v 5 4) } }
          if s.glb.locked then clogBar s1 mid (pwrAddr off) stLocked
          else { s1 with pwr := { s1.pwr with capW := BitVec.ofNat 16 cap } }
    | 0x04 => { s with pwr := { p with brownout := w1c p.brownout (bit v 19) } }
    | 0x08 => { s with pwr := { p with wakeEn := BitVec.ofNat 8 (fld v 7 0) } }
    | 0x0C => { s with pwr := { p with wakeStat := p.wakeStat &&& ~~~(BitVec.ofNat 13 v.toNat) } }
    | 0x10 =>
        let t := fld v 31 24
        if t < 85 ∨ 104 < t then clogBar s mid (pwrAddr off) stAccess
        else if s.glb.locked then clogBar s mid (pwrAddr off) stLocked
        else { s with pwr := { p with throttleC := BitVec.ofNat 8 t } }
    | _ => s

end Sys2Proof.Machine
end

