-- ==== Sys2Proof/Machine/Security.lean ====
section
/-! DEFINITION. Security: the debug port and its levels, life-cycle transitions, firmware update, attestation and set-up lock
(spec/18_security_debug.md R512-R539; spec/11_fabric_tolls.md R366; spec/13_host_interface.md R427, R428). -/

namespace Sys2Proof.Machine

/-! ### Views that a report carries -/

/-- GLB_ID (spec/01_device_organisation.md R46). -/
def glbId (s : State) : Word := BitVec.ofNat 32 (0x4A7 * 2 ^ 20 + 0x0E1 * 2 ^ 8 + s.nv.stepMajor.toNat * 2 ^ 4 + s.nv.stepMinor.toNat)

/-- GLB_LC (R516). -/
def glbLc (s : State) : Word :=
  BitVec.ofNat 32 (s.nv.slotRevoked.toNat * 2 ^ 28 + s.nv.slotValid.toNat * 2 ^ 24 + s.sec.level.toNat * 2 ^ 22 +
    b1 s.sec.everFull * 2 ^ 21 + b1 s.sec.everNs * 2 ^ 20 + b1 s.nv.torn * 2 ^ 19 + s.nv.rollback.toNat * 2 ^ 8 + s.nv.lcState.toNat)

/-- GLB_LOCK (spec/13_host_interface.md R428). -/
def glbLock (s : State) : Word :=
  BitVec.ofNat 32 (b1 s.glb.locked * 2 ^ 31 + b1 s.glb.failed * 2 ^ 30 + s.glb.lockMid.toNat * 2 ^ 24 + s.glb.failRule.toNat * 2 ^ 16 +
    s.glb.failGate.toNat)

/-- SEC_STAT (R539). -/
def secStat (s : State) : Word :=
  BitVec.ofNat 32 (b1 s.sec.recovery * 2 ^ 31 + b1 s.sec.pufFail * 2 ^ 30 + b1 s.sec.zeroised * 2 ^ 29 + s.sec.fwSvn.toNat * 2 ^ 16 +
    s.sec.fwSlot.toNat * 2 ^ 14 + b1 s.sec.fwCopy * 2 ^ 13)

/-- GLB_CTX_c.STATE (spec/14_contexts_recovery.md R450). -/
def ShardState.code : ShardState → Nat
  | .free => 0
  | .stopped => 1
  | .running => 2
  | .stopping => 3
  | .resetting => 4

/-! ### The debug port (R531-R536) -/

/-- The BAR0 offset of SEC_DBG_CTL (R539). -/
def dbgCtlAddr : Nat := 0x900008

/-- Whether an access by the debug port reaches a BAR0 address (R532, R533): at NONE only the life-cycle view, the debug registers,
nonce, IDHASH and token buffer, in SCRAPPED only the first, and in S3 only the blocks of the always-on island. -/
def debugReaches (s : State) (addr : Nat) : Bool :=
  (addr == 0x200) ||
  (s.nv.lcState != 5 && (addr == 0x900008 || addr == 0x90000C || (0x900040 ≤ addr && addr < 0x900090) ||
    (0x901000 ≤ addr && addr < 0x906000))) ||
  (s.nv.lcState != 5 && s.sec.level != 0 &&
    (s.pwr.state != .s3 || (0x900000 ≤ addr && addr < 0xA00000) || (0x600000 ≤ addr && addr < 0x800000)))

/-- Whether a master's access reaches a BAR0 address. -/
def reaches (s : State) (mid addr : Nat) : Bool := mid != 4 || debugReaches s addr

/-- Whether SEC_DBG_CTL is checking a request (R539). -/
def secBusy (s : State) : Bool := s.sec.request != .none

/-- Whether the device is in S0 with no power-state change in progress (R535). -/
def inS0 (s : State) : Bool := s.pwr.state == .s0 && s.pwr.target.isNone

/-- SEC_DBG_STAT.RESULT set. -/
def secResult (s : State) (st : Status) : State := { s with sec := { s.sec with result := st } }

/-- A level opened: NONSECURE or FULL, with its EVER bit (R535). -/
def openLevel (s : State) (l : BitVec 2) : State :=
  { s with sec := { s.sec with
      level := l, everFull := s.sec.everFull || l == 2, everNs := s.sec.everNs || l == 1
      haltedHarts := if l = 2 then s.sec.haltedHarts else s.sec.haltedHarts.filter (2 ≤ ·), result := stOk } }

/-- Whether a level exists in the present life-cycle state (R512, R537). -/
def levelExists (lc : BitVec 3) (l : Nat) : Bool :=
  (l == 1 && (lc == 1 || lc == 2 || lc == 3)) || (l == 2 && (lc == 1 || lc == 2 || lc == 3 || lc == 4))

/-- Whether a level may be opened without a token (R512). -/
def levelFree (lc : BitVec 3) (l : Nat) : Bool :=
  (lc == 1 && (l == 1 || l == 2)) || (lc == 2 && l == 1) || (lc == 4 && l == 2)

/-- A session closed; in BLANK the request is discarded (R539). -/
def dbgClose (s : State) : State := if s.nv.lcState = 0 then s else endSession s

/-- An OPEN request (R535). OPEN of NONE acts as CLOSE (R539). -/
def dbgOpen (s : State) (l : Nat) : State :=
  if l = 0 then dbgClose s
  else if !inS0 s || !levelFree s.nv.lcState l then secResult s stBadState
  else openLevel s (BitVec.ofNat 2 l)

/-- Whether a life-cycle transition under a token exists (R513). -/
def tokenMove (lc : BitVec 3) (target : Nat) : Bool :=
  (lc == 1 && (target == 2 || target == 3)) || ((lc == 2 || lc == 3) && target == 4) || (lc != 0 && lc.toNat < 5 && target == 5)

/-- Whether a shard is RUNNING, STOPPING or RESETTING (R513). -/
def shardsBusy (s : State) : Bool :=
  !(ctxsIn s fun sh => sh.state == .running || sh.state == .stopping || sh.state == .resetting).isEmpty

/-- The bytes of the token buffer (R534). -/
def tokenBytes (s : State) : List Byte := ngetList 0 s.sec.token 0 17152

/-- A PRESENT request: the checks before the token is looked at (R513, R535; assumption 61). -/
def dbgPresent (s : State) : State :=
  let purpose := memGet s.sec.token 2 1
  let target := purpose - 0x10
  if !inS0 s then secResult s stBadState
  else if purpose = 1 ∨ purpose = 2 then
    if levelExists s.nv.lcState purpose then { s with sec := { s.sec with request := .token } } else secResult s stBadState
  else if purpose < 0x10 ∨ !tokenMove s.nv.lcState target then secResult s stBadState
  else if s.glb.locked then secResult s stLocked
  else if shardsBusy s then secResult s stBadState
  else { s with sec := { s.sec with request := .token } }

/-- A GO_PRODUCTION request (R513). -/
def dbgGo (s : State) : State :=
  if !inS0 s || s.nv.lcState != 2 then secResult s stBadState
  else if s.glb.locked then secResult s stLocked
  else if shardsBusy s then secResult s stBadState
  else { s with sec := { s.sec with request := .transition 3 } }

/-- A write of SEC_DBG_CTL: from MID 0x0, 0x1 or 0x4, with its KEY, one request at most and none in progress; GO_PRODUCTION from 0x0
and 0x1 only. Any other write is discarded and logged (R539). In SCRAPPED the debug port does not reach it (R532). -/
def dbgCtl (s : State) (mid : Nat) (v : Word) : State :=
  let asks := fld v 3 0
  if !(mid == 0 || mid == 1 || (mid == 4 && asks != 1)) || !reaches s mid dbgCtlAddr || fld v 31 24 != 0x3D || secBusy s ||
      !([0, 1, 2, 4, 8].contains asks) then
    clogBar s mid dbgCtlAddr stAccess
  else match asks with
    | 1 => dbgGo s
    | 2 => dbgPresent s
    | 4 => dbgClose s
    | 8 => dbgOpen s (fld v 5 4)
    | _ => s

/-- DEBUG_OPEN (R535). -/
def execDebugOpen (mid : Nat) (value : Word) (s : State) : Host.Outcome State Fault Refusal := .next (dbgCtl s mid value)
/-- DEBUG_CLOSE (R536). -/
def execDebugClose (mid : Nat) (value : Word) (s : State) : Host.Outcome State Fault Refusal := .next (dbgCtl s mid value)
/-- PRESENT (R535). -/
def execPresent (mid : Nat) (value : Word) (s : State) : Host.Outcome State Fault Refusal := .next (dbgCtl s mid value)
/-- GO_PRODUCTION (R513). -/
def execGoProduction (mid : Nat) (value : Word) (s : State) : Host.Outcome State Fault Refusal := .next (dbgCtl s mid value)

/-- Whether a token passes checks 3 and 4 of R535. -/
def tokenOk (s : State) : Bool :=
  let t := tokenBytes s
  let slot := imgNum t 4 1
  imgNum t 3 1 == s.nv.lcState.toNat && imgNum t 0x10 32 == s.sec.nonce.toNat &&
    imgNum t 0x30 48 == (if s.nv.lcState = 1 then 0 else s.sec.idhash.toNat) &&
    slot ≤ 3 && bit s.nv.slotValid slot && !bit s.nv.slotRevoked slot &&
    Config.sha384 (imgPart t 0x60 0x220) == Config.slotHash slot &&
    Config.rsaPssVerify (imgPart t 0x60 0x220) (imgPart t 0 0x220) (imgPart t 0x220 0x3A0) &&
    Config.slhDsaVerify (imgPart t 0x60 0x220) (imgPart t 0 0x220) (imgPart t 0x3A0 0x4300)

/-- Whether the life-cycle state permits what a token asks for: a level or a transition (check 2 of R535). -/
def tokenMay (s : State) : Bool :=
  let purpose := memGet s.sec.token 2 1
  if purpose < 0x10 then (purpose == 1 || purpose == 2) && levelExists s.nv.lcState purpose else tokenMove s.nv.lcState (purpose - 0x10)

/-- The checks of a token ended: the level opens, the transition starts, or the token is refused. A buffer rewritten meanwhile meets
check 2 again (R513, R535; assumption 61). -/
def tokenDone (s : State) : State :=
  let s1 := { s with sec := { s.sec with request := .none } }
  let purpose := memGet s.sec.token 2 1
  if !tokenMay s then secResult s1 stBadState
  else if !tokenOk s then secResult s1 stAuthFailed
  else if purpose < 0x10 then openLevel s1 (BitVec.ofNat 2 purpose)
  else { s1 with sec := { s1.sec with request := .transition (BitVec.ofNat 3 (purpose - 0x10)) } }

/-- TOKEN_CHECK_DONE: hart 1 ends the checks (R535). -/
def execTokenCheckDone (s : State) : Host.Outcome State Fault Refusal :=
  if s.sec.request = .token ∧ hartRuns s 1 then .next (tokenDone s) else .next s

/-- What a transition does to the keys: identity keys are made on leaving TEST, and every key derived from the PUF and every keep
slot is lost on entering RMA or SCRAPPED (R514). -/
def moveKeys (n : NonVolatile) (target : BitVec 3) : NonVolatile :=
  if target = 4 ∨ target = 5 then { n with identity := false, keyEpoch := n.keyEpoch + 1, keep := [] }
  else if n.lcState = 1 then { n with identity := true }
  else n

/-- LC_TRANSITION_DONE: the fuses verify and GLB_LC takes the new state, or the transition was interrupted and the earlier state
stands with TORN (R513-R515; assumption 62). -/
def execLcTransitionDone (interrupted : Bool) (s : State) : Host.Outcome State Fault Refusal :=
  match s.sec.request with
  | .transition t =>
      let s1 := { s with sec := { s.sec with request := .none } }
      if interrupted then .next { s1 with nv := { s1.nv with torn := true } }
      else
        let s2 := endSession { s1 with nv := { moveKeys s1.nv t with lcState := t, torn := false } }
        .next (secResult { s2 with sec := { s2.sec with idhash := idHash s2 } } stOk)
  | _ => .next s

/-- What IDCODE returns: version, part, manufacturer, and the constant 1 of IEEE 1149.1 (R531; assumption 60). -/
def idcode (s : State) : BitVec 64 := BitVec.ofNat 64 (s.nv.stepMajor.toNat * 2 ^ 28 + 0x0E1 * 2 ^ 12 + 0x4A7 * 2 + 1)

/-- Whether the TAP accepts an instruction (R531). -/
def jtagAccepts (s : State) (i : JtagIns) : Bool :=
  match i with
  | .samplePreload => s.nv.lcState.toNat ≤ 1 || s.sec.level != 0
  | .extest => s.nv.lcState.toNat ≤ 1 || s.sec.level != 0
  | _ => true

/-- An accepted TAP instruction: entering EXTEST zeroises, leaving it forces a warm reset (R531). -/
def jtagTake (s : State) (i : JtagIns) : State :=
  let s1 := { s with sec := { s.sec with jtag := i } }
  let s2 := if i = .idcode then { s1 with rdata := idcode s } else s1
  if i = .extest ∧ s.sec.jtag ≠ .extest then zeroise s2
  else if s.sec.jtag = .extest ∧ i ≠ .extest then { warmState s2 10 with rdata := s2.rdata }
  else s2

/-- JTAG_INSTRUCTION (R531). An unpowered device does not answer (R533). -/
def execJtagInstruction (ins : JtagIns) (s : State) : Host.Outcome State Fault Refusal :=
  if s.boot = .off ∨ !jtagAccepts s ins then .next s else .next (jtagTake s ins)

/-! ### Firmware update (R524) -/

/-- The inactive copy: the one that is not VALID, else the one with the lower SEQ. True is copy B. -/
def inactive (n : NonVolatile) : Bool :=
  if !n.copyB.valid then true else if !n.copyA.valid then false else n.copyB.seq.toNat < n.copyA.seq.toNat

/-- A copy replaced. -/
def setCopy (n : NonVolatile) (b : Bool) (c : FwCopy) : NonVolatile := if b then { n with copyB := c } else { n with copyA := c }

/-- The copy that an update writes: the one that it began with, which is not VALID since its first part (assumption 63). -/
def updateStop (s : State) : State :=
  let s1 := { s with sec := { s.sec with updateAt := none } }
  if s.sec.updateAt.isNone then s1 else { s1 with nv := setCopy s1.nv (inactive s1.nv) { copyOf s1.nv (inactive s1.nv) with bytes := [] } }

/-- A part taken: its bytes follow those before it, and the LAST part is verified (R524). -/
def updatePart (s : State) (h : Nat) (last : Bool) (bytes : List Byte) : State :=
  let b := inactive s.nv
  let old := copyOf s.nv b
  let image := (if s.sec.updateAt.isNone then [] else old.bytes) ++ bytes
  let c : FwCopy := { old with shipped := false, valid := false, bytes := image }
  let s1 := { s with nv := setCopy s.nv b c, sec := { s.sec with updateAt := some image.length } }
  if !last then complete s1 h stOk
  else
    let s2 := { s1 with sec := { s1.sec with updateAt := none } }
    if imageOk s2.nv image then
      complete { s2 with nv := setCopy s2.nv b { c with valid := true, seq := (copyOf s2.nv (!b)).seq + 1 } } h stOk
    else complete s2 h stAuthFailed

/-- FIRMWARE_UPDATE (R524). -/
def execFirmwareUpdate (h : Nat) (s : State) : Host.Outcome State Fault Refusal :=
  .next (withCmd s h 0x40 fun s f =>
    let off := mw f.manifest 1
    let bytes := linesBytes f.bales
    if s.glb.locked ∧ !s.sec.recovery then complete s h stLocked
    else if off ≠ s.sec.updateAt.getD 0 ∨ off + bytes.length > 2 ^ 23 then complete (updateStop s) h stBadState
    else updatePart s h (mw f.manifest 0 % 2 = 1) bytes)

/-! ### Attestation (R525, R526) -/

/-- An entry of a report. -/
def reportEntry (s : State) (ctx : Nat) : List Byte :=
  let sh := getShard s ctx
  bytesOf 1 ctx ++ bytesOf 1 sh.state.code ++ bytesOf 14 sh.gen.toNat ++ bytesOf 48 sh.measure.toNat

/-- The signed part of a report (R526). -/
def reportBody (s : State) (nonce : Nat) : List Byte :=
  let cs := ctxsIn s fun sh => sh.state != .free
  let n := cs.length
  bytesOf 2 1 ++ bytesOf 2 n ++ bytesOf 4 (16768 + 64 * n) ++ bytesOf 16 nonce ++ bytesOf 48 s.sec.idhash.toNat ++
    bytesOf 4 (glbId s).toNat ++ bytesOf 4 (glbLc s).toNat ++ bytesOf 4 (glbLock s).toNat ++ bytesOf 4 (secStat s).toNat ++
    bytesOf 4 s.shape.toNat ++ bytesOf 4 s.sec.reports.toNat ++ bytesOf 48 s.sec.fwHash.toNat ++ bytesOf 16 0 ++
    cs.flatMap (reportEntry s)

/-- A signature cut or filled to its length. -/
def fit (n : Nat) (bs : List Byte) : List Byte := (bs ++ List.replicate n 0).take n

/-- A report built and signed (R526). -/
def buildReport (s : State) (nonce : Nat) : State :=
  let s1 := { s with sec := { s.sec with reports := s.sec.reports + 1 } }
  let b := reportBody s1 nonce
  { s1 with sec := { s1.sec with
      report := b ++ fit 384 (Config.rsaSign s1.nv.keyEpoch b) ++ fit 16224 (Config.slhSign s1.nv.keyEpoch b) } }

/-- ATTEST: served in DEVELOP and PRODUCTION and in recovery, unless the PUF failed (R526). -/
def execAttest (h : Nat) (s : State) : Host.Outcome State Fault Refusal :=
  .next (withCmd s h 0x41 fun s f =>
    if (s.nv.lcState = 2 ∨ s.nv.lcState = 3 ∨ s.sec.recovery) ∧ !s.sec.pufFail then
      let s1 := buildReport s (fld f.manifest 255 128)
      complete s1 h stOk s1.sec.report.length
    else complete s h stBadState)

/-! ### Set-up lock (R538; spec/11_fabric_tolls.md R366; spec/13_host_interface.md R427, R428) -/

/-- The rule of R366 that a gate breaks: 0 none, 1 SLOTS, 2 EVENT, 3 MGMT. -/
def gateRule (way : Bool) (g : Gate) : Nat :=
  let a := g.nextA
  let b := g.nextB
  if ((List.range 8).map (slotsOf a b)).sum > 64 then 1
  else if way && slotsOf a b 0 < 8 then 2
  else if slotsOf a b 5 < 1 then 3
  else 0

/-- Every gate of the device with its number in FAILGATE and the rule that it breaks, in order (R428). -/
def gateRules (s : State) : List (Nat × Nat) :=
  ((presentCores s).flatMap fun n => ((List.range 9).filter (gateExists s n)).map fun g =>
    (n * 16 + g, gateRule (g != 0 && g != 1 && g != 7) (tileGate s n g))) ++
  ((List.range 16).map fun c => (0x4000 + c, gateRule false (ddrGate s c))) ++
  [(0x4010, gateRule false s.fab.cmd), (0x4011, gateRule false s.fab.cvy)]

/-- The MID that submitted a command. -/
def originMid : Origin → BitVec 4
  | .sdio => 1
  | _ => 0

/-- An attempt to take the lock: its status and the state after it (R366, R427, R428, R538). -/
def takeLock (s : State) (mid : BitVec 4) : Status × State :=
  let s1 := { s with glb := { s.glb with lockMid := mid, failed := false, failRule := 0, failGate := 0 } }
  if s.sec.recovery ∨ s.nv.lcState = 0 ∨ s.nv.lcState = 5 then (stBadState, s1)
  else if s.glb.locked then (stLocked, s1)
  else match (gateRules s).find? fun q => q.2 != 0 with
    | some q => (stBadState, { s1 with glb := { s1.glb with
        failed := true, failRule := BitVec.ofNat 8 q.2, failGate := BitVec.ofNat 16 q.1 } })
    | none => (stOk, { s1 with glb := { s1.glb with locked := true } })

/-- LOCK: RESULT is GLB_LOCK after the attempt (R421 of spec/13_host_interface.md). -/
def execLock (h : Nat) (s : State) : Host.Outcome State Fault Refusal :=
  .next (withCmd s h 0x42 fun s f =>
    let r := takeLock s (originMid f.origin)
    complete r.2 h r.1 (glbLock r.2).toNat)

end Sys2Proof.Machine
end

