-- ==== Sys2Proof/Machine/Bist.lean ====
section
/-! DEFINITION. The BIST controller: reach, tests, budgets and limits, and the registers of the BST block
(spec/19_bringup_selftest.md R549-R559). -/

namespace Sys2Proof.Machine

/-! ### Reach and limits (R551, R557) -/

/-- Whether the life-cycle state gives full reach. -/
def bistFull (lc : BitVec 3) : Bool := lc == 0 || lc == 1 || lc == 4
/-- Whether it gives field reach. -/
def bistField (lc : BitVec 3) : Bool := lc == 2 || lc == 3

/-- Whether the device is within the limits of a test: at PL0, or in TEST with VCORE set by VSET (R557; spec/17_power.md
R495, R496). -/
def inLimits (s : State) : Bool := s.pwr.pl == 0 || (s.nv.lcState == 1 && s.bst.vset != 0)

/-- The duration of a slice at PL0 in units of 10 ns: its elements are claim, march, logic and zeroing (R552). -/
def sliceTime (test : Nat) : Nat := match test with | 0 => 3868 | 1 => 17820 | _ => 19868

/-- Whether the elements of a slice exceed its budget at a level (R554). -/
def overBudget (us pl test : Nat) : Bool := test != 3 && us * 100 * 64 < sliceTime test * ddrShare pl

/-- The cores that a test runs on (R552, R553): every present core bound to no context, or TCORE. -/
def bistCores (s : State) (test : Nat) (all : Bool) (core : Nat) : List Nat :=
  if test = 3 then presentCores s
  else if all then (presentCores s).filter fun n => !(getCore s n).bound
  else [core]

/-- Whether a test may start in the present life-cycle state, on its core and with the shards as they are (R551, R553). -/
def bistMay (s : State) (test : Nat) (all : Bool) (core : Nat) : Bool :=
  (bistFull s.nv.lcState || (bistField s.nv.lcState && test != 3)) && s.pwr.state == .s0 &&
    (if test = 3 then (ctxsIn s fun sh => sh.state != .free).isEmpty
     else all || (present s core && !(getCore s core).bound))

/-! ### Running a test (R551-R558) -/

/-- BST_STAT at the start of a test. -/
def bistMark (s : State) (test : Nat) : State :=
  { s with bst := { s.bst with test := BitVec.ofNat 2 test, hwstop := false, status := stOk, tiles := 0, fail := none } }

/-- A test started (R552-R554). -/
def bistStart (s : State) (test : Nat) (all : Bool) (core : Nat) (cmd : Option Nat) : State :=
  let s1 := bistMark s test
  { s1 with bst := { s1.bst with running := some {
      test := BitVec.ofNat 2 test, cores := bistCores s test all core
      partly := overBudget s.bst.sliceUs.toNat s.pwr.pl.toNat test, cmd := cmd } } }

/-- BIST_RUN (R551-R557). It waits while a test or a power-state change is in progress (assumption 64). -/
def execBistRun (h : Nat) (s : State) : Host.Outcome State Fault Refusal :=
  .next (withCmd s h 0x48 fun s f =>
    let w := mw f.manifest 0
    let test := w % 4
    let all := w / 4 % 2 = 1
    if s.bst.running.isSome ∨ s.pwr.target.isSome then s
    else if !bistMay s test all (mTcore f.manifest) then complete s h stBadState
    else if !inLimits s then
      let s1 := bistMark s test
      complete { s1 with bst := { s1.bst with status := stBistLimit } } h stBistLimit
    else bistStart (begun s h) test all (mTcore f.manifest) (some h))

/-- The BAR0 address of a BST register. -/
def bstAddr (off : Nat) : Nat := 0xA00000 + off

/-- A write of BST_CTL: from MID 0x2 and 0x4 in full reach, with its KEY, while no test runs (R551, R559). -/
def bstCtl (s : State) (mid : Nat) (v : Word) : State :=
  let test := fld v 21 20
  let all := bit v 22
  if !(mid == 2 || mid == 4) || !bistFull s.nv.lcState || !reaches s mid (bstAddr 4) || fld v 31 24 != 0x6B || s.bst.running.isSome then
    clogBar s mid (bstAddr 4) stAccess
  else if !bit v 23 || s.pwr.target.isSome || !bistMay s test all (fld v 9 0) then s
  else if !inLimits s then
    let s1 := bistMark s test
    { s1 with bst := { s1.bst with status := stBistLimit } }
  else bistStart s test all (fld v 9 0) none

/-- BST_CTL_GO (R551, R559). -/
def execBstCtlGo (mid : Nat) (value : Word) (s : State) : Host.Outcome State Fault Refusal := .next (bstCtl s mid value)

/-- The failures that a test may find on some of its cores; the full-device test tests every tile. -/
def ownFailures (s : State) (test : BitVec 2) (cores : List Nat) (fs : List TestFailure) : List TestFailure :=
  if test = 3 then fs else fs.filter fun f => cores.any fun n => tileOf s n == some (f.py * 34 + f.px)

/-- The failing cores held out until the next cold or warm reset (R556). -/
def holdCores (s : State) (fs : List TestFailure) : State :=
  { s with bst := { s.bst with held := fs.foldl (fun l f =>
      match coreAt s (f.py * 34 + f.px) with | some n => insNat n l | none => l) s.bst.held } }

/-- The memories of tested tiles zeroed (R552, R554). -/
def zeroTiles (s : State) (cores : List Nat) : State := cores.foldl (fun s n => modCore s n zeroCore) s

/-- The depot after the full-device test: unrelated data (R555; assumption 65). -/
def wreckDepot (s : State) : State :=
  { s with dep := wipeDepot s.dep }

/-- The number of tiles that a test completes. -/
def tilesOf (r : BistRun) : Nat := if r.test = 3 then 1088 else if r.partly then 0 else r.cores.length

/-- The status of a test (R558). -/
def bistStatus (failed stopped partly : Bool) : Status :=
  if failed then stBistFail else if stopped then stBistLimit else if partly then stPartial else stOk

/-- A test ended with the failures of its completed tiles: the ledger, the cores held out, the zeroed memories, the energies of the
tiles that passed, the status and the completion (R552, R555-R558; spec/17_power.md R509). -/
def bistEnd (s : State) (r : BistRun) (done : List Nat) (tiles : Nat) (stopped : Bool) (failures : List TestFailure) : State :=
  let fs := ownFailures s r.test done failures
  let st := bistStatus (!fs.isEmpty) stopped r.partly
  let s1 := holdCores (repairAll s (if r.test = 3 then 2 else 1) fs) fs
  let s2 := zeroTiles s1 r.cores
  let s3 := if r.test = 3 then wreckDepot s2 else s2
  let s4 := if r.test = 3 ∨ stopped ∨ r.partly then s3
    else calibrate s3 s3.pwr.pl.toNat (done.filter fun n => !s3.bst.held.contains n)
  let s5 := { s4 with bst := { s4.bst with
    running := none, hwstop := stopped, status := st, tiles := BitVec.ofNat 11 tiles, fail := fs.head? } }
  match r.cmd with
  | some h => complete s5 h st tiles
  | none => s5

/-- BIST_DONE (R558). -/
def execBistDone (failures : List TestFailure) (s : State) : Host.Outcome State Fault Refusal :=
  match s.bst.running with
  | none => .next s
  | some r => .next (bistEnd s r r.cores (tilesOf r) false failures)

/-- BIST_LIMIT_STOP: the engine stops with the tiles that completed (R557). -/
def execBistLimitStop (completed : Nat) (failures : List TestFailure) (s : State) : Host.Outcome State Fault Refusal :=
  match s.bst.running with
  | none => .next s
  | some r =>
      let n := min completed (tilesOf r)
      .next (bistEnd s r (r.cores.take n) n true failures)

/-! ### The BST registers (R549, R559) -/

/-- A write of BST_CLR: MID 0x4 in RMA with its KEY (R549, R559). -/
def ledgerClear (s : State) (mid : Nat) (v : Word) : State :=
  if mid ≠ 4 ∨ s.nv.lcState ≠ 4 ∨ !reaches s mid (bstAddr 0x14) ∨ fld v 31 24 ≠ 0xC3 then clogBar s mid (bstAddr 0x14) stAccess
  else if bit v 0 then { s with nv := { s.nv with ledgerA := [], ledgerB := [] } }
  else s

/-- LEDGER_CLEAR (R549). -/
def execLedgerClear (mid : Nat) (value : Word) (s : State) : Host.Outcome State Fault Refusal := .next (ledgerClear s mid value)

/-- BST_FAIL of a failure. -/
def failWord (f : TestFailure) : Word :=
  BitVec.ofNat 32 (2 ^ 31 + f.px % 64 * 2 ^ 25 + f.py % 32 * 2 ^ 20 + f.mem % 16 * 2 ^ 16 + f.array % 16 * 2 ^ 12 + f.row % 2 ^ 12)

/-- A register of the BST block. -/
def bstRead (s : State) (off : Nat) : Word :=
  let b := s.bst
  match off with
  | 0x00 => BitVec.ofNat 32 (b.sliceUs.toNat * 2 ^ 16 + b.vset.toNat)
  | 0x08 => BitVec.ofNat 32 (b1 b.running.isSome * 2 ^ 31 + b.test.toNat * 2 ^ 29 + b1 b.hwstop * 2 ^ 28 + b.status.toNat * 2 ^ 20 +
      b.tiles.toNat)
  | 0x0C => BitVec.ofNat 32 (b1 b.full * 2 ^ 31 + b1 b.mismatch * 2 ^ 30 + b.held.length % 2 ^ 9 * 2 ^ 11 + (ledgerOf s.nv).length % 2 ^ 9)
  | 0x10 => match b.fail with | some f => failWord f | none => 0
  | _ => if 0x1000 ≤ off ∧ off < 0x2000 then
      ((ledgerOf s.nv).getD ((off - 0x1000) / 16) 0).extractLsb' (off % 16 / 4 * 32) 32 else 0

/-- A write of BST_CFG: every field in its range, VSET in TEST only, SLICE_US until lock (R557, R559; assumption 50). -/
def bstCfg (s : State) (mid : Nat) (v : Word) : State :=
  let us := fld v 25 16
  let vs := fld v 7 0
  if us < 50 ∨ 1000 < us ∨ (vs ≠ 0 ∧ (s.nv.lcState ≠ 1 ∨ vs < 70 ∨ 80 < vs)) then clogBar s mid (bstAddr 0) stAccess
  else
    let s1 := { s with bst := { s.bst with vset := BitVec.ofNat 8 vs } }
    if s.glb.locked then clogBar s1 mid (bstAddr 0) stLocked
    else { s1 with bst := { s1.bst with sliceUs := BitVec.ofNat 10 us } }

/-- A write of a BST register (R559). -/
def bstWrite (s : State) (mid off : Nat) (v : Word) : State :=
  if !(mid == 0 || mid == 1 || mid == 2 || mid == 4) || s.nv.lcState == 5 then clogBar s mid (bstAddr off) stAccess
  else match off with
    | 0x00 => bstCfg s mid v
    | 0x04 => bstCtl s mid v
    | 0x0C => { s with bst := { s.bst with mismatch := w1c s.bst.mismatch (bit v 30) } }
    | 0x14 => ledgerClear s mid v
    | _ => s

end Sys2Proof.Machine
end

