-- ==== Sys2Proof/Machine/Mailbox.lean ====
section
/-! DEFINITION. Mailboxes (spec/15_management_mailboxes.md R466-R475). -/

namespace Sys2Proof.Machine

/-- The BAR0 offset of a register of channel `n` (R473). -/
def mbxAddr (n off : Nat) : Nat := 0x700000 + 0x80 * n + off

/-- The interrupt of one side of a channel, by its MID (R471): an MSI-X vector, SDIO_INT.MBX, or a hart. -/
def mbxInterrupt (s : State) (n mid : Nat) : State :=
  match mid with
  | 0 => { s with hif := { s.hif with msix := s.hif.msix ++ [(getMbx s n).vector.toNat] } }
  | 1 => { s with sdio := { s.sdio with intMbx := true } }
  | 2 => { s with mgmt := { s.mgmt with irq := s.mgmt.irq ++ [1] } }
  | 3 => { s with mgmt := { s.mgmt with irq := s.mgmt.irq ++ [2] } }
  | _ => s

/-- A write that only the sender may make (R472). -/
def senderMay (x : Mailbox) (mid : Nat) : Bool := x.en && x.smid.toNat == mid

/-- A write that only the receiver may make (R472). -/
def receiverMay (x : Mailbox) (mid : Nat) : Bool := x.en && x.rmid.toNat == mid

/-- A write to MBX_n_DATA: stored while the channel is empty, else discarded with OVERWRITE and a log entry
(R468, R472). -/
def mbxData (s : State) (mid n word : Nat) (value : Word) : State :=
  let x := getMbx s n
  let addr := mbxAddr n (4 * word)
  if !senderMay x mid then clogBar s mid addr stAccess
  else if x.pend ≠ 0 then clogBar (setMbx s n { x with overwrite := true }) mid addr stAccess
  else setMbx s n { x with data := nset 0 x.data word value }

/-- MAILBOX_DATA_WRITE (R468). -/
def execMailboxDataWrite (mid n word : Nat) (value : Word) (s : State) : Host.Outcome State Fault Refusal :=
  if n < 16 ∧ word < 16 then .next (mbxData s mid n word value) else .next s

/-- A SET write: its bits become pending, the acknowledge timer starts when the channel was empty, and the receiver
is interrupted while PEND AND NOT MASK is nonzero (R468, R470). -/
def mbxSetBits (s : State) (mid n : Nat) (bits : Word) : State :=
  let x := getMbx s n
  if !senderMay x mid then clogBar s mid (mbxAddr n 0x40) stAccess
  else
    let y := { x with
      pend := x.pend ||| bits
      timing := if x.pend = 0 ∧ bits ≠ 0 then x.tmoUs ≠ 0 else x.timing }
    let s1 := setMbx s n y
    let s2 := if bits &&& ~~~x.mask ≠ 0 then mbxInterrupt s1 n x.rmid.toNat else s1
    if mid = 1 ∧ (x.rmid = 2 ∨ x.rmid = 3) ∧ bits ≠ 0 then
      wakeFires s2 10
    else s2

/-- MAILBOX_SET (R468). A SET by MID 0x1 to a hart is also an SDIO wake source (spec/17_power.md R504). -/
def execMailboxSet (mid n : Nat) (bits : Word) (s : State) : Host.Outcome State Fault Refusal :=
  if n < 16 then .next (mbxSetBits s mid n bits) else .next s

/-- A W1C write to PEND: the one that clears the last pending bit empties the channel (R468). -/
def mbxClear (s : State) (mid n : Nat) (bits : Word) : State :=
  let x := getMbx s n
  if !receiverMay x mid then clogBar s mid (mbxAddr n 0x44) stAccess
  else
    let p := x.pend &&& ~~~bits
    if x.pend ≠ 0 ∧ p = 0 then
      mbxInterrupt (setMbx s n { x with pend := 0, empty := true, seq := x.seq + 1, timing := false }) n x.smid.toNat
    else setMbx s n { x with pend := p }

/-- MAILBOX_PEND_CLEAR (R468). -/
def execMailboxPendClear (mid n : Nat) (bits : Word) (s : State) : Host.Outcome State Fault Refusal :=
  if n < 16 then .next (mbxClear s mid n bits) else .next s

/-- MAILBOX_ACK_TIMEOUT: the acknowledge timer of a channel that has not emptied expires (R470). -/
def execMailboxAckTimeout (n : Nat) (s : State) : Host.Outcome State Fault Refusal :=
  let x := getMbx s n
  if x.timing then .next (mbxInterrupt (setMbx s n { x with tmo := true, timing := false }) n x.smid.toNat)
  else .next s

/-- Whether a binding is permitted: only MIDs 0 to 4, two different sides, MID 2 on a SECURE channel with neither 3 nor
4, and never MID 2 on another one (R466, R467). An entry with EN 0 binds no side (assumption 16). -/
def bindOk (en secure : Bool) (smid rmid : Nat) : Bool :=
  !en || (smid ≤ 4 && rmid ≤ 4 && smid != rmid &&
    (if secure then (smid == 2 || rmid == 2) && smid ≤ 2 && rmid ≤ 2 else smid != 2 && rmid != 2))

/-- A write to MBX_BIND_n (R474): RWL; from MID 0x2, and from MID 0x0 for NON-SECURE entries except their SECURE bit. A
change empties the channel and clears its STAT bits. -/
def mbxBind (s : State) (mid n : Nat) (value : Word) : State :=
  let x := getMbx s n
  let addr := 0x700900 + 4 * n
  let secure := if mid = 2 then bit value 30 else x.secure
  let y := { x with
    en := bit value 31, secure := secure, vector := BitVec.ofNat 8 (fld value 29 22)
    smid := BitVec.ofNat 4 (fld value 7 4), rmid := BitVec.ofNat 4 (fld value 3 0) }
  if s.glb.locked then clogBar s mid addr stLocked
  else if ¬ (mid = 2 ∨ (mid = 0 ∧ !x.secure)) then clogBar s mid addr stAccess
  else if !bindOk y.en y.secure y.smid.toNat y.rmid.toNat then clogBar s mid addr stAccess
  else if y = x then s
  else setMbx s n { y with pend := 0, empty := false, tmo := false, overwrite := false, timing := false }

/-- MAILBOX_BIND (R474). -/
def execMailboxBind (mid n : Nat) (value : Word) (s : State) : Host.Outcome State Fault Refusal :=
  if n < 16 then .next (mbxBind s mid n value) else .next s

end Sys2Proof.Machine
end

