-- ==== Sys2Proof/Machine/Regs.lean ====
section
/-! DEFINITION. The BAR0 map: reads and writes of every register block, the customs log, and register access over SDIO
(spec/01_device_organisation.md R37-R51; spec/09_queues_active_messages.md R319, R320). -/

namespace Sys2Proof.Machine

/-! ### The customs log (spec/09_queues_active_messages.md R319, R320) -/

/-- The record that a CLOG_A and CLOG_B pair carries (spec/11_fabric_tolls.md R371). -/
def logEntry (a b : Packet) (seq : Word) : LogEntry :=
  { valid := true
    mid := BitVec.ofNat 4 (stamp a / 2 ^ 12)
    sdev := BitVec.ofNat 9 (payload b / 2 ^ 20)
    score := BitVec.ofNat 10 (payload b / 2 ^ 10)
    status := BitVec.ofNat 8 (stamp a)
    tcore := BitVec.ofNat 10 (payload b)
    ctx := BitVec.ofNat 6 (pctx a)
    addr := BitVec.ofNat 32 (payload a)
    seq := seq }

/-- A record written over the oldest (R319). SEQ counts it (assumption 66). -/
def logRecord (g : Glb) (a b : Packet) : Glb :=
  let i := g.next.toNat
  { g with
    log := nset {} g.log i (logEntry a b (g.seq + 1))
    overwrote := g.overwrote || (nget {} g.log i).valid
    next := g.next + 1
    total := satAdd g.total 1
    seq := g.seq + 1 }

/-- CUSTOMS_LOG_RECORD: a pair reaches GLB (R319). -/
def execCustomsLogRecord (a b : Packet) (s : State) : Host.Outcome State Fault Refusal :=
  if subtype a = 0x25 ∧ subtype b = 0x26 then
    let s1 := hubDone (hubDone s a) b
    .next { s1 with glb := logRecord s1.glb a b }
  else .next s

/-- A write to GLB_CLOG_CLR (R320). -/
def clogClear (s : State) (v : Word) : State :=
  if bit v 0 then
    { s with glb := { s.glb with
        log := (s.glb.log.map fun q => (q.1, { q.2 with valid := false })).filter fun q => q.2 ≠ {} } }
  else s

/-- CUSTOMS_LOG_CLEAR (R320). -/
def execCustomsLogClear (mid : Nat) (value : Word) (s : State) : Host.Outcome State Fault Refusal :=
  .next (if reaches s mid 0x1404 then clogClear s value else clogBar s mid 0x1404 stAccess)

/-- Word `k` of a log entry. -/
def logWord (e : LogEntry) (k : Nat) : Word :=
  match k with
  | 0 => e.seq
  | 1 => e.addr
  | 2 => e.tcore ++ e.ctx ++ (0 : BitVec 16)
  | _ => BitVec.ofBool e.valid ++ e.mid ++ e.sdev ++ e.score ++ e.status

/-! ### GLB (R46-R50; spec/13_host_interface.md R428; spec/14_contexts_recovery.md R449, R450) -/

/-- GLB_CORES and GLB_ROWMAP_y report the remap from Ready on (spec/19_bringup_selftest.md R542). -/
def rowLen (s : State) (y : Nat) : Nat := if s.fab.rbBuilt then (nget [] s.remap y).length else 0

/-- GLB_CORES (R48). -/
def glbCores (s : State) : Word :=
  if !s.fab.rbBuilt then 0
  else
    let ls := (List.range 32).map (rowLen s)
    BitVec.ofNat 32 (ls.sum * 2 ^ 16 + s.glb.sparesFree * 2 ^ 8 + (ls.filter (· < 32)).length)

/-- GLB_CTX_c (spec/14_contexts_recovery.md R450). -/
def glbCtx (s : State) (c : Nat) : Word :=
  let sh := getShard s c
  BitVec.ofNat 32 (sh.state.code * 2 ^ 29 + b1 sh.paced * 2 ^ 28 + sh.overrun.toNat * 2 ^ 26 + sh.w.toNat * 2 ^ 22 +
    sh.gen.toNat * 2 ^ 18 + (shardCores s c).length * 2 ^ 7)

/-- A register of the GLB block. -/
def glbRead (s : State) (off : Nat) : Word :=
  match off with
  | 0x000 => glbId s
  | 0x004 => BitVec.ofNat 32 (0x10 * 2 ^ 16 + (if s.nv.part = .m128 then 0x80 else 0x100))
  | 0x008 => glbCores s
  | 0x00C => BitVec.ofNat 32 (s.pwr.pl.toNat * 2 ^ 4 + b1 s.glb.pllLock * 2 + b1 s.glb.refsrc)
  | 0x200 => glbLc s
  | 0x300 => glbLock s
  | 0x404 => s.glb.cause.setWidth 32
  | 0x1400 => BitVec.ofNat 32 (b1 s.glb.overwrote * 2 ^ 31 + s.glb.next.toNat * 2 ^ 16 + s.glb.total.toNat)
  | _ =>
      if 0x100 ≤ off ∧ off < 0x180 then BitVec.ofNat 32 (2 ^ rowLen s ((off - 0x100) / 4) - 1)
      else if 0x1000 ≤ off ∧ off < 0x1400 then logWord (nget {} s.glb.log ((off - 0x1000) / 16)) (off % 16 / 4)
      else if 0x2000 ≤ off ∧ off < 0x2100 then glbCtx s ((off - 0x2000) / 4)
      else 0

/-- A write to GLB_RESET (spec/14_contexts_recovery.md R449). -/
def glbReset (s : State) (mid : Nat) (v : Word) : State :=
  if mid > 2 ∨ fld v 31 24 ≠ 0xC5 then clogBar s mid 0x400 stAccess
  else match fld v 2 0 with
    | 1 => if s.mgmt.restarting then s else startRestart s 0 .register
    | 2 => computeReset s 0x004
    | 3 => warmState s 5
    | _ => clogBar s mid 0x400 stAccess

/-- A write to the GLB block. -/
def glbWrite (s : State) (mid off : Nat) (v : Word) : State :=
  match off with
  | 0x400 => glbReset s mid v
  | 0x404 => { s with glb := { s.glb with cause := s.glb.cause &&& ~~~(BitVec.ofNat 11 v.toNat) } }
  | 0x1400 => { s with glb := { s.glb with overwrote := w1c s.glb.overwrote (bit v 31) } }
  | 0x1404 => clogClear s v
  | _ => s

/-! ### HIF (spec/13_host_interface.md R429) -/

/-- A register of the HIF block. -/
def hifRead (s : State) (off : Nat) : Word :=
  if off = 0 then BitVec.ofNat 32 (b1 (s.hif.fetched.all fun f => f.held) * 2 + b1 s.hif.en)
  else if 0x1000 ≤ off ∧ off < 0x3000 then
    let n := (off - 0x1000) / 0x20
    let q := getSq s n
    match off % 0x20 with
    | 0x00 => q.base.extractLsb' 0 32
    | 0x04 => q.base.extractLsb' 32 32
    | 0x08 => BitVec.ofNat 32 (b1 q.en * 2 ^ 31 + q.log2.toNat * 2 ^ 24 + q.cq.toNat * 2 ^ 16)
    | 0x0C => q.head.setWidth 32
    | 0x10 => BitVec.ofNat 32 (b1 q.dberr * 2 ^ 31 + b1 q.skip * 2 ^ 30 + inflight s n)
    | _ => 0
  else if 0x3000 ≤ off ∧ off < 0x5000 then
    let c := getCq s ((off - 0x3000) / 0x20)
    match off % 0x20 with
    | 0x00 => c.base.extractLsb' 0 32
    | 0x04 => c.base.extractLsb' 32 32
    | 0x08 => BitVec.ofNat 32 (b1 c.en * 2 ^ 31 + c.log2.toNat * 2 ^ 24 + c.vector.toNat * 2 ^ 16 + c.coalCnt.toNat * 2 ^ 8 +
        c.coalUs.toNat)
    | 0x0C => BitVec.ofNat 32 (b1 c.phase * 2 ^ 16 + c.tail.toNat)
    | 0x10 => BitVec.ofNat 32 (b1 c.dberr * 2 ^ 31 + b1 (!c.hold.isEmpty) * 2 ^ 30 + min c.hold.length 64)
    | _ => 0
  else if 0x8000 ≤ off ∧ off < 0x9000 then nget 0 s.hif.msixTable ((off - 0x8000) / 4)
  else 0

/-- Whether an offset is a 64-bit ring base of HIF. -/
def isBase (off : Nat) : Bool := 0x1000 ≤ off && off < 0x5000 && off % 0x20 == 0

/-- A ring base written: RWL, bits [63:12]. -/
def hifBase (s : State) (mid off : Nat) (v : BitVec 64) : State :=
  let b := v &&& 0xFFFFFFFFFFFFF000
  if s.glb.locked then clogBar s mid (0x100000 + off) stLocked
  else if off < 0x3000 then let n := (off - 0x1000) / 0x20; setSq s n { getSq s n with base := b }
  else let n := (off - 0x3000) / 0x20; setCq s n { getCq s n with base := b }

/-- A 32-bit write to the HIF block. -/
def hifWrite (s : State) (mid off : Nat) (v : Word) : State :=
  if off = 0 then { s with hif := { s.hif with en := bit v 0 } }
  else if 0x1000 ≤ off ∧ off < 0x3000 then
    let n := (off - 0x1000) / 0x20
    let q := getSq s n
    match off % 0x20 with
    | 0x08 =>
        if s.glb.locked then clogBar s mid (0x100000 + off) stLocked
        else setSq s n { q with en := bit v 31, log2 := BitVec.ofNat 4 (fld v 27 24), cq := BitVec.ofNat 8 (fld v 23 16) }
    | 0x10 => setSq s n { q with dberr := w1c q.dberr (bit v 31), skip := w1c q.skip (bit v 30) }
    | _ => s
  else if 0x3000 ≤ off ∧ off < 0x5000 then
    let n := (off - 0x3000) / 0x20
    let c := getCq s n
    match off % 0x20 with
    | 0x08 =>
        if s.glb.locked then clogBar s mid (0x100000 + off) stLocked
        else setCq s n { c with
          en := bit v 31, log2 := BitVec.ofNat 4 (fld v 27 24), vector := BitVec.ofNat 8 (fld v 23 16)
          coalCnt := BitVec.ofNat 8 (fld v 15 8), coalUs := BitVec.ofNat 8 (fld v 7 0) }
    | 0x10 => setCq s n { c with dberr := w1c c.dberr (bit v 31) }
    | _ => s
  else if 0x8000 ≤ off ∧ off < 0x9000 then
    { s with hif := { s.hif with msixTable := nset 0 s.hif.msixTable ((off - 0x8000) / 4) v } }
  else s

/-! ### FAB (spec/11_fabric_tolls.md R370, R372, R373) -/

/-- A value rounded up to tens. -/
def tens (n : Nat) : Nat := (n + 9) / 10

/-- The hops on an intermediate die between an entry and an exit port (spec/12_osust_links.md R393). -/
def dieHops (entry exit : Nat) : Nat :=
  (if (entry < 3) = (exit < 3) then 0 else 33) + 8 * dist (entry % 3) (exit % 3)

/-- The ports by which a packet leaves each device on its way to another (spec/12_osust_links.md R389). -/
def routeWalk (shape : Word) : Nat → Nat → Nat → List Nat
  | 0, _, _ => []
  | n + 1, here, dest =>
      match shapePort shape here dest with
      | none => []
      | some p =>
          let k := if p < 3 then 1 else sizeOf' shape (p % 3) - 1
          p :: routeWalk shape n (devPlus shape here (p % 3) k) dest

/-- The hops between hub attachment column 3 and the attachment of a port in row a + 3 (spec/12_osust_links.md R393). -/
def hubHops (p : Nat) : Nat := hops (hubTile 3) (portTile p 3)

/-- The cycles on the dies between the first and the last link of a route. -/
def dieCycles : List Nat → Nat
  | p :: q :: ps => dieHops ((p + 3) % 6) q + 2 + dieCycles (q :: ps)
  | _ => 0

/-- The nominal latency of a route in units of 10 ns: cycles of 0.5 ns and 110 ns a link, rounded up (spec/12_osust_links.md R393). -/
def routeLatency (ps : List Nat) : Nat :=
  match ps with
  | [] => 0
  | p :: _ =>
      let cycles := hubHops p + 2 + dieCycles ps + hubHops ((ps.getLastD 0 + 3) % 6) + 1
      tens ((cycles + 1) / 2 + 110 * ps.length)

/-- A device table entry of the route book (R372). -/
def bookDevice (s : State) (d : Nat) : Word :=
  if !s.fab.rbBuilt ∨ !inShape s.shape d then 0
  else
    let ps := routeWalk s.shape 24 (devNo s) d
    let n (dim : Nat) : Nat := (ps.filter fun p => p % 3 == dim).length
    BitVec.ofNat 32 (b1 (s.fab.reachable.contains d) * 2 ^ 31 + n 0 * 2 ^ 20 + n 1 * 2 ^ 16 + n 2 * 2 ^ 12 + routeLatency ps % 2 ^ 12)

/-- The byte `i` of a core table entry (R373). -/
def bookByte (s : State) (n i : Nat) : Nat :=
  let t := (tileOf s n).getD 0
  let laneHops (c : Nat) : Nat := dist (t / 34) (laneRow (t / 34) (c ≥ 8))
  if i < 23 then 0
  else if i = 23 then 0x80
  else if i = 24 then t % 34
  else if i = 25 then hops t (hubTile n)
  else if i < 32 then hops t (portTile (i - 26) (n / 32))
  else if i < 48 then laneHops (i - 32)
  else if laneHops (i - 48) = 0 then 90 else 92 + laneHops (i - 48)

/-- A word of the core table (R373). -/
def bookCore (s : State) (n k : Nat) : Word :=
  if s.fab.rbBuilt ∧ present s n then
    BitVec.ofNat 32 (((List.range 4).map fun i => bookByte s n (4 * k + i) % 256 * 256 ^ i).sum)
  else 0

/-- FAB_RB_HDR (R372). -/
def bookHeader (s : State) : Word :=
  if s.fab.rbBuilt then
    BitVec.ofNat 32 (2 ^ 31 + devNo s * 2 ^ 22 + fld s.shape 19 17 * 2 ^ 19 + fld s.shape 22 20 * 2 ^ 16 + fld s.shape 25 23 * 2 ^ 13)
  else 0

/-- The device gate at an offset of FAB, and whether it is its B word (R370). -/
def fabGate (s : State) (off : Nat) : Option (Gate × Bool) :=
  if off % 16 ≥ 8 then none
  else if 0x100 ≤ off ∧ off < 0x200 then some (ddrGate s ((off - 0x100) / 16), off % 16 == 4)
  else if 0x200 ≤ off ∧ off < 0x210 then some (s.fab.cmd, off % 16 == 4)
  else if 0x210 ≤ off ∧ off < 0x220 then some (s.fab.cvy, off % 16 == 4)
  else none

/-- A register of the FAB block. -/
def fabRead (s : State) (off : Nat) : Word :=
  if off = 0 then s.fab.win
  else if off = 4 then s.fab.ce ++ s.fab.ue ++ s.fab.badPkt ++ s.fab.absent
  else if off = 0x10000 then bookHeader s
  else if 0x11000 ≤ off ∧ off < 0x11800 then bookDevice s ((off - 0x11000) / 4)
  else if 0x20000 ≤ off ∧ off < 0x30000 then bookCore s ((off - 0x20000) / 64) (off % 64 / 4)
  else match fabGate s off with
    | some (g, true) => g.b
    | some (g, false) => g.a
    | none => 0

/-- A write to the FAB block: the gates, RWL, effective at the next window boundary (R366, R370). -/
def fabWrite (s : State) (mid off : Nat) (v : Word) : State :=
  match fabGate s off with
  | none => s
  | some (g, isB) =>
      if s.glb.locked then clogBar s mid (0x200000 + off) stLocked
      else
        let x : Gate := if isB then { g with pendB := some v } else { g with pendA := some v }
        if off < 0x200 then setDdrGate s ((off - 0x100) / 16) x
        else if off < 0x210 then { s with fab := { s.fab with cmd := x } }
        else { s with fab := { s.fab with cvy := x } }

/-! ### STR (spec/07_streams_ingest_readout.md R258) and DEP (spec/05_synapse_storage.md R178) -/

/-- The code of an ingest stream's state. -/
def StreamState.code : StreamState → Nat
  | .closed => 0
  | .opened => 1
  | .running => 2
  | .idle => 3

/-- The code of a result stream's state. -/
def ResultState.code : ResultState → Nat
  | .closed => 0
  | .opened => 1
  | .running => 2

/-- A register of an ingest stream. -/
def inReg (x : Ingest) (off : Nat) : Word :=
  match off with
  | 0x00 => BitVec.ofNat 32 (x.state.code * 2 ^ 30 + b1 x.fallback * 2 ^ 29 + b1 x.heldRg * 2 ^ 28)
  | 0x04 => x.doneReg
  | 0x08 => x.clamp ++ x.lateRow
  | 0x0C => x.switches ++ x.badAddr
  | 0x10 => x.rows
  | _ => 0

/-- An ingest stream after a read of a register. -/
def inRegClear (x : Ingest) (off : Nat) : Ingest :=
  match off with
  | 0x08 => { x with clamp := 0, lateRow := 0 }
  | 0x0C => { x with switches := 0, badAddr := 0 }
  | _ => x

/-- A register of a result stream. -/
def resReg (x : ResultStream) (off : Nat) : Word :=
  match off with
  | 0x00 => BitVec.ofNat 32 (x.state.code * 2 ^ 30 + min (x.held.length + x.again.length) 16 * 2 ^ 25)
  | 0x04 => x.win
  | 0x08 => x.rclamp ++ x.rdrop
  | 0x0C => x.late ++ x.loss
  | 0x10 => x.maxUs ++ x.lastUs
  | _ => 0

/-- A result stream after a read of a register. -/
def resRegClear (x : ResultStream) (off : Nat) : ResultStream :=
  match off with
  | 0x08 => { x with rclamp := 0, rdrop := 0 }
  | 0x0C => { x with late := 0, loss := 0 }
  | 0x10 => { x with maxUs := 0 }
  | _ => x

/-- A register of a stream: ingest streams 0 to 63, result streams from 64 on. -/
def strReg (s : State) (o off : Nat) : Word := if o < 64 then inReg (getIn s o) off else resReg (getRes s (o - 64)) off

/-- The state after a read of a stream's register. -/
def strRegClear (s : State) (o off : Nat) : State :=
  if o < 64 then setIn s o (inRegClear (getIn s o) off) else setRes s (o - 64) (resRegClear (getRes s (o - 64)) off)

/-- The stream and the offset in its set that an offset of the STR block names. -/
def strAt (off : Nat) : Option (Nat × Nat) :=
  if off < 0x800 then some (off / 0x20, off % 0x20)
  else if 0x1000 ≤ off ∧ off < 0x1800 then some (64 + (off - 0x1000) / 0x20, off % 0x20)
  else none

/-- The key of a region register at an offset of the DEP block. -/
def depAt (off : Nat) : Option Nat :=
  if 0x1000 ≤ off ∧ off < 0x1400 ∧ off % 16 < 8 then some (2 * ((off - 0x1000) / 16) + off % 16 / 4) else none

/-- A write to the DEP block: region registers from MID 0x2 only. -/
def depRegWrite (s : State) (mid off : Nat) (v : Word) : State :=
  match depAt off with
  | none => s
  | some k =>
      if mid ≠ 2 then clogBar s mid (0x400000 + off) stAccess
      else { s with dep := { s.dep with rgn := nset 0 s.dep.rgn k (v &&& 0x0FFF07FF) } }

/-! ### TMR (spec/16_timers.md R491) -/

/-- Compare `k` as TMR_i_CMPk shows it: in pace mode the next due time and its step (spec/16_timers.md R485). -/
def cmpReg (s : State) (t : Timer) (k : Nat) : Word :=
  if t.mode = .pace then
    let sh := getShard s t.pctx.toNat
    let d := dueTime sh sh.nextRel
    match k with
    | 0 => BitVec.ofNat 32 d
    | 1 => BitVec.ofNat 32 (d / 2 ^ 32)
    | 2 => BitVec.ofNat 32 sh.nextRel
    | _ => nget 0 t.cmp k
  else nget 0 t.cmp k

/-- A register of a timer. -/
def tmrReg (s : State) (t : Timer) (off : Nat) : Word :=
  match off with
  | 0x00 => BitVec.ofNat 32 (b1 t.en * 2 ^ 31 + t.mode.bits * 2 ^ 29 + b1 t.oneshot * 2 ^ 28 + b1 t.wake * 2 ^ 26 + b1 t.ie * 2 ^ 25 +
      t.vector.toNat * 2 ^ 17 + t.pre.toNat)
  | 0x04 => BitVec.ofNat 32 (b1 t.zero * 2 ^ 31 + b1 t.ovf * 2 ^ 30 + t.matches_.toNat * 2 ^ 26 + t.behind.toNat * 2 ^ 22 +
      b1 t.capNew * 2 ^ 21 + b1 t.capOver * 2 ^ 20 + (if t.mode = .pace then 2 ^ 19 + t.pctx.toNat * 2 ^ 13 else 0))
  | 0x08 => t.count
  | 0x0C => t.reload
  | 0x20 => t.tb.extractLsb' 0 32
  | 0x24 => t.tbHi
  | 0x28 => t.capTb.extractLsb' 0 32
  | 0x2C => t.snapHi
  | 0x30 => t.snapCnt
  | 0x34 => BitVec.ofNat 32 (t.src.toNat * 2 ^ 29 + t.edge.toNat * 2 ^ 27 + t.pin.toNat * 2 ^ 24 + t.index.toNat)
  | 0x38 => BitVec.ofNat 32 (t.levt.toNat * 2 ^ 30 + t.lcsel.toNat * 2 ^ 28 + t.lact.toNat * 2 ^ 26 + t.ltarget.toNat * 2 ^ 21)
  | _ => if 0x10 ≤ off ∧ off < 0x20 then cmpReg s t ((off - 0x10) / 4) else 0

/-- A timer after a read of a register: TBLO and CAPLO take their snapshots (spec/16_timers.md R478, R489). -/
def tmrRegClear (t : Timer) (off : Nat) : Timer :=
  match off with
  | 0x20 => { t with tbHi := t.tb.extractLsb' 32 32 }
  | 0x28 => { t with snapHi := t.capTb.extractLsb' 32 32, snapCnt := t.capCount, capNew := false }
  | _ => t

/-- A timer after a write of a register other than CTL. -/
def tmrSet (t : Timer) (off : Nat) (v : Word) : Timer :=
  match off with
  | 0x04 => { t with
      zero := w1c t.zero (bit v 31), ovf := w1c t.ovf (bit v 30), capOver := w1c t.capOver (bit v 20)
      matches_ := t.matches_ &&& ~~~(BitVec.ofNat 4 (fld v 29 26)) }
  | 0x08 => { t with count := v }
  | 0x0C => { t with reload := v }
  | 0x20 => { t with tb := setFld t.tb 31 0 v.toNat }
  | 0x24 => { t with tb := setFld t.tb 63 32 v.toNat }
  | 0x34 => { t with
      src := BitVec.ofNat 3 (fld v 31 29), edge := BitVec.ofNat 2 (fld v 28 27), pin := BitVec.ofNat 3 (fld v 26 24)
      index := BitVec.ofNat 10 (fld v 9 0) }
  | 0x38 => { t with
      levt := BitVec.ofNat 2 (fld v 31 30), lcsel := BitVec.ofNat 2 (fld v 29 28), lact := BitVec.ofNat 2 (fld v 27 26)
      ltarget := BitVec.ofNat 5 (fld v 25 21) }
  | _ => if 0x10 ≤ off ∧ off < 0x20 then tmrSetCmp t ((off - 0x10) / 4) v else t

/-- A write to a timer register (spec/16_timers.md R477, R478, R485, R491). -/
def tmrWrite (s : State) (mid i off : Nat) (v : Word) : State :=
  let t := getTmr s i
  if off = 0 then tmrWriteCtl s mid i v
  else if !tmrMay t mid || (t.en && (off == 0x08 || off == 0x20 || off == 0x24)) then clogBar s mid (tmrAddr i off) stAccess
  else syncWatch (setTmr s i (tmrSet t off v)) [t.index.toNat, (tmrSet t off v).index.toNat]

/-! ### MBX (spec/15_management_mailboxes.md R472-R476) -/

/-- A register of a mailbox channel. -/
def mbxReg (x : Mailbox) (off : Nat) : Word :=
  match off with
  | 0x44 => x.pend
  | 0x48 => x.mask
  | 0x4C => BitVec.ofNat 32 (b1 (x.pend != 0) * 2 ^ 31 + b1 x.empty * 2 ^ 30 + b1 x.tmo * 2 ^ 29 + b1 x.overwrite * 2 ^ 28 + x.seq.toNat)
  | 0x50 => x.tmoUs.setWidth 32
  | _ => if off < 0x40 then nget 0 x.data (off / 4) else 0

/-- Whether a master may read a channel: both of its sides may (spec/15_management_mailboxes.md R472). -/
def mbxMayRead (x : Mailbox) (mid : Nat) : Bool := senderMay x mid || receiverMay x mid

/-- MBX_BIND_n. -/
def bindReg (x : Mailbox) : Word :=
  BitVec.ofNat 32 (b1 x.en * 2 ^ 31 + b1 x.secure * 2 ^ 30 + x.vector.toNat * 2 ^ 22 + x.smid.toNat * 2 ^ 4 + x.rmid.toNat)

/-- A register of the MBX block. -/
def mbxRead (s : State) (mid off : Nat) : Word :=
  if off < 0x800 then
    let x := getMbx s (off / 0x80)
    if mbxMayRead x mid then mbxReg x (off % 0x80) else 0
  else if off < 0x900 then healthRead s (off - 0x800)
  else if off < 0x940 then bindReg (getMbx s ((off - 0x900) / 4))
  else 0

/-- The state after a read of the MBX block: a refused one is logged (spec/15_management_mailboxes.md R472). -/
def mbxReadClear (s : State) (mid off : Nat) : State :=
  if off < 0x800 then
    if mbxMayRead (getMbx s (off / 0x80)) mid then s else clogBar s mid (0x700000 + off) stAccess
  else if off < 0x900 then healthClear s (off - 0x800)
  else s

/-- MASK written by the receiver: bits that become unmasked interrupt it (spec/15_management_mailboxes.md R471, R472). -/
def mbxMask (s : State) (mid n : Nat) (v : Word) : State :=
  let x := getMbx s n
  if !receiverMay x mid then clogBar s mid (mbxAddr n 0x48) stAccess
  else
    let s1 := setMbx s n { x with mask := v }
    if x.pend &&& ~~~x.mask = 0 ∧ x.pend &&& ~~~v ≠ 0 then mbxInterrupt s1 n mid else s1

/-- STAT and CFG written by the sender (spec/15_management_mailboxes.md R472, R473). -/
def mbxOwn (s : State) (mid n off : Nat) (v : Word) : State :=
  let x := getMbx s n
  if !senderMay x mid then clogBar s mid (mbxAddr n off) stAccess
  else if off = 0x4C then
    setMbx s n { x with empty := w1c x.empty (bit v 30), tmo := w1c x.tmo (bit v 29), overwrite := w1c x.overwrite (bit v 28) }
  else setMbx s n { x with tmoUs := BitVec.ofNat 16 (fld v 15 0) }

/-- A write to the MBX block. -/
def mbxWrite (s : State) (mid off : Nat) (v : Word) : State :=
  if off < 0x800 then
    let n := off / 0x80
    match off % 0x80 with
    | 0x40 => mbxSetBits s mid n v
    | 0x44 => mbxClear s mid n v
    | 0x48 => mbxMask s mid n v
    | 0x4C => mbxOwn s mid n 0x4C v
    | 0x50 => mbxOwn s mid n 0x50 v
    | r => if r < 0x40 then mbxData s mid n (r / 4) v else s
  else if 0x900 ≤ off ∧ off < 0x940 then mbxBind s mid ((off - 0x900) / 4) v
  else s

/-! ### SEC (spec/18_security_debug.md R539) -/

/-- A register of the SEC non-secure view. -/
def secRead (s : State) (off : Nat) : Word :=
  match off with
  | 0x00 => secStat s
  | 0x04 => BitVec.ofNat 32 (s.sec.tamperCnt.toNat * 2 ^ 24 + s.sec.tamper.toNat)
  | 0x0C => BitVec.ofNat 32 (b1 (secBusy s) * 2 ^ 31 + s.sec.result.toNat * 2 ^ 8)
  | _ =>
      if 0x40 ≤ off ∧ off < 0x60 then s.sec.nonce.extractLsb' (8 * (off - 0x40)) 32
      else if 0x60 ≤ off ∧ off < 0x90 then s.sec.idhash.extractLsb' (8 * (off - 0x60)) 32
      else if 0x1000 ≤ off ∧ off < 0x6000 then BitVec.ofNat 32 (memGet s.sec.token (off - 0x1000) 4)
      else 0

/-- A write to the SEC non-secure view (spec/18_security_debug.md R539). -/
def secWrite (s : State) (mid off : Nat) (v : Word) : State :=
  let refused := clogBar s mid (0x900000 + off) stAccess
  let w1cMay : Bool := mid == 0 || mid == 1 || mid == 2 || mid == 4
  if off = 0x00 then
    if w1cMay then { s with sec := { s.sec with zeroised := w1c s.sec.zeroised (bit v 29) } } else refused
  else if off = 0x04 then
    if w1cMay then { s with sec := { s.sec with tamper := s.sec.tamper &&& ~~~(BitVec.ofNat 5 (fld v 4 0)) } } else refused
  else if off = 0x08 then dbgCtl s mid v
  else if 0x1000 ≤ off ∧ off < 0x6000 then
    if mid = 0 ∨ mid = 1 ∨ mid = 4 then { s with sec := { s.sec with token := memSet s.sec.token (off - 0x1000) 4 v.toNat } } else refused
  else s

/-! ### Tile windows by way of the hub (R41, R44; spec/11_fabric_tolls.md R356, R371) -/

/-- The activity class of a master's packets (spec/11_fabric_tolls.md R356). -/
def midClass (mid : Nat) : Nat := if mid ≤ 1 then 4 else if mid = 4 then 7 else if mid = 5 then 6 else 5

/-- Whether tile windows answer: in S2 and S3 the tiles are off (R44; spec/18_security_debug.md R533). -/
def tilesOn (s : State) : Bool := s.pwr.state == .s0 || s.pwr.state == .s1

/-- A register request that the hub sends to a tile: subtype 1 writes, 2 reads (spec/11_fabric_tolls.md R371). -/
def regPkt (s : State) (mid core sub off pay : Nat) : Packet :=
  fromHub s mid core 7 0 sub off (getCore s core).ctx pay (midClass mid)

/-! ### The map (R41-R44) -/

/-- The block of a BAR0 address. -/
def blockOf (a : Nat) : Nat := a / 2 ^ 20

/-- Whether an offset of a block holds a register or is one that its chapter reserves; any other is unassigned (R44; assumption
77). -/
def declared (s : State) (blk off : Nat) : Bool :=
  match blk with
  | 0 => off < 0x10 || (0x100 ≤ off && off < 0x180) || (0x200 ≤ off && off < 0x1408) || (0x2000 ≤ off && off < 0x3000)
  | 1 => off < 0x9020
  | 2 => off < 0x100 || (fabGate s off).isSome || off / 4 == 0x4000 || (0x11000 ≤ off && off < 0x11800) ||
      (0x20000 ≤ off && off < 0x30000)
  | 3 => off < 0x280
  | 4 => 0x1000 ≤ off && off < 0x1400
  | 5 => (strAt off).isSome
  | 7 => off < 0x1000
  | _ => true

/-- Whether an address lies in an assigned part of BAR0; an absent core's window does not count (R41, R44). -/
def assigned (s : State) (a : Nat) : Bool :=
  (blockOf a ≤ 10 && declared s (blockOf a) (a % 2 ^ 20)) ||
    (16 ≤ blockOf a && blockOf a < 32 && present s ((a - 0x1000000) / 0x4000) && tilesOn s)

/-- A word of BAR0 below the tile windows, as a master reads it. -/
def barWord (s : State) (mid a : Nat) : Word :=
  let off := a % 2 ^ 20
  if !reaches s mid a then 0
  else match blockOf a with
    | 0 => glbRead s off
    | 1 => hifRead s off
    | 2 => fabRead s off
    | 3 => lnkRead s off
    | 4 => match depAt off with | some k => nget 0 s.dep.rgn k | none => 0
    | 5 => match strAt off with | some q => strReg s q.1 q.2 | none => 0
    | 6 => if off < 0x800 then tmrReg s (getTmr s (off / 0x40)) (off % 0x40) else 0
    | 7 => mbxRead s mid off
    | 8 => pwrRead s off
    | 9 => secRead s off
    | 10 => bstRead s off
    | _ => 0

/-- The state after that read: RC fields clear and snapshots are taken (spec/00_scope.md R11). -/
def barClear (s : State) (mid a : Nat) : State :=
  let off := a % 2 ^ 20
  if !reaches s mid a then s
  else match blockOf a with
    | 0 => if off = 0x1400 then { s with glb := { s.glb with total := 0 } } else s
    | 2 => if off = 4 then { s with fab := { s.fab with ce := 0, ue := 0, badPkt := 0, absent := 0 } } else s
    | 3 => lnkClear s off
    | 5 => match strAt off with | some q => strRegClear s q.1 q.2 | none => s
    | 6 => if off < 0x800 then setTmr s (off / 0x40) (tmrRegClear (getTmr s (off / 0x40)) (off % 0x40)) else s
    | 7 => mbxReadClear s mid off
    | 8 => pwrClear s off
    | _ => s

/-- A 32-bit write of BAR0 below the tile windows. -/
def barWrite (s : State) (mid a : Nat) (v : Word) : State :=
  let off := a % 2 ^ 20
  match blockOf a with
  | 0 => glbWrite s mid off v
  | 1 => hifWrite s mid off v
  | 2 => fabWrite s mid off v
  | 3 => if off = 0 then shapeWrite s mid v
         else if 0x100 ≤ off ∧ off < 0x100 + 0x40 * 6 ∧ off % 0x40 = 0 then portCtl s mid ((off - 0x100) / 0x40) v else s
  | 4 => depRegWrite s mid off v
  | 5 => clogBar s mid a stAccess
  | 6 => if off < 0x800 then tmrWrite s mid (off / 0x40) (off % 0x40) v else s
  | 7 => mbxWrite s mid off v
  | 8 => pwrWrite s mid off v
  | 9 => secWrite s mid off v
  | 10 => bstWrite s mid off v
  | _ => s

/-- Whether an address is a 64-bit register (spec/13_host_interface.md R429). -/
def is64 (a : Nat) : Bool := blockOf a == 1 && isBase (a % 2 ^ 20)

/-- A request of the hub to a tile, with the part of the answer that its value gives. -/
def askTile (s : State) (mid a sub pay lo n at_ : Nat) : State :=
  let core := (a - 0x1000000) / 0x4000
  let s1 := hubSend s (regPkt s mid core sub ((a - 0x1000000) % 0x4000) pay)
  { s1 with asked := s1.asked ++ [{ core := core, lo := lo, n := n, at_ := at_ }] }

/-- One aligned word read, of which the bytes [lo, lo + n) are the answer's from byte `at_` on; a tile's come later, with REG_RSP. -/
def readWord (s : State) (mid a lo n at_ : Nat) : State :=
  if !assigned s a ∨ !reaches s mid a then s
  else if blockOf a ≥ 16 then askTile s mid a 2 0 lo n at_
  else { barClear s mid a with rdata := putBytes s.rdata (barWord s mid a) lo n at_ }

/-- A read of 1 to 8 bytes: every word that they touch is read, and the bytes addressed are returned (R43). -/
def busRead (s : State) (mid a n : Nat) : State :=
  let e := a + min n 8
  (List.range ((e + 3) / 4 - a / 4)).foldl (fun s i =>
    let w := 4 * (a / 4 + i)
    readWord s mid w (max a w - w) (min e (w + 4) - max a w) (max a w - a)) { s with rdata := 0 }

/-- One aligned word written, or the write discarded and logged (R44; spec/18_security_debug.md R532). -/
def writeWord (s : State) (mid a : Nat) (v : Word) : State :=
  if !assigned s a ∨ !reaches s mid a then clogBar s mid a stAccess
  else if blockOf a ≥ 16 then askTile s mid a 1 v.toNat 0 0 0
  else barWrite s mid a v

/-- A write of the bytes [a, a + n) as it meets the word at `w`: a register that they cover is written, one that they cover in part is
not, and the discard is logged (R43). A 64-bit register is met at the first of its words that the bytes touch. -/
def writePart (s : State) (mid a n : Nat) (v : BitVec 64) (w : Nat) : State :=
  if is64 (w / 8 * 8) then
    let b := w / 8 * 8
    if b < w ∧ a < w then s
    else if a = b ∧ n = 8 ∧ reaches s mid b then hifBase s mid (b % 2 ^ 20) v
    else clogBar s mid a stAccess
  else if a ≤ w ∧ w + 4 ≤ a + n then writeWord s mid w (v.extractLsb' (8 * (w - a)) 32)
  else clogBar s mid (max a w) stAccess

/-- A write of 1 to 8 bytes (R43). -/
def busWrite (s : State) (mid a n : Nat) (v : BitVec 64) : State :=
  let k := min n 8
  (List.range ((a + k + 3) / 4 - a / 4)).foldl (fun s i => writePart s mid a k v (4 * (a / 4 + i))) s

/-! ### BAR2 and the SDIO function (spec/13_host_interface.md R406, R425; assumption 67) -/

/-- Where BAR2 stands among the addresses of the register rows. -/
def bar2 : Nat := 0x4000000
/-- Where the window of SDIO function 1 stands. -/
def sdioBase : Nat := 0x5000000

/-- A doorbell as it reads: the last value accepted. -/
def bellRead (s : State) (off : Nat) : Word :=
  if off % 8 ≠ 0 then 0
  else if off < 0x800 then (getSq s (off / 8)).tail.setWidth 32
  else if 0x8000 ≤ off ∧ off < 0x8800 then (getCq s ((off - 0x8000) / 8)).head.setWidth 32
  else 0

/-- A doorbell written. -/
def bellWrite (s : State) (off : Nat) (v : Word) : State :=
  if off % 8 ≠ 0 then s
  else if off < 0x800 then sqBell s (off / 8) v
  else if 0x8000 ≤ off ∧ off < 0x8800 then cqBell s ((off - 0x8000) / 8) v
  else s

/-- Word `k` of a value of whole words. -/
def wordAt {n : Nat} (x : BitVec n) (k : Nat) : Word := x.extractLsb' (32 * k) 32

/-- A register or buffer word of the SDIO window. -/
def sdioRead (s : State) (off : Nat) : Word :=
  let x := s.sdio
  match off with
  | 0x00 => x.len.setWidth 32
  | 0x04 => BitVec.ofNat 32 (b1 x.busy * 2 ^ 31 + b1 x.cmpl * 2 ^ 30 + b1 x.goerr * 2 ^ 29 + b1 x.ready * 2 ^ 28 + b1 x.recovery * 2 ^ 27 +
      x.cbuf.length % 32)
  | 0x08 => BitVec.ofNat 32 (b1 x.intMbx * 2 + b1 x.intCmpl)
  | 0x0C => x.intEn.setWidth 32
  | 0x10 => x.raddr.setWidth 32
  | _ =>
      if 0x200 ≤ off ∧ off < 0x400 then wordAt (x.cbuf.getD ((off - 0x200) / 32) 0) (off % 32 / 4)
      else if 0x400 ≤ off ∧ off < 0x10440 then wordAt (x.sbuf.getD ((off - 0x400) / 64) 0) (off % 64 / 4)
      else 0

/-- A line of a list replaced; the list grows with zeros as far as it must. -/
def setLine (ls : List Line) (k : Nat) (l : Line) : List Line := (ls ++ List.replicate (k + 1 - ls.length) 0).set k l

/-- The access at SDIO_RADDR that an access of SDIO_RDATA performs, with MID 0x1 (R425). -/
def rdataAccess (s : State) (write : Option Word) : State :=
  let a := s.sdio.raddr.toNat / 4 * 4
  match write with
  | none => busRead s 1 a 4
  | some v => busWrite s 1 a 4 (v.setWidth 64)

/-- A word of the SDIO window written. Clearing SDIO_INT.CMPL frees the completion buffer. -/
def sdioWrite (s : State) (off : Nat) (v : Word) : State :=
  let x := s.sdio
  match off with
  | 0x00 => if bit v 31 then sdioGo s (fld v 16 0) else { s with sdio := { x with len := BitVec.ofNat 17 (fld v 16 0) } }
  | 0x04 => { s with sdio := { x with goerr := w1c x.goerr (bit v 29) } }
  | 0x08 => { s with sdio := { x with
      intMbx := w1c x.intMbx (bit v 1), intCmpl := w1c x.intCmpl (bit v 0), cmpl := w1c x.cmpl (bit v 0)
      cbuf := if bit v 0 ∧ x.intCmpl then [] else x.cbuf } }
  | 0x0C => { s with sdio := { x with intEn := BitVec.ofNat 2 (fld v 1 0) } }
  | 0x10 => { s with sdio := { x with raddr := BitVec.ofNat 26 v.toNat } }
  | 0x14 => rdataAccess s (some v)
  | _ =>
      if 0x400 ≤ off ∧ off < 0x10440 then
        let k := (off - 0x400) / 64
        let i := off % 64 / 4
        { s with sdio := { x with sbuf := setLine x.sbuf k (setFld (x.sbuf.getD k 0) (32 * i + 31) (32 * i) v.toNat) } }
      else s

/-- Whether the register interfaces answer: not on an unpowered device (spec/18_security_debug.md R533; spec/17_power.md R501). -/
def answers (s : State) : Bool := s.boot != .off

/-- REGISTER_READ: a read of BAR0, of a doorbell by the PCIe host, or of the SDIO window by the SDIO host (spec/00_scope.md R11;
R43, R44). Its value is in `rdata`; a tile's comes with REG_RSP. -/
def execRegisterRead (mid addr bytes : Nat) (s : State) : Host.Outcome State Fault Refusal :=
  if !answers s then .next { s with rdata := 0 }
  else if mid > 4 then .next { clogBar s mid addr stAccess with rdata := 0 }
  else if sdioBase ≤ addr ∧ mid = 1 then
    if addr - sdioBase = 0x14 then .next (rdataAccess s none)
    else .next { s with rdata := (sdioRead s ((addr - sdioBase) / 4 * 4)).setWidth 64 }
  else if bar2 ≤ addr then .next { s with rdata := if mid = 0 ∧ addr < sdioBase then (bellRead s (addr - bar2)).setWidth 64 else 0 }
  else .next (busRead s mid addr bytes)

/-- REGISTER_WRITE: a write of BAR0, of a doorbell by the PCIe host, or of the SDIO window by the SDIO host (R43-R45). -/
def execRegisterWrite (mid addr bytes : Nat) (value : BitVec 64) (s : State) : Host.Outcome State Fault Refusal :=
  let v := value.extractLsb' 0 32
  if !answers s then .next s
  else if mid > 4 then .next (clogBar s mid addr stAccess)
  else if sdioBase ≤ addr ∧ mid = 1 then .next (if bytes = 4 ∧ addr % 4 = 0 then sdioWrite s (addr - sdioBase) v else clogBar s mid addr stAccess)
  else if bar2 ≤ addr ∧ addr < sdioBase ∧ mid = 0 then
    .next (if bytes = 4 ∧ addr % 4 = 0 then bellWrite s (addr - bar2) v else clogBar s mid addr stAccess)
  else if bar2 ≤ addr then .next (clogBar s mid addr stAccess)
  else .next (busWrite s mid addr bytes value)

/-- SDIO_RDATA_ACCESS (spec/13_host_interface.md R425). -/
def execSdioRdataAccess (write : Option Word) (s : State) : Host.Outcome State Fault Refusal :=
  .next (if answers s then rdataAccess s write else s)

/-- TILE_TOLL_WRITE: a write of a tile gate's word (spec/11_fabric_tolls.md R366, R368). -/
def execTileTollWrite (mid core offset : Nat) (value : Word) (s : State) : Host.Outcome State Fault Refusal :=
  .next (if isGateWord s core offset then tileWriteBy s core mid offset value else s)

end Sys2Proof.Machine
end

