-- ==== Sys2Proof/Machine/Stats.lean ====
section
/-! DEFINITION. STATS_READ and its sources (spec/13_host_interface.md R421, R422; spec/17_power.md R510;
spec/18_security_debug.md R525, R526). -/

namespace Sys2Proof.Machine

/-- The state of a convoy record as STATS_READ codes it (R422). -/
def ConvoyPhase.code : ConvoyPhase → Nat
  | .opened => 0
  | .preparing => 1
  | .ready => 2
  | .committing => 3
  | .aborted => 4

/-- A convoy record as 16 bytes (R422). A commit step that an IMMEDIATE convoy does not have, and an h that no member has answered,
are free values (assumption 6). -/
def convoyBytes (s : State) (c : Convoy) : List Byte :=
  bytesOf 4 (c.sc.getD (Config.measured s.free)).toNat ++ bytesOf 4 (c.h.getD (Config.measured (s.free + 1))).toNat ++
    bytesOf 2 c.members.length ++ bytesOf 2 c.ready ++ bytesOf 1 c.phase.code ++ bytesOf 1 (b1 c.relay) ++ bytesOf 1 c.status.toNat ++
    bytesOf 1 0

/-- The number that the energy table's header holds (spec/17_power.md R510): version, temperatures, flags and datasheet figures. -/
def energyHeader (s : State) : List Byte :=
  bytesOf 2 1 ++ (List.range 4).flatMap (fun l => bytesOf 2 (nget 0 s.pwr.energyTj l).toNat) ++
    (List.range 4).flatMap (fun l => bytesOf 2 (nget 0 s.pwr.energyMeas l).toNat) ++
    bytesOf 2 110 ++ bytesOf 2 3000 ++ bytesOf 2 900 ++ bytesOf 2 400 ++ bytesOf 38 0

/-- Byte `a` of the energy table. -/
def energyByte (s : State) (a : Nat) : Byte :=
  if a < 64 then (energyHeader s).getD a 0
  else
    let k := (a - 64) / 8
    if present s (k / 4) then BitVec.ofNat 8 ((nget 0 s.pwr.energy k).toNat / 256 ^ (a % 8)) else 0

/-- The size of a source in bytes, when it has one (R422). -/
def statsSize (s : State) (src : Nat) (a : Nat) : Nat :=
  match src with
  | 0 => 0x800
  | 1 => 32
  | 2 => 16
  | 3 => 256
  | 4 => 64 + 8 * 4096
  | _ => if a < 32768 then s.sec.report.length else 32768 + 0x30000

/-- Byte `a` of a source (R422). The command router reads the counter range with MID 0xC (spec/01_device_organisation.md R39). -/
def statsByte (s : State) (m : Line) (a : Nat) : Byte :=
  let w (x : Word) : Byte := x.extractLsb' (8 * (a % 4)) 8
  match mw m 0 % 8 with
  | 0 => w (tileReadBy s (mTcore m) 0xC (0x800 + a / 4 * 4)).1
  | 1 => w (strReg s (mTobj m) (a / 4 * 4))
  | 2 => match findConvoy s (mw m 3 % 2 ^ 15) with | some c => (convoyBytes s c).getD a 0 | none => 0
  | 3 => w (healthRead s (a / 4 * 4))
  | 4 => energyByte s a
  | _ => if a < 32768 then s.sec.report.getD a 0 else Config.certificateByte (a - 32768)

/-- The words of a source that a read touches, their RC fields clear (R422, spec/00_scope.md R11). -/
def statsClear (s : State) (m : Line) : State :=
  let first := mw m 1 / 4
  let words := (mw m 1 + mw m 2 + 3) / 4 - first
  (List.range words).foldl (fun x i =>
    if mw m 0 % 8 = 0 then tileReadClear x (mTcore m) (0x800 + 4 * (first + i)) else strRegClear x (mTobj m) (4 * (first + i))) s

/-- The free values that a read uses up. -/
def statsUsed (s : State) (src : Nat) : State := if src = 2 ∨ src = 3 then { s with free := s.free + 2 } else s

/-- STATS_READ (R422). -/
def execStatsRead (h : Nat) (s : State) : Host.Outcome State Fault Refusal :=
  .next (withCmd s h 0x3A fun s f =>
    let m := f.manifest
    let src := mw m 0 % 8
    let a := mw m 1
    let n := mw m 2
    if src = 2 ∧ (findConvoy s (mw m 3 % 2 ^ 15)).isNone then complete s h stNoResource
    else if a + n > statsSize s src a then complete s h stAccess
    else
      let data := replyEntries ((List.range n).map fun i => statsByte s m (a + i))
      let s1 := if src ≤ 1 ∧ bit m 131 then statsClear s m else statsUsed s src
      complete s1 h stOk 0 data)

end Sys2Proof.Machine
end

