-- ==== Sys2Proof/Machine/Dispatch.lean ====
section
/-! DEFINITION. One arm per command: a direct call of its meaning. -/

namespace Sys2Proof.Machine

/-- The effect of a command on everything but the queue. -/
def exec (i : Instr) (s : State) : Host.Outcome State Fault Refusal :=
  match i with
  | .sqDoorbell n value => Sys2Proof.Machine.execSqDoorbell n value s
  | .cqDoorbell n value => Sys2Proof.Machine.execCqDoorbell n value s
  | .commandFetch slots => Sys2Proof.Machine.execCommandFetch slots s
  | .completionHoldRelease cq => Sys2Proof.Machine.execCompletionHoldRelease cq s
  | .cqCoalesceTimer cq => Sys2Proof.Machine.execCqCoalesceTimer cq s
  | .commandTimeout h => Sys2Proof.Machine.execCommandTimeout h s
  | .mgmtCommandTake hart waitedUs => Sys2Proof.Machine.execMgmtCommandTake hart waitedUs s
  | .nop h => Sys2Proof.Machine.execNop h s
  | .contextCreate h => Sys2Proof.Machine.execContextCreate h s
  | .contextDestroy h => Sys2Proof.Machine.execContextDestroy h s
  | .contextReset h => Sys2Proof.Machine.execContextReset h s
  | .contextResetDrainDone ctx => Sys2Proof.Machine.execContextResetDrainDone ctx s
  | .contextResetDrainTimeout ctx => Sys2Proof.Machine.execContextResetDrainTimeout ctx s
  | .loadSectionData h => Sys2Proof.Machine.execLoadSectionData h s
  | .loadSectionCommit h => Sys2Proof.Machine.execLoadSectionCommit h s
  | .loadSectionCompact h => Sys2Proof.Machine.execLoadSectionCompact h s
  | .start h => Sys2Proof.Machine.execStart h s
  | .stop h => Sys2Proof.Machine.execStop h s
  | .stopDone ctx => Sys2Proof.Machine.execStopDone ctx s
  | .stepRun h => Sys2Proof.Machine.execStepRun h s
  | .stepRunWaitDone h => Sys2Proof.Machine.execStepRunWaitDone h s
  | .paceSet h => Sys2Proof.Machine.execPaceSet h s
  | .modulatorSet h => Sys2Proof.Machine.execModulatorSet h s
  | .streamOpen h => Sys2Proof.Machine.execStreamOpen h s
  | .streamPush h => Sys2Proof.Machine.execStreamPush h s
  | .streamClose h => Sys2Proof.Machine.execStreamClose h s
  | .resultOpen h => Sys2Proof.Machine.execResultOpen h s
  | .resultClose h => Sys2Proof.Machine.execResultClose h s
  | .queueSend h => Sys2Proof.Machine.execQueueSend h s
  | .convoyBegin h => Sys2Proof.Machine.execConvoyBegin h s
  | .convoyStage h => Sys2Proof.Machine.execConvoyStage h s
  | .convoyRecordStage mid record => Sys2Proof.Machine.execConvoyRecordStage mid record s
  | .convoyPrepare h => Sys2Proof.Machine.execConvoyPrepare h s
  | .convoyCommit h => Sys2Proof.Machine.execConvoyCommit h s
  | .convoyAbort h => Sys2Proof.Machine.execConvoyAbort h s
  | .prepareReceive m tag sc => Sys2Proof.Machine.execPrepareReceive m tag sc s
  | .convoyFillDone m tag => Sys2Proof.Machine.execConvoyFillDone m tag s
  | .convoyAnswer tag dev m answer => Sys2Proof.Machine.execConvoyAnswer tag dev m answer s
  | .commitReceive m tag sc => Sys2Proof.Machine.execCommitReceive m tag sc s
  | .abortReceive m tag => Sys2Proof.Machine.execAbortReceive m tag s
  | .convoyApply m => Sys2Proof.Machine.execConvoyApply m s
  | .convoyAck tag dev m => Sys2Proof.Machine.execConvoyAck tag dev m s
  | .join tag dev core => Sys2Proof.Machine.execJoin tag dev core s
  | .query tag dev m => Sys2Proof.Machine.execQuery tag dev m s
  | .conflict tag first => Sys2Proof.Machine.execConflict tag first s
  | .convoyCoordinatorTimeout tag => Sys2Proof.Machine.execConvoyCoordinatorTimeout tag s
  | .convoyMemberTimer m tag => Sys2Proof.Machine.execConvoyMemberTimer m tag s
  | .weightSave h => Sys2Proof.Machine.execWeightSave h s
  | .weightSaveDone ctx => Sys2Proof.Machine.execWeightSaveDone ctx s
  | .weightRestore h => Sys2Proof.Machine.execWeightRestore h s
  | .stateRead h => Sys2Proof.Machine.execStateRead h s
  | .stateWrite h => Sys2Proof.Machine.execStateWrite h s
  | .statsRead h => Sys2Proof.Machine.execStatsRead h s
  | .firmwareUpdate h => Sys2Proof.Machine.execFirmwareUpdate h s
  | .attest h => Sys2Proof.Machine.execAttest h s
  | .lock h => Sys2Proof.Machine.execLock h s
  | .bistRun h => Sys2Proof.Machine.execBistRun h s
  | .bstCtlGo mid value => Sys2Proof.Machine.execBstCtlGo mid value s
  | .bistDone failures => Sys2Proof.Machine.execBistDone failures s
  | .bistLimitStop completed failures => Sys2Proof.Machine.execBistLimitStop completed failures s
  | .powerSetPl h => Sys2Proof.Machine.execPowerSetPl h s
  | .powerSetState h => Sys2Proof.Machine.execPowerSetState h s
  | .sleepEntryDone => Sys2Proof.Machine.execSleepEntryDone s
  | .wake source => Sys2Proof.Machine.execWake source s
  | .plChangeDone => Sys2Proof.Machine.execPlChangeDone s
  | .thermalPoll hottest => Sys2Proof.Machine.execThermalPoll hottest s
  | .thermalHwLimit => Sys2Proof.Machine.execThermalHwLimit s
  | .thermalHwRelease => Sys2Proof.Machine.execThermalHwRelease s
  | .brownOut rail => Sys2Proof.Machine.execBrownOut rail s
  | .powerFailWarning => Sys2Proof.Machine.execPowerFailWarning s
  | .currentLimitTrip => Sys2Proof.Machine.execCurrentLimitTrip s
  | .currentLimitRetry => Sys2Proof.Machine.execCurrentLimitRetry s
  | .inputLockout vinCentivolt rising => Sys2Proof.Machine.execInputLockout vinCentivolt rising s
  | .presenceSeated => Sys2Proof.Machine.execPresenceSeated s
  | .presenceOpen contact => Sys2Proof.Machine.execPresenceOpen contact s
  | .perst => Sys2Proof.Machine.execPerst s
  | .coldReset refclkPresent failures => Sys2Proof.Machine.execColdReset refclkPresent failures s
  | .ddrTrainingDone failed => Sys2Proof.Machine.execDdrTrainingDone failed s
  | .warmReset cause refclkPresent => Sys2Proof.Machine.execWarmReset cause refclkPresent s
  | .computeReset cause => Sys2Proof.Machine.execComputeReset cause s
  | .managementRestart hart cause hashMatches => Sys2Proof.Machine.execManagementRestart hart cause hashMatches s
  | .mgmtWatchdogExpire hart => Sys2Proof.Machine.execMgmtWatchdogExpire hart s
  | .mgmtScrub hart corrected uncorrectable => Sys2Proof.Machine.execMgmtScrub hart corrected uncorrectable s
  | .mgmtSelfCheck hart hashMatches => Sys2Proof.Machine.execMgmtSelfCheck hart hashMatches s
  | .mgpBusyTimer => Sys2Proof.Machine.execMgpBusyTimer s
  | .heartbeat => Sys2Proof.Machine.execHeartbeat s
  | .refclkLoss => Sys2Proof.Machine.execRefclkLoss s
  | .tamperTrip pll glitch temp => Sys2Proof.Machine.execTamperTrip pll glitch temp s
  | .debugOpen mid value => Sys2Proof.Machine.execDebugOpen mid value s
  | .debugClose mid value => Sys2Proof.Machine.execDebugClose mid value s
  | .present mid value => Sys2Proof.Machine.execPresent mid value s
  | .tokenCheckDone => Sys2Proof.Machine.execTokenCheckDone s
  | .goProduction mid value => Sys2Proof.Machine.execGoProduction mid value s
  | .lcTransitionDone interrupted => Sys2Proof.Machine.execLcTransitionDone interrupted s
  | .extestExit => Sys2Proof.Machine.execExtestExit s
  | .jtagInstruction ins => Sys2Proof.Machine.execJtagInstruction ins s
  | .ledgerClear mid value => Sys2Proof.Machine.execLedgerClear mid value s
  | .customsLogClear mid value => Sys2Proof.Machine.execCustomsLogClear mid value s
  | .customsLogRecord a b => Sys2Proof.Machine.execCustomsLogRecord a b s
  | .registerWrite mid addr bytes value => Sys2Proof.Machine.execRegisterWrite mid addr bytes value s
  | .sdioGo len => Sys2Proof.Machine.execSdioGo len s
  | .sdioRdataAccess write => Sys2Proof.Machine.execSdioRdataAccess write s
  | .tileTollWrite mid core offset value => Sys2Proof.Machine.execTileTollWrite mid core offset value s
  | .tollWindowBoundary => Sys2Proof.Machine.execTollWindowBoundary s
  | .linkShapeWrite mid value => Sys2Proof.Machine.execLinkShapeWrite mid value s
  | .portEnable mid port value => Sys2Proof.Machine.execPortEnable mid port value s
  | .portRetrainRequest mid port => Sys2Proof.Machine.execPortRetrainRequest mid port s
  | .mailboxDataWrite mid n word value => Sys2Proof.Machine.execMailboxDataWrite mid n word value s
  | .mailboxSet mid n bits => Sys2Proof.Machine.execMailboxSet mid n bits s
  | .mailboxPendClear mid n bits => Sys2Proof.Machine.execMailboxPendClear mid n bits s
  | .mailboxAckTimeout n => Sys2Proof.Machine.execMailboxAckTimeout n s
  | .mailboxBind mid n value => Sys2Proof.Machine.execMailboxBind mid n value s
  | .timerCtlWrite mid ti value => Sys2Proof.Machine.execTimerCtlWrite mid ti value s
  | .timerReloadNow mid ti => Sys2Proof.Machine.execTimerReloadNow mid ti s
  | .timerReloadWrite mid ti value => Sys2Proof.Machine.execTimerReloadWrite mid ti value s
  | .timerCompareWrite mid ti k value => Sys2Proof.Machine.execTimerCompareWrite mid ti k value s
  | .timerTbRead ti => Sys2Proof.Machine.execTimerTbRead ti s
  | .timerCaploRead ti => Sys2Proof.Machine.execTimerCaploRead ti s
  | .timerTick ti => Sys2Proof.Machine.execTimerTick ti s
  | .timerLinkAction ti => Sys2Proof.Machine.execTimerLinkAction ti s
  | .triggerCapture pin rising => Sys2Proof.Machine.execTriggerCapture pin rising s
  | .paceRelease ctx => Sys2Proof.Machine.execPaceRelease ctx s
  | .release core pkt => Sys2Proof.Machine.execRelease core pkt s
  | .integrateBegin core => Sys2Proof.Machine.execIntegrateBegin core s
  | .event core pkt => Sys2Proof.Machine.execEvent core pkt s
  | .integrateEnd core => Sys2Proof.Machine.execIntegrateEnd core s
  | .rearguard core pkt => Sys2Proof.Machine.execRearguard core pkt s
  | .credit core pkt => Sys2Proof.Machine.execCredit core pkt s
  | .fireBegin core => Sys2Proof.Machine.execFireBegin core s
  | .fireEnd core => Sys2Proof.Machine.execFireEnd core s
  | .learnEnd core => Sys2Proof.Machine.execLearnEnd core s
  | .closeEnd core => Sys2Proof.Machine.execCloseEnd core s
  | .eagerEvaluate core => Sys2Proof.Machine.execEagerEvaluate core s
  | .stepWatchdogExpire core => Sys2Proof.Machine.execStepWatchdogExpire core s
  | .outriderPrefetch core => Sys2Proof.Machine.execOutriderPrefetch core s
  | .dreq request => Sys2Proof.Machine.execDreq request s
  | .ddata core pkt => Sys2Proof.Machine.execDdata core pkt s
  | .penReturn core => Sys2Proof.Machine.execPenReturn core s
  | .penSpillWrite core => Sys2Proof.Machine.execPenSpillWrite core s
  | .waystationForward tile port vc flips => Sys2Proof.Machine.execWaystationForward tile port vc flips s
  | .regWr core pkt => Sys2Proof.Machine.execRegWr core pkt s
  | .regRd core pkt => Sys2Proof.Machine.execRegRd core pkt s
  | .regRsp pkt => Sys2Proof.Machine.execRegRsp pkt s
  | .linkFrameTransmit port => Sys2Proof.Machine.execLinkFrameTransmit port s
  | .linkFrameReceive port frame => Sys2Proof.Machine.execLinkFrameReceive port frame s
  | .linkAckTimeout port => Sys2Proof.Machine.execLinkAckTimeout port s
  | .linkReplayLimit port => Sys2Proof.Machine.execLinkReplayLimit port s
  | .linkLaneUeLimit port => Sys2Proof.Machine.execLinkLaneUeLimit port s
  | .transitReserve port buffer => Sys2Proof.Machine.execTransitReserve port buffer s
  | .portDetectLock port => Sys2Proof.Machine.execPortDetectLock port s
  | .portTrainEqDone port => Sys2Proof.Machine.execPortTrainEqDone port s
  | .portTrainEqTimeout port => Sys2Proof.Machine.execPortTrainEqTimeout port s
  | .portAlignDone port => Sys2Proof.Machine.execPortAlignDone port s
  | .portAlignTimeout port => Sys2Proof.Machine.execPortAlignTimeout port s
  | .paramExchange port peer => Sys2Proof.Machine.execParamExchange port peer s
  | .portRetrainTimeout port => Sys2Proof.Machine.execPortRetrainTimeout port s
  | .portDownRetry port => Sys2Proof.Machine.execPortDownRetry port s
  | .miswiredParamRetry port peer => Sys2Proof.Machine.execMiswiredParamRetry port peer s
  | .lossOfSignal port removed => Sys2Proof.Machine.execLossOfSignal port removed s
  | .lpiWake port fromPeer => Sys2Proof.Machine.execLpiWake port fromPeer s
  | .frontEndCommand port run => Sys2Proof.Machine.execFrontEndCommand port run s
  | .handlerDispatch start => Sys2Proof.Machine.execHandlerDispatch start s
  | .handlerCycleLimit core => Sys2Proof.Machine.execHandlerCycleLimit core s
  | .alu core rd ra rb func => Sys2Proof.Machine.execAlu core rd ra rb func s
  | .addi core rd ra imm => Sys2Proof.Machine.execAddi core rd ra imm s
  | .andi core rd ra imm => Sys2Proof.Machine.execAndi core rd ra imm s
  | .ori core rd ra imm => Sys2Proof.Machine.execOri core rd ra imm s
  | .xori core rd ra imm => Sys2Proof.Machine.execXori core rd ra imm s
  | .lui core rd ra imm => Sys2Proof.Machine.execLui core rd ra imm s
  | .slti core rd ra imm => Sys2Proof.Machine.execSlti core rd ra imm s
  | .shi core rd ra imm => Sys2Proof.Machine.execShi core rd ra imm s
  | .beq core ra rb off => Sys2Proof.Machine.execBeq core ra rb off s
  | .bne core ra rb off => Sys2Proof.Machine.execBne core ra rb off s
  | .blt core ra rb off => Sys2Proof.Machine.execBlt core ra rb off s
  | .bge core ra rb off => Sys2Proof.Machine.execBge core ra rb off s
  | .bltu core ra rb off => Sys2Proof.Machine.execBltu core ra rb off s
  | .bgeu core ra rb off => Sys2Proof.Machine.execBgeu core ra rb off s
  | .jal core rd off => Sys2Proof.Machine.execJal core rd off s
  | .jr core rd ra rb func => Sys2Proof.Machine.execJr core rd ra rb func s
  | .loop core rd ra imm => Sys2Proof.Machine.execLoop core rd ra imm s
  | .endHandler core rest => Sys2Proof.Machine.execEndHandler core rest s
  | .yieldTo core rd ra imm => Sys2Proof.Machine.execYieldTo core rd ra imm s
  | .ldw core rd ra imm => Sys2Proof.Machine.execLdw core rd ra imm s
  | .stw core rd ra imm => Sys2Proof.Machine.execStw core rd ra imm s
  | .ldh core rd ra imm => Sys2Proof.Machine.execLdh core rd ra imm s
  | .sth core rd ra imm => Sys2Proof.Machine.execSth core rd ra imm s
  | .ldb core rd ra imm => Sys2Proof.Machine.execLdb core rd ra imm s
  | .stb core rd ra imm => Sys2Proof.Machine.execStb core rd ra imm s
  | .vld core rd ra imm => Sys2Proof.Machine.execVld core rd ra imm s
  | .vst core rd ra imm => Sys2Proof.Machine.execVst core rd ra imm s
  | .accld core rd ra imm => Sys2Proof.Machine.execAccld core rd ra imm s
  | .accst core rd ra imm => Sys2Proof.Machine.execAccst core rd ra imm s
  | .vmac core d va vb za zb n clr neg => Sys2Proof.Machine.execVmac core d va vb za zb n clr neg s
  | .vmacb core d va vb za zb n clr neg => Sys2Proof.Machine.execVmacb core d va vb za zb n clr neg s
  | .vmacm core d ra vb rn za zb inc clr => Sys2Proof.Machine.execVmacm core d ra vb rn za zb inc clr s
  | .vdot core rd va vb za zb rest => Sys2Proof.Machine.execVdot core rd va vb za zb rest s
  | .accop core rd ra rb func => Sys2Proof.Machine.execAccop core rd ra rb func s
  | .vrq core rd ra rb func => Sys2Proof.Machine.execVrq core rd ra rb func s
  | .vfun core d va vb za zb n clr neg => Sys2Proof.Machine.execVfun core d va vb za zb n clr neg s
  | .vperm core d va vb za zb n clr neg => Sys2Proof.Machine.execVperm core d va vb za zb n clr neg s
  | .vselm core d va vb za zb n clr neg => Sys2Proof.Machine.execVselm core d va vb za zb n clr neg s
  | .vsplat core rd ra imm => Sys2Proof.Machine.execVsplat core rd ra imm s
  | .vext core rd ra imm => Sys2Proof.Machine.execVext core rd ra imm s
  | .vins core rd ra imm => Sys2Proof.Machine.execVins core rd ra imm s
  | .send core rd ra rb func => Sys2Proof.Machine.execSend core rd ra rb func s
  | .tallyc core rd ra rb func => Sys2Proof.Machine.execTallyc core rd ra rb func s
  | .waitne core rd ra rb func => Sys2Proof.Machine.execWaitne core rd ra rb func s
  | .cstg core rd ra rb func => Sys2Proof.Machine.execCstg core rd ra rb func s
  | .qry core rd ra imm => Sys2Proof.Machine.execQry core rd ra imm s
  | .modw core rd ra rb func => Sys2Proof.Machine.execModw core rd ra rb func s
  | .sendWaitExpire core => Sys2Proof.Machine.execSendWaitExpire core s
  | .waitneTimeout core => Sys2Proof.Machine.execWaitneTimeout core s
  | .msg core pkt => Sys2Proof.Machine.execMsg core pkt s
  | .tally core pkt => Sys2Proof.Machine.execTally core pkt s
  | .qcredit core pkt => Sys2Proof.Machine.execQcredit core pkt s
  | .nack core pkt => Sys2Proof.Machine.execNack core pkt s
  | .openChannel core pkt => Sys2Proof.Machine.execOpenChannel core pkt s
  | .openAck core pkt => Sys2Proof.Machine.execOpenAck core pkt s
  | .closeChannel core pkt => Sys2Proof.Machine.execCloseChannel core pkt s
  | .closeAck core pkt => Sys2Proof.Machine.execCloseAck core pkt s
  | .closeDrainDone core q => Sys2Proof.Machine.execCloseDrainDone core q s
  | .modWrite pkt => Sys2Proof.Machine.execModWrite pkt s
  | .modDeliver core pkt => Sys2Proof.Machine.execModDeliver core pkt s
  | .stepNotice pkt => Sys2Proof.Machine.execStepNotice pkt s
  | .ingestGraceExpire stream => Sys2Proof.Machine.execIngestGraceExpire stream s
  | .lateNotice pkt => Sys2Proof.Machine.execLateNotice pkt s
  | .readoutPacket pkt => Sys2Proof.Machine.execReadoutPacket pkt s
  | .readoutHoldExpire stream window latencyUs => Sys2Proof.Machine.execReadoutHoldExpire stream window latencyUs s
  | .readoutPeerRetry stream => Sys2Proof.Machine.execReadoutPeerRetry stream s
  | .resultLossMark ctx step => Sys2Proof.Machine.execResultLossMark ctx step s
  | .wdogNotice pkt => Sys2Proof.Machine.execWdogNotice pkt s
  | .lossNotice pkt => Sys2Proof.Machine.execLossNotice pkt s
  | .ueNotice pkt => Sys2Proof.Machine.execUeNotice pkt s
  | .faultNotice pkt => Sys2Proof.Machine.execFaultNotice pkt s
  | .orphanNotice pkt => Sys2Proof.Machine.execOrphanNotice pkt s
  | .peerResetNotice pkt => Sys2Proof.Machine.execPeerResetNotice pkt s
  | .noticeFoldTimer ctx => Sys2Proof.Machine.execNoticeFoldTimer ctx s
  | .registerRead mid addr bytes => Sys2Proof.Machine.execRegisterRead mid addr bytes s
  | .weightRestoreDone ctx => Sys2Proof.Machine.execWeightRestoreDone ctx s
  | .pmbusCommand code data => Sys2Proof.Machine.execPmbusCommand code data s
  | .mgmtParityFailure hart entry => Sys2Proof.Machine.execMgmtParityFailure hart entry s

end Sys2Proof.Machine
end

