-- ==== Sys2Proof/Safety.lean ====
section
/-! DEFINITION. What a safe run is, and the premises in which the statements speak of commands: each step answers a next
state; a host command that may run; what a state leaves alone. -/

namespace Sys2Proof.Machine

/-- The step at `s` neither faults nor is refused. -/
def StepSafe (s : State) : Prop := ∃ t, step s = .next t

/-- `n` steps from `s` end in `t`, none of them a fault or a refusal. -/
def Runs : Nat → State → State → Prop
  | 0, s, t => s = t
  | n + 1, s, t => ∃ u, step s = .next u ∧ Runs n u t

/-- The fetched command `f` of handle `h` runs now: it has opcode `op`, its turn has come, and its context and its core permit it
(R412, R416, R419, R420, R433 of spec/13_host_interface.md and spec/14_contexts_recovery.md). -/
def MayRun (s : State) (h op : Nat) (f : Fetched) : Prop := runnable s h op = some f ∧ startCheck s f.manifest = none

/-- The state with the command of handle `h` marked as started. -/
def started (s : State) (h : Nat) : State := modCmd s h fun x => { x with taken := true }

/-- `t` differs from `s` in no part but the host interface, SDIO, the management complex and the fabric: what the completion of a
command may write. -/
def OnlyAnswered (s t : State) : Prop :=
  t = { s with hif := t.hif, sdio := t.sdio, mgmt := t.mgmt, fab := t.fab }

/-- `t` differs from `s` in no part but the records of the convoy unit, the host interface, SDIO, the management complex and the fabric:
what a decision of the convoy unit may write. -/
def OnlyConvoyUnit (s t : State) : Prop :=
  t = { s with convoys := t.convoys, hif := t.hif, sdio := t.sdio, mgmt := t.mgmt, fab := t.fab }

/-- `t` differs from `s` in core `n` and in the fabric, where its packets enter, and nowhere else. -/
def OnlyTheCore (s t : State) (n : Nat) : Prop :=
  t = { s with cores := t.cores, fab := t.fab } ∧ ∀ k, k ≠ n → getCore t k = getCore s k

/-- The handler of core `n` issues the word `w` now: a handler runs, waits for nothing, PC lies in the loaded instructions, and the
word there is `w`, which is not reserved, with no uncorrectable ECC error in it or in what it reads (R265, R267, R271 of
spec/08_handler_unit.md). -/
def Issues (s : State) (n : Nat) (w : Word) : Prop :=
  (getCore s n).hnd.run = true ∧ (getCore s n).hnd.wait = .none ∧
    inRanges (getCore s n).hnd.loaded (getCore s n).hnd.pc.toNat = true ∧
    nget 0 (getCore s n).hnd.store (getCore s n).hnd.pc.toNat = w ∧ insnOk w = true ∧
    (getCore s n).hnd.failing.contains (getCore s n).hnd.pc.toNat = false

/-- The life-cycle transitions that exist (R513 of spec/18_security_debug.md), but for that from BLANK to TEST, which no command of the
block makes: under a token, or by GO_PRODUCTION. -/
def LifeCycleMove (a b : BitVec 3) : Prop := tokenMove a b.toNat = true ∨ (a = 2 ∧ b = 3)

/-- The life-cycle state is one of the six, and a transition in progress is one that exists (R512, R513 of spec/18_security_debug.md). -/
def LifeCycleLegal (s : State) : Prop :=
  s.nv.lcState.toNat ≤ 5 ∧ ∀ t, s.sec.request = .transition t → LifeCycleMove s.nv.lcState t

/-- Every core's local data memory is in canonical form and scalar register 0 of its handler unit holds 0 (R259 of
spec/08_handler_unit.md). -/
def CoresCanonical (s : State) : Prop :=
  ∀ p ∈ s.cores, nwf (fun _ => (0 : Byte)) p.2.ldm = true ∧ nget 0 p.2.hnd.sc 0 = 0

end Sys2Proof.Machine
end

