-- ==== Sys2Proof/Certificates/Slice0/Obligations.lean ====
section
/-! DEFINITION. The statements for the provers: what each command of the block does to the state, from the numbered rules of
spec/. -/

open Sys2Proof Sys2Proof.Machine

/-- A step takes the command at the front of the queue and runs it with the queue's rest in place; on an empty queue the block
idles (the idle step is the model's choice, assumption 2). -/
def Obligations.StepRunsTheFrontCommand : Prop :=
  (∀ (s : State) (c : Instr) (rest : List Instr), s.pending = c :: rest → step s = exec c { s with pending := rest }) ∧
    ∀ s : State, s.pending = [] → step s = .next s

/-- SQ_DOORBELL (R409) and CQ_DOORBELL (R415): a value below the ring's size and, for an SQ, outside its occupied span, for a CQ
not past the hub's tail, is published; any other one is discarded with DBERR and a customs report. Nothing else changes, but
that an SQ doorbell fires its wake source (R504) and that a new head lets waiting results and notices of its ring through. -/
def Obligations.DoorbellsPublishOrDiscard : Prop :=
  ∀ (s : State) (n : Nat) (value : Word), n < 256 →
    (let q := getSq s n
     let size := ringSize q.log2
     let v := fld value 15 0
     let taken := v < size ∧
       (q.tail.toNat + size - q.head.toNat) % size ≤ (v + size - q.head.toNat) % size
     ∃ t, exec (.sqDoorbell n value) s = .next t ∧ (∀ k, k ≠ n → getSq t k = getSq s k) ∧
       t = { s with hif := { s.hif with sqs := t.hif.sqs }, pwr := (wakeFires s 9).pwr, fab := { s.fab with hub := t.fab.hub } } ∧
       (taken → getSq t n = { q with tail := BitVec.ofNat 16 v } ∧ t.fab.hub = s.fab.hub) ∧
       (¬taken → getSq t n = { q with dberr := true } ∧
         t.fab.hub = s.fab.hub ++ [clogA 0 0 0 (devNo s) 0 stAccess (8 * n), clogB 0 0 0 (devNo s) 0 (devNo s) 0 0x3FF])) ∧
    (let c := getCq s n
     let size := ringSize c.log2
     let v := fld value 15 0
     let taken := v < size ∧
       (v + size - c.head.toNat) % size ≤ (c.tail.toNat + size - c.head.toNat) % size
     (taken → exec (.cqDoorbell n value) s = .next (ringRoom (setCq s n { c with head := BitVec.ofNat 16 v }) n)) ∧
     (¬taken → exec (.cqDoorbell n value) s = .next (clogBar (setCq s n { c with dberr := true }) 0 (0x8000 + 8 * n) stAccess)))

/-- COMMAND_FETCH (R408, R410, R412): with the hub enabled, the device Ready and in S0 and a cycle of the HOST class left at the
command router's gate, the next ring of the round robin gives its command, whose bales lie within the published slots: the head
moves past manifest and bales, and the gate is charged a cycle for each slot (log entry 101); a command that passes the manifest
checks joins the fetched ones, and the management queue when it is not on the fast path; one that fails completes with the first
failure; a command that its ring cannot hold completes with BAD_LENGTH, moves the head to the tail and sets SKIP. -/
def Obligations.CommandFetchTakesTheNextRing : Prop :=
  ∀ (s : State) (n : Nat) (m : Line) (rest : List Line),
    s.hif.en = true → s.sdio.ready = true → s.pwr.state = .s0 → hubMay s.pwr.pl.toNat s.fab.cmd hostClass = true →
    nextSq s = some n →
    (let q := getSq s n
     let size := ringSize q.log2
     let bales := (List.range (mBales m)).map fun i => (rest[i]?).getD 0
     let moved := chargeFetch (setSq { s with hif := { s.hif with rr := (n + 1) % 256 } } n
       { q with head := BitVec.ofNat 16 ((q.head.toNat + mBales m + 1) % size) }) (mBales m + 1)
     let f : Fetched := { handle := s.hif.nextHandle, origin := .sq n, manifest := m, bales := bales }
     let numbered := { moved with hif := { moved.hif with nextHandle := s.hif.nextHandle + 1 } }
     (size - 1 < mBales m + 1 → exec (.commandFetch (m :: rest)) s = .next (answer
         (setSq { s with hif := { s.hif with rr := (n + 1) % 256 } } n { q with head := q.tail, skip := true })
         { handle := 0, origin := .sq n, manifest := m, bales := [] } stBadLength 0 [0])) ∧
     (mBales m + 1 ≤ size - 1 → mBales m + 1 ≤ sqUsed q → (isFast (mOp m) = true ∨ s.mgmt.queue.length < 256) →
       (∀ st, manifestCheck s m bales = some st →
         exec (.commandFetch (m :: rest)) s = .next (answer numbered f st 0 [0])) ∧
       (manifestCheck s m bales = none → resetCheck s m = none →
         exec (.commandFetch (m :: rest)) s = .next { numbered with
           hif := { numbered.hif with fetched := s.hif.fetched ++ [f] }
           mgmt := if isFast (mOp m) then s.mgmt else { s.mgmt with queue := s.mgmt.queue ++ [s.hif.nextHandle] } })))

/-- COMPLETION_HOLD_RELEASE and CQ_COALESCE_TIMER (R414, R415): the oldest held group of an enabled ring with room is written
whole, in consecutive entries from the tail on, each with the ring's phase (which turns as the ring wraps) and, for a command,
the SQHEAD of its ring, and leaves the queue; an entry not yet signalled raises the ring's vector when its time is over. -/
def Obligations.HeldGroupsAndCoalescing : Prop :=
  ∀ (s : State) (cq : Nat),
    (∀ g gs, (getCq s cq).hold = g :: gs → (getCq s cq).en = true → g.entries.length ≤ cqFree (getCq s cq) →
      (getCq s cq).tail.toNat < ringSize (getCq s cq).log2 →
      ∃ t, exec (.completionHoldRelease cq) s = .next t ∧ (getCq t cq).hold = gs ∧
        t.hif.written = s.hif.written ++ g.entries.zipIdx.map (fun p =>
          (cq, ((getCq s cq).tail.toNat + p.2) % ringSize (getCq s cq).log2,
            setFld (if fld p.1 23 22 = 0 then setFld p.1 63 48 (getSq s (fld p.1 71 64)).head.toNat else p.1) 0 0
              (b1 (if (getCq s cq).tail.toNat + p.2 < ringSize (getCq s cq).log2 then (getCq s cq).phase
                else !(getCq s cq).phase)))) ∧
        (∀ k, k ≠ cq → getCq t k = getCq s k) ∧
        t = { s with hif := { s.hif with cqs := t.hif.cqs, written := t.hif.written, msix := t.hif.msix } }) ∧
    ((getCq s cq).unsig ≠ 0 →
      ∃ t, exec (.cqCoalesceTimer cq) s = .next t ∧ getCq t cq = { getCq s cq with unsig := 0 } ∧
        (∀ k, k ≠ cq → getCq t k = getCq s k) ∧
        t = { s with hif := { s.hif with cqs := t.hif.cqs, msix := s.hif.msix ++ [(getCq s cq).vector.toNat] } })

/-- MGMT_COMMAND_TAKE (R413, R456, R460): a hart that serves no command and is neither restarting nor halted takes the next
command of its group that no hold of R416 stops; it leaves the queue, and its wait in µs becomes QDELAY, stopping at 0xFFFF, and
raises MGP_MAX_US. MGP_BUSY_TIMER marks the oldest command that is not yet marked as having waited over 100 µs. NOP completes
with OK and RESULT equal to W0. -/
def Obligations.HartsTakeCommands : Prop :=
  (∀ (s : State) (hart us : Nat) (f : Fetched), s.mgmt.running = true → s.mgmt.restarting = false →
    s.sec.haltedHarts.contains hart = false → hartFree s hart = true → nextFor s hart = some f →
    exec (.mgmtCommandTake hart us) s = .next { modCmd s f.handle (fun x =>
        { x with taken := true, qdelay := BitVec.ofNat 16 (min us 0xFFFF) }) with
      mgmt := { s.mgmt with
        queue := s.mgmt.queue.erase f.handle, late := s.mgmt.late.erase f.handle
        hart0 := if hart = 0 then some f.handle else s.mgmt.hart0
        hart1 := if hart = 1 then some f.handle else s.mgmt.hart1
        maxUs := BitVec.ofNat 16 (max s.mgmt.maxUs.toNat (min us 0xFFFF)) } }) ∧
  (∀ (s : State) (h : Nat), (s.mgmt.queue.find? fun x => !s.mgmt.late.contains x) = some h →
    ∃ t, exec .mgpBusyTimer s = .next t ∧ mgpBusy t = true ∧ t = { s with mgmt := { s.mgmt with late := s.mgmt.late ++ [h] } }) ∧
  ∀ (s : State) (h : Nat) (f : Fetched), MayRun s h 0 f →
    ∃ t, exec (.nop h) s = .next t ∧ t = complete (started s h) h stOk (mw f.manifest 0) ∧ findCmd t h = none ∧ OnlyAnswered s t

/-- COMMAND_TIMEOUT (R418): a command that has not started completes with TIMEOUT and never runs; one that has started completes
with TIMEOUT now, its own completion suppressed later; RESET_ON_TIMEOUT then resets its context; a command with no timeout, or
already answered, is left alone. -/
def Obligations.CommandTimeoutEndsTheWait : Prop :=
  ∀ (s : State) (h : Nat) (f : Fetched), findCmd s h = some f →
    (f.held = true ∨ mTimeout f.manifest = 31 → exec (.commandTimeout h) s = .next s) ∧
    (f.held = false → mTimeout f.manifest ≠ 31 →
      let st := (getShard s (mCtx f.manifest)).state
      let resets := mReset f.manifest = true ∧ namesCtx f.manifest = true ∧ st ≠ .free ∧ st ≠ .resetting
      let ended := if hasStarted f then modCmd (answer s f stTimeout (progressOf s f) [0]) h fun x => { x with held := true }
        else complete s h stTimeout
      (hasStarted f = false → findCmd ended h = none) ∧
      (resets → exec (.commandTimeout h) s = .next (startReset ended (mCtx f.manifest) [])) ∧
      (¬resets → ∃ t, exec (.commandTimeout h) s = .next t ∧ t = ended ∧ OnlyAnswered s t))

/-- MAILBOX_DATA_WRITE, MAILBOX_SET and MAILBOX_PEND_CLEAR (R468, R472): the sender fills an empty channel, sets bits and the
receiver is interrupted while PEND AND NOT MASK is not 0; the receiver clears bits, and the write that clears the last one sets
EMPTY, advances SEQ and interrupts the sender. Another side's write changes no channel and is reported; a data write to a
channel that is not empty is discarded with OVERWRITE. -/
def Obligations.MailboxChannelsCarryMessages : Prop :=
  ∀ (s : State) (mid n : Nat), n < 16 →
    let x := getMbx s n
    (∀ (word : Nat) (value : Word), word < 16 →
      ∃ t, exec (.mailboxDataWrite mid n word value) s = .next t ∧ (∀ k, k ≠ n → getMbx t k = getMbx s k) ∧
        t = { s with mbx := t.mbx, fab := { s.fab with hub := t.fab.hub } } ∧
        (senderMay x mid = true → x.pend = 0 → t.fab.hub = s.fab.hub ∧ ∃ d, getMbx t n = { x with data := d } ∧
          nget 0 d word = value ∧ ∀ k, k ≠ word → nget 0 d k = nget 0 x.data k) ∧
        (senderMay x mid = true → x.pend ≠ 0 → getMbx t n = { x with overwrite := true } ∧
          t.fab.hub.length = s.fab.hub.length + 2) ∧
        (senderMay x mid = false → t.mbx = s.mbx ∧ t.fab.hub.length = s.fab.hub.length + 2)) ∧
    (∀ bits : Word,
      ∃ t, exec (.mailboxSet mid n bits) s = .next t ∧ (∀ k, k ≠ n → getMbx t k = getMbx s k) ∧
        t = { s with mbx := t.mbx, hif := t.hif, sdio := t.sdio, mgmt := t.mgmt, pwr := t.pwr, fab := { s.fab with hub := t.fab.hub } } ∧
        (senderMay x mid = true → t.fab.hub = s.fab.hub ∧
          getMbx t n = { x with pend := x.pend ||| bits
                                timing := if x.pend = 0 ∧ bits ≠ 0 then decide (x.tmoUs ≠ 0) else x.timing } ∧
          (bits &&& ~~~x.mask ≠ 0 → x.rmid = 3 → t.mgmt.irq = s.mgmt.irq ++ [2])) ∧
        (senderMay x mid = false → t.mbx = s.mbx ∧ t.fab.hub.length = s.fab.hub.length + 2)) ∧
    (∀ bits : Word,
      ∃ t, exec (.mailboxPendClear mid n bits) s = .next t ∧ (∀ k, k ≠ n → getMbx t k = getMbx s k) ∧
        t = { s with mbx := t.mbx, hif := t.hif, sdio := t.sdio, mgmt := t.mgmt, fab := { s.fab with hub := t.fab.hub } } ∧
        (receiverMay x mid = true → x.pend ≠ 0 → x.pend &&& ~~~bits = 0 →
          getMbx t n = { x with pend := 0, empty := true, seq := x.seq + 1, timing := false } ∧
          (x.smid = 3 → t.mgmt.irq = s.mgmt.irq ++ [2])) ∧
        (receiverMay x mid = true → (x.pend = 0 ∨ x.pend &&& ~~~bits ≠ 0) →
          getMbx t n = { x with pend := x.pend &&& ~~~bits } ∧ t.mgmt = s.mgmt) ∧
        (receiverMay x mid = false → t.mbx = s.mbx ∧ t.fab.hub.length = s.fab.hub.length + 2))

/-- MAILBOX_ACK_TIMEOUT (R470): an acknowledge time that is over sets TMO, stops the timer and interrupts the sender.
MAILBOX_BIND (R466, R467, R474): before the set-up lock, MID 0x2 binds any entry and MID 0x0 a non-secure one, its SECURE bit
apart; a binding that R466 and R467 permit is taken and, when it changes the entry, empties the channel and clears its status;
every other write changes nothing and is reported. -/
def Obligations.MailboxTimersAndBindings : Prop :=
  ∀ (s : State) (n : Nat), n < 16 →
    let x := getMbx s n
    (x.timing = true →
      ∃ t, exec (.mailboxAckTimeout n) s = .next t ∧ getMbx t n = { x with tmo := true, timing := false } ∧
        (∀ k, k ≠ n → getMbx t k = getMbx s k) ∧ (x.smid = 2 → t.mgmt.irq = s.mgmt.irq ++ [1]) ∧
        t = { s with mbx := t.mbx, hif := t.hif, sdio := t.sdio, mgmt := t.mgmt }) ∧
    ∀ (mid : Nat) (value : Word),
      let y : Mailbox := { x with
        en := bit value 31, secure := if mid = 2 then bit value 30 else x.secure, vector := BitVec.ofNat 8 (fld value 29 22)
        smid := BitVec.ofNat 4 (fld value 7 4), rmid := BitVec.ofNat 4 (fld value 3 0) }
      let may := s.glb.locked = false ∧ (mid = 2 ∨ (mid = 0 ∧ x.secure = false)) ∧
        (y.en = true → y.smid.toNat ≤ 4 ∧ y.rmid.toNat ≤ 4 ∧ y.smid ≠ y.rmid ∧
          (if y.secure then (y.smid = 2 ∨ y.rmid = 2) ∧ y.smid.toNat ≤ 2 ∧ y.rmid.toNat ≤ 2 else y.smid ≠ 2 ∧ y.rmid ≠ 2))
      ∃ t, exec (.mailboxBind mid n value) s = .next t ∧ (∀ k, k ≠ n → getMbx t k = getMbx s k) ∧
        t = { s with mbx := t.mbx, fab := { s.fab with hub := t.fab.hub } } ∧
        (may → t.fab.hub = s.fab.hub ∧ getMbx t n = if y = x then x else
          { y with pend := 0, empty := false, tmo := false, overwrite := false, timing := false }) ∧
        (¬may → t.mbx = s.mbx ∧ t.fab.hub.length = s.fab.hub.length + 2)

/-- TIMER_CTL_WRITE, TIMER_RELOAD_WRITE, TIMER_RELOAD_NOW and TIMER_COMPARE_WRITE (R477, R480 to R483, R485, R491): a write from
MID 0x0 to 0x3 to a timer that is not in pace mode is taken, but for a CTL write of MODE 10 or 11 or one that changes PRE or
MODE while EN is 1; RELOAD_NOW loads COUNT of a native timer only; a compare in compatibility mode sets CMP_BEHIND when it is at
or below COUNT. Every other write changes no timer and is reported. -/
def Obligations.TimerRegisterWrites : Prop :=
  ∀ (s : State) (mid i : Nat), i < 32 →
    let t := getTmr s i
    let may := mid ≤ 3 ∧ t.mode ≠ .pace
    let refused (a : Nat) := Host.Outcome.next (ρ := Refusal) (φ := Fault) (clogBar s mid (0x600000 + 0x40 * i + a) stAccess)
    (∀ v : Word,
      let new : TimerMode := if fld v 30 29 = 1 then .compat else .native
      let ok := may ∧ fld v 30 29 < 2 ∧ (t.en = true → new = t.mode ∧ fld v 3 0 = t.pre.toNat)
      (ok → exec (.timerCtlWrite mid i v) s = .next (setTmr s i { t with
          en := bit v 31, mode := new, oneshot := bit v 28, wake := bit v 26, ie := bit v 25
          vector := BitVec.ofNat 8 (fld v 24 17), pre := BitVec.ofNat 4 (fld v 3 0)
          count := if bit v 27 = true ∧ new = .native then t.reload else t.count })) ∧
      (¬ok → exec (.timerCtlWrite mid i v) s = refused 0)) ∧
    (may → exec (.timerReloadNow mid i) s = .next (setTmr s i (if t.mode = .native then { t with count := t.reload } else t))) ∧
    (¬may → exec (.timerReloadNow mid i) s = refused 0) ∧
    ∀ v : Word,
      (may → exec (.timerReloadWrite mid i v) s = .next (setTmr s i { t with reload := v })) ∧
      (¬may → exec (.timerReloadWrite mid i v) s = refused 0x0C) ∧
      ∀ k : Nat, k < 4 →
        (¬may → exec (.timerCompareWrite mid i k v) s = refused (0x10 + 4 * k)) ∧
        (may → ∃ u, exec (.timerCompareWrite mid i k v) s = .next (setTmr s i u) ∧ nget 0 u.cmp k = v ∧
          (∀ j, j ≠ k → nget 0 u.cmp j = nget 0 t.cmp j) ∧ u = { t with cmp := u.cmp, behind := u.behind } ∧
          (t.mode = .compat → (bit u.behind k = true ↔ v.toNat ≤ t.count.toNat)) ∧ (t.mode = .native → u.behind = t.behind))

/-- TIMER_TICK (R478, R480, R482, R484, R490): TB advances; a native counter that is not 0 counts down, with a zero event as it
reaches 0, and at 0 reloads, or clears EN in one-shot mode; a compatibility counter counts up, matches the compares it becomes
equal to, and wraps with an overflow event; a pending link reset takes the step's place. Events set the status bits, raise
VECTOR under IE and fire the wake source under WAKE. A disabled timer stands still. -/
def Obligations.TimerTickCounts : Prop :=
  ∀ (s : State) (i : Nat), i < 32 →
    let t := getTmr s i
    (t.en = false → exec (.timerTick i) s = .next s) ∧
    (t.en = true → ∃ u, exec (.timerTick i) s = .next u ∧ (∀ k, k ≠ i → getTmr u k = getTmr s k) ∧
      u = { s with tmr := u.tmr, hif := { s.hif with msix := u.hif.msix }, pwr := u.pwr } ∧
      (getTmr u i).tb = t.tb + 1 ∧
      (t.mode = .native → t.resetNext = false → t.count ≠ 0 → (getTmr u i).count = t.count - 1 ∧ (getTmr u i).en = true ∧
        (getTmr u i).zero = (t.zero || decide (t.count = 1)) ∧
        (t.count = 1 → t.ie = true → u.hif.msix = s.hif.msix ++ [t.vector.toNat]) ∧
        (t.count ≠ 1 → u.hif.msix = s.hif.msix ∧ u.pwr = s.pwr)) ∧
      (t.mode = .native → t.resetNext = false → t.count = 0 → t.oneshot = true → (getTmr u i).en = false ∧ (getTmr u i).count = 0) ∧
      (t.mode = .native → t.resetNext = false → t.count = 0 → t.oneshot = false →
        (getTmr u i).en = true ∧ (getTmr u i).count = t.reload) ∧
      (t.mode = .native → t.resetNext = true → (getTmr u i).count = t.reload ∧ (getTmr u i).resetNext = false) ∧
      (t.mode = .compat → t.resetNext = false → (getTmr u i).count = t.count + 1 ∧
        (getTmr u i).ovf = (t.ovf || decide (t.count = 0xFFFFFFFF)) ∧
        (getTmr u i).matches_ = t.matches_ ||| BitVec.ofNat 4 (matchBits t (t.count + 1)) ∧
        (getTmr u i).behind = if t.count = 0xFFFFFFFF then 0 else t.behind) ∧
      (t.mode = .compat → t.resetNext = true → (getTmr u i).count = 0 ∧ (getTmr u i).resetNext = false))

/-- TIMER_TB_READ and TIMER_CAPLO_READ answer the low word and keep the rest of the value for the next read (R478, R489);
TIMER_LINK_ACTION starts or resets the target of a fired link, unless that is in pace mode (R484); TRIGGER_CAPTURE captures in
every timer that selects the pin and the edge (R487) and fires a wake source on a rising edge that PWR_WAKE_EN enables (R504).
-/
def Obligations.TimerReadsLinksAndCaptures : Prop :=
  ∀ s : State,
    (∀ i, i < 32 →
      let t := getTmr s i
      exec (.timerTbRead i) s = .next { setTmr s i { t with tbHi := t.tb.extractLsb' 32 32 } with
        rdata := (t.tb.extractLsb' 0 32).setWidth 64 } ∧
      exec (.timerCaploRead i) s = .next { setTmr s i { t with
          snapHi := t.capTb.extractLsb' 32 32, snapCnt := t.capCount, capNew := false } with
        rdata := (t.capTb.extractLsb' 0 32).setWidth 64 }) ∧
    (∀ i, (getTmr s i).linkNow = true → (getTmr s i).ltarget.toNat ≠ i →
      let t := getTmr s i
      let k := t.ltarget.toNat
      let x := getTmr s k
      ∃ u, exec (.timerLinkAction i) s = .next u ∧ getTmr u i = { t with linkNow := false } ∧ u = { s with tmr := u.tmr } ∧
        (∀ j, j ≠ i → j ≠ k → getTmr u j = getTmr s j) ∧
        (x.mode = .pace → getTmr u k = x) ∧
        (x.mode ≠ .pace → getTmr u k = { x with
          en := x.en || t.lact.getLsbD 0, resetNext := x.resetNext || t.lact.getLsbD 1 })) ∧
    ∀ (pin : Nat) (rising : Bool),
      ∃ u, exec (.triggerCapture pin rising) s = .next u ∧ u = { s with tmr := u.tmr, pwr := u.pwr } ∧
        u.pwr = (if rising = true ∧ pin < 8 ∧ bit s.pwr.wakeEn pin = true then (wakeFires s pin).pwr else s.pwr) ∧
        ∀ i, nwf (fun _ => ({} : Timer)) s.tmr = true →
          let t := getTmr s i
          getTmr u i = if t.src = 1 ∧ t.pin.toNat = pin ∧ t.edge.getLsbD (if rising then 0 else 1) = true then
            { t with capTb := t.tb, capCount := t.count, capNew := true, capOver := t.capOver || t.capNew } else t

/-- PACE_SET (R142, R485) gives the shard P, O and T0 and puts the timer that it names in pace mode with EN 1, or completes with
NO_RESOURCE where another context holds that timer. PACE_RELEASE (R143, R486) sends RELEASE for the highest due step that no
barrier of the hub holds back to every core of the shard, and no step is released twice. -/
def Obligations.PaceSetAndRelease : Prop :=
  (∀ (s : State) (h : Nat) (f : Fetched), MayRun s h 0x11 f →
    let m := f.manifest
    let ctx := mCtx m
    let i := mw m 0 % 32
    let taken := ((getTmr s i).mode = .pace ∧ (getTmr s i).pctx.toNat ≠ ctx) ∨ timerBound s i ctx = true
    (taken → exec (.paceSet h) s = .next (complete (started s h) h stNoResource)) ∧
    (¬taken → (∀ j, (getShard s ctx).timer = some j → j = i) →
      ∃ t, exec (.paceSet h) s = .next t ∧ findCmd t h = none ∧
        getTmr t i = { getTmr s i with mode := .pace, en := true, pctx := BitVec.ofNat 6 ctx } ∧
        getShard t ctx = { getShard s ctx with
          timer := some i, pacedSet := true, p := BitVec.ofNat 64 (mw2 m 1), o := BitVec.ofNat 64 (mw2 m 3)
          t0 := BitVec.ofNat 64 (mw2 m 5), changes := [] } ∧
        (∀ k, k ≠ i → getTmr t k = getTmr s k) ∧ (∀ c, c ≠ ctx → getShard t c = getShard s c) ∧
        t = { s with tmr := t.tmr, shards := t.shards, hif := t.hif, sdio := t.sdio, mgmt := t.mgmt, fab := t.fab })) ∧
  ∀ (s : State) (ctx k : Nat), nextRelease s ctx = some k →
    ∃ t, exec (.paceRelease ctx) s = .next t ∧ getShard t ctx = { getShard s ctx with nextRel := k + 1 } ∧
      (∀ c, c ≠ ctx → getShard t c = getShard s c) ∧
      t = hubSendAll { s with shards := t.shards } ((shardCores s ctx).map (releasePkt s ctx k)) ∧
      ∀ j, j ≤ k → nextRelease t ctx ≠ some j

/-- The scalar instructions ALU, ADDI, ANDI, ORI, XORI, LUI, SLTI and SHI (R271): RD takes the result of every FUNC and every
shift; the handler goes on with the next instruction, and nothing else changes (`issued` is the core as the instruction finds
it, one cycle older; `advanceTo` moves PC and fetches; `wr` writes RD, s0 apart). -/
def Obligations.HandlerScalarResults : Prop :=
  ∀ (s : State) (n rd ra rb imm : Nat),
    let c := getCore s n
    let a := rv c ra
    let b := rv c rb
    let k := b.toNat % 32
    (∀ p ∈ [(0, a + b), (1, a - b), (2, a &&& b), (3, a ||| b), (4, a ^^^ b), (5, a <<< k), (6, a >>> k), (7, a.sshiftRight k),
        (8, if a.slt b then 1 else 0), (9, if a.ult b then 1 else 0), (10, a * b), (11, if a.slt b then a else b),
        (12, if a.slt b then b else a)],
      Issues s n (encR 0 rd ra rb p.1) → exec (.alu n rd ra rb p.1) s = .next (advanceTo s n (wr (issued s n (encR 0 rd ra rb p.1)) rd p.2))) ∧
    (Issues s n (encI 0x01 rd ra imm) → exec (.addi n rd ra imm) s =
      .next (advanceTo s n (wr (issued s n (encI 0x01 rd ra imm)) rd (a + (BitVec.ofNat 16 imm).signExtend 32)))) ∧
    (Issues s n (encI 0x02 rd ra imm) → exec (.andi n rd ra imm) s =
      .next (advanceTo s n (wr (issued s n (encI 0x02 rd ra imm)) rd (a &&& BitVec.ofNat 32 (imm % 2 ^ 16))))) ∧
    (Issues s n (encI 0x03 rd ra imm) → exec (.ori n rd ra imm) s =
      .next (advanceTo s n (wr (issued s n (encI 0x03 rd ra imm)) rd (a ||| BitVec.ofNat 32 (imm % 2 ^ 16))))) ∧
    (Issues s n (encI 0x04 rd ra imm) → exec (.xori n rd ra imm) s =
      .next (advanceTo s n (wr (issued s n (encI 0x04 rd ra imm)) rd (a ^^^ BitVec.ofNat 32 (imm % 2 ^ 16))))) ∧
    (Issues s n (encI 0x05 rd ra imm) → exec (.lui n rd ra imm) s =
      .next (advanceTo s n (wr (issued s n (encI 0x05 rd ra imm)) rd (BitVec.ofNat 32 (imm % 2 ^ 16) <<< 16)))) ∧
    (Issues s n (encI 0x06 rd ra imm) → exec (.slti n rd ra imm) s =
      .next (advanceTo s n (wr (issued s n (encI 0x06 rd ra imm)) rd (if a.slt ((BitVec.ofNat 16 imm).signExtend 32) then 1 else 0)))) ∧
    ∀ p ∈ [(0, a <<< (imm % 32)), (1, a >>> (imm % 32)), (2, a.sshiftRight (imm % 32))],
      imm / 32 % 4 = p.1 → Issues s n (encI 0x07 rd ra imm) → exec (.shi n rd ra imm) s =
        .next (advanceTo s n (wr (issued s n (encI 0x07 rd ra imm)) rd p.2))

/-- The branches, JAL, JR and LOOP (R271, R274): a branch whose comparison holds goes to PC + OFF and one whose comparison fails
goes on; JAL links PC + 1; LOOP sets the loop over the next IMM[9:0] instructions, skips them for a count of 0, and faults with
FCODE 2 inside a loop. -/
def Obligations.HandlerControlFlow : Prop :=
  ∀ (s : State) (n ra rb rd off func imm : Nat),
    let c := getCore s n
    let a := rv c ra
    let b := rv c rb
    let target := c.hnd.pc + (BitVec.ofNat 16 off).setWidth 13
    let goes (op : Nat) (holds : Bool) := Host.Outcome.next (φ := Fault) (ρ := Refusal)
      (if holds then jumpTo s n (issued s n (encB op ra rb off)) target else advanceTo s n (issued s n (encB op ra rb off)))
    (Issues s n (encB 0x08 ra rb off) → exec (.beq n ra rb off) s = goes 0x08 (a == b)) ∧
    (Issues s n (encB 0x09 ra rb off) → exec (.bne n ra rb off) s = goes 0x09 (a != b)) ∧
    (Issues s n (encB 0x0A ra rb off) → exec (.blt n ra rb off) s = goes 0x0A (a.slt b)) ∧
    (Issues s n (encB 0x0B ra rb off) → exec (.bge n ra rb off) s = goes 0x0B (!a.slt b)) ∧
    (Issues s n (encB 0x0C ra rb off) → exec (.bltu n ra rb off) s = goes 0x0C (a.ult b)) ∧
    (Issues s n (encB 0x0D ra rb off) → exec (.bgeu n ra rb off) s = goes 0x0D (!a.ult b)) ∧
    (Issues s n (encJ 0x0E rd off) → exec (.jal n rd off) s =
      .next (jumpTo s n (wr (issued s n (encJ 0x0E rd off)) rd (c.hnd.pc.setWidth 32 + 1)) (c.hnd.pc + (BitVec.ofNat 21 off).setWidth 13))) ∧
    (Issues s n (encR 0x0F rd ra rb func) → exec (.jr n rd ra rb func) s =
      .next (jumpTo s n (issued s n (encR 0x0F rd ra rb func)) (a.setWidth 13))) ∧
    (Issues s n (encI 0x10 rd ra imm) →
      let first := c.hnd.pc.toNat + 1
      let len := imm % 2 ^ 10
      let x := issued s n (encI 0x10 rd ra imm)
      (c.hnd.loopState.isSome = true → exec (.loop n rd ra imm) s = .next (faultAt s n 2 0)) ∧
      (c.hnd.loopState = none → a = 0 → exec (.loop n rd ra imm) s = .next (jumpTo s n x (BitVec.ofNat 13 (first + len)))) ∧
      (c.hnd.loopState = none → a ≠ 0 → exec (.loop n rd ra imm) s = .next (fetchAt (setCore s n { x with hnd := { x.hnd with
        pc := BitVec.ofNat 13 first, loopState := some (first, first + len - 1, a.toNat) } }) n)))

/-- What an issued instruction leaves in the handler unit (R259, R274): a written scalar, vector or accumulator register is read
back, s0 reads 0 and the other registers are as before; the next instruction in order is PC + 1, but at the end of a loop body
with iterations left it is the body's first; a jump out of the body ends the loop, and LOOP in a body faults with FCODE 2. A
fetch that finds PC outside the loaded instructions faults with FCODE 4, a reserved word with FCODE 2, an instruction with an
uncorrectable ECC error with FCODE 6; any other leaves the state. -/
def Obligations.HandlerRegistersAndFetch : Prop :=
  (∀ (c : Core) (a b : Nat) (v : Word), rv (wr c a v) b = if b % 32 = 0 then 0 else if b % 32 = a % 32 then v else rv c b) ∧
  (∀ (c : Core) (a b : Nat) (v : BitVec 512), vv (wv c a v) b = if b % 8 = a % 8 then v else vv c b) ∧
  (∀ (c : Core) (a b : Nat) (v : BitVec 2048), av (wa c a v) b = if b % 4 = a % 4 then v else av c b) ∧
  (∀ (f : Nat → Nat) (i : Nat), i < 128 → lane (mkVec f) i = f i % 16) ∧
  (∀ (f : Nat → Int) (i : Nat), i < 128 → -32768 ≤ f i → f i ≤ 32767 → accLane (mkAcc f) i = f i) ∧
  (∀ (s : State) (n : Nat) (c : Core), c.hnd.wait = .none →
    advanceTo s n c = fetchAt (setCore s n { c with hnd := nextPc c.hnd }) n) ∧
  (∀ (h : HandlerState), nextPc h = match h.loopState with
    | some (a, b, k) =>
        if h.pc.toNat = b ∧ 1 < k then { h with pc := BitVec.ofNat 13 a, loopState := some (a, b, k - 1) }
        else { h with pc := h.pc + 1, loopState := if h.pc.toNat = b then none else h.loopState }
    | none => { h with pc := h.pc + 1 }) ∧
  (∀ (s : State) (n : Nat) (c : Core) (pc : BitVec 13), jumpTo s n c pc = fetchAt (setCore s n { c with hnd := { c.hnd with
    pc := pc, loopState := c.hnd.loopState.filter fun l => decide (l.1 ≤ pc.toNat ∧ pc.toNat ≤ l.2.1) } }) n) ∧
  (∀ (s : State) (n rd ra imm : Nat), Issues s n (encI 0x10 rd ra imm) → (getCore s n).hnd.loopState.isSome = true →
    exec (.loop n rd ra imm) s = .next (faultAt s n 2 0)) ∧
  ∀ (s : State) (n : Nat),
    let c := getCore s n
    let inside := inRanges c.hnd.loaded c.hnd.pc.toNat
    (c.hnd.run = true → c.hnd.wait = .none → inside = false → fetchAt s n = faultAt s n 4 c.hnd.pc.toNat) ∧
    (c.hnd.run = true → c.hnd.wait = .none → inside = true → insnOk (nget 0 c.hnd.store c.hnd.pc.toNat) = false →
      fetchAt s n = faultAt s n 2 c.hnd.pc.toNat) ∧
    (c.hnd.run = true → c.hnd.wait = .none → inside = true → insnOk (nget 0 c.hnd.store c.hnd.pc.toNat) = true →
      c.hnd.failing.contains c.hnd.pc.toNat = true → fetchAt s n = faultAt s n 6 c.hnd.pc.toNat) ∧
    ((c.hnd.run = false ∨ c.hnd.wait ≠ .none ∨ (inside = true ∧ insnOk (nget 0 c.hnd.store c.hnd.pc.toNat) = true ∧
      c.hnd.failing.contains c.hnd.pc.toNat = false)) → fetchAt s n = s)

/-- The scalar loads and stores LDW, LDH, LDB, STW, STH and STB (R261, R262, R271): an aligned load in local data memory puts
the bytes at RA + IMM, zero-extended, in RD; an aligned store that R262 permits puts the low bytes of RD there and changes no
other byte; any other access faults with FCODE 3. -/
def Obligations.HandlerScalarMemory : Prop :=
  ∀ (s : State) (n rd ra imm : Nat),
    let c := getCore s n
    let a := (rv c ra + BitVec.ofNat 32 (imm % 2 ^ 16)).toNat
    let loads (op k : Nat) (i : Instr) := Issues s n (encI op rd ra imm) →
      (a % k = 0 → a + k ≤ 0x40000 →
        exec i s = .next (advanceTo s n (wr (issued s n (encI op rd ra imm)) rd (BitVec.ofNat 32 (ldmGet c a k))))) ∧
      (¬(a % k = 0 ∧ a + k ≤ 0x40000) → exec i s = .next (faultAt s n 3 a))
    let stores (op k : Nat) (i : Instr) := Issues s n (encI op rd ra imm) →
      (a % k = 0 → mayWrite c a k = true → ∃ d, exec i s = .next (advanceTo s n d) ∧
        d = { issued s n (encI op rd ra imm) with ldm := d.ldm } ∧ ldmGet d a k = (rv c rd).toNat % 256 ^ k ∧
        ∀ b, b < a ∨ a + k ≤ b → nget (0 : Byte) d.ldm b = nget 0 c.ldm b) ∧
      (¬(a % k = 0 ∧ mayWrite c a k = true) → exec i s = .next (faultAt s n 3 a))
    loads 0x14 4 (.ldw n rd ra imm) ∧ loads 0x16 2 (.ldh n rd ra imm) ∧ loads 0x18 1 (.ldb n rd ra imm) ∧
    stores 0x15 4 (.stw n rd ra imm) ∧ stores 0x17 2 (.sth n rd ra imm) ∧ stores 0x19 1 (.stb n rd ra imm)

/-- The vector loads and stores VLD, VST, ACCLD and ACCST (R261, R262, R271, R278, R284): 64 or 256 bytes at a 64-byte boundary
of local data memory, for VLD also a row-store line, which takes a cycle of the HANDLER toll at the row-store gate, stalls and
counts a held cycle without one, and waits while the line is pending DEFERRED commit; any other access faults with FCODE 3. -/
def Obligations.HandlerVectorMemory : Prop :=
  ∀ (s : State) (n rd ra imm : Nat),
    let c := getCore s n
    let a := (rv c ra + BitVec.ofNat 32 (imm % 2 ^ 16)).toNat
    (Issues s n (encI 0x1A rd ra imm) →
      let x := issued s n (encI 0x1A rd ra imm)
      let port := mayTake (tileGate s n 1) c.ports.mem handlerClass
      (a % 64 = 0 → a + 64 ≤ 0x40000 →
        exec (.vld n rd ra imm) s = .next (advanceTo s n (wv x rd (BitVec.ofNat 512 (ldmGet c a 64))))) ∧
      (∀ line, line < 0x4000 → a = 0x100000 + 64 * line →
        (c.lrn.pending.contains line = false → port = true →
          exec (.vld n rd ra imm) s = .next (advanceTo s n (wv (chargePorts x handlerClass 0 1) rd (nget 0 c.syn.rows line)))) ∧
        (c.lrn.pending.contains line = false → port = false →
          exec (.vld n rd ra imm) s = .next (setCore s n (dpWait (holdMem x)))) ∧
        (c.lrn.pending.contains line = true → exec (.vld n rd ra imm) s = .next s)) ∧
      (a % 64 ≠ 0 ∨ (0x40000 < a + 64 ∧ (a < 0x100000 ∨ 0x200000 ≤ a)) → exec (.vld n rd ra imm) s = .next (faultAt s n 3 a))) ∧
    (Issues s n (encI 0x1B rd ra imm) →
      (a % 64 = 0 → mayWrite c a 64 = true → exec (.vst n rd ra imm) s = .next (advanceTo s n (ldmSet (issued s n (encI 0x1B rd ra imm)) a 64 (vv c rd).toNat))) ∧
      (¬(a % 64 = 0 ∧ mayWrite c a 64 = true) → exec (.vst n rd ra imm) s = .next (faultAt s n 3 a))) ∧
    (Issues s n (encI 0x1C rd ra imm) →
      (a % 64 = 0 → a + 256 ≤ 0x40000 →
        exec (.accld n rd ra imm) s = .next (advanceTo s n (wa (issued s n (encI 0x1C rd ra imm)) rd (BitVec.ofNat 2048 (ldmGet c a 256))))) ∧
      (¬(a % 64 = 0 ∧ a + 256 ≤ 0x40000) → exec (.accld n rd ra imm) s = .next (faultAt s n 3 a))) ∧
    (Issues s n (encI 0x1D rd ra imm) →
      (a % 64 = 0 → mayWrite c a 256 = true → exec (.accst n rd ra imm) s = .next (advanceTo s n (ldmSet (issued s n (encI 0x1D rd ra imm)) a 256 (av c rd).toNat))) ∧
      (¬(a % 64 = 0 ∧ mayWrite c a 256 = true) → exec (.accst n rd ra imm) s = .next (faultAt s n 3 a)))

/-- VMAC, VMACB, VMACM and ACCOP (R271, R272, R278, R284): every lane of the accumulator becomes the saturated sum (for the
shift the shifted lane, for FUNC 2 zero); ASAT is set when a lane saturates, which a MAC instruction counts once; VMACM with INC
advances RA by 64 and RN by 1. A MAC instruction takes a datapath cycle of the HANDLER toll, VMACM of a row-store line a
row-store cycle too; where the toll leaves none the handler stalls at the instruction and the held cycle counts. -/
def Obligations.HandlerAccumulates : Prop :=
  ∀ (s : State) (n d va vb za zb k clr neg ra rn inc rb : Nat),
    let c := getCore s n
    let base (i : Nat) : Int := if clr % 2 = 1 then 0 else accLane (av c d) i
    let sum (x : Core) (mac : Bool) (f : Nat → Int) : Core :=
      let e := wa x d (mkAcc fun i => max (-32768) (min 32767 (f i)))
      if (List.range 128).any fun i => decide (f i < -32768 ∨ 32767 < f i) then
        { e with hnd := { e.hnd with asat := true }, cnt := if mac then (cntHi e 0xE08 1).cnt else e.cnt }
      else e
    let term (y : Int) (i : Nat) (m : BitVec 512) : Int := ((lane m i : Int) - (za % 16 : Nat)) * (y - (zb % 16 : Nat))
    let sign (x : Int) : Int := if neg % 2 = 1 then -x else x
    let dp := mayTake (tileGate s n 0) c.ports.dp handlerClass = true
    let port := mayTake (tileGate s n 1) c.ports.mem handlerClass = true
    (Issues s n (encV 0x20 d va vb za zb k clr neg) →
      let x := issued s n (encV 0x20 d va vb za zb k clr neg)
      (dp → exec (.vmac n d va vb za zb k clr neg) s = .next (advanceTo s n
        (sum (chargePorts x handlerClass 1 0) true fun i => base i + sign (term (lane (vv c vb) i) i (vv c va))))) ∧
      (¬dp → exec (.vmac n d va vb za zb k clr neg) s = .next (setCore s n (dpWait (holdDp x))))) ∧
    (Issues s n (encV 0x21 d va vb za zb k clr neg) →
      let x := issued s n (encV 0x21 d va vb za zb k clr neg)
      (dp → exec (.vmacb n d va vb za zb k clr neg) s = .next (advanceTo s n
        (sum (chargePorts x handlerClass 1 0) true fun i => base i + sign (term (lane (vv c vb) (k % 128)) i (vv c va))))) ∧
      (¬dp → exec (.vmacb n d va vb za zb k clr neg) s = .next (setCore s n (dpWait (holdDp x))))) ∧
    (Issues s n (encM 0x22 d ra vb rn za zb inc clr) →
      let x := issued s n (encM 0x22 d ra vb rn za zb inc clr)
      let a := (rv c ra).toNat
      (∀ m, lineAt c a = some m → lineHeld c a = false →
        let e := sum (chargePorts x handlerClass 1 (if inRowStore a then 1 else 0)) true fun i =>
          base i + term (lane (vv c vb) ((rv c rn).toNat % 128)) i m
        (dp → (inRowStore a = true → port) → exec (.vmacm n d ra vb rn za zb inc clr) s =
          .next (advanceTo s n (if inc % 2 = 1 then let e1 := wr e ra (rv e ra + 64); wr e1 rn (rv e1 rn + 1) else e))) ∧
        (¬dp → exec (.vmacm n d ra vb rn za zb inc clr) s = .next (setCore s n (dpWait (holdDp x)))) ∧
        (dp → inRowStore a = true → ¬port →
          exec (.vmacm n d ra vb rn za zb inc clr) s = .next (setCore s n (dpWait (holdMem x))))) ∧
      (∀ m, lineAt c a = some m → lineHeld c a = true → exec (.vmacm n d ra vb rn za zb inc clr) s = .next s) ∧
      (lineAt c a = none → exec (.vmacm n d ra vb rn za zb inc clr) s = .next (faultAt s n 3 a))) ∧
    (Issues s n (encR 0x24 d ra rb 0) → exec (.accop n d ra rb 0) s = .next (advanceTo s n
      (sum (issued s n (encR 0x24 d ra rb 0)) false fun i => accLane (av c d) i + accLane (av c ra) i))) ∧
    (Issues s n (encR 0x24 d ra rb 1) → exec (.accop n d ra rb 1) s = .next (advanceTo s n
      (wa (issued s n (encR 0x24 d ra rb 1)) d (mkAcc fun i => accLane (av c d) i / 2 ^ ((rv c rb).toNat % 16))))) ∧
    (Issues s n (encR 0x24 d ra rb 2) → exec (.accop n d ra rb 2) s = .next (advanceTo s n
      (wa (issued s n (encR 0x24 d ra rb 2)) d 0)))

/-- VDOT, VRQ and the lane instructions VFUN, VPERM, VSELM, VSPLAT, VEXT and VINS (R271, R273, R278, R281): every lane of the
destination as the table gives it; VDOT takes a datapath cycle of the HANDLER toll, or stalls; VRQ packs the codes of the 128
lanes, requantised in ascending order with one draw each, counts the clamped ones, and is in flight with the value that its
register had. -/
def Obligations.HandlerLaneResults : Prop :=
  ∀ (s : State) (n d va vb za zb k clr neg ra rb func imm rest : Nat),
    let c := getCore s n
    let dp := mayTake (tileGate s n 0) c.ports.dp handlerClass = true
    (Issues s n (encS 0x23 d va vb za zb rest) →
      let x := issued s n (encS 0x23 d va vb za zb rest)
      (dp → exec (.vdot n d va vb za zb rest) s = .next (advanceTo s n (wr (chargePorts x handlerClass 1 0) d (BitVec.ofInt 32
        ((List.range 128).map fun i => ((lane (vv c va) i : Int) - (za % 16 : Nat)) * ((lane (vv c vb) i : Int) - (zb % 16 : Nat))).sum)))) ∧
      (¬dp → exec (.vdot n d va vb za zb rest) s = .next (setCore s n (dpWait (holdDp x))))) ∧
    (Issues s n (encR 0x25 d ra rb func) →
      let x := vrqLanes (rv c ra) (av c rb) c.hnd.lfsr
      let i := issued s n (encR 0x25 d ra rb func)
      ∃ e, exec (.vrq n d ra rb func) s = .next (advanceTo s n e) ∧ e.hnd.lfsr = x.2.2 ∧
        vv e d = BitVec.ofNat 512 (packLanes (vrqFmt (fld (rv c ra) 13 12)).width x.1) ∧
        (∀ j, j % 8 ≠ d % 8 → vv e j = vv c j) ∧
        (e.hnd.rqclamp = true ↔ c.hnd.rqclamp = true ∨ x.2.1 ≠ 0) ∧
        e.hnd.flight = i.hnd.flight ++ [(d % 8, 0, vv c d)] ∧
        e.cnt = (if x.2.1 = 0 then c.cnt else (cntLo c 0xE04 x.2.1).cnt) ∧
        e = { i with hnd := { i.hnd with v := e.hnd.v, lfsr := e.hnd.lfsr, rqclamp := e.hnd.rqclamp, flight := e.hnd.flight }
                     cnt := e.cnt }) ∧
    (Issues s n (encV 0x26 d va vb za zb k clr neg) → exec (.vfun n d va vb za zb k clr neg) s = .next (advanceTo s n
      (wv (issued s n (encV 0x26 d va vb za zb k clr neg)) d (mkVec fun i =>
        if k % 128 + i < 128 then lane (vv c va) (k % 128 + i) else lane (vv c vb) (k % 128 + i - 128))))) ∧
    (Issues s n (encV 0x27 d va vb za zb k clr neg) → exec (.vperm n d va vb za zb k clr neg) s = .next (advanceTo s n
      (wv (issued s n (encV 0x27 d va vb za zb k clr neg)) d (mkVec fun i =>
        if i / 64 = k % 2 then lane (vv c va) ((vv c vb).toNat / 2 ^ (8 * (i % 64)) % 2 ^ 7) else lane (vv c d) i)))) ∧
    (Issues s n (encV 0x28 d va vb za zb k clr neg) → exec (.vselm n d va vb za zb k clr neg) s = .next (advanceTo s n
      (wv (issued s n (encV 0x28 d va vb za zb k clr neg)) d (mkVec fun i =>
        if i &&& (k % 128) = (za % 16 * 16 + zb % 16) % 128 then lane (vv c vb) i else lane (vv c va) i)))) ∧
    (Issues s n (encI 0x29 d ra imm) → exec (.vsplat n d ra imm) s = .next (advanceTo s n
      (wv (issued s n (encI 0x29 d ra imm)) d (mkVec fun _ => (rv c ra).toNat % 16)))) ∧
    (Issues s n (encI 0x2A d ra imm) → exec (.vext n d ra imm) s = .next (advanceTo s n
      (wr (issued s n (encI 0x2A d ra imm)) d (BitVec.ofNat 32 (lane (vv c (imm / 128 % 8)) (imm % 128)))))) ∧
    (Issues s n (encI 0x2B d ra imm) → exec (.vins n d ra imm) s = .next (advanceTo s n
      (wv (issued s n (encI 0x2B d ra imm)) d
        (setFld (vv c d) (4 * (imm % 128) + 3) (4 * (imm % 128)) ((rv c ra).toNat % 16)))))

/-- SEND, TALLYC and SEND_WAIT_EXPIRE (R275, R298 to R301, R305, R309, R311, R315): a request that keeps the sender's rules, and
a contribution, go by the state of their channel: a credit is spent and RD becomes OK, the handler waits for a credit, or RD
becomes STALE_GEN or PEER_CLOSED; a reply goes to the opener's reply queue, or is kept for the host, and RD becomes OK; a
message outside the rules faults with FCODE 3; when SEND_WAIT is over RD becomes QUEUE_FULL, which LAST and the count record. -/
def Obligations.HandlerSendsMessages : Prop :=
  ∀ (s : State) (n rd ra rb func : Nat),
    let c := getCore s n
    let a := rv c ra
    let d := rv c rb
    let k := d.toNat % 2 ^ 8
    let land := d.toNat / 2 ^ 20
    let len := d.toNat / 2 ^ 10 % 2 ^ 10
    let hidx := func / 32 % 64
    let body := msgBody c a land len
    let outcome (x : Core) (ch rd : Nat) (p : Packet) (i : Instr) : Prop :=
      let r := chan c ch
      (chState r = 2 → (chKind r = 2 ∨ chCredits r ≠ 0) → exec i s = .next (advanceTo s n (wr (setChan x ch
        (let r1 := if chKind r = 2 then r else withCredits r (chCredits r - 1)
         if chKind r = 1 then setFld r1 45 45 (1 - chRound r) else r1) none 0 0) rd 0) [p])) ∧
      ((chState r = 1 ∨ (chState r = 2 ∧ chKind r ≠ 2 ∧ chCredits r = 0)) → exec i s =
        .next (setCore s n { x with hnd := { x.hnd with wait := .credit ch (rd % 32) } })) ∧
      (chState r = 5 → exec i s = .next (advanceTo s n (wr x rd 0x32))) ∧
      ((chState r = 3 ∨ chState r = 4) → exec i s = .next (advanceTo s n (wr x rd 0x33)))
    (Issues s n (encR 0x30 rd ra rb func) → func % 2 = 0 →
      let r := chan c k
      let legal := chState r ≠ 0 ∧ (chKind r = 0 ∨ chKind r = 2) ∧ landingOk (sendWin r) land len = true ∧
        (len = 0 ∨ a.toNat + len ≤ 0x40000)
      let line := chKind r = 2
      (¬legal → exec (.send n rd ra rb func) s = .next (faultAt s n 3 a.toNat)) ∧
      (legal → outcome (issued s n (encR 0x30 rd ra rb func)) k rd
        (mkPkt 4 2 (if line then devNo s else chPdev r) (chPcore r) (if line then fld r 44 43 else 0)
          (if line then fld r 42 38 else 0) (msgSrc false (devNo s) n k) (chPqueue r * 2 ^ 8 + (if line then 0 else chPcgen r))
          c.ctx c.gen.toNat hidx body.1 3 0xB body.2) (.send n rd ra rb func))) ∧
    (Issues s n (encR 0x30 rd ra rb func) → func % 2 = 1 →
      let ch := c.hnd.cur.chain
      let e := ch.entry
      let x := issued s n (encR 0x30 rd ra rb func)
      let legal := ch.replied = false ∧ (len = 0 ∨ a.toNat + len ≤ 0x40000) ∧
        ((ch.isReq = true ∧ landingOk ((fld e 15 4 + 1) * 64) land len = true) ∨ (ch.isReq = false ∧ ch.host.isSome = true ∧ len ≤ 256))
      (¬legal → exec (.send n rd ra rb func) s = .next (faultAt s n 3 a.toNat)) ∧
      (legal → ch.isReq = true → exec (.send n rd ra rb func) s = .next (advanceTo s n
        (modChain (wr x rd 0) fun y => { y with replied := true })
        [mkPkt 4 2 (qPdev e) (qPcore e) 0 0 (msgSrc true (devNo s) n 0) (qRqueue e * 2 ^ 8 + qRqcgen e) c.ctx c.gen.toNat hidx
          body.1 3 0xB body.2])) ∧
      (legal → ch.isReq = false → exec (.send n rd ra rb func) s = .next (advanceTo s n
        (modChain (wr x rd 0) fun y => { y with
          replied := true, reply := if len = 0 then bytesOf 4 a.toNat else ngetList (0 : Byte) c.ldm a.toNat len })))) ∧
    (Issues s n (encR 0x31 rd ra rb func) →
      let k := a.toNat % 2 ^ 8
      let t := chan c k
      let legal := chState t ≠ 0 ∧ (chKind t = 1 ∨ (chState t = 1 ∧ chKind t = 0))
      (¬legal → exec (.tallyc n rd ra rb func) s = .next (faultAt s n 3 k)) ∧
      (legal → outcome (issued s n (encR 0x31 rd ra rb func)) k rd
        (mkPkt 8 2 (chPdev t) (chPcore t) 0 0 (msgSrc false (devNo s) n k) (chPqueue t * 2 ^ 8 + chPcgen t) c.ctx
          c.gen.toNat (chRound t * 32) (match func % 4 with | 0 => d.toNat % 2 ^ 16 | 1 => d.toNat | _ => 0) 3 0xB
          (if func % 4 = 2 then burstFlits (vv c (func / 4 % 8)) else [])) (.tallyc n rd ra rb func))) ∧
    ∀ j e, c.hnd.wait = .credit j e → exec (.sendWaitExpire n) s = .next (advanceTo s n
      (wr { cntHi (setChan c j (chan c j) (some stQueueFull) 0 0) 0xF04 1 with hnd := { c.hnd with wait := .none } } e 0x34))

/-- WAITNE, WAITNE_TIMEOUT, QRY, MODW and CSTG (R271, R276, R277; R328, R330): WAITNE goes on with a word that differs and waits
for one that does not; its bound goes on with the word as it is; QRY answers its items, of which the cycle count is a free value
(assumption 6); MODW sends the write to the hub; CSTG stages the record that lies in local data memory and RD takes the status;
a misplaced access faults with FCODE 3. -/
def Obligations.HandlerWaitsAndQueries : Prop :=
  ∀ (s : State) (n rd ra rb func imm : Nat),
    let c := getCore s n
    let a := (rv c ra).toNat
    let b := rv c rb
    let word := BitVec.ofNat 32 (ldmGet c a 4)
    (Issues s n (encR 0x32 rd ra rb func) →
      let x := issued s n (encR 0x32 rd ra rb func)
      (a % 4 ≠ 0 ∨ 0x40000 < a + 4 → exec (.waitne n rd ra rb func) s = .next (faultAt s n 3 a)) ∧
      (a % 4 = 0 → a + 4 ≤ 0x40000 → word ≠ b → exec (.waitne n rd ra rb func) s = .next (advanceTo s n (wr x rd word))) ∧
      (a % 4 = 0 → a + 4 ≤ 0x40000 → word = b → exec (.waitne n rd ra rb func) s =
        .next (setCore s n { x with hnd := { x.hnd with wait := .waitne (rd % 32) a b (func % 2048 != 0) } }))) ∧
    (∀ r x o, c.hnd.wait = .waitne r x o true → exec (.waitneTimeout n) s =
      .next (advanceTo s n (wr { c with hnd := { c.hnd with wait := .none } } r (BitVec.ofNat 32 (ldmGet c x 4))))) ∧
    (∀ p ∈ [(0, c.st.step), (1, c.st.c), (2, c.st.released), (3, c.gen.setWidth 32),
        (4, BitVec.ofNat 32 (b1 c.hnd.rqclamp * 2 + b1 c.hnd.asat)), (5, BitVec.ofNat 32 (devNo s * 2 ^ 10 + n))],
      imm % 8 = p.1 → Issues s n (encI 0x34 rd ra imm) →
        exec (.qry n rd ra imm) s = .next (advanceTo s n (wr (issued s n (encI 0x34 rd ra imm)) rd p.2))) ∧
    (5 < imm % 8 → Issues s n (encI 0x34 rd ra imm) → ∃ v t, exec (.qry n rd ra imm) s =
      .next (advanceTo t n (wr (issued s n (encI 0x34 rd ra imm)) rd v)) ∧ t = { s with free := t.free } ∧ s.free ≤ t.free) ∧
    (Issues s n (encR 0x35 rd ra rb func) → exec (.modw n rd ra rb func) s = .next (advanceTo s n
      (issued s n (encR 0x35 rd ra rb func)) [toHub s n 7 0 0x0A (func % 2 * 16 + a % 16) b.toNat 3])) ∧
    (Issues s n (encR 0x33 rd ra rb func) →
      let hd := BitVec.ofNat 128 (ldmGet c b.toNat 16)
      let len := fld hd 28 19
      let x := cstgAt s n (a % 2 ^ 15) { header := hd, data := ngetList (0 : Byte) c.ldm (b.toNat + 16) len }
      (0x40000 < b.toNat + (16 + len) → exec (.cstg n rd ra rb func) s = .next (faultAt s n 3 b.toNat)) ∧
      (b.toNat + (16 + len) ≤ 0x40000 → exec (.cstg n rd ra rb func) s =
        .next (advanceTo x.1 n (wr (getCore x.1 n) rd (x.2.setWidth 32)))))

/-- HANDLER_DISPATCH, END, HANDLER_CYCLE_LIMIT and YIELD (R260, R264, R265, R267, R268): an idle unit starts the handler of the
message that arrived first with its registers set, or consumes a message that its table entry refuses and counts it; END ends
the handler; the cycle limit faults with FCODE 1, and YIELD faults with FCODE 5 where queue 0 has no free slot. A handler that
has ended or faulted no longer runs, and the first fault is recorded. -/
def Obligations.HandlerRunsToCompletion : Prop :=
  ∀ (s : State) (n : Nat),
    let c := getCore s n
    (∀ failing m rest, c.hnd.run = false → c.hnd.en = true → dispatchHeld c = false → c.q.msgs = m :: rest →
      let idx := entryOf c m
      let e := nget 0 c.hnd.table idx
      let taken : Core := { c with q := { c.q with msgs := rest } }
      (bit e 63 = true → fld e 62 61 = m.kind → ∃ d,
        exec (.handlerDispatch ⟨n, failing⟩) s = .next (fetchAt (setCore s n d) n) ∧ d.q = taken.q ∧ d.hnd.run = true ∧
        d.hnd.pc = BitVec.ofNat 13 (fld e 12 0) ∧ rv d 3 = m.chain.sender ∧ rv d 4 = m.chain.s4 ∧ rv d 5 = c.st.step ∧
        rv d 7 = BitVec.ofNat 32 (fld e 47 32) ∧ (m.kind = 2 → rv d 6 = m.arg) ∧ (m.kind ≠ 2 → ∀ r, 8 ≤ r → r < 32 → rv d r = 0) ∧
        d.hnd.v = c.hnd.v ∧ d.hnd.acc = c.hnd.acc ∧ d.hnd.failing = failing ∧ d.ldm = c.ldm) ∧
      (¬(bit e 63 = true ∧ fld e 62 61 = m.kind) →
        let kept := if m.kind = 2 then m else { m with chain := { m.chain with entry := qEnt c m.queue } }
        let x := leaveSlot (envOf s n) (cntHi taken 0xE04 1) kept 0 false
        exec (.handlerDispatch ⟨n, failing⟩) s =
          .next (chainOver (applyEff s n { core := settle x.core, out := x.out }) n kept.chain (some stBadState) none))) ∧
    (∀ rest, Issues s n (BitVec.ofNat 32 (0x11 * 2 ^ 26 + rest % 2 ^ 26)) →
      let x := issued s n (BitVec.ofNat 32 (0x11 * 2 ^ 26 + rest % 2 ^ 26))
      ∃ t, exec (.endHandler n rest) s = .next t ∧ t = finish s n x false none none ∧
        (getCore t n).hnd = { x.hnd with run := false, wait := .none, loopState := none }) ∧
    (c.hnd.run = true → ∃ t, exec (.handlerCycleLimit n) s = .next t ∧ (getCore t n).hnd.run = false ∧ (getCore t n).hnd.fValid = true ∧
      (c.hnd.fValid = false → (getCore t n).hnd.fCode = 1 ∧ (getCore t n).hnd.fPc = c.hnd.pc ∧ (getCore t n).hnd.fHidx = c.hnd.hidx)) ∧
    ∀ rd ra imm, Issues s n (encI 0x12 rd ra imm) →
      let room := if qKind (qEnt c 0) = 0 ∧ qValid (qEnt c 0) = true then freeSlotOf { c with hnd := { c.hnd with run := false } } 0 else none
      (room = none → exec (.yieldTo n rd ra imm) s = .next (faultAt s n 5 0)) ∧
      (∀ k, room = some k → ∃ t, exec (.yieldTo n rd ra imm) s = .next t ∧ (getCore t n).hnd.run = false ∧
        ∃ m, m ∈ (getCore t n).q.msgs ∧ m.kind = 2 ∧ m.queue = 0 ∧ m.slot = qBase (qEnt c 0) + k ∧ m.hidx = imm % 64 ∧ m.arg = rv c ra)

/-- CONTEXT_CREATE and CONTEXT_DESTROY (R178, R421, R432, R435, R439): a shard that is free gets both regions, where the
allocation finds room (log entry 40), a fresh key, its words and the next generation and is STOPPED, and RESULT is that
generation; NO_RESOURCE otherwise; a destroyed shard is free and keeps only its generation, its regions and its key are gone and
its cores are unbound with their memories zero (log entry 41). -/
def Obligations.ContextsCreatedAndDestroyed : Prop :=
  ∀ (s : State) (h : Nat) (f : Fetched),
    let m := f.manifest
    let ctx := mCtx m
    let old := getShard s ctx
    (MayRun s h 0x01 f →
      (∀ n so, old.state = .free → allocRegion s false (mw m 1) = some n → allocRegion s true (mw m 2) = some so →
        ∃ u t, exec (.contextCreate h) s = .next t ∧ t = complete u f.handle stOk (old.gen + 1).toNat ∧
          getShard t ctx = {
            state := .stopped, paced := mw m 0 / 2 ^ 6 % 2 = 1, overrun := BitVec.ofNat 2 (mw m 0 / 2 ^ 4), w := BitVec.ofNat 4 (mw m 0)
            gen := old.gen + 1, noticeCq := BitVec.ofNat 8 (mw m 0 / 2 ^ 8), shares := sharesOf m } ∧
          (∀ k, k ≠ ctx → getShard t k = getShard s k) ∧
          t.dep = { s.dep with
            rgn := nset 0 (nset 0 s.dep.rgn (2 * ctx) (BitVec.ofNat 32 (mw m 1 * 2 ^ 16 + n))) (2 * ctx + 1)
              (BitVec.ofNat 32 (mw m 2 * 2 ^ 16 + so))
            keys := nset 0 s.dep.keys ctx s.dep.nextKey, nextKey := s.dep.nextKey + 1 } ∧
          t = { s with dep := t.dep, shards := t.shards, hif := t.hif, sdio := t.sdio, mgmt := t.mgmt, fab := t.fab }) ∧
      (old.state ≠ .free ∨ allocRegion s false (mw m 1) = none ∨ allocRegion s true (mw m 2) = none →
        exec (.contextCreate h) s = .next (complete (started s h) f.handle stNoResource))) ∧
    (MayRun s h 0x02 f → ∃ u t, exec (.contextDestroy h) s = .next t ∧ t = complete u h stOk ∧ findCmd t h = none ∧
      getShard t ctx = { gen := old.gen } ∧ (∀ k, k ≠ ctx → getShard t k = getShard s k) ∧
      t.dep = { s.dep with
        rgn := nset 0 (nset 0 s.dep.rgn (2 * ctx) 0) (2 * ctx + 1) 0, keys := nset 0 s.dep.keys ctx 0 } ∧
      (nwf (fun _ => ({} : Core)) s.cores = true → ∀ n ∈ shardCores s ctx, ∃ w, getCore t n =
        { watch := w, cnt := (getCore s n).cnt, arrived := (getCore s n).arrived }))

/-- CONTEXT_RESET, CONTEXT_RESET_DRAIN_DONE and CONTEXT_RESET_DRAIN_TIMEOUT (R444, R446): a reset takes the next generation and
the shard is RESETTING; a further command is merged into it; when the last packets are gone the shard is STOPPED and each
command completes with the generation; a drain that takes too long completes them with UNCORRECTABLE and a compute reset
follows. -/
def Obligations.ContextResets : Prop :=
  ∀ (s : State),
    (∀ (h : Nat) (f : Fetched), MayRun s h 0x03 f →
      let ctx := mCtx f.manifest
      let sh := getShard s ctx
      (sh.state ≠ .resetting → ∃ t, exec (.contextReset h) s = .next t ∧ t = startReset (begun (started s h) h) ctx [h] ∧
        getShard t ctx = { sh with
          state := .resetting, gen := sh.gen + 1, waiters := [], stopAt := none, stopCmd := none, saving := none, restoring := none
          resetCmds := [h] } ∧ ∀ k, k ≠ ctx → getShard t k = getShard s k) ∧
      (sh.state = .resetting → exec (.contextReset h) s =
        .next (setShard (begun (started s h) h) ctx { sh with resetCmds := sh.resetCmds ++ [h] }))) ∧
    ∀ ctx : Nat, (getShard s ctx).state = .resetting →
      let sh := getShard s ctx
      (∃ t, exec (.contextResetDrainDone ctx) s = .next t ∧
        t = sh.resetCmds.foldl (fun s h => complete s h stOk sh.gen.toNat)
          (setShard (purge s ctx) ctx { sh with state := .stopped, resetCmds := [] }) ∧
        getShard t ctx = { sh with state := .stopped, resetCmds := [] } ∧
        (∀ k, k ≠ ctx → getShard t k = getShard s k) ∧ ∀ h ∈ sh.resetCmds, findCmd t h = none) ∧
      ∃ u t, exec (.contextResetDrainTimeout ctx) s = .next t ∧ t = computeReset u 0x100 ∧
        u = sh.resetCmds.foldl (fun s h => complete s h stUncorrectable) (setShard s ctx { sh with resetCmds := [] }) ∧
        t.convoys = [] ∧ t.ingest = [] ∧ t.results = [] ∧ t.fab.buf = []

/-- LOAD_SECTION (R221, R421, R437, R438), START (R440) and MODULATOR_SET (R207): DATA moves its bales into the region, COMMIT
loads the image whole or refuses it, COMPACT removes the rows that are all dormant, by an action of its own, or completes at
once where there is none; START needs a stopped shard with a section, and a pace where it is paced, and every one of its cores
then stands at step 0; MODULATOR_SET is delivered to every core of the shard. -/
def Obligations.ContextsLoadedAndStarted : Prop :=
  ∀ (s : State) (h : Nat) (f : Fetched),
    let m := f.manifest
    let ctx := mCtx m
    let u := started s h
    (MayRun s h 0x08 f →
      (mw m 0 = 0 → outsideRegion u ctx false (mw2 m 1) (64 * f.bales.length) = false →
        exec (.loadSectionData h) s = .next (complete (regionWrite
          (chargeRegion u ctx false (mw2 m 1) (64 * f.bales.length) 4) ctx false (mw2 m 1) (linesBytes f.bales)) f.handle stOk)) ∧
      (mw m 0 = 0 → outsideRegion u ctx false (mw2 m 1) (64 * f.bales.length) = true →
        exec (.loadSectionData h) s = .next (complete u f.handle stNoResource)) ∧
      (mw m 0 = 1 → outsideRegion u ctx false (mw2 m 1) (mw2 m 3) = true →
        exec (.loadSectionCommit h) s = .next (complete u f.handle stNoResource)) ∧
      (mw m 0 = 1 → outsideRegion u ctx false (mw2 m 1) (mw2 m 3) = false → regionBad u ctx false (mw2 m 1) (mw2 m 3) = true →
        exec (.loadSectionCommit h) s = .next (complete u f.handle stUncorrectable)) ∧
      (mw m 0 = 1 → outsideRegion u ctx false (mw2 m 1) (mw2 m 3) = false → regionBad u ctx false (mw2 m 1) (mw2 m 3) = false →
        let img := regionRead u ctx false (mw2 m 1) (mw2 m 3)
        let v := chargeRegion u ctx false (mw2 m 1) (mw2 m 3) 4
        let refused (reason core index : Nat) := Host.Outcome.next (φ := Fault) (ρ := Refusal)
          (complete v f.handle stDoesNotFit reason [BitVec.ofNat 128 (index * 2 ^ 32 + core)])
        (imageRecords (devNo s) img = none →
          exec (.loadSectionCommit h) s = refused 0x01 (badRecord (devNo s) img).1 (badRecord (devNo s) img).2) ∧
        ∀ rs, imageRecords (devNo s) img = some rs →
          let t := loadAll v ctx rs
          let check := loaderCheck { old := v, new := t, ctx := ctx, recs := byCore rs, loader := true }
          (check = none → rs.any (readsBad u ctx) = false →
            exec (.loadSectionCommit h) s = .next (complete (modShard t ctx fun sh => { sh with
              measure := extendMeasure sh.measure img, sections := sh.sections + 1 }) f.handle stOk)) ∧
          (check = none → rs.any (readsBad u ctx) = true →
            exec (.loadSectionCommit h) s = .next (complete (undoSection v t rs) f.handle stUncorrectable)) ∧
          (∀ reason core index, check = some (reason, core, index) →
            exec (.loadSectionCommit h) s = refused reason core index)) ∧
      (mw m 0 = 2 →
        let rows := (shardCores u ctx).map fun n => (n, dormantRows u ctx n)
        let k := (rows.map fun p => p.2.length).sum
        (k = 0 → exec (.loadSectionCompact h) s = .next (complete u h stOk 0)) ∧
        (k ≠ 0 → exec (.loadSectionCompact h) s =
          .next (ownConvoy u f k fun tag => rows.flatMap fun p => p.2.map (emptyRec u tag p.1))))) ∧
    (MayRun s h 0x09 f →
      let sh := getShard s ctx
      let ready := sh.state = .stopped ∧ sh.sections ≠ 0 ∧ (sh.paced = true → sh.pacedSet = true)
      (ready → ∃ t, exec (.start h) s = .next t ∧ t = complete (startShard u ctx (BitVec.ofNat 32 (mw m 0))) h stOk 0 ∧ findCmd t h = none) ∧
      (¬ready → exec (.start h) s = .next (complete u h stBadState))) ∧
    (∀ (sh : Shard) (dev n : Nat) (c : Core),
      let d := startCore sh dev n c
      d.st.step = 0 ∧ d.st.phase = .waiting ∧ d.st.c = 0xFFFFFFFF ∧ d.st.runLimit = sh.limit ∧ d.nrn.lfsr = seedCore sh.seed dev n ∧
        d.syn.ring = [] ∧ d.hnd.v = [] ∧ d.hnd.acc = [] ∧ d.st.g = BitVec.ofNat 32 (c.st.w.toNat + 2 ^ 32 - 1)) ∧
    (MayRun s h 0x12 f → exec (.modulatorSet h) s = .next (complete (hubSendAll u ((shardCores s ctx).map fun n =>
      fromHub s 0xC n 7 0 0x0B (b1 (mw m 0 / 2 ^ 4 % 2 = 1) * 16 + mw m 0 % 16) ctx (mw m 1) 4)) h stOk))

/-- STEP_RUN, STEP_RUN_WAIT_DONE, STOP and STOP_DONE (R39, R141, R421, R434, R440, R441): STEP_RUN writes the limit, as MID 0xC,
to every core whose customs takes it and completes, or waits until every core stands at it; STOP lets the shard run to the step
after the highest and is STOPPING; it completes once every core waits there with no barrier. -/
def Obligations.ShardsRunAndStop : Prop :=
  ∀ (s : State),
    (∀ (h : Nat) (f : Fetched), MayRun s h 0x10 f →
      let m := f.manifest
      let ctx := mCtx m
      let sh := getShard s ctx
      let l := BitVec.ofNat 32 (mw m 0)
      let free : Bool := mw m 1 % 2 = 1
      let u := writeLimit (started s h) ctx 0xC l free
      let v := writeLimit (setShard (started s h) ctx { sh with limit := l, free := free }) ctx 0xC l free
      (sh.state = .stopping → exec (.stepRun h) s = .next (started s h)) ∧
      (sh.state = .running → mw m 1 / 2 % 2 = 0 → exec (.stepRun h) s = .next (complete u h stOk (lowStep u ctx).toNat)) ∧
      (sh.state = .running → mw m 1 / 2 % 2 = 1 → exec (.stepRun h) s =
        .next (modShard (begun u h) ctx fun x => { x with waiters := x.waiters ++ [(h, l)] })) ∧
      (sh.state = .stopped → f.taken = false → mw m 1 / 2 % 2 = 0 → exec (.stepRun h) s =
        .next (complete v h stOk (lowStep v ctx).toNat)) ∧
      (sh.state = .stopped → f.taken = false → mw m 1 / 2 % 2 = 1 → exec (.stepRun h) s =
        .next (modShard (begun v h) ctx fun x => { x with waiters := x.waiters ++ [(h, l)] }))) ∧
    (∀ (ctx mid n : Nat) (l : Word) (free : Bool), nwf (fun _ => ({} : Core)) s.cores = true → n ∈ shardCores s ctx →
      let c := getCore (writeLimit s ctx mid l free) n
      (limitAccepted s n mid l = true → c.st.runLimit = l ∧ c.st.free = free) ∧ (limitAccepted s n mid l = false → c = getCore s n)) ∧
    (∀ (h : Nat) (f : Fetched), MayRun s h 0x0A f → (getShard s (mCtx f.manifest)).state = .running →
      let ctx := mCtx f.manifest
      let l := highStep s ctx + 1
      exec (.stop h) s = .next (modShard (writeLimit (begun (started s h) h) ctx 2 l false) ctx fun sh =>
        { sh with state := .stopping, stopAt := some l, stopCmd := some h })) ∧
    (∀ (ctx : Nat) (l : Word), (getShard s ctx).stopAt = some l → (getShard s ctx).state = .stopping → allWaitAt s ctx l = true →
      (shardCores s ctx).all (fun n => !barred (getCore s n) l) = true →
      ∃ t, exec (.stopDone ctx) s = .next t ∧ t = stopShard s ctx l ∧ ∀ h, (getShard s ctx).stopCmd = some h → findCmd t h = none) ∧
    ∀ (h ctx : Nat) (sh : Shard) (w : Nat × Word), (s.shards.find? fun q => q.2.waiters.any fun w => w.1 == h) = some (ctx, sh) →
      (sh.waiters.find? fun w => w.1 == h) = some w → sh.state = .running → allWaitAt s ctx w.2 = true →
      ∃ t, exec (.stepRunWaitDone h) s = .next t ∧ findCmd t h = none ∧
        getShard t ctx = { sh with waiters := sh.waiters.filter fun x => x.1 != h } ∧ ∀ k, k ≠ ctx → getShard t k = getShard s k

/-- STREAM_OPEN, STREAM_CLOSE, RESULT_OPEN and RESULT_CLOSE (R230, R232, R247, R256): the first check that fails gives the
answer; on a stopped context the stream is OPEN with its descriptor and no other stream changes; on another one a convoy of
firmware carries the open; a close frees an OPEN stream, makes a RUNNING one IDLE with its packets sent, and is BAD_STATE for a
stream of another context. -/
def Obligations.StreamsOpenAndClose : Prop :=
  ∀ (s : State) (h : Nat) (f : Fetched),
    let m := f.manifest
    let ctx := mCtx m
    let u := started s h
    let bs := linesBytes f.bales
    (MayRun s h 0x18 f →
      let d := descOfBytes bs
      let es := (wordsOfBytes bs 32 (iOutn d)).map fun w => w.toNat
      (iStream d ≠ mTobj m → exec (.streamOpen h) s = .next (complete u h stBadManifest)) ∧
      (iStream d = mTobj m →
        (∀ st reason, streamCheck s ctx d es = some (st, reason) → exec (.streamOpen h) s = .next (complete u h st reason)) ∧
        (streamCheck s ctx d es = none → (getShard s ctx).state = .stopped → ∃ t, exec (.streamOpen h) s = .next t ∧ findCmd t h = none ∧
          getIn t (iStream d) = openedStream (getIn s (iStream d)) ctx d es ∧ (∀ k, k ≠ iStream d → getIn t k = getIn s k) ∧
          t = { s with ingest := t.ingest, hif := t.hif, sdio := t.sdio, mgmt := t.mgmt, fab := t.fab }) ∧
        (streamCheck s ctx d es = none → (getShard s ctx).state ≠ .stopped → exec (.streamOpen h) s = .next (ownConvoy u f 0 fun tag =>
          [{ header := ownHeader s tag 0x11 0x3FF (iStream d) (32 + 8 * iOutn d), data := bs.take (32 + 8 * iOutn d) }])))) ∧
    (MayRun s h 0x1A f →
      let i := mTobj m
      let st := getIn s i
      (st.ctx ≠ ctx ∨ st.state = .closed ∨ st.state = .idle → exec (.streamClose h) s = .next (complete u h stBadState)) ∧
      (st.ctx = ctx → st.state = .opened → ∃ t, exec (.streamClose h) s = .next t ∧ findCmd t h = none ∧ getIn t i = freeStream st ∧
        ∀ k, k ≠ i → getIn t k = getIn s k) ∧
      (st.ctx = ctx → st.state = .running → st.held = [] → ∃ t, exec (.streamClose h) s = .next t ∧ findCmd t h = none ∧
        getIn t i = (release u { st := { st with state := .idle } }).st ∧ ∀ k, k ≠ i → getIn t k = getIn s k) ∧
      (st.ctx = ctx → st.state = .running → st.held ≠ [] → exec (.streamClose h) s = .next s)) ∧
    (MayRun s h 0x1B f →
      let d : BitVec 64 := BitVec.ofNat 64 (ofBytes (bs.take 8))
      let rs := wordsOfBytes bs 8 (rNrange d)
      (∀ st reason, resultCheck u ctx d rs = some (st, reason) → exec (.resultOpen h) s = .next (complete u h st reason)) ∧
      (resultCheck u ctx d rs = none → (getShard s ctx).state = .stopped → ∃ t, exec (.resultOpen h) s = .next t ∧ findCmd t h = none ∧
        (getRes t (rStream d)).state = .opened ∧ (getRes t (rStream d)).desc = d ∧ (getRes t (rStream d)).ranges = rs ∧
        (getRes t (rStream d)).ctx = ctx ∧ ∀ k, k ≠ rStream d → getRes t k = getRes s k) ∧
      (resultCheck u ctx d rs = none → (getShard s ctx).state ≠ .stopped → exec (.resultOpen h) s = .next (ownConvoy u f 0 fun tag =>
        [{ header := ownHeader s tag 0x13 0x3FF (rStream d) (8 + 8 * rNrange d), data := bs.take (8 + 8 * rNrange d) }]))) ∧
    (MayRun s h 0x1C f →
      let i := mTobj m
      let st := getRes s i
      (st.state = .closed ∨ st.ctx ≠ ctx → exec (.resultClose h) s = .next (complete u h stBadState)) ∧
      (st.state ≠ .closed → st.ctx = ctx → ∃ t, exec (.resultClose h) s = .next t ∧ findCmd t h = none ∧
        getRes t i = { discardResults st with state := .closed, ranges := [] } ∧ ∀ k, k ≠ i → getRes t k = getRes s k))

/-- STREAM_PUSH, STEP_NOTICE and INGEST_GRACE_EXPIRE (R235, R236, R244, R246): an OPEN stream of the context holds the rows of a
push, a RUNNING one takes them in order and answers with the rows accepted and the late ones; a push to another stream is
BAD_STATE and one whose rows do not fit BAD_LENGTH; a notice moves F of each stream that hears it, and leaves every other
stream; the grace time completes windows. -/
def Obligations.RowsAreTakenAndWindowsComplete : Prop :=
  ∀ (s : State),
    (∀ (h : Nat) (f : Fetched), MayRun s h 0x19 f →
      let i := mTobj f.manifest
      let st := getIn s i
      let u := captureWhere (started s h) fun t => t.src = 3 ∧ t.index.toNat = i
      let rows := parsePush st.desc (getTmr s (iTimer st.desc)).tb (linesBytes f.bales)
      let may : Bool := st.ctx == mCtx f.manifest && st.closeAt.isNone && (st.state == .opened || st.state == .running)
      (may = false → exec (.streamPush h) s = .next (complete u h stBadState)) ∧
      (may = true → rows = none → exec (.streamPush h) s = .next (complete u h stBadLength)) ∧
      (∀ rs, may = true → rows = some rs → st.state = .opened →
        let x := rs.foldl countRow { st := { st with held := st.held ++ rs } }
        ∃ t, exec (.streamPush h) s = .next t ∧ findCmd t h = none ∧ t = pushDone (setIn u i x.st) h x.acc 0 ∧
          getIn t i = x.st ∧ x.st.held = st.held ++ rs ∧ x.acc = (rs.filter fun r => r.samples ≠ []).length ∧
          (∀ k, k ≠ i → getIn t k = getIn s k)) ∧
      (∀ rs, may = true → rows = some rs → st.state = .running →
        let x := rs.foldl (takeRow u) { st := st }
        ∃ t, exec (.streamPush h) s = .next t ∧ findCmd t h = none ∧ t = pushDone (putWork u i x) h x.acc x.late ∧
          getIn t i = x.st ∧ (∀ k, k ≠ i → getIn t k = getIn s k))) ∧
    (∀ pkt : Packet,
      let s2 := if srcDev pkt = devNo s then captureWhere (hubDone s pkt) fun t => t.src = 2 ∧ t.index.toNat = srcCore pkt else hubDone s pkt
      exec (.stepNotice pkt) s = .next ((s.ingest.filter fun q => hearsNotice s q.2 pkt).foldl (fun s q =>
        putWork s q.1 (release s { st := { getIn s q.1 with
          notices := nset (getIn s q.1).startF (getIn s q.1).notices (srcDev pkt * 1024 + srcCore pkt)
            (BitVec.ofNat 32 (payload pkt)) } })) s2) ∧
      ((s.ingest.any fun q => hearsNotice s q.2 pkt) = false → exec (.stepNotice pkt) s = .next s2) ∧
      ∀ i, s.ingest.filter (fun q => hearsNotice s q.2 pkt) = [(i, getIn s i)] →
        ∃ t, exec (.stepNotice pkt) s = .next t ∧
          getIn t i = (release s2 { st := { getIn s i with
            notices := nset (getIn s i).startF (getIn s i).notices (srcDev pkt * 1024 + srcCore pkt) (BitVec.ofNat 32 (payload pkt)) } }).st ∧
          ∀ k, k ≠ i → getIn t k = getIn s k) ∧
    ∀ i : Nat,
      let st := getIn s i
      let may : Bool := (st.state == .running && iGrace st.desc != 0) || (st.state == .idle && (getShard s st.ctx).paced)
      (∀ k, may = true → graceWindow s st = some k → ∃ t, exec (.ingestGraceExpire i) s = .next t ∧
        getIn t i = (completeTo s { st := st } k).st ∧ (∀ j, j ≠ i → getIn t j = getIn s j) ∧
        t = { s with ingest := t.ingest, fab := t.fab }) ∧
      (may = false ∨ graceWindow s st = none → exec (.ingestGraceExpire i) s = .next s)

/-- READOUT_PACKET, LATE_NOTICE, RESULT_LOSS_MARK, READOUT_HOLD_EXPIRE and READOUT_PEER_RETRY (R251, R254-R256, R305): a packet
of a range joins its window (its layout is log entry 17); a late step marks its window in every running result stream of the
context, and a loss marks there the record of its window, the held one, the refused one, or the next to be delivered; a window
with every packet is decoded and held for delivery, its packets and marks taken; the records that a peer refused for want of
room are sent again, and then those that wait. -/
def Obligations.ResultsAreGatheredAndMarked : Prop :=
  ∀ (s : State),
    (∀ (pkt : Packet),
      let f : BitVec 256 := pkt.flits.headD 0
      let i := fld f 70 65
      let st := getRes s i
      let w : Word := BitVec.ofNat 32 (fld f 31 0)
      let n := fld f 64 55 + 1
      let piece := fld f 75 71
      let here := (List.range st.ranges.length).find? fun k =>
        gCore (st.ranges.getD k 0) == fld f 41 32 && gSbase (st.ranges.getD k 0) == fld f 54 42 && gSlots (st.ranges.getD k 0) == n
      let wanted := st.state = .running ∧ st.ctx = pctx pkt ∧ ofShard s pkt = true ∧ stepLe st.first w = true ∧
        stepLt st.lastDec w = true
      (here = none ∨ ¬wanted → exec (.readoutPacket pkt) s = .next (hubDone s pkt)) ∧
      (∀ k, here = some k → wanted →
        exec (.readoutPacket pkt) s = .next (setRes (hubDone s pkt) i { st with
          parts := (st.parts.filter fun p => !(p.1 == w && p.2.1 == 32 * k + piece)) ++
            [(w, 32 * k + piece, pktValues pkt (min 60 (n - 60 * piece)))] }))) ∧
    (∀ (pkt : Packet),
      (ofShard s pkt = false → exec (.lateNotice pkt) s = .next (hubDone s pkt)) ∧
      (ofShard s pkt = true → nwf (fun _ => ({} : ResultStream)) s.results = true →
        ∃ t, exec (.lateNotice pkt) s = .next t ∧ t = { hubDone s pkt with results := t.results } ∧ ∀ i,
          let st := getRes s i
          let w := windowOfStep st (BitVec.ofNat 32 (payload pkt))
          getRes t i = if st.ctx = pctx pkt ∧ st.state = .running ∧ stepLt st.lastDec w = true ∧ st.lateWin.contains w = false then
            { st with lateWin := st.lateWin ++ [w] } else st)) ∧
    (∀ (ctx : Nat) (step : Word), nwf (fun _ => ({} : ResultStream)) s.results = true →
      ∃ t, exec (.resultLossMark ctx step) s = .next t ∧ t = { s with results := t.results } ∧ ∀ i,
        let st := getRes s i
        let w := windowOfStep st step
        (¬(st.ctx = ctx ∧ st.state = .running) ∨ stepLt w st.first = true → getRes t i = st) ∧
        (st.ctx = ctx → st.state = .running → stepLt w st.first = false →
          (stepLt st.lastDec w = true → getRes t i =
            if st.lossWin.contains w then st else { st with lossWin := st.lossWin ++ [w] }) ∧
          (stepLt st.lastDec w = false → (st.held.any fun r => r.window == w) = true → getRes t i =
            { st with held := st.held.map fun r => if r.window = w then { r with loss := true } else r }) ∧
          (stepLt st.lastDec w = false → (st.held.any fun r => r.window == w) = false →
            (st.again.any fun r => r.2.window == w) = true →
            (getRes t i).again = st.again.map fun r => if r.2.window = w then (r.1, { r.2 with loss := true }) else r) ∧
          (stepLt st.lastDec w = false → (st.held.any fun r => r.window == w) = false →
            (st.again.any fun r => r.2.window == w) = false → getRes t i = { st with lossNext := true }))) ∧
    (∀ (i w us : Nat) (xs : List (Nat × Nat × Int)),
      let st := getRes s i
      let wd : Word := BitVec.ofNat 32 w
      let rec1 := buildRecord st.desc wd xs (st.lossWin.contains wd) (st.lateWin.contains wd)
      (windowVector st wd = none → exec (.readoutHoldExpire i w us) s = .next s) ∧
      (st.state = .running → windowVector st wd = some xs → st.ranges ≠ [] → ∃ t, exec (.readoutHoldExpire i w us) s = .next t ∧
        (∀ k, k ≠ i → getRes t k = getRes s k) ∧
        (getRes t i).parts = st.parts.filter (fun p => p.1 != wd) ∧ (getRes t i).rclamp = satAdd st.rclamp rec1.2 ∧
        (getRes t i).lateWin = st.lateWin.filter (· != wd) ∧ (getRes t i).lossWin = st.lossWin.filter (· != wd) ∧
        (getRes t i).lastDec = (if stepLt st.lastDec wd then wd else st.lastDec) ∧
        (rDest st.desc = 0 → (getCq s (rCq st.desc)).en = false → st.held.length + st.again.length < 16 →
          (getRes t i).held = st.held ++ [rec1.1]))) ∧
    ∀ (i : Nat), rDest (getRes s i).desc = 1 →
      let st := getRes s i
      let u := { s with free := s.free + 1 }
      (st.again ≠ [] ∨ st.held ≠ [] →
        exec (.readoutPeerRetry i) s = .next (deliverHeld 16 (retryAll 16 u i) i (freeLatency s))) ∧
      ∀ (t : Nat) (r : Record), st.again = [(t, r)] → st.held = [] → partsFit s st.desc r = true →
        exec (.readoutPeerRetry i) s = .next (hubSendAll (setRes u i
          { st with again := [], sent := st.sent.filter (fun x => x.1 != t) ++ [(t, r)] })
          (recMsgs u i { st with again := [], dropped := false } r))

/-- CONVOY_BEGIN, CONVOY_STAGE, CONVOY_PREPARE, CONVOY_COMMIT and CONVOY_ABORT (R323, R326-R328, R335, R337, R341): an id in use
or a full unit is NO_RESOURCE, else the convoy is OPEN with the command's TC, AUTO and step; records are staged in order up to
the first refused one, whose status answers; PREPARE, COMMIT and ABORT act on a convoy of the context in the right state and are
BAD_STATE else. -/
def Obligations.CoordinatorCommandsFollowTheConvoyState : Prop :=
  ∀ (s : State) (h : Nat) (f : Fetched),
    let w := mw f.manifest 0
    let tag := tagOf s (w % 64)
    let u := started s h
    (MayRun s h 0x28 f →
      ((findConvoy s tag).isSome ∨ s.convoys.length ≥ 64 → exec (.convoyBegin h) s = .next (complete u h stNoResource)) ∧
      (findConvoy s tag = none → s.convoys.length < 64 → ∃ t, exec (.convoyBegin h) s = .next t ∧ findCmd t h = none ∧ OnlyConvoyUnit s t ∧
        t.convoys = s.convoys ++ [{
          tag := tag, ctx := mCtx f.manifest, tc := w / 2 ^ 8 % 32, auto := w / 2 ^ 7 % 2 == 1
          sc := if w / 2 ^ 6 % 2 = 1 then none else some (BitVec.ofNat 32 (mw f.manifest 1)) }])) ∧
    (MayRun s h 0x29 f →
      (cmdConvoy s f = none → exec (.convoyStage h) s = .next (complete u h stBadState)) ∧
      ∀ c, cmdConvoy s f = some c →
        (c.phase ≠ .opened → exec (.convoyStage h) s = .next (complete u h stBadState)) ∧
        (c.phase = .opened → parseRecords (4 * f.bales.length) (linesBytes f.bales) = none →
          exec (.convoyStage h) s = .next (complete u h stBadManifest)) ∧
        (∀ rs, c.phase = .opened → parseRecords (4 * f.bales.length) (linesBytes f.bales) = some rs →
          exec (.convoyStage h) s = .next (complete (stageAll c.ctx c.tag false (unitCycles u 4 rs.length) rs).1 h
            ((stageAll c.ctx c.tag false (unitCycles u 4 rs.length) rs).2.getD stOk)))) ∧
    (∀ c, cmdConvoy s f = some c →
      (MayRun s h 0x2A f → c.phase = .opened → ∃ t, exec (.convoyPrepare h) s = .next t ∧ OnlyConvoyUnit s t ∧
        t = prepare (modConvoy (begun u h) c.tag fun _ => { c with preCmd := some h }) { c with preCmd := some h }) ∧
      (MayRun s h 0x2B f → c.phase = .ready → ∃ t, exec (.convoyCommit h) s = .next t ∧ OnlyConvoyUnit s t ∧
        t = decideCommit (modConvoy (begun u h) c.tag fun _ => { c with comCmd := some h }) { c with comCmd := some h }) ∧
      (MayRun s h 0x2C f → undecided c = true → c.ownerCmd = none → ∃ t, exec (.convoyAbort h) s = .next t ∧ OnlyConvoyUnit s t ∧
        findCmd t h = none ∧ (∀ k, c.preCmd = some k → findCmd t k = none) ∧
        t = decideAbort (complete u h stOk) c stConvoyMember 0 0)) ∧
    ((∀ c, cmdConvoy s f = some c → c.phase ≠ .opened) → MayRun s h 0x2A f →
      exec (.convoyPrepare h) s = .next (complete u h stBadState)) ∧
    ((∀ c, cmdConvoy s f = some c → c.phase ≠ .ready) → MayRun s h 0x2B f →
      exec (.convoyCommit h) s = .next (complete u h stBadState)) ∧
    ((∀ c, cmdConvoy s f = some c → undecided c = false ∨ c.ownerCmd ≠ none) → MayRun s h 0x2C f →
      exec (.convoyAbort h) s = .next (complete u h stBadState))

/-- PREPARE_RECEIVE, CONVOY_FILL_DONE, COMMIT_RECEIVE, ABORT_RECEIVE, CONVOY_APPLY, CONVOY_MEMBER_TIMER and CONVOY_RECORD_STAGE
(R328, R332, R336, R338, R340, R342, R343): what a core that is a member does, once the packet's turn at its port has come: it
answers ABORT when a record failed or the step is past, waits for its FILLs, else ends its checks; a prepared share takes the
step of COMMIT once, and on a stopped context it is applied at once unless a handler runs; an ABORT discards an uncommitted one;
a share is applied at its boundary; an undecided READY member asks; a party without a share of the convoy answers nothing; a
record from another master is taken and dropped, and one for a bound core is staged there. A hub passes the message on to the
members of its device first. -/
def Obligations.MembersPrepareCommitAndApply : Prop :=
  (∀ (s : State) (n tag : Nat) (x : MemberConvoy), findShare s (.core n) tag = some x →
    let m := Member.core n
    let c := getCore s n
    let first := firstStep c
    let stopped : Bool := (getShard s x.ctx).state == .stopped
    let turn : Nat → Bool := fun sub => (cvyPkt s m sub tag).all (portTurn s n)
    (∀ sc : Option Word, turn 0x01 = true →
      let u := takeCvy s m 0x01 tag
      let named := if (getShard s x.ctx).state = .stopped then none else sc
      let tooLate : Bool := match named with | some w => stepLt w first || (w - c.st.step).toNat ≥ 2 ^ 30 | none => false
      let share := fun y : MemberConvoy => { y with
        sc := named, barrier := if stopped then none else some (named.getD first), filling := x.records.any fun r => aKind r == 4 }
      (x.prepared = true ∨ x.filling = true → exec (.prepareReceive m tag sc) s = .next u) ∧
      (x.prepared = false → x.filling = false →
        (∀ r, x.failed = some r → exec (.prepareReceive m tag sc) s =
          .next (sendAnswer (discardShare u m tag false) m x.ctx tag (.abort stConvoyMember r))) ∧
        (x.failed = none → tooLate = true → exec (.prepareReceive m tag sc) s =
          .next (sendAnswer (discardShare u m tag false) m x.ctx tag (.abort stConvoyLate 0))) ∧
        (x.failed = none → tooLate = false → exec (.prepareReceive m tag sc) s =
          .next (if (x.records.any fun r => aKind r == 4) = true then modShare u m tag share else endPrepare (modShare u m tag share) m tag)))) ∧
    (x.filling = false ∨ fillTurn c = false → exec (.convoyFillDone m tag) s = .next s) ∧
    (x.filling = true → fillTurn c = true → exec (.convoyFillDone m tag) s = .next (endPrepare
      ((x.records.filter fun r => aKind r == 4 && fillsFree s n tag [r]).foldl (fun u r =>
        if outsideRegion u x.ctx (aArg r ≥ 2 ^ 28) (aArg r % 2 ^ 28 * 512) (64 * aUnits r) then u else applyFill u n r) s) m tag)) ∧
    (∀ sc : Word, turn 0x04 = true →
      let u := takeCvy s m 0x04 tag
      let share := fun (w : Word) (y : MemberConvoy) => { y with commit := some w, sc := some w, barrier := none }
      let taken := fun w : Word => modCore (modShare u m tag (share w)) n updHalt
      (x.prepared = true → x.commit = none → stopped = false → ∃ t, exec (.commitReceive m tag sc) s = .next t ∧
        t.shards = s.shards ∧ (∀ k, k ≠ n → getCore t k = getCore s k) ∧
        (getCore t n).cvy = c.cvy.map fun y => if y.tag = tag then share sc y else y) ∧
      (x.prepared = true → x.commit = none → stopped = true →
        let y := { x with commit := some c.st.step, sc := some c.st.step }
        exec (.commitReceive m tag sc) s = .next (sendAck
          (if waitsHandler (taken c.st.step) m y = true then taken c.st.step else applyShare (taken c.st.step) m y) m x.ctx tag)) ∧
      (x.prepared = false ∨ x.commit.isSome = true → exec (.commitReceive m tag sc) s = .next u)) ∧
    (turn 0x05 = true →
      (x.commit.isSome = true → exec (.abortReceive m tag) s = .next (takeCvy s m 0x05 tag)) ∧
      (x.commit = none → exec (.abortReceive m tag) s =
        .next (sendAck (discardShare (takeCvy s m 0x05 tag) m tag (abortIsLate s m tag)) m x.ctx tag))) ∧
    (turn 0x01 = false → ∀ sc, exec (.prepareReceive m tag sc) s = .next s) ∧
    (turn 0x04 = false → ∀ sc, exec (.commitReceive m tag sc) s = .next s) ∧
    (turn 0x05 = false → exec (.abortReceive m tag) s = .next s) ∧
    (nextApply s m = none → exec (.convoyApply m) s = .next s) ∧
    (∀ y, nextApply s m = some y → ∃ t, exec (.convoyApply m) s = .next t ∧ t = applyShare s m y ∧ ∀ k, k ≠ n → getCore t k = getCore s k) ∧
    (x.prepared = true → x.commit = none → pathLost s (homeOf tag) = false →
      exec (.convoyMemberTimer m tag) s = .next (memberSend s m x.ctx (homeOf tag) 0x07 tag 0)) ∧
    (x.prepared = true → x.commit = none → pathLost s (homeOf tag) = true → exec (.convoyMemberTimer m tag) s = .next (orphan s m tag)) ∧
    (x.prepared = false ∨ x.commit.isSome = true → exec (.convoyMemberTimer m tag) s = .next s)) ∧
  (∀ (s : State) (n tag : Nat), findShare s (.core n) tag = none →
    let m := Member.core n
    (∀ sc, (cvyPkt s m 0x01 tag).all (portTurn s n) = true → exec (.prepareReceive m tag sc) s = .next (takeCvy s m 0x01 tag)) ∧
    (∀ sc, (cvyPkt s m 0x04 tag).all (portTurn s n) = true → exec (.commitReceive m tag sc) s = .next (takeCvy s m 0x04 tag)) ∧
    ((cvyPkt s m 0x05 tag).all (portTurn s n) = true → exec (.abortReceive m tag) s = .next (takeCvy s m 0x05 tag)) ∧
    exec (.convoyMemberTimer m tag) s = .next s ∧ exec (.convoyFillDone m tag) s = .next s) ∧
  (∀ (s : State) (tag : Nat),
    let status := ((cvyPkt s .hub 0x05 tag).map payload).getD 0
    (∀ sc : Option Word, exec (.prepareReceive .hub tag sc) s = .next (memberPrepare
      (relayOn (takeCvy s .hub 0x01 tag) tag 0x01 (tag + if sc.isNone then 2 ^ 15 else 0) ((sc.map fun w => w.toNat).getD 0) fun c =>
        { c with phase := if c.phase = .aborted then .aborted else .preparing, sc := sc, asks := c.asks + 1 }) .hub tag sc)) ∧
    (∀ sc : Word, exec (.commitReceive .hub tag sc) s = .next (memberCommit
      (relayOn (takeCvy s .hub 0x04 tag) tag 0x04 tag sc.toNat fun c => { c with phase := .committing, sc := some sc }) .hub tag sc)) ∧
    exec (.abortReceive .hub tag) s = .next (memberAbort
      (relayOn (takeCvy s .hub 0x05 tag) tag 0x05 tag status fun c => { c with phase := .aborted, status := BitVec.ofNat 8 status })
      .hub tag false)) ∧
  ∀ (s : State) (mid : Nat) (r : ActionRecord),
    let v := unitCycles s 5 1
    let u := (recordIn v r).foldl hubDone v
    let ctx := ctxOfRecord v r
    let may := mid = 6 ∨ mid = 0xA ∨ mid = 0xB
    (hubMay s.pwr.pl.toNat s.fab.cvy 5 = false → exec (.convoyRecordStage mid r) s = .next s) ∧
    (hubMay s.pwr.pl.toNat s.fab.cvy 5 = true →
      (¬may ∨ aTdev r ≠ devNo s → exec (.convoyRecordStage mid r) s = .next u) ∧
      (may → aTdev r = devNo s → exec (.convoyRecordStage mid r) s = .next (stageRecord u ctx (aTag r) r (recordSc v r))) ∧
      (may → aTdev r = devNo s → homeOf (aTag r) = devNo s → aTcore r = 0x3FF ∨ boundTo s ctx (aTcore r) = true →
        exec (.convoyRecordStage mid r) s = .next (stageHere u ctx (aTag r) false r).1))

/-- CONVOY_ANSWER, CONVOY_ACK, JOIN, QUERY, CONFLICT and CONVOY_COORDINATOR_TIMEOUT (R330, R335-R337, R341, R344), each taking
its turn in a cycle of the convoy unit: at a coordinator an answer of a party counts once for each PREPARE it had; ABORT
decides, and so does the last READY; a core of the context joins an OPEN or PREPARING convoy only; a QUERY is answered by the
convoy's state; a conflict or the time-out aborts an undecided convoy and no other, and its waiting command is answered. A relay
passes the first ABORT on, and READY when its members are. That a tag without a record is answered ABORT, and a core of another
context too, is the model's choice (assumption 34). -/
def Obligations.CoordinatorDecides : Prop :=
  (∀ (s : State) (tag dev core first : Nat) (m : Member) (a : Answer), hubMay s.pwr.pl.toNat s.fab.cvy 5 = false →
    exec (.convoyAnswer tag dev m a) s = .next s ∧ exec (.convoyAck tag dev m) s = .next s ∧ exec (.query tag dev m) s = .next s ∧
    exec (.join tag dev core) s = .next s ∧ exec (.conflict tag first) s = .next s) ∧
  (∀ (s : State) (tag dev core first : Nat) (m : Member) (a : Answer), findConvoy s tag = none →
    hubMay s.pwr.pl.toNat s.fab.cvy 5 = true →
    let v := unitCycles s 5 1
    exec (.convoyAnswer tag dev m a) s = .next (takeCvy v .hub (match a with | .ready _ => 2 | .abort _ _ => 3) tag) ∧
    exec (.query tag dev m) s = .next (toMember (takeCvy v .hub 7 tag) (ctxOfTag (takeCvy v .hub 7 tag) tag) dev m 5 tag 0) ∧
    exec (.join tag dev core) s = .next (toMember (takeCvy v .hub 9 tag)
      (((cvyPkt v .hub 9 tag).map pctx).getD (ctxOfTag (takeCvy v .hub 9 tag) tag)) dev (.core core) 5 tag lateJoin) ∧
    exec (.conflict tag first) s = .next (takeCvy v .hub 0xA tag)) ∧
  (∀ (s : State) (tag : Nat), findConvoy s tag = none → exec (.convoyCoordinatorTimeout tag) s = .next s) ∧
  ∀ (s : State) (tag : Nat) (c : Convoy), findConvoy s tag = some c →
    let v := unitCycles s 5 1
    (hubMay s.pwr.pl.toNat s.fab.cvy 5 = true →
     (∀ (dev : Nat) (m : Member),
      let party : Nat × Member := if dev = devNo s then (dev, m) else (dev, .hub)
      let counts : Bool := c.answered.count party ≤ c.extra.count party
      let d := { c with answered := c.answered ++ [party] }
      (∀ (a : Answer), counts = false →
        exec (.convoyAnswer tag dev m a) s = .next (takeCvy v .hub (match a with | .ready _ => 2 | .abort _ _ => 3) tag)) ∧
      (∀ (w : Word), counts = true →
        let e := { d with ready := c.ready + 1, h := some (laterStep c.h w) }
        let u := takeCvy v .hub 2 tag
        (c.phase = .preparing → c.relay = false → ∃ t, exec (.convoyAnswer tag dev m (.ready w)) s = .next t ∧ OnlyConvoyUnit s t ∧
          t = allReady (modConvoy u tag fun _ => e) tag) ∧
        (c.phase = .preparing → c.relay = true → ∃ t, exec (.convoyAnswer tag dev m (.ready w)) s = .next t ∧ OnlyConvoyUnit s t ∧
          t = relayReady (modConvoy u tag fun _ => e) tag) ∧
        (c.phase ≠ .preparing → exec (.convoyAnswer tag dev m (.ready w)) s = .next u)) ∧
      (∀ code reason, counts = true →
        let u := takeCvy v .hub 3 tag
        let e := ackedBy (devNo s) d party
        (c.phase = .preparing → c.relay = false → ∃ t, exec (.convoyAnswer tag dev m (.abort code reason)) s = .next t ∧ OnlyConvoyUnit s t ∧
          t = decideAbort (modConvoy u tag fun _ => e) e code (memberResult dev m) reason.toNat ∧
          ∀ h, c.preCmd = some h → findCmd t h = none) ∧
        (c.phase = .preparing → c.relay = true → exec (.convoyAnswer tag dev m (.abort code reason)) s =
          .next (hubSend (modConvoy u tag fun _ => { d with phase := .aborted, status := code })
            (unitPkt u c.ctx (homeOf tag) 0x3FF 0 0 0x03 tag (reason.toNat * 2 ^ 8 + code.toNat)))) ∧
        (c.phase = .opened → c.relay = false → exec (.convoyAnswer tag dev m (.abort code reason)) s =
          .next (modConvoy u tag fun c => { c with
            badMember := c.badMember.or (some (dev, (match m with | .core n => n | .hub => 0x3FF), reason)) }))) ∧
      (∃ t, exec (.convoyAck tag dev m) s = .next t ∧ OnlyConvoyUnit s t ∧
        t = endConvoy (modConvoy (takeCvy v .hub 6 tag) tag fun c =>
          if c.acks.contains party then c else { c with acks := c.acks ++ [party] }) tag) ∧
      (let u := takeCvy v .hub 7 tag
       (c.phase = .committing → exec (.query tag dev m) s =
          .next (toMember u c.ctx dev m 4 tag ((c.sc.map fun w => w.toNat).getD 0))) ∧
        (c.phase = .aborted → exec (.query tag dev m) s = .next (toMember u c.ctx dev m 5 tag c.status.toNat)) ∧
        (c.phase ≠ .committing → c.phase ≠ .aborted → exec (.query tag dev m) s = .next (toMember u c.ctx dev m 8 tag 0)))) ∧
     (∀ dev core : Nat,
      let u := takeCvy v .hub 9 tag
      (∀ p, cvyPkt v .hub 9 tag = some p → pctx p ≠ c.ctx →
        exec (.join tag dev core) s = .next (toMember u (pctx p) dev (.core core) 5 tag lateJoin)) ∧
      ((∀ p, cvyPkt v .hub 9 tag = some p → pctx p = c.ctx) →
        (c.phase = .opened → exec (.join tag dev core) s = .next (addMember u tag dev (.core core))) ∧
        (c.phase = .preparing → dev = devNo s → exec (.join tag dev core) s =
          .next (toMember (addMember u tag dev (.core core)) c.ctx dev (.core core) 1
            (tag + if c.sc.isNone then 2 ^ 15 else 0) ((c.sc.map fun w => w.toNat).getD 0))) ∧
        (c.phase = .preparing → exec (.join tag dev core) s = .next (joinLate u c dev core)) ∧
        (c.phase ≠ .opened → c.phase ≠ .preparing →
          exec (.join tag dev core) s = .next (toMember u c.ctx dev (.core core) 5 tag lateJoin)))) ∧
     ∀ first : Nat,
      let u := takeCvy v .hub 0xA tag
      (undecided c = true → first ≠ tag → ∃ t, exec (.conflict tag first) s = .next t ∧ OnlyConvoyUnit s t ∧
        t = decideAbort u c stConvoyConflict 0 0 ∧ ∀ h, c.preCmd = some h → findCmd t h = none) ∧
      (undecided c = false ∨ first = tag → exec (.conflict tag first) s = .next u)) ∧
    (undecided c = true → ∃ t, exec (.convoyCoordinatorTimeout tag) s = .next t ∧ OnlyConvoyUnit s t ∧
      t = decideAbort s c stConvoyTimeout 0 0 ∧ ∀ h, c.preCmd = some h → findCmd t h = none) ∧
    (undecided c = false → exec (.convoyCoordinatorTimeout tag) s = .next s)

/-- INTEGRATE_BEGIN, INTEGRATE_END, FIRE_BEGIN, FIRE_END, LEARN_END and CLOSE_END (R114, R117, R118, R119, R129, R137): a core
that may begin a step, and for which no state access waits, integrates; with no entry left it waits for its credits, takes them
and fires; FIRE ends in LEARN, LEARN in CLOSE, and CLOSE in the next step, with FORCE_HALT and the LFSR at CLOSE brought up to
date, and the image of a core that a save holds at that step is begun; where the condition fails nothing but FORCE_HALT changes;
no other core changes. -/
def Obligations.StepPhasesFollowInOrder : Prop :=
  ∀ (s : State) (n : Nat),
    let c := getCore s n
    let v := envOf s n
    (mayOpen c = false ∨ stateWaits s n = true → exec (.integrateBegin n) s = .next (setCore s n (updHalt c))) ∧
    (mayOpen c = true → stateWaits s n = false → ∃ t, exec (.integrateBegin n) s = .next t ∧ OnlyTheCore s t n ∧ t = applyEff s n (openStep v c) ∧
      ((∀ r ∈ c.syn.ring, r.due ≠ c.st.step) → (getCore t n).st = { c.st with phase := .integrate, forceHalt := false })) ∧
    (mayEndIntegrate c = true → exec (.integrateEnd n) s = .next (setCore s n { c with st := { c.st with phase := .waitCredit } })) ∧
    (mayEndIntegrate c = false → exec (.integrateEnd n) s = .next s) ∧
    (mayFire c = true → ∃ t, exec (.fireBegin n) s = .next t ∧ OnlyTheCore s t n ∧ t = applyEff s n (fireStep v c) ∧
      (getCore t n).st = { c.st with phase := .fire, cr := nset 0 c.st.cr (c.st.step.toNat % 16) 0 }) ∧
    (mayFire c = false → exec (.fireBegin n) s = .next s) ∧
    (c.st.phase = .fire → ∃ t, exec (.fireEnd n) s = .next t ∧ OnlyTheCore s t n ∧
      t = applyEff s n { core := (learnBegin v c c.st.step).core, out := rearguards v c ++ (learnBegin v c c.st.step).out }) ∧
    (c.st.phase ≠ .fire → exec (.fireEnd n) s = .next s) ∧
    (c.st.phase = .learn → c.lrn.work = none → ∃ t, exec (.learnEnd n) s = .next t ∧ OnlyTheCore s t n ∧ t.fab = s.fab ∧
      (getCore t n).st = { c.st with phase := .close } ∧ (getCore t n).nrn.touch = [] ∧ (getCore t n).nrn.fired = []) ∧
    (c.st.phase ≠ .learn ∨ c.lrn.work ≠ none → exec (.learnEnd n) s = .next s) ∧
    (c.st.phase = .close →
      let t := applyEff s n (endClose v c)
      OnlyTheCore s t n ∧ (getCore t n).st.phase = .waiting ∧ (getCore t n).st.step = c.st.step + 1 ∧
      (getCore t n).nrn.lfsrAtClose = (getCore t n).nrn.lfsr ∧ (getCore t n).lrn.pending = [] ∧ (getCore t n).lrn.depotOut = [] ∧
      ((getShard s c.ctx).saving = none → exec (.closeEnd n) s = .next t) ∧
      ∀ h q b, (getShard s c.ctx).saving = some (h, q, b) → exec (.closeEnd n) s = .next (beginImages t c.ctx [n] b)) ∧
    (c.st.phase ≠ .close → exec (.closeEnd n) s = .next s)

/-- EVENT, REARGUARD, CREDIT and RELEASE (R127, R134, R135, R136, R137, R143, R146, R162, R188): a step packet waits for its
turn at the core port, and an event also for room in the outrider's write queue; of another context or generation it is dropped,
uncounted; else a credit and a rearguard count for their step, a later release becomes the released step, an event without a
match counts in NOMATCH, and one with matches is placed for each. That a packet which reaches a core before START is dropped is
the model's choice (assumption 79). -/
def Obligations.StepPacketsAreCounted : Prop :=
  ∀ (s : State) (n : Nat) (pkt : Packet),
    let c := { getCore s n with arrived := (getCore s n).arrived.erase pkt }
    let u := stepAt c.st.step (stamp pkt)
    let w : Word := BitVec.ofNat 32 (payload pkt)
    (portTurn s n pkt = false → exec (.event n pkt) s = .next s ∧ exec (.rearguard n pkt) s = .next s ∧
      exec (.credit n pkt) s = .next s ∧ exec (.release n pkt) s = .next s) ∧
    (writesFull (getCore s n) = true → exec (.event n pkt) s = .next s) ∧
    (portTurn s n pkt = true → takesStep c pkt = false →
      (writesFull (getCore s n) = false → exec (.event n pkt) s = .next (portDone s n pkt)) ∧
      exec (.rearguard n pkt) s = .next (portDone s n pkt) ∧
      exec (.credit n pkt) s = .next (portDone s n pkt) ∧ exec (.release n pkt) s = .next (portDone s n pkt)) ∧
    (portTurn s n pkt = true → takesStep c pkt = true →
      (∃ t, exec (.credit n pkt) s = .next t ∧ OnlyTheCore s t n ∧
        (getCore t n).st = { c.st with cr := nset 0 c.st.cr (u.toNat % 16) (nget 0 c.st.cr (u.toNat % 16) + 1) }) ∧
      (∃ t, exec (.rearguard n pkt) s = .next t ∧ OnlyTheCore s t n ∧ (getCore t n).st.step = c.st.step ∧
        (getCore t n).st.phase = c.st.phase ∧ (getCore t n).st.rg = (countRearguard c u).st.rg ∧
        (getCore t n).st.c = (countRearguard c u).st.c) ∧
      (stepLe w c.st.released = false → ∃ t, exec (.release n pkt) s = .next t ∧ OnlyTheCore s t n ∧
        (getCore t n).st.released = w ∧ (getCore t n).st.step = c.st.step) ∧
      (stepLe w c.st.released = true → ∃ t, exec (.release n pkt) s = .next t ∧ OnlyTheCore s t n ∧ (getCore t n).st = c.st) ∧
      (writesFull (getCore s n) = false → lookup c (srcDev pkt) (srcCore pkt) (srcNeuron pkt) = [] →
        ∃ t, exec (.event n pkt) s = .next t ∧ OnlyTheCore s t n ∧
          (getCore t n).cnt = nset 0 c.cnt 0xC00 (bumpHi (cntGet c 0xC00) 1) ∧ (getCore t n).syn = c.syn) ∧
      (writesFull (getCore s n) = false → lookup c (srcDev pkt) (srcCore pkt) (srcNeuron pkt) ≠ [] →
        ∃ t, exec (.event n pkt) s = .next t ∧ OnlyTheCore s t n ∧
          t = applyEff (portDone s n pkt) n (acceptEvent (envOf (portDone s n pkt) n) c pkt)))

/-- EAGER_EVALUATE, STEP_WATCHDOG_EXPIRE, MOD_WRITE and MOD_DELIVER (R156, R198, R207, R212, R217, R277): with no eager work, or
in LEARN, the core stays as it is; without LEARN slots the work waits and counts as held; else the row at work has its next line
evaluated, or the head of the queue is taken up, and skipped when it is not queued any more; a core whose watchdog is enabled
and counts has it expired; a modulator write of the shard's generation goes to every core of the shard, and sets NEXT and PEND
at a core of the packet's context and generation. -/
def Obligations.LearningWatchdogAndModulator : Prop :=
  ∀ (s : State) (n : Nat) (pkt : Packet),
    let c := getCore s n
    let v := envOf s n
    let idle : Prop := c.lrn.eagerNow = none ∧ c.lrn.eagerLen = 0
    let u := eagerTake c
    (idle ∨ c.st.phase = .learn → exec (.eagerEvaluate n) s = .next (setCore s n c)) ∧
    (¬idle → c.st.phase ≠ .learn →
      (learnMay v c = false → exec (.eagerEvaluate n) s = .next (setCore s n (holdMem c))) ∧
      (learnMay v c = true →
        (∀ i hit k, c.lrn.eagerNow = some (i, hit, k) → exec (.eagerEvaluate n) s = .next (setCore s n (eagerLine c i hit k))) ∧
        (c.lrn.eagerNow = none →
          u.lrn.eagerLen = c.lrn.eagerLen - 1 ∧ u.lrn.eagerHead = (c.lrn.eagerHead + 1) % 256 ∧ u.st = c.st ∧ u.syn = c.syn ∧
          (qQueued (sideOf c (eagerFront c)) = false → u.ldm = c.ldm ∧ u.lrn.eagerNow = none) ∧
          (u.lrn.eagerNow = none → exec (.eagerEvaluate n) s = .next (setCore s n u)) ∧
          ∀ i hit k, u.lrn.eagerNow = some (i, hit, k) → exec (.eagerEvaluate n) s = .next (setCore s n (eagerLine u i hit k))))) ∧
    (c.st.wdogEn = true → wdogCounts c = true → ∃ t, exec (.stepWatchdogExpire n) s = .next t ∧ OnlyTheCore s t n ∧
      (getCore t n).st = { c.st with wdogExp := true }) ∧
    (c.st.wdogEn = false ∨ wdogCounts c = false → exec (.stepWatchdogExpire n) s = .next s) ∧
    (ofShard s pkt = true → ∃ t, exec (.modWrite pkt) s = .next t ∧ t = { s with fab := t.fab } ∧
      t = deliverMod (hubDone s pkt) (pctx pkt) (bit pkt.head 52) (fld pkt.head 51 48) (payload pkt)) ∧
    (ofShard s pkt = false → exec (.modWrite pkt) s = .next (hubDone s pkt)) ∧
    (portTurn s n pkt = true → c.bound = true → c.ctx = pctx pkt → c.gen.toNat = pgen pkt →
      ∃ t, exec (.modDeliver n pkt) s = .next t ∧ OnlyTheCore s t n ∧
      t.fab = s.fab ∧ (getCore t n).ldm = (modWriteCore c (bit pkt.head 52) (fld pkt.head 51 48) (BitVec.ofNat 32 (payload pkt))).ldm ∧
      (getCore t n).st = c.st) ∧
    (portTurn s n pkt = true → c.bound = false ∨ c.ctx ≠ pctx pkt ∨ c.gen.toNat ≠ pgen pkt →
      exec (.modDeliver n pkt) s = .next (portDone s n pkt)) ∧
    (portTurn s n pkt = false → exec (.modDeliver n pkt) s = .next s)

/-- OUTRIDER_PREFETCH, PEN_SPILL_WRITE, PEN_RETURN, DREQ, DDATA and WAYSTATION_FORWARD (R180, R181, R183, R188, R189, R216,
R351, R354, R364): the outrider works on its own core and sends packets, and learning that waited goes on after it; a depot
request waits for trained channels and a grant, and a write goes into the depot unless the power fails; data of another
generation is dropped; an uncorrectable slot loses its packet, a corrected group counts, and an empty buffer forwards nothing.
-/
def Obligations.OutriderDepotAndWaystation : Prop :=
  ∀ (s : State) (n : Nat) (pkt : Packet),
    let c := getCore s n
    let v := envOf s n
    let after := fun e : Eff => ({ core := (learnResume v e.core).core, out := e.out ++ (learnResume v e.core).out } : Eff)
    (∃ t, exec (.outriderPrefetch n) s = .next t ∧ OnlyTheCore s t n ∧ t = applyEff s n (after (prefetch v c)) ∧
      (c.lrn.work = none → (getCore t n).st = c.st ∧
        ((∀ r ∈ c.syn.ring, r.fetch ≠ .queued) → (getCore t n).syn = c.syn ∧ t.fab = s.fab))) ∧
    (∃ t, exec (.penSpillWrite n) s = .next t ∧ OnlyTheCore s t n ∧ t = applyEff s n (after (spillLine v c)) ∧
      (c.lrn.work = none → (getCore t n).st = c.st ∧ (getCore t n).syn.ring = c.syn.ring ∧
        ((∀ p ∈ c.syn.pen, p.stage ≠ .queued) → (getCore t n).syn = c.syn ∧ t.fab = s.fab))) ∧
    (∃ t, exec (.penReturn n) s = .next t ∧ OnlyTheCore s t n ∧ t = applyEff s n (after (penReturn v c)) ∧
      (c.lrn.work = none → nextReturn c = none → (getCore t n).syn = c.syn ∧ t.fab = s.fab)) ∧
    (∀ failing, s.ddrDone = false ∨ ddrReady s pkt = false → exec (.dreq ⟨pkt, failing⟩) s = .next s) ∧
    (∀ failing, s.ddrDone = true → ddrReady s pkt = true → ∃ t, exec (.dreq ⟨pkt, failing⟩) s = .next t ∧
      t = { s with dep := t.dep, fab := t.fab } ∧ (typ pkt ≠ 0xB → t.dep = (failBursts s pkt failing).dep) ∧
      (typ pkt = 0xB → s.pwr.pfail = true → t.dep = s.dep) ∧
      (typ pkt = 0xB → s.pwr.pfail = false →
        t.dep = depotPut s.dep (pctx pkt) (decide (span pkt ≥ 16)) (srcOf pkt) (flitLines pkt.flits))) ∧
    (portTurn s n pkt = false → exec (.ddata n pkt) s = .next s) ∧
    (portTurn s n pkt = true → c.bound = false ∨ c.ctx ≠ pctx pkt ∨ c.gen.toNat ≠ pgen pkt →
      exec (.ddata n pkt) s = .next (portDone s n pkt)) ∧
    (portTurn s n pkt = true → c.bound = true → c.ctx = pctx pkt → c.gen.toNat = pgen pkt →
      let u := portDone s n pkt
      let e := takeData (envOf u n) (getCore u n) pkt (badOf pkt)
      let g := learnResume (envOf u n) e.core
      ∃ t, exec (.ddata n pkt) s = .next t ∧ OnlyTheCore s t n ∧ t = applyEff u n { core := g.core, out := e.out ++ g.out }) ∧
    ∀ (tile port vc : Nat) (flips : List Nat),
      (nget [] s.fab.buf (bufKey tile port vc) = [] → exec (.waystationForward tile port vc flips) s = .next s) ∧
      ∀ f rest, nget [] s.fab.buf (bufKey tile port vc) = f :: rest →
        let k := entriesOf f.pkt
        let u := { s with fab := { s.fab with ce := satAdd s.fab.ce (corrected flips k) } }
        (uncorrectable flips k = false → exec (.waystationForward tile port vc flips) s = .next (forward u tile port vc)) ∧
        (uncorrectable flips k = true → ∃ t, exec (.waystationForward tile port vc flips) s = .next t ∧
          t = { s with ports := t.ports, fab := t.fab, free := s.free + 1 } ∧ t.fab.ce = u.fab.ce ∧ t.fab.ue = satAdd s.fab.ue 1 ∧
          (bufKey tile port vc ≠ bufKey tile 4 0 → nget [] t.fab.buf (bufKey tile port vc) = (headOf (f :: rest)).2))

/-- PORT_DETECT_LOCK, PORT_TRAIN_EQ_DONE, PORT_TRAIN_EQ_TIMEOUT, PORT_ALIGN_DONE, PORT_ALIGN_TIMEOUT, PARAM_EXCHANGE,
MISWIRED_PARAM_RETRY, PORT_RETRAIN_TIMEOUT, PORT_DOWN_RETRY, LOSS_OF_SIGNAL and LPI_WAKE (R384, R385, R394, R399): each moves
its port from the state that R384 names and leaves a port in another state as it is; a port that fails is DOWN with nothing left
to send; a port whose ALIGN is done sends its own parameters; a peer's that match make it ACTIVE, others MISWIRED; a WAKE takes
a port out of LPI, and one from the peer also wakes the device when WAKE_EN is set. -/
def Obligations.PortStatesFollowTheTraining : Prop :=
  ∀ (s : State) (p : Nat), p < 6 →
    let x := getPort s p
    let ends (t : State) (st : PortState) : Prop := (getPort t p).state = st ∧ ∀ k, k ≠ p → getPort t k = getPort s k
    let down (t : State) : Prop := ends t .down ∧ (getPort t p).retry = [] ∧ (getPort t p).tx = [] ∧ (getPort t p).nextSeq = 1
    (x.state = .detect → exec (.portDetectLock p) s = .next (setPort s p { x with state := .trainEq, lanes := 0xFFFF })) ∧
    (x.state ≠ .detect → exec (.portDetectLock p) s = .next s) ∧
    (x.state = .trainEq → exec (.portTrainEqDone p) s = .next (setPort s p { x with state := .align }) ∧
      ∃ t, exec (.portTrainEqTimeout p) s = .next t ∧ down t) ∧
    (x.state ≠ .trainEq → exec (.portTrainEqDone p) s = .next s ∧ exec (.portTrainEqTimeout p) s = .next s) ∧
    (x.state = .align ∨ x.state = .retrain → (∃ t, exec (.portAlignDone p) s = .next t ∧ ends t .param ∧ t = { s with ports := t.ports } ∧
        (getPort t p).sentPar = some (ownParams s p)) ∧
      ∃ t, exec (.portAlignTimeout p) s = .next t ∧ down t) ∧
    (x.state ≠ .align → x.state ≠ .retrain → exec (.portAlignDone p) s = .next s ∧ exec (.portAlignTimeout p) s = .next s) ∧
    (∀ peer, x.state = .param → ∃ t, exec (.paramExchange p peer) s = .next t ∧
      (paramsMatch s p peer = true → ends t .active ∧ (getPort t p).peerDev = peer.dev ∧ ∀ f ∈ (getPort t p).retry, f.sent = false) ∧
      (paramsMatch s p peer = false → ends t .miswired)) ∧
    (∀ peer, x.state ≠ .param → exec (.paramExchange p peer) s = .next s) ∧
    (∀ peer, x.state = .miswired → ∃ t, exec (.miswiredParamRetry p peer) s = .next t ∧
      (paramsMatch s p peer = true → ends t .active) ∧ (paramsMatch s p peer = false → ends t .miswired) ∧
      (getPort t p).sentPar = some (ownParams s p)) ∧
    (∀ peer, x.state ≠ .miswired → exec (.miswiredParamRetry p peer) s = .next s) ∧
    (x.retraining = true → runs x = true → ∃ t, exec (.portRetrainTimeout p) s = .next t ∧ down t) ∧
    (x.retraining = false → exec (.portRetrainTimeout p) s = .next s) ∧
    (x.en = true → x.state = .down → exec (.portDownRetry p) s = .next (setPort s p { x with state := .detect })) ∧
    (x.en = false ∨ x.state ≠ .down → exec (.portDownRetry p) s = .next s) ∧
    (∀ removed, runs x = true → ∃ t, exec (.lossOfSignal p removed) s = .next t ∧ down t) ∧
    (∀ removed, runs x = false → exec (.lossOfSignal p removed) s = .next s) ∧
    (∀ fromPeer, x.state = .lpi → fromPeer = false ∨ x.wakeEn = false →
      ∃ t, exec (.lpiWake p fromPeer) s = .next t ∧ ends t .align ∧ t = { s with ports := t.ports }) ∧
    (x.state = .lpi → x.wakeEn = true → exec (.lpiWake p true) s = .next (wakeBy (modPort s p leavePortLpi) 12)) ∧
    (∀ fromPeer, x.state ≠ .lpi → exec (.lpiWake p fromPeer) s = .next s)

/-- LINK_FRAME_TRANSMIT, LINK_FRAME_RECEIVE, LINK_ACK_TIMEOUT, LINK_REPLAY_LIMIT, LINK_LANE_UE_LIMIT and TRANSIT_RESERVE
(R378-R382, R384, R387, R398, R399): a port sends the frame that a replay owes, else its next frame, which the retry buffer
keeps, else an idle one, on its sixteen lanes; a bad frame is answered with NAK and changes no sequence, an idle frame or one
out of order is not taken, the next in order is; a port in LPI sends only to wake its peer and hears only a WAKE; each limit
takes an ACTIVE port to RETRAIN; a stale packet is discarded, one with no room waits, and one that leaves has its entries
reserved. -/
def Obligations.FramesKeepTheirOrder : Prop :=
  ∀ (s : State) (p : Nat), p < 6 →
    let x := getPort s p
    let idleFrame := mkFrame (mkHdr s x 0 true) []
    let idle (t : State) : Prop := t = { s with ports := t.ports } ∧ (getPort t p).lastTx = some idleFrame ∧
      (getPort t p).line = lanesOf idleFrame ∧ (getPort t p).inReset = false ∧ (getPort t p).retry = x.retry ∧
      (getPort t p).tx = x.tx ∧ (getPort t p).nextSeq = x.nextSeq
    (x.state ≠ .active → exec (.linkAckTimeout p) s = .next s ∧ exec (.linkReplayLimit p) s = .next s ∧ exec (.linkLaneUeLimit p) s = .next s ∧
      (x.state ≠ .lpi ∨ raisesWake x = false → exec (.linkFrameTransmit p) s = .next s) ∧
      (x.state = .lpi → raisesWake x = true → ∃ t, exec (.linkFrameTransmit p) s = .next t ∧ idle t ∧ (getPort t p).state = .align) ∧
      ∀ r, (x.state ≠ .lpi ∨ (goodFrame r).any (fun f => hWake f.hdr) = false → exec (.linkFrameReceive p r) s = .next s) ∧
        (x.state = .lpi → (goodFrame r).any (fun f => hWake f.hdr) = true → exec (.linkFrameReceive p r) s = .next (peerWake s p))) ∧
    (x.state = .active →
      (x.inReset = true → ∃ t, exec (.linkFrameTransmit p) s = .next t ∧ idle t ∧ (getPort t p).state = .active) ∧
      (x.inReset = false →
        (∀ f, (x.retry.find? fun f => !f.sent) = some f → ∃ t, exec (.linkFrameTransmit p) s = .next t ∧ t = { s with ports := t.ports } ∧
          (getPort t p).lastTx = some (mkFrame (mkHdr s x f.seq false) (f.frame.ctls.zip f.frame.slots)) ∧
          (getPort t p).line = lanesOf (mkFrame (mkHdr s x f.seq false) (f.frame.ctls.zip f.frame.slots)) ∧
          (getPort t p).nextSeq = x.nextSeq ∧ (getPort t p).tx = x.tx ∧ (getPort t p).replay = satAdd x.replay 1 ∧
          (getPort t p).retry.map RetryFrame.seq = x.retry.map RetryFrame.seq) ∧
        ((x.retry.find? fun f => !f.sent) = none → (takeNew x).1 ≠ [] → x.retry.length < 128 →
          ∃ t, exec (.linkFrameTransmit p) s = .next t ∧ t = { s with ports := t.ports } ∧ (getPort t p).nextSeq = x.nextSeq + 1 ∧
            (getPort t p).tx = (takeNew x).2 ∧ (getPort t p).retry = x.retry ++ [{
              seq := x.nextSeq, frame := mkFrame (mkHdr s x x.nextSeq false) (packSlots (takeNew x).1), packets := (takeNew x).1 }] ∧
            (getPort t p).line = lanesOf (mkFrame (mkHdr s x x.nextSeq false) (packSlots (takeNew x).1))) ∧
        ((x.retry.find? fun f => !f.sent) = none → (takeNew x).1 = [] ∨ x.retry.length ≥ 128 →
          ∃ t, exec (.linkFrameTransmit p) s = .next t ∧ idle t ∧ (getPort t p).state = .active)) ∧
      (∀ r : RxFrame,
        let y := { x with corr := if laneFixed r then satAdd x.corr 1 else x.corr, laneUe := laneRuns x.laneUe (badLanes r) }
        (goodFrame r = none → exec (.linkFrameReceive p r) s = .next (setPort s p { y with sendNak := true })) ∧
        (∀ f, goodFrame r = some f → hIdle f.hdr = true ∨ hSeq f.hdr ≠ x.lastGood + 1 →
          exec (.linkFrameReceive p r) s = .next (setPort s p (linkAck y f.hdr))) ∧
        (∀ f, goodFrame r = some f → hIdle f.hdr = false → hSeq f.hdr = x.lastGood + 1 →
          ∃ t, exec (.linkFrameReceive p r) s = .next t ∧ t = { s with ports := t.ports, fab := t.fab } ∧
            (getPort t p).lastGood = hSeq f.hdr ∧ (getPort t p).sendNak = false)) ∧
      (x.retry ≠ [] → ∃ t, exec (.linkAckTimeout p) s = .next t ∧ (getPort t p).state = .retrain ∧ ∀ f ∈ (getPort t p).retry, f.replays = 0) ∧
      (x.retry = [] → exec (.linkAckTimeout p) s = .next s) ∧
      ((x.retry.any fun f => f.replays ≥ 8) = true → ∃ t, exec (.linkReplayLimit p) s = .next t ∧ (getPort t p).state = .retrain ∧
        ∀ f ∈ (getPort t p).retry, f.replays = 0) ∧
      ((x.retry.any fun f => f.replays ≥ 8) = false → exec (.linkReplayLimit p) s = .next s) ∧
      ((x.laneUe.any fun l => l.2 ≥ 4) = true → ∃ t, exec (.linkLaneUeLimit p) s = .next t ∧ (getPort t p).state = .retrain ∧
        (getPort t p).laneUe = []) ∧
      ((x.laneUe.any fun l => l.2 ≥ 4) = false → exec (.linkLaneUeLimit p) s = .next s)) ∧
    ∀ b, b < 6 →
      (nget [] x.rx b = [] → exec (.transitReserve p b) s = .next s) ∧
      ∀ q qs, nget [] x.rx b = q :: qs →
        let tile := portTile p (dcore q / 32)
        let held : Bool := s.fab.off.contains (bufKey tile 6 (vcOf q))
        let leaves (q1 : Packet) (t : State) : Prop := nget [] (getPort t p).rx b = qs ∧ t = { s with ports := t.ports, fab := t.fab } ∧
          t.fab = enterBuf s.fab tile 6 q1 none
        (stale s q = true → ∃ t, exec (.transitReserve p b) s = .next t ∧ nget [] (getPort t p).rx b = qs ∧ t = { s with ports := t.ports }) ∧
        (stale s q = false → held = true → exec (.transitReserve p b) s = .next s) ∧
        (stale s q = false → held = false →
          (exitPort s q = none → ∃ t, exec (.transitReserve p b) s = .next t ∧ leaves { q with dc := false } t) ∧
          ∀ e, exitPort s q = some e →
            let q1 := entryForm p (some e) q
            let k := bufNo (vcOf q) (txForm s e q1).dc
            (portLost (getPort s e) = true → ∃ t, exec (.transitReserve p b) s = .next t ∧ leaves q1 t) ∧
            (portLost (getPort s e) = false → txUsed (getPort s e) k + entriesOf q > 64 → exec (.transitReserve p b) s = .next s) ∧
            (portLost (getPort s e) = false → txUsed (getPort s e) k + entriesOf q ≤ 64 →
              ∃ t, exec (.transitReserve p b) s = .next t ∧ leaves q1 t ∧
                nget 0 (getPort t e).reserved k = nget 0 (getPort s e).reserved k + entriesOf q))

/-- MSG, TALLY, QUEUE_SEND, QCREDIT and NACK (R135, R290-R292, R298, R299, R302, R303, R305, R308): a packet waits for its turn
at the core port; a message that fails a check changes no queue and no memory of the core, counts and is answered with a NACK,
logged or not; one that passes lands, or adds to its round; a credit or NACK that names no channel counts and changes none, but
for the CLOSE of a queue that comes back with LINK_DOWN, which ends the close; a NACK for an engine reaches it; QUEUE_SEND sends
its message, waits while its index is in use, and is PEER_CLOSED in a stopped shard. -/
def Obligations.MessagesLandOrAreRefused : Prop :=
  ∀ (s : State) (n : Nat) (pkt : Packet),
    let u := portDone s n pkt
    let c := getCore u n
    let v := envOf u n
    (portTurn s n pkt = false → exec (.msg n pkt) s = .next s ∧ exec (.tally n pkt) s = .next s ∧ exec (.qcredit n pkt) s = .next s ∧
      (toHubNack pkt = false → exec (.nack n pkt) s = .next s)) ∧
    (portTurn s n pkt = true →
    (∀ st, customs v c pkt = some (st, false) → ∃ t, exec (.msg n pkt) s = .next t ∧ exec (.tally n pkt) s = .next t ∧ OnlyTheCore s t n ∧
      t = applyEff u n { core := countDrop c st false, out := [nackOf v pkt st] } ∧ (getCore t n).q = c.q ∧ (getCore t n).ldm = c.ldm) ∧
    (∀ st, customs v c pkt = some (st, true) → ∃ t, exec (.msg n pkt) s = .next t ∧ exec (.tally n pkt) s = .next t ∧
      t = clogTile (applyEff u n { core := countDrop c st true, out := [nackOf v pkt st] }) n pkt.mid.toNat
        (if pkt.mid = 0xA then mSdev pkt else v.dev) (mScore pkt) st
        (wouldLand c pkt) ∧
      (getCore t n).q = c.q ∧ (getCore t n).ldm = c.ldm) ∧
    (∀ k, customs v c pkt = none → typ pkt ≠ 8 → freeSlotOf c (mQueue pkt) = some k → ∃ t, exec (.msg n pkt) s = .next t ∧
      OnlyTheCore s t n ∧ t.fab = s.fab ∧ (getCore t n).q = (landMsg c pkt k).q ∧ (getCore t n).ldm = (landMsg c pkt k).ldm ∧
      (getCore t n).q.msgs.length = c.q.msgs.length + 1) ∧
    (customs v c pkt = none → typ pkt = 8 → ∃ t, exec (.tally n pkt) s = .next t ∧ OnlyTheCore s t n ∧ t.fab = s.fab ∧
      (getCore t n).q = (takeTally c pkt).q ∧ (getCore t n).ldm = (takeTally c pkt).ldm) ∧
    (let r := chan c (mQueue pkt)
     sameCtx c pkt = false ∨ chState r = 0 ∨ chPcgen r ≠ mCgen pkt →
      (∃ t, exec (.qcredit n pkt) s = .next t ∧ OnlyTheCore s t n ∧ t.fab = s.fab ∧ (getCore t n).q = c.q ∧ (getCore t n).ldm = c.ldm ∧
        (getCore t n).cnt = nset 0 c.cnt 0xF0C (bumpHi (cntGet c 0xF0C) 1)) ∧
      (toHubNack pkt = false → returnsEvent pkt = false → closeBack c pkt = true → ∃ t, exec (.nack n pkt) s = .next t ∧ OnlyTheCore s t n ∧
        t.fab = s.fab ∧ (getCore t n).ldm = (setQState c (mQueue pkt) 0).ldm ∧ (getCore t n).cnt = c.cnt) ∧
      (toHubNack pkt = false → returnsEvent pkt = false → closeBack c pkt = false → ∃ t, exec (.nack n pkt) s = .next t ∧ OnlyTheCore s t n ∧
        t.fab = s.fab ∧ (getCore t n).q = c.q ∧ (getCore t n).ldm = c.ldm ∧ (getCore t n).cnt = nset 0 c.cnt 0xF0C (bumpHi (cntGet c 0xF0C) 1))) ∧
    (∃ t, exec (.qcredit n pkt) s = .next t ∧ OnlyTheCore s t n ∧ (getCore t n).q = (takeCreditOf c pkt).q ∧
      (getCore t n).ldm = (takeCreditOf c pkt).ldm) ∧
    (toHubNack pkt = false → returnsEvent pkt = false → ∃ t, exec (.nack n pkt) s = .next t ∧ OnlyTheCore s t n ∧
      (getCore t n).q = (nackChan c pkt).q ∧ (getCore t n).ldm = (nackChan c pkt).ldm) ∧
    (toHubNack pkt = false → returnsEvent pkt = true → ∃ t, exec (.nack n pkt) s = .next t ∧ OnlyTheCore s t n ∧ (getCore t n).q = c.q ∧
      (getCore t n).ldm = c.ldm)) ∧
    (toHubNack pkt = true →
      (fld pkt.head 67 64 = 8 → exec (.nack n pkt) s = .next (nackReadout (hubDone s pkt) pkt)) ∧
      (fld pkt.head 67 64 ≤ 1 → exec (.nack n pkt) s = .next (nackHost (hubDone s pkt) pkt)) ∧
      (fld pkt.head 67 64 = 6 → ∃ t, exec (.nack n pkt) s = .next t ∧ OnlyConvoyUnit s t ∧ t = nackUnit (hubDone s pkt) pkt) ∧
      (1 < fld pkt.head 67 64 → fld pkt.head 67 64 ≠ 6 → fld pkt.head 67 64 ≠ 8 → exec (.nack n pkt) s = .next (hubDone s pkt))) ∧
    ∀ (h : Nat) (f : Fetched),
      (txnBusy s h = true → exec (.queueSend h) s = .next s) ∧
      (MayRun s h 0x20 f → txnBusy s h = false →
        let m := hostMsg s f
        let open_ := kindOk (qEnt (getCore s (dcore m)) (mQueue m)) m
        let stopped := (getShard s (mCtx f.manifest)).state = .stopped
        (stopped → open_ = false → exec (.queueSend h) s = .next (complete (started s h) h stPeerClosed)) ∧
        (¬stopped ∨ open_ = true → exec (.queueSend h) s = .next (hubSend (begun (started s h) h) m)))

/-- OPEN_CHANNEL, OPEN_ACK, CLOSE_CHANNEL, CLOSE_ACK and CLOSE_DRAIN_DONE (R296, R299): an OPEN of another generation or without
a free queue and tally is refused with NO_RESOURCE and takes nothing, else it opens a queue and answers, or sends a notice to a
handler first; an answer to a channel that does not open and a close of another generation are dropped; a queue drains before
its close is answered. -/
def Obligations.ChannelsOpenDrainAndClose : Prop :=
  ∀ (s : State) (n : Nat) (pkt : Packet),
    let u := portDone s n pkt
    let c := getCore u n
    let v := envOf u n
    let same := sameCtx c pkt
    let kept (t : State) : Prop := OnlyTheCore s t n ∧ (getCore t n).q = c.q ∧ (getCore t n).ldm = c.ldm
    (portTurn s n pkt = false → exec (.openChannel n pkt) s = .next s ∧ exec (.openAck n pkt) s = .next s ∧
      exec (.closeChannel n pkt) s = .next s ∧ exec (.closeAck n pkt) s = .next s) ∧
    (portTurn s n pkt = true →
    (∃ t, exec (.openChannel n pkt) s = .next t ∧ OnlyTheCore s t n ∧ t = applyEff u n (takeOpen v c pkt) ∧
      (same = false ∨ (freeQueue c 1 (fld pkt.head 31 28) = none ∧ freeTally c (fld pkt.head 31 28) = none) →
        kept t ∧ takeOpen v c pkt = { core := c, out := [mkNack v (srcDev pkt) (srcCore pkt) (mQueue pkt) 0 0xB (pctx pkt) (pgen pkt) stNoResource true 7 3] }) ∧
      (∀ q, same = true → freeQueue c 1 (fld pkt.head 31 28) = some q → bit pkt.head 7 = false →
        (takeOpen v c pkt).out = [openAckPkt v (takeOpen v c pkt).core (srcDev pkt) (srcCore pkt) (mQueue pkt) q] ∧
        (getCore t n).q.msgs = c.q.msgs) ∧
      (∀ q, same = true → freeQueue c 1 (fld pkt.head 31 28) = some q → bit pkt.head 7 = true →
        ((takeOpen v c pkt).out = [] ∧ (getCore t n).q.msgs.length = c.q.msgs.length + 1) ∨
        ((takeOpen v c pkt).out = [openAckPkt v (takeOpen v c pkt).core (srcDev pkt) (srcCore pkt) (mQueue pkt) q] ∧
          (getCore t n).q.msgs = c.q.msgs)) ∧
      (∀ q, same = true → freeQueue c 1 (fld pkt.head 31 28) = none → freeTally c (fld pkt.head 31 28) = some q →
        (takeOpen v c pkt).out = [openAckPkt v (takeOpen v c pkt).core (srcDev pkt) (srcCore pkt) (mQueue pkt) q] ∧
        nget 0 (getCore t n).q.listed q = nget 0 c.q.listed q + 1)) ∧
    (∃ t, exec (.openAck n pkt) s = .next t ∧ OnlyTheCore s t n ∧ t = applyEff u n (takeOpenAck v c pkt) ∧
      (same = false ∨ (chState (chan c (mQueue pkt)) ≠ 1 ∧ chState (chan c (mQueue pkt)) ≠ 3) → kept t ∧ t.fab = s.fab)) ∧
    (∃ t, exec (.closeChannel n pkt) s = .next t ∧ OnlyTheCore s t n ∧ t = applyEff u n (takeClose v c pkt) ∧
      (same = false → kept t ∧ t.fab = s.fab) ∧
      (same = true → namesQueue c pkt = true → qState c (mQueue pkt) ≠ 2 → t.fab = s.fab ∧
        (getCore t n).q.draining = c.q.draining ++ [(mQueue pkt, true)] ∧ (getCore t n).ldm = (setQState c (mQueue pkt) 2).ldm)) ∧
    (∃ t, exec (.closeAck n pkt) s = .next t ∧ OnlyTheCore s t n ∧ t.fab = s.fab ∧ (getCore t n).ldm = (takeCloseAck c pkt).ldm ∧
      (getCore t n).q = (takeCloseAck c pkt).q ∧ (same = false → kept t))) ∧
    ∀ q : Nat,
      let d := getCore s n
      (qPending d q ≠ 0 → ∃ t, exec (.closeDrainDone n q) s = .next t ∧ OnlyTheCore s t n ∧ t.fab = s.fab ∧ (getCore t n).q = d.q ∧ (getCore t n).ldm = d.ldm) ∧
      (qPending d q = 0 → d.q.draining.contains (q, true) = true → ∃ t, exec (.closeDrainDone n q) s = .next t ∧ OnlyTheCore s t n ∧
        (getCore t n).q.draining = d.q.draining.erase (q, true) ∧ (getCore t n).ldm = (setQState d q 0).ldm) ∧
      (qPending d q = 0 → d.q.draining.contains (q, true) = false → d.q.draining.contains (q, false) = true →
        ∃ t, exec (.closeDrainDone n q) s = .next t ∧ OnlyTheCore s t n ∧
          (getCore t n).q.draining = d.q.draining.erase (q, false) ∧ (getCore t n).ldm = d.ldm)

/-- WDOG_NOTICE, LOSS_NOTICE, UE_NOTICE, FAULT_NOTICE, ORPHAN_NOTICE, PEER_RESET_NOTICE and NOTICE_FOLD_TIMER (R443, R447,
R463): while management restarts a notice waits in the hub buffer; else firmware turns it into a context notice of the shard
that its packet names, when the generation is the present one, and of no other, but for an uncorrectable error that no context
owns, which every running shard is told of; the timer opens the next period. -/
def Obligations.NoticesReachTheirContexts : Prop :=
  ∀ (s : State) (pkt : Packet),
    let u := hubDone s pkt
    let ctx := pctx pkt
    let own := (getShard s ctx).state ≠ .free ∧ genOf s ctx = pgen pkt
    let waits := s.mgmt.restarting = true ∧ s.mgmt.notices.length < 256
    let held : Host.Outcome State Fault Refusal := .next { u with mgmt := { u.mgmt with notices := s.mgmt.notices ++ [pkt] } }
    (waits → exec (.wdogNotice pkt) s = held ∧ exec (.lossNotice pkt) s = held ∧ exec (.ueNotice pkt) s = held ∧
      exec (.faultNotice pkt) s = held ∧ exec (.orphanNotice pkt) s = held ∧ exec (.peerResetNotice pkt) s = held) ∧
    (¬waits →
      (own → exec (.wdogNotice pkt) s = .next (notice u ctx { status := stTimeout, result := BitVec.ofNat 32 (payload pkt), payload := noticeCore pkt }) ∧
        exec (.lossNotice pkt) s = .next (markLosses (notice u ctx
          { status := stEventLoss, result := BitVec.ofNat 32 (payload pkt), payload := noticeCore pkt }) ctx (BitVec.ofNat 32 (payload pkt))) ∧
        exec (.ueNotice pkt) s = .next (notice u ctx {
          status := stUncorrectable, payload := BitVec.ofNat 96 (payload pkt)
          result := if boundTo s ctx (srcCore pkt) then BitVec.ofNat 32 (srcCore pkt) else 0x3FF }) ∧
        exec (.faultNotice pkt) s = .next (notice u ctx {
          status := faultStatus (payload pkt % 8), result := BitVec.ofNat 32 (stamp pkt % 64)
          payload := BitVec.ofNat 96 (payload pkt % 8 * 2 ^ 16 + srcCore pkt) }) ∧
        exec (.orphanNotice pkt) s = .next (notice u ctx { status := stConvoyTimeout, result := BitVec.ofNat 32 (stamp pkt), payload := noticeCore pkt })) ∧
      (¬own → exec (.wdogNotice pkt) s = .next u ∧ exec (.faultNotice pkt) s = .next u ∧ exec (.orphanNotice pkt) s = .next u ∧
        (genOf s ctx ≠ pgen pkt → exec (.lossNotice pkt) s = .next u) ∧
        exec (.ueNotice pkt) s = .next ((ctxsIn s fun sh => sh.state == .running).foldl (fun u k => notice u k {
          status := stUncorrectable, payload := BitVec.ofNat 96 (payload pkt)
          result := if boundTo u k (srcCore pkt) then BitVec.ofNat 32 (srcCore pkt) else 0x3FF }) u)) ∧
      (let c := fld (resetFlit pkt) 7 0 % 64
       ((getShard s c).state = .free → exec (.peerResetNotice pkt) s = .next u) ∧
       ((getShard s c).state ≠ .free → exec (.peerResetNotice pkt) s = .next (notice u c {
          status := stContextReset
          result := BitVec.ofNat 32 (fld (resetFlit pkt) 15 8), payload := BitVec.ofNat 96 (fld (resetFlit pkt) 31 16) })))) ∧
    ∀ k, k < 64 →
      ((getShard s k).notices = [] → ∃ t, exec (.noticeFoldTimer k) s = .next t ∧ getShard t k = { getShard s k with sent := [], notices := [] } ∧
        ∀ j, j ≠ k → getShard t j = getShard s j) ∧
      (∀ x, (getShard s k).notices = [x] → s.mgmt.restarting = false → cqRoom s (getShard s k).noticeCq.toNat 1 = true →
        ∃ t, exec (.noticeFoldTimer k) s = .next t ∧ getShard t k = { getShard s k with sent := [x.status], notices := [] } ∧
          s.hif.written <+: t.hif.written ∧ t.hif.written.length = s.hif.written.length + 1)

/-- STATE_READ, STATE_WRITE and STATS_READ (R107, R108, R422): a range that leaves its space is ACCESS_VIOLATION; a core at work
makes the command wait; a running shard lets state words only be written; values that break R56 or R86, or that leave a row
entry on a companion slot, are DOES_NOT_FIT and nothing is written; else the bytes are written, or answered. The step answered
beside them is STEP - 1, which on a stopped context is the model's choice (notes/assumptions/89.md). A statistics read clears RC
fields only where it is asked to. -/
def Obligations.StateIsReadAndWrittenAtABoundary : Prop :=
  ∀ (s : State) (h : Nat) (f : Fetched),
    let m := f.manifest
    let n := mTcore m
    let sp := mw m 0
    let a := spaceFirst sp (mw m 1)
    let c := getCore s n
    let u := started s h
    let written := ((linesBytes f.bales).take (mw m 2)).zipIdx.foldl (fun c x => writeSpace c sp (a + x.2) x.1) c
    let after := if sp = 4 then syncGset written else written
    let unfit := spaceBad after sp a (mw m 2) || (sp != 1 && sp != 5 && hitsCompanion u (mCtx m) n after)
    (MayRun s h 0x38 f →
      (spaceSize sp < a + mw m 2 → exec (.stateRead h) s = .next (complete u h stAccess)) ∧
      (a + mw m 2 ≤ spaceSize sp → atBoundary c = false → exec (.stateRead h) s = .next u) ∧
      (a + mw m 2 ≤ spaceSize sp → atBoundary c = true → ∃ t, exec (.stateRead h) s = .next t ∧ OnlyAnswered s t ∧ findCmd t h = none ∧
        t = complete u h stOk (c.st.step - 1).toNat (replyEntries ((List.range (mw m 2)).map fun i => spaceByte s n sp (a + i))))) ∧
    (MayRun s h 0x39 f →
      (spaceSize sp < a + mw m 2 → exec (.stateWrite h) s = .next (complete u h stAccess)) ∧
      (a + mw m 2 ≤ spaceSize sp → (getShard s (mCtx m)).state ≠ .stopped → sp ≠ 0 →
        exec (.stateWrite h) s = .next (complete u h stBadState)) ∧
      (a + mw m 2 ≤ spaceSize sp → (getShard s (mCtx m)).state = .stopped ∨ sp = 0 →
        (atBoundary c = false → exec (.stateWrite h) s = .next u) ∧
        (atBoundary c = true → unfit = true → exec (.stateWrite h) s = .next (complete u h stDoesNotFit)) ∧
        (atBoundary c = true → unfit = false → ∃ t, exec (.stateWrite h) s = .next t ∧ findCmd t h = none ∧
          t = complete (setCore u n (wakeWord after)) h stOk (c.st.step - 1).toNat ∧ getCore t n = wakeWord after ∧ (∀ k, k ≠ n → getCore t k = getCore s k) ∧
          t = { s with cores := t.cores, hif := t.hif, sdio := t.sdio, mgmt := t.mgmt, fab := t.fab }))) ∧
    (MayRun s h 0x3A f →
      let src := mw m 0 % 8
      let gone := src = 2 ∧ (findConvoy s (mw m 3 % 2 ^ 15)).isNone
      (gone → exec (.statsRead h) s = .next (complete u h stNoResource)) ∧
      (¬gone → statsSize u src (mw m 1) < mw m 1 + mw m 2 → exec (.statsRead h) s = .next (complete u h stAccess)) ∧
      (¬gone → mw m 1 + mw m 2 ≤ statsSize u src (mw m 1) → ∃ t z, exec (.statsRead h) s = .next t ∧ findCmd t h = none ∧
        t = complete z h stOk 0 (replyEntries ((List.range (mw m 2)).map fun i => statsByte u m (mw m 1 + i))) ∧
        z = (if src ≤ 1 ∧ bit m 131 then statsClear u m else statsUsed u src) ∧
        (1 < src → t.cores = s.cores ∧ t.ingest = s.ingest ∧ t.results = s.results)))

/-- WEIGHT_SAVE, WEIGHT_SAVE_DONE, WEIGHT_RESTORE and WEIGHT_RESTORE_DONE (R223-R226). A keep command that may not run is
BAD_STATE. Where every core has a tile of its own, a save takes the next sequence number and sets the save barrier on every core
of a running shard; a core that already stands there, or any core of a stopped shard, begins its image, the learned weights as
they stand, in the slot that does not hold the newest common sequence, and that slot is uncommitted from then on, while the slot
that holds the newest common sequence stays as it is. A save is done, as a restore is, once every core stands at its barrier:
every slot being written gets its marker, and the command completes with the sequence number. A restore without a common image
that fits every core is BAD_STATE; else it is done by writing each core's lines back. -/
def Obligations.WeightKeepSavesAndRestores : Prop :=
  ∀ (s : State),
    (∀ (h : Nat) (f : Fetched),
      let m := f.manifest
      let ctx := mCtx m
      let u := started s h
      let held := if (getShard s ctx).state = .stopped then s.cores else
        (modShardCores s ctx fun _ c => { c with st := { c.st with saveBarrier := some (BitVec.ofNat 32 (mw m 1) + 1) } }).cores
      (MayRun s h 0x30 f →
        (keepMay s m = false → exec (.weightSave h) s = .next (complete u h stBadState)) ∧
        (keepMay s m = true → ∃ t, exec (.weightSave h) s = .next t ∧
          t.nv = { s.nv with saveSeq := s.nv.saveSeq + 1, keep := t.nv.keep } ∧ t.cores = held ∧
          getShard t ctx = { getShard s ctx with saving := some (h, s.nv.saveSeq + 1, keepStep s m) } ∧
          (∀ k, k ≠ ctx → getShard t k = getShard s k) ∧
          (((keepCores s ctx).map fun n => keepKey s n 0).Nodup → ∀ n ∈ keepCores s ctx, atSave (getCore s n) (keepStep s m) = true → (keepSlot s n 0).writing = false →
            (keepSlot s n 1).writing = false →
            let x := keepSlot t n (saveSlot s ctx n)
            x.writing = true ∧ x.image = keepImage s ctx n ∧ x.marker.getLsbD 0 = false) ∧
          (((keepCores s ctx).map fun n => keepKey s n 0).Nodup → ∀ n k q, keepCommon s ctx = some q → slotWith s n q = some k → n ∈ keepCores s ctx → keepSlot t n k = keepSlot s n k))) ∧
      (MayRun s h 0x31 f →
        (keepMay s m = false ∨ keepCommon s ctx = none → exec (.weightRestore h) s = .next (complete u h stBadState)) ∧
        (∀ q, keepMay s m = true → keepCommon s ctx = some q → ((keepCores s ctx).all fun n => keepFits s ctx n q) = false →
          exec (.weightRestore h) s = .next (complete u h stBadState)) ∧
        (∀ q, keepMay s m = true → keepCommon s ctx = some q → ((keepCores s ctx).all fun n => keepFits s ctx n q) = true →
          ∃ t, exec (.weightRestore h) s = .next t ∧ t.nv = s.nv ∧ t.cores = held ∧
            getShard t ctx = { getShard s ctx with restoring := some (h, BitVec.ofNat 16 q, keepStep s m) } ∧
            ∀ k, k ≠ ctx → getShard t k = getShard s k))) ∧
    ∀ ctx : Nat,
      ((getShard s ctx).saving = none → exec (.weightSaveDone ctx) s = .next s) ∧
      ((getShard s ctx).restoring = none → exec (.weightRestoreDone ctx) s = .next s) ∧
      ∀ (h : Nat) (q : BitVec 16) (b : Option Word),
        (keepReady s ctx b = false →
          ((getShard s ctx).saving = some (h, q, b) → exec (.weightSaveDone ctx) s = .next s) ∧
          ((getShard s ctx).restoring = some (h, q, b) → exec (.weightRestoreDone ctx) s = .next s)) ∧
        (keepReady s ctx b = true →
          ((getShard s ctx).saving = some (h, q, b) → ∃ t u, exec (.weightSaveDone ctx) s = .next t ∧ t = complete u h stOk q.toNat ∧
            findCmd t h = none ∧
            getShard t ctx = { getShard s ctx with saving := none, ranSince := (getShard s ctx).ranSince && b.isSome } ∧
            (∀ k, k ≠ ctx → getShard t k = getShard s k) ∧
            t.nv = { s.nv with keep := t.nv.keep } ∧
            (((keepCores s ctx).map fun n => keepKey s n 0).Nodup → ∀ n ∈ keepCores s ctx, ∀ k ∈ [0, 1],
              let x := keepSlot s n k
              keepSlot t n k = if x.writing then { x with marker := mkMarker s ctx n q x.image, writing := false } else x)) ∧
          ((getShard s ctx).restoring = some (h, q, b) → ∃ t u, exec (.weightRestoreDone ctx) s = .next t ∧
            u = (keepCores s ctx).foldl (fun x n => restoreCore x ctx n q.toNat) s ∧
            t = complete (freeSave (modShard u ctx fun sh => { sh with restoring := none }) ctx) h stOk q.toNat ∧
            findCmd t h = none ∧ (getShard t ctx).restoring = none ∧ (∀ k, k ≠ ctx → getShard t k = getShard s k) ∧ t.nv = s.nv))

/-- DEBUG_OPEN, DEBUG_CLOSE, PRESENT, GO_PRODUCTION and TOKEN_CHECK_DONE (R512, R513, R535, R536, R539): a write by another
master, without its key or while a request is checked is logged and changes nothing else; a level that needs no token opens in
S0, else the result is BAD_STATE; a close ends the session, but for BLANK, where it does nothing; a token and a step to
PRODUCTION are BAD_STATE where the state does not permit them, LOCKED where they ask for a transition after lock, and start
else; a token that fails its checks is AUTH_FAILED and leaves the level; one that passes opens its level or starts its
transition. -/
def Obligations.DebugRequestsAreCheckedInOrder : Prop :=
  ∀ (s : State) (mid : Nat) (v : Word),
    let asks := fld v 3 0
    let may : Bool := (mid == 0 || mid == 1 || (mid == 4 && asks != 1)) && reaches s mid dbgCtlAddr && fld v 31 24 == 0x3D && !secBusy s &&
      [0, 1, 2, 4, 8].contains asks
    let all (o : Host.Outcome State Fault Refusal) : Prop := exec (.debugOpen mid v) s = o ∧ exec (.debugClose mid v) s = o ∧
      exec (.present mid v) s = o ∧ exec (.goProduction mid v) s = o
    let purpose := memGet s.sec.token 2 1
    (may = false → all (.next (clogBar s mid dbgCtlAddr stAccess))) ∧
    (may = true →
      (asks = 8 → fld v 5 4 ≠ 0 →
        (inS0 s = false ∨ levelFree s.nv.lcState (fld v 5 4) = false → all (.next (secResult s stBadState))) ∧
        (inS0 s = true → levelFree s.nv.lcState (fld v 5 4) = true → ∃ t, exec (.debugOpen mid v) s = .next t ∧ t = { s with sec := t.sec } ∧
          t.sec.level = BitVec.ofNat 2 (fld v 5 4) ∧ t.sec.result = stOk ∧ (fld v 5 4 = 2 → t.sec.everFull = true) ∧
          (fld v 5 4 = 1 → t.sec.everNs = true))) ∧
      (asks = 4 ∨ (asks = 8 ∧ fld v 5 4 = 0) → s.nv.lcState ≠ 0 → ∃ t, exec (.debugClose mid v) s = .next t ∧ t = { s with sec := t.sec } ∧
        t.sec = { s.sec with level := restLevel s, haltedHarts := [] }) ∧
      (asks = 1 →
        (inS0 s = false ∨ s.nv.lcState ≠ 2 → all (.next (secResult s stBadState))) ∧
        (inS0 s = true → s.nv.lcState = 2 →
          (s.glb.locked = true → all (.next (secResult s stLocked))) ∧
          (s.glb.locked = false → shardsBusy s = true → all (.next (secResult s stBadState))) ∧
          (s.glb.locked = false → shardsBusy s = false →
            all (.next { s with sec := { s.sec with request := .transition 3 } })))) ∧
      (asks = 2 → inS0 s = true → purpose = 1 ∨ purpose = 2 →
        (levelExists s.nv.lcState purpose = true → all (.next { s with sec := { s.sec with request := .token } })) ∧
        (levelExists s.nv.lcState purpose = false → all (.next (secResult s stBadState)))) ∧
      (asks = 2 → inS0 s = true → purpose ≠ 1 → purpose ≠ 2 →
        (purpose < 0x10 ∨ tokenMove s.nv.lcState (purpose - 0x10) = false → all (.next (secResult s stBadState))) ∧
        (0x10 ≤ purpose → tokenMove s.nv.lcState (purpose - 0x10) = true →
          (s.glb.locked = true → all (.next (secResult s stLocked))) ∧
          (s.glb.locked = false → shardsBusy s = true → all (.next (secResult s stBadState))) ∧
          (s.glb.locked = false → shardsBusy s = false →
            all (.next { s with sec := { s.sec with request := .token } })))) ∧
      (asks = 4 ∨ (asks = 8 ∧ fld v 5 4 = 0) → s.nv.lcState = 0 → all (.next s)) ∧
      (asks = 2 → inS0 s = false → all (.next (secResult s stBadState))) ∧
      (asks = 0 → all (.next s))) ∧
    (s.sec.request ≠ .token ∨ hartRuns s 1 = false → exec .tokenCheckDone s = .next s) ∧
    (s.sec.request = .token → hartRuns s 1 = true →
      (tokenMay s = false → exec .tokenCheckDone s = .next { s with sec := { s.sec with request := .none, result := stBadState } }) ∧
      (tokenMay s = true → tokenOk s = false →
        exec .tokenCheckDone s = .next { s with sec := { s.sec with request := .none, result := stAuthFailed } }) ∧
      (tokenMay s = true → tokenOk s = true → purpose < 0x10 → ∃ t, exec .tokenCheckDone s = .next t ∧ t = { s with sec := t.sec } ∧ t.sec.request = .none ∧
        t.sec.level = BitVec.ofNat 2 purpose ∧ t.sec.result = stOk) ∧
      (tokenMay s = true → tokenOk s = true → 0x10 ≤ purpose →
        exec .tokenCheckDone s = .next { s with sec := { s.sec with request := .transition (BitVec.ofNat 3 (purpose - 0x10)) } }))

/-- LC_TRANSITION_DONE, TAMPER_TRIP, EXTEST_EXIT, JTAG_INSTRUCTION, REFCLK_LOSS and LOCK (R427, R428, R513-R515, R529, R531,
R538): a transition that ends writes the state and ends the session, one that is interrupted leaves the state and TORN; a trip
and a lost clock zeroise, are counted with their cause bits and reset the device; a TAP instruction is taken only where it is
accepted, EXTEST zeroises and leaving it resets; the lock is taken once, when no gate breaks a rule, and never in recovery,
BLANK or SCRAPPED. -/
def Obligations.LifeCycleTamperAndLock : Prop :=
  ∀ (s : State),
    (∀ b, (∀ t, s.sec.request ≠ .transition t) → exec (.lcTransitionDone b) s = .next s) ∧
    (∀ t, s.sec.request = .transition t →
      (exec (.lcTransitionDone true) s =
        .next { s with sec := { s.sec with request := .none }, nv := { s.nv with torn := true } }) ∧
      (∃ u, exec (.lcTransitionDone false) s = .next u ∧ u = { s with sec := u.sec, nv := u.nv } ∧ u.nv.lcState = t ∧ u.nv.torn = false ∧
        u.sec.request = .none ∧ u.sec.result = stOk ∧ u.sec.level = restLevel u ∧ u.sec.haltedHarts = [] ∧ (t = 4 ∨ t = 5 → u.nv.keep = [] ∧ u.nv.identity = false))) ∧
    (∀ p g k : Bool, s.boot = .off ∨ (p = false ∧ g = false ∧ k = false) → exec (.tamperTrip p g k) s = .next s) ∧
    (∀ p g k : Bool, s.boot ≠ .off → p = true ∨ g = true ∨ k = true → ∃ t, exec (.tamperTrip p g k) s = .next t ∧ t.boot = .warmPending ∧
      t.sec.zeroised = true ∧ t.sec.tamperCnt = satAdd s.sec.tamperCnt (b1 p + b1 g + b1 k) ∧
      (p = true → t.sec.tamper.getLsbD 1 = true) ∧ (g = true → t.sec.tamper.getLsbD 2 = true) ∧ (k = true → t.sec.tamper.getLsbD 4 = true) ∧ t.nv = quietKeep s.nv ∧ t.cores = [] ∧ t.shards = [] ∧ t.pending = s.pending) ∧
    (s.boot ≠ .off → ∃ t, exec .refclkLoss s = .next t ∧ t.boot = .warmPending ∧ t.sec.zeroised = true ∧ t.nv = quietKeep s.nv ∧
      t.sec.tamperCnt = satAdd s.sec.tamperCnt 1 ∧ t.sec.tamper.getLsbD 0 = true ∧ t.glb.pllLock = false ∧ t.pending = s.pending) ∧
    (s.boot = .off → exec .refclkLoss s = .next s) ∧
    (s.sec.jtag = .extest → ∃ t, exec .extestExit s = .next t ∧ t.boot = .warmPending ∧ t.sec.jtag = .idcode ∧ t.nv = quietKeep s.nv) ∧
    (s.sec.jtag ≠ .extest → exec .extestExit s = .next s) ∧
    (∀ i, s.boot = .off ∨ jtagAccepts s i = false → exec (.jtagInstruction i) s = .next s) ∧
    (s.boot ≠ .off → s.sec.jtag ≠ .extest → exec (.jtagInstruction .idcode) s =
      .next { s with sec := { s.sec with jtag := .idcode }, rdata := idcode s }) ∧
    (s.boot ≠ .off → jtagAccepts s .extest = true → s.sec.jtag ≠ .extest → ∃ t, exec (.jtagInstruction .extest) s = .next t ∧
      t.sec.jtag = .extest ∧ t.sec.zeroised = true ∧ t.nv = s.nv) ∧
    (∀ i, s.boot ≠ .off → jtagAccepts s i = true → i ≠ .extest → s.sec.jtag = .extest → ∃ t, exec (.jtagInstruction i) s = .next t ∧
      t.boot = .warmPending ∧ t.nv = quietKeep s.nv) ∧
    (∀ i, s.boot ≠ .off → jtagAccepts s i = true → i ≠ .extest → i ≠ .idcode → s.sec.jtag ≠ .extest →
      exec (.jtagInstruction i) s = .next { s with sec := { s.sec with jtag := i } }) ∧
    ∀ (h : Nat) (f : Fetched), MayRun s h 0x42 f →
      let bad := s.sec.recovery = true ∨ s.nv.lcState = 0 ∨ s.nv.lcState = 5
      ∃ t, exec (.lock h) s = .next t ∧ findCmd t h = none ∧ t.nv = s.nv ∧
        t.glb.lockMid = originMid f.origin ∧ (bad → t.glb.locked = s.glb.locked ∧ t.glb.failed = false) ∧ (s.glb.locked = true → t.glb.locked = true) ∧
        (¬bad → s.glb.locked = false → (∀ q ∈ gateRules s, q.2 = 0) → t.glb.locked = true ∧ t.glb.failed = false) ∧
        (¬bad → s.glb.locked = false → (∃ q ∈ gateRules s, q.2 ≠ 0) → t.glb.locked = false ∧ t.glb.failed = true)

/-- FIRMWARE_UPDATE, ATTEST, LEDGER_CLEAR, CUSTOMS_LOG_CLEAR and CUSTOMS_LOG_RECORD (R319, R320, R524, R526, R549): an update is
LOCKED after lock, takes its parts in order, and is VALID only when the image verifies; a report is built where attestation is
served; the ledger clears for the debug port in RMA alone; a pair of notices takes the next place of the customs log. -/
def Obligations.UpdateAttestAndLogs : Prop :=
  ∀ (s : State),
    (∀ (h : Nat) (f : Fetched), MayRun s h 0x40 f →
      let u := started s h
      let off := mw f.manifest 1
      let bytes := linesBytes f.bales
      let b := inactive s.nv
      let image := (if s.sec.updateAt.isNone then [] else (copyOf s.nv b).bytes) ++ bytes
      (s.glb.locked = true → s.sec.recovery = false → exec (.firmwareUpdate h) s = .next (complete u h stLocked)) ∧
      (s.glb.locked = false ∨ s.sec.recovery = true →
        (off ≠ s.sec.updateAt.getD 0 ∨ 2 ^ 23 < off + bytes.length →
          exec (.firmwareUpdate h) s = .next (complete (updateStop u) h stBadState)) ∧
        (off = s.sec.updateAt.getD 0 → off + bytes.length ≤ 2 ^ 23 → ∃ t, exec (.firmwareUpdate h) s = .next t ∧ findCmd t h = none ∧
          (mw f.manifest 0 % 2 = 0 → t.sec.updateAt = some image.length ∧ (copyOf t.nv b).valid = false ∧ (copyOf t.nv b).bytes = image) ∧
          (mw f.manifest 0 % 2 = 1 → t.sec.updateAt = none ∧ (copyOf t.nv b).bytes = image ∧
            (copyOf t.nv b).valid = imageOk s.nv image) ∧
          copyOf t.nv (!b) = copyOf s.nv (!b)))) ∧
    (∀ (h : Nat) (f : Fetched), MayRun s h 0x41 f →
      let served := (s.nv.lcState = 2 ∨ s.nv.lcState = 3 ∨ s.sec.recovery = true) ∧ s.sec.pufFail = false
      (¬served → exec (.attest h) s = .next (complete (started s h) h stBadState)) ∧
      (served → ∃ t, exec (.attest h) s = .next t ∧ findCmd t h = none ∧ t.nv = s.nv ∧ t.sec.reports = s.sec.reports + 1 ∧
        t.sec.report = (buildReport (started s h) (fld f.manifest 255 128)).sec.report)) ∧
    (∀ (mid : Nat) (v : Word),
      let may : Bool := mid == 4 && s.nv.lcState == 4 && reaches s mid (bstAddr 0x14) && fld v 31 24 == 0xC3
      (may = false → exec (.ledgerClear mid v) s = .next (clogBar s mid (bstAddr 0x14) stAccess)) ∧
      (may = true → bit v 0 = true → exec (.ledgerClear mid v) s = .next { s with nv := { s.nv with ledgerA := [], ledgerB := [] } }) ∧
      (may = true → bit v 0 = false → exec (.ledgerClear mid v) s = .next s) ∧
      (reaches s mid 0x1404 = false → exec (.customsLogClear mid v) s = .next (clogBar s mid 0x1404 stAccess)) ∧
      (reaches s mid 0x1404 = true → bit v 0 = false → exec (.customsLogClear mid v) s = .next s) ∧
      (reaches s mid 0x1404 = true → bit v 0 = true → ∃ t, exec (.customsLogClear mid v) s = .next t ∧ t = { s with glb := t.glb } ∧
        t.glb = { s.glb with log := t.glb.log } ∧ ∀ q ∈ t.glb.log, q.2.valid = false)) ∧
    ∀ a b : Packet,
      (subtype a = 0x25 → subtype b = 0x26 → ∃ t, exec (.customsLogRecord a b) s = .next t ∧ t = { s with fab := t.fab, glb := t.glb } ∧
        t.fab.hub = (s.fab.hub.erase a).erase b ∧ t.glb.next = s.glb.next + 1 ∧ t.glb.seq = s.glb.seq + 1 ∧
        nget {} t.glb.log s.glb.next.toNat = logEntry a b (s.glb.seq + 1)) ∧
      (subtype a ≠ 0x25 ∨ subtype b ≠ 0x26 → exec (.customsLogRecord a b) s = .next s)

/-- BIST_RUN, BST_CTL_GO, BIST_DONE and BIST_LIMIT_STOP (R551-R553, R556-R559): a test waits for one in progress, is BAD_STATE
where it may not run and BIST_LIMIT outside its limits, else it starts on its cores; a GO in BST_CTL starts one likewise, and
nothing where BIST_RUN could not start it (notes/assumptions/64.md); the end of a test records the status, the first failure and
the tiles, holds the failing cores out, zeroes the tested tiles, frees the engine and answers the command. -/
def Obligations.BistRunsAndEnds : Prop :=
  ∀ (s : State),
    (∀ (h : Nat) (f : Fetched), MayRun s h 0x48 f →
      let w := mw f.manifest 0
      let test := w % 4
      let all : Bool := w / 4 % 2 = 1
      let u := started s h
      let busy := s.bst.running.isSome = true ∨ s.pwr.target.isSome = true
      (busy → exec (.bistRun h) s = .next u) ∧
      (¬busy → bistMay s test all (mTcore f.manifest) = false → exec (.bistRun h) s = .next (complete u h stBadState)) ∧
      (¬busy → bistMay s test all (mTcore f.manifest) = true → inLimits s = false → ∃ t, exec (.bistRun h) s = .next t ∧ findCmd t h = none ∧
        t.bst.status = stBistLimit ∧ t.bst.running = none ∧ t.cores = s.cores) ∧
      (¬busy → bistMay s test all (mTcore f.manifest) = true → inLimits s = true → ∃ t, exec (.bistRun h) s = .next t ∧ t.cores = s.cores ∧
        t.bst.running = some {
          test := BitVec.ofNat 2 test, cores := bistCores s test all (mTcore f.manifest)
          partly := overBudget s.bst.sliceUs.toNat s.pwr.pl.toNat test, cmd := some h })) ∧
    (∀ (mid : Nat) (v : Word),
      let may : Bool := (mid == 2 || mid == 4) && bistFull s.nv.lcState && reaches s mid (bstAddr 4) && fld v 31 24 == 0x6B
      (may = false ∨ s.bst.running.isSome = true → exec (.bstCtlGo mid v) s = .next (clogBar s mid (bstAddr 4) stAccess)) ∧
      (may = true → s.bst.running = none →
        bit v 23 = false ∨ s.pwr.target.isSome = true ∨ bistMay s (fld v 21 20) (bit v 22) (fld v 9 0) = false →
        exec (.bstCtlGo mid v) s = .next s) ∧
      (may = true → s.bst.running = none → bit v 23 = true → s.pwr.target = none →
        bistMay s (fld v 21 20) (bit v 22) (fld v 9 0) = true → inLimits s = false → ∃ t, exec (.bstCtlGo mid v) s = .next t ∧
          t = { s with bst := t.bst } ∧ t.bst.status = stBistLimit ∧ t.bst.running = none) ∧
      (may = true → s.bst.running = none → bit v 23 = true → s.pwr.target = none →
        bistMay s (fld v 21 20) (bit v 22) (fld v 9 0) = true → inLimits s = true → ∃ t, exec (.bstCtlGo mid v) s = .next t ∧
          t = { s with bst := t.bst } ∧ t.bst.running = some {
            test := BitVec.ofNat 2 (fld v 21 20), cores := bistCores s (fld v 21 20) (bit v 22) (fld v 9 0)
            partly := overBudget s.bst.sliceUs.toNat s.pwr.pl.toNat (fld v 21 20), cmd := none })) ∧
    ∀ fs : List TestFailure,
      (s.bst.running = none → exec (.bistDone fs) s = .next s ∧ ∀ k, exec (.bistLimitStop k fs) s = .next s) ∧
      ∀ r, s.bst.running = some r →
        let end_ (t : State) (done : List Nat) (tiles : Nat) (stopped : Bool) : Prop :=
          t.bst.running = none ∧ t.bst.hwstop = stopped ∧ t.bst.tiles = BitVec.ofNat 11 tiles ∧
          t.bst.fail = (ownFailures s r.test done fs).head? ∧
          (∀ f ∈ ownFailures s r.test done fs, ∀ n, coreAt s (f.py * 34 + f.px) = some n → n ∈ t.bst.held) ∧
          (∀ n ∈ s.bst.held, n ∈ t.bst.held) ∧ (∀ n ∈ r.cores, getCore t n = zeroCore (getCore s n)) ∧
          t.bst.status = bistStatus (!(ownFailures s r.test done fs).isEmpty) stopped r.partly ∧
          ∀ h, r.cmd = some h → findCmd t h = none
        (∃ t, exec (.bistDone fs) s = .next t ∧ end_ t r.cores (tilesOf r) false) ∧
        ∀ k, ∃ t, exec (.bistLimitStop k fs) s = .next t ∧ end_ t (r.cores.take (min k (tilesOf r))) (min k (tilesOf r)) true

/-- POWER_SET_PL, PL_CHANGE_DONE, THERMAL_POLL, THERMAL_HW_LIMIT and THERMAL_HW_RELEASE (R496-R500, R511): a request above the
cap is POWER_LIMIT, one for the present level completes, any other is taken and waits for the change, whose end settles the
level and answers; a device in a lower state is woken first; a hot reading slows one level at once and then every 10 ms, one
that has been cool for 100 ms quickens one; the hardware limit forces PL3 at once in S0. -/
def Obligations.LevelsFollowRequestsAndLimits : Prop :=
  ∀ (s : State),
    (∀ (h : Nat) (f : Fetched), MayRun s h 0x49 f →
      let u := started s h
      let pl := BitVec.ofNat 2 (mw f.manifest 0 / 2 ^ 4)
      let p := { s.pwr with plReq := pl }
      (mw f.manifest 0 / 2 ^ 6 % 2 = 0 ∨ powerBusy s = true → exec (.powerSetPl h) s = .next u) ∧
      (mw f.manifest 0 / 2 ^ 6 % 2 = 1 → powerBusy s = false → s.pwr.state = .s0 →
        (s.pwr.capW.toNat < ratedMax pl.toNat → exec (.powerSetPl h) s = .next (complete u f.handle stPowerLimit)) ∧
        (ratedMax pl.toNat ≤ s.pwr.capW.toNat →
          (wantedPl p = s.pwr.pl → ∃ t, exec (.powerSetPl h) s = .next t ∧ findCmd t f.handle = none ∧ t.pwr = p ∧
            OnlyAnswered { s with pwr := p } t) ∧
          (wantedPl p ≠ s.pwr.pl → ∃ t, exec (.powerSetPl h) s = .next t ∧ t.pwr.changing = true ∧ t.pwr.plReq = pl ∧
            t.pwr.plCmds = s.pwr.plCmds ++ [f.handle] ∧ (t.pwr.pl = s.pwr.pl → t.cores = s.cores) ∧
            t.pwr.pl = if s.pwr.pl.toNat < (wantedPl p).toNat then wantedPl p else s.pwr.pl))) ∧
      (mw f.manifest 0 / 2 ^ 6 % 2 = 1 → powerBusy s = false → s.pwr.state = .s1 ∨ s.pwr.state = .s2 ∨ s.pwr.state = .s3 →
        ∃ t, exec (.powerSetPl h) s = .next t ∧ t = requestPl (wakeNow (wakeFires u 9)) f pl ∧ t.pwr.state = .s0)) ∧
    (s.pwr.changing = false → exec .plChangeDone s = .next s) ∧
    (s.pwr.changing = true → ∃ t, exec .plChangeDone s = .next t ∧ t.pwr.pl = wantedPl s.pwr ∧ t.pwr.changing = false ∧ t.pwr.plCmds = [] ∧
      (t.pwr.pl = s.pwr.pl → t.cores = s.cores) ∧ ∀ h ∈ s.pwr.plCmds, findCmd t h = none) ∧
    (∀ hot : Int,
      let p := s.pwr
      (hartRuns s 3 = false → exec (.thermalPoll hot) s = .next s) ∧
      (hartRuns s 3 = true → ∃ t, exec (.thermalPoll hot) s = .next t ∧ t.pwr.tj = tjOf hot ∧ (t.pwr.pl = s.pwr.pl → t.cores = s.cores) ∧
        t.pwr.tjMax.toNat = max p.tjMax.toNat (tjOf hot).toNat ∧
        ((p.throttleC.toNat : Int) < hot → p.aboveMs = 0 ∨ p.aboveMs = 10 → t.pwr.plTherm = if p.plTherm = 3 then 3 else p.plTherm + 1) ∧
        ((p.throttleC.toNat : Int) - 5 ≤ hot → hot ≤ p.throttleC.toNat → t.pwr.plTherm = p.plTherm ∧ t.pwr.aboveMs = 0 ∧ t.pwr.belowMs = 0) ∧
        ((p.throttleC.toNat : Int) < hot → p.aboveMs ≠ 0 → p.aboveMs ≠ 10 → t.pwr.plTherm = p.plTherm ∧ t.pwr.aboveMs = p.aboveMs + 1) ∧
        (hot < (p.throttleC.toNat : Int) - 5 → p.belowMs ≠ 100 → t.pwr.plTherm = p.plTherm ∧ t.pwr.belowMs = p.belowMs + 1) ∧
        (hot < (p.throttleC.toNat : Int) - 5 → p.belowMs = 100 → t.pwr.plTherm = if p.plTherm = 0 then 0 else p.plTherm - 1))) ∧
    (∃ t, exec .thermalHwLimit s = .next t ∧ t.pwr.hwlimit = true ∧ (s.pwr.state = .s0 → t.pwr.pl = 3) ∧
      (t.pwr.pl = s.pwr.pl → t.cores = s.cores)) ∧
    (∃ t, exec .thermalHwRelease s = .next t ∧ t.pwr.hwlimit = false ∧ t.pwr.state = s.pwr.state ∧
      (t.pwr.pl = s.pwr.pl → t.cores = s.cores))

/-- POWER_SET_STATE, SLEEP_ENTRY_DONE, WAKE and BROWN_OUT (R501-R507): a state change waits for one in progress, is BAD_STATE
over work, else it begins; its end answers and the state is reached, S1 at PL3, S2 and below after a compute reset, S4 with the
die off, and a wake that was latched brings S0 back; a source that cannot fire does nothing, one that does not leave the state
is recorded; a brown-out zeroises, resets the compute part and asks for PL3. -/
def Obligations.SleepWakeAndBrownOut : Prop :=
  ∀ (s : State),
    (∀ (h : Nat) (f : Fetched), MayRun s h 0x49 f →
      let w := mw f.manifest 0
      let u := wokenFirst (started s h)
      (w / 2 ^ 6 % 2 = 1 ∨ powerBusy s = true → exec (.powerSetState h) s = .next (started s h)) ∧
      (w / 2 ^ 6 % 2 = 0 → powerBusy s = false →
        (stateOf (w % 8) = .s0 → exec (.powerSetState h) s = .next (requestPl u f (BitVec.ofNat 2 (w / 2 ^ 4)))) ∧
        (stateOf (w % 8) ≠ .s0 → sleepBad u = true → exec (.powerSetState h) s = .next (complete u h stBadState)) ∧
        (stateOf (w % 8) ≠ .s0 → sleepBad u = false → ∃ t, exec (.powerSetState h) s = .next t ∧ t.pwr.target = some (stateOf (w % 8)) ∧
          t.pwr.entryCmd = some h ∧ t.pwr.latched = 0 ∧ t.pwr.state = u.pwr.state ∧ t.cores = u.cores ∧ t.sec.request ≠ .token))) ∧
    (s.pwr.target = none ∨ s.pwr.entryCmd = none → exec .sleepEntryDone s = .next s) ∧
    (∀ st h, s.pwr.target = some st → s.pwr.entryCmd = some h → st ≠ .s0 → s.pwr.latched &&& wakeMask st = 0 →
      ∃ t, exec .sleepEntryDone s = .next t ∧ t.pwr.state = st ∧ t.pwr.target = none ∧ findCmd t h = none ∧
        (st = .s1 → t.cores = (setDivisor s 3).cores ∧ t.pwr.pl = 3) ∧ (st ≠ .s1 → t.ingest = [] ∧ t.results = []) ∧
        (st = .s3 ∨ st = .s4 → t.cores = [] ∧ t.shards = []) ∧ (st = .s4 → t.boot = .off)) ∧
    (∀ st h, s.pwr.target = some st → s.pwr.entryCmd = some h → st ≠ .s0 → s.pwr.latched &&& wakeMask st ≠ 0 →
      ∃ t, exec .sleepEntryDone s = .next t ∧ t = wakeNow (reachState s st h) ∧ t.pwr.state = .s0) ∧
    (∀ src, sourceBit s src = none → exec (.wake src) s = .next s) ∧
    (∀ src b, sourceBit s src = some b →
      (s.pwr.state = .s0 ∨ s.pwr.state = .s4 ∨ s.pwr.target.isSome = true ∨ bit (wakeMask s.pwr.state) b = false →
        exec (.wake src) s = .next (wakeFires s b)) ∧
      (s.pwr.target = none → bit (wakeMask s.pwr.state) b = true → ∃ t, exec (.wake src) s = .next t ∧ t.pwr.state = .s0)) ∧
    ∀ rail : Nat,
      (s.boot = .off ∨ s.pwr.armed = false ∨ 4 ≤ rail → exec (.brownOut rail) s = .next s) ∧
      (s.boot ≠ .off → s.pwr.armed = true → rail < 4 → ∃ t, exec (.brownOut rail) s = .next t ∧ t.pwr.brownout = true ∧
        t.pwr.boRail = BitVec.ofNat 2 rail ∧ t.pwr.plReq = 3 ∧ t.pwr.changing = false ∧ t.pwr.plCmds = [] ∧ t.sec.zeroised = true ∧
        t.ingest = [] ∧ t.results = [] ∧ t.convoys = [] ∧ t.boot = s.boot ∧ (s.pwr.state = .s0 → t.pwr.pl = 3))

/-- POWER_FAIL_WARNING, CURRENT_LIMIT_TRIP, CURRENT_LIMIT_RETRY, INPUT_LOCKOUT, PRESENCE_SEATED, PRESENCE_OPEN and PMBUS_COMMAND
(R493, R494, R567-R572): a warning zeroises once; a trip, a lockout, an open contact and an OPERATION command turn the output
off and lose the volatile state; the output comes on, with a cold reset, only when nothing keeps it off; an unknown command
changes nothing. -/
def Obligations.HotSwapTurnsTheOutput : Prop :=
  ∀ (s : State),
    let p := s.pwr
    let off (t : State) : Prop := t.pwr.output = false ∧ t.boot = .off ∧ t.cores = [] ∧ t.shards = []
    let on (t : State) : Prop := t.pwr.output = true ∧ t.boot = .coldPending ∧ t.cores = [] ∧ t.shards = [] ∧ t.nv = quietKeep s.nv
    (s.boot = .off ∨ p.pfail = true → exec .powerFailWarning s = .next s) ∧
    (s.boot ≠ .off → p.pfail = false → ∃ t, exec .powerFailWarning s = .next t ∧ t.pwr.pfail = true ∧ t.pwr.armed = false ∧
      t.sec.zeroised = true ∧ t.pwr.output = p.output ∧ t.boot = s.boot) ∧
    (p.output = false → exec .currentLimitTrip s = .next s) ∧
    (p.output = true → ∃ t, exec .currentLimitTrip s = .next t ∧ off t ∧ t.pwr.limitOff = true ∧ t.pwr.status = p.status ||| 8 ||| 4) ∧
    (p.limitOff = false → exec .currentLimitRetry s = .next s) ∧
    (p.limitOff = true → p.output = false → mayTurnOn { p with limitOff := false } = true → ∃ t, exec .currentLimitRetry s = .next t ∧ on t ∧
      t.pwr.limitOff = false) ∧
    (p.limitOff = true → p.output = true → exec .currentLimitRetry s = .next { s with pwr := { p with limitOff := false } }) ∧
    (p.limitOff = true → mayTurnOn { p with limitOff := false } = false →
      exec .currentLimitRetry s = .next { s with pwr := { p with limitOff := false } }) ∧
    (∀ (v : Nat) (up : Bool),
      let uv : Bool := if up then p.lockUv && decide (v ≤ 3900) else p.lockUv || decide (v < 3800)
      let ov : Bool := v > 6200
      ∃ t, exec (.inputLockout v up) s = .next t ∧ t.pwr.lockUv = uv ∧ t.pwr.lockOv = ov ∧
        (uv = true ∨ ov = true → p.output = true → off t) ∧ (uv = false → ov = false → p.output = true → t.cores = s.cores ∧ t.boot = s.boot) ∧
        (uv = true ∨ ov = true → p.output = false → t = { s with pwr := t.pwr } ∧ t.pwr.output = false) ∧
        (p.output = false → uv = false → ov = false → mayTurnOn { p with lockUv := false, lockOv := false } = true → on t)) ∧
    (p.output = true → exec .presenceSeated s = .next { s with pwr := { p with seated := 7 } }) ∧
    (p.output = false → mayTurnOn { p with seated := 7 } = true → ∃ t, exec .presenceSeated s = .next t ∧ on t ∧ t.pwr.seated = 7) ∧
    (p.output = false → mayTurnOn { p with seated := 7 } = false → exec .presenceSeated s = .next { s with pwr := { p with seated := 7 } }) ∧
    (∀ c, 3 ≤ c → exec (.presenceOpen c) s = .next s) ∧
    (∀ c, c < 3 → ∃ t, exec (.presenceOpen c) s = .next t ∧ t.pwr.seated = setFld p.seated c c 0 ∧ (p.output = true → off t) ∧
      (p.output = false → t = { s with pwr := t.pwr })) ∧
    (∀ code data, code ≠ 1 → code ≠ 3 → code ≠ 0x79 → code ≠ 0x88 → code ≠ 0x89 → code ≠ 0x8D → code ≠ 0x97 →
      exec (.pmbusCommand code data) s = .next s) ∧
    (∀ data, exec (.pmbusCommand 3 data) s = .next { s with pwr := { p with status := 0 } } ∧
      exec (.pmbusCommand 0x79 data) s = .next { s with rdata := p.status.setWidth 64 } ∧
      (∀ code ∈ [0x88, 0x89, 0x8D, 0x97], ∃ t, exec (.pmbusCommand code data) s = .next t ∧
        t = { s with rdata := t.rdata, free := s.free + 1 } ∧ t.rdata.toNat < 2 ^ 16) ∧
      (p.limitOff = true ∨ (data ≠ 0 ∧ data ≠ 0x80) → exec (.pmbusCommand 1 data) s = .next s)) ∧
    (p.limitOff = false → p.output = false → exec (.pmbusCommand 1 0) s = .next { s with pwr := { p with pmOff := true } }) ∧
    (p.limitOff = false → p.output = true ∨ mayTurnOn { p with pmOff := false } = false →
      exec (.pmbusCommand 1 0x80) s = .next { s with pwr := { p with pmOff := false } }) ∧
    (p.limitOff = false → p.output = true → ∃ t, exec (.pmbusCommand 1 0) s = .next t ∧ off t ∧ t.pwr.pmOff = true) ∧
    (p.limitOff = false → p.output = false → mayTurnOn { p with pmOff := false } = true →
      ∃ t, exec (.pmbusCommand 1 0x80) s = .next t ∧ on t ∧ t.pwr.pmOff = false)

/-- PERST, COLD_RESET, DDR_TRAINING_DONE, WARM_RESET and COMPUTE_RESET (R448, R449, R512, R540, R542): PERST leaves the
non-volatile state, where no keep slot is being written any more, and a start to come; the start sequence counts itself, stops
in BLANK and SCRAPPED, and ends in training, or defective; trained channels make the device Ready; a warm reset starts from boot
verification; a compute reset empties streams, results, convoys and the mesh. -/
def Obligations.ResetsLeaveWhatTheyKeep : Prop :=
  ∀ (s : State),
    (s.boot = .off → s.pwr.state ≠ .s4 → exec .perst s = .next s) ∧
    (s.boot ≠ .off ∨ s.pwr.state = .s4 → ∃ t, exec .perst s = .next t ∧ t.nv = quietKeep s.nv ∧ t.cores = [] ∧ t.shards = [] ∧ t.glb.cause = 0x40 ∧
      t.glb.locked = false ∧ t.boot = .coldPending ∧ t.pending = s.pending) ∧
    (∀ ref fs,
      (s.boot = .off → exec (.coldReset ref fs) s = .next s) ∧
      (s.boot ≠ .off → ∃ t, exec (.coldReset ref fs) s = .next t ∧ t.pending = s.pending ∧ t.nv.lcState = s.nv.lcState ∧
        (t.boot = .stopped ∨ t.boot = .defective ∨ t.boot = .training) ∧ t.glb.refsrc = !ref ∧
        (s.nv.lcState = 0 ∨ s.nv.lcState = 5 → t.boot = .stopped ∧ t.nv = (if s.boot = .coldPending then s.nv else quietKeep s.nv)) ∧
        (t.boot = .training → t.nv.coldCount = s.nv.coldCount + 1 ∧ t.cores = []))) ∧
    (∀ b, s.boot ≠ .training → exec (.ddrTrainingDone b) s = .next s) ∧
    (s.boot = .training → exec (.ddrTrainingDone true) s = .next { s with boot := .defective } ∧
      ∃ t, exec (.ddrTrainingDone false) s = .next t ∧ t.boot = .ready ∧ t.ddrDone = true ∧ t.sdio.ready = true ∧ t.cores = s.cores) ∧
    (∀ c ref,
      (s.boot = .off ∨ s.boot = .coldPending → exec (.warmReset c ref) s = .next s) ∧
      (s.boot ≠ .off → s.boot ≠ .coldPending → ∃ t, exec (.warmReset c ref) s = .next t ∧ t.pending = s.pending ∧
        t.nv.lcState = s.nv.lcState ∧ (t.boot = .stopped ∨ t.boot = .defective ∨ t.boot = .ready) ∧
        (s.nv.lcState = 0 ∨ s.nv.lcState = 5 → t.boot = .stopped))) ∧
    ∀ c : ComputeCause, ∃ t, exec (.computeReset c) s = .next t ∧ t.convoys = [] ∧ t.hubCvy = [] ∧ t.ingest = [] ∧ t.results = [] ∧
      t.fab.buf = [] ∧ t.fab.lanes = [] ∧ (∀ q ∈ t.tmr, q.2.mode ≠ .pace) ∧ t.boot = s.boot ∧
      t.glb.cause = s.glb.cause ||| (match c with | .register => 0x004 | .brownOut => 0x002 | .drain => 0x100)

/-- MANAGEMENT_RESTART, MGMT_WATCHDOG_EXPIRE, MGMT_SCRUB, MGMT_SELF_CHECK, MGMT_PARITY_FAILURE and HEARTBEAT (R461-R465, R476):
each failure is counted and starts a restart, which frees the harts of their commands; the restart's end runs the recorded code,
or reloads it from flash; a corrected error is counted alone; parity on a queue entry ends that command alone; hart 2 counts its
beats. -/
def Obligations.ManagementRestartsAndCounts : Prop :=
  ∀ (s : State) (n : Nat),
    let restarted (t : State) (cause : RestartCause) : Prop := t.mgmt.restarting = true ∧ t.mgmt.hart0 = none ∧ t.mgmt.hart1 = none ∧
      t.mgmt.cause = BitVec.ofNat 4 (rcauseCode cause) ∧ t.mgmt.hart = BitVec.ofNat 2 n ∧ t.mgmt.restarts = satAdd s.mgmt.restarts 1
    (∀ c b, s.mgmt.running = false → exec (.managementRestart n c b) s = .next s) ∧
    (∀ c b, s.mgmt.running = true → ∃ t, exec (.managementRestart n c b) s = .next t ∧ t.mgmt.restarting = false ∧ t.mgmt.flashReload = !b) ∧
    (n < 4 → s.boot = .ready → hartRuns s n = true → ∃ t, exec (.mgmtWatchdogExpire n) s = .next t ∧ restarted t .watchdog ∧
      t.glb.cause = s.glb.cause ||| 1) ∧
    (4 ≤ n ∨ s.boot ≠ .ready ∨ hartRuns s n = false → exec (.mgmtWatchdogExpire n) s = .next s) ∧
    (∀ k, exec (.mgmtScrub n k false) s = .next { s with mgmt := { s.mgmt with ce := satAdd s.mgmt.ce k } } ∧
      ∃ t, exec (.mgmtScrub n k true) s = .next t ∧ t.mgmt.ce = satAdd s.mgmt.ce k ∧ t.mgmt.ue = satAdd s.mgmt.ue 1 ∧
        t.mgmt.restarting = true ∧ (s.mgmt.restarting = false → restarted t .sramError)) ∧
    (∀ b, b = true ∨ hartRuns s n = false → exec (.mgmtSelfCheck n b) s = .next s) ∧
    (hartRuns s n = true → ∃ t, exec (.mgmtSelfCheck n false) s = .next t ∧ restarted t .selfCheck ∧
      t.mgmt.selfchk = satAdd s.mgmt.selfchk 1) ∧
    (∃ t, exec (.mgmtParityFailure n none) s = .next t ∧ t.mgmt.parity = satAdd s.mgmt.parity 1 ∧ t.mgmt.restarting = true ∧
      (s.mgmt.restarting = false → restarted t .parity)) ∧
    (∀ h, s.mgmt.queue.contains h = true → ∃ t, exec (.mgmtParityFailure n (some h)) s = .next t ∧ findCmd t h = none ∧ OnlyAnswered s t ∧
      t.mgmt.parity = satAdd s.mgmt.parity 1 ∧ t.mgmt.restarting = s.mgmt.restarting) ∧
    (∀ h, s.mgmt.queue.contains h = false →
      exec (.mgmtParityFailure n (some h)) s = .next { s with mgmt := { s.mgmt with parity := satAdd s.mgmt.parity 1 } }) ∧
    (hartRuns s 2 = true → exec .heartbeat s = .next { s with mgmt := { s.mgmt with heartbeat := s.mgmt.heartbeat + 1 } }) ∧
    (hartRuns s 2 = false → exec .heartbeat s = .next s)

/-- REGISTER_WRITE, REGISTER_READ, SDIO_GO, SDIO_RDATA_ACCESS and FRONT_END_COMMAND (R11, R43, R44, R401, R425): a device that
is off answers with nothing; a read of bytes within one word of a block returns those bytes, and a read of no register returns
0; a write of part of a register, or to no register, is discarded and logged, and one that covers two 32-bit registers writes
both; a read of FAB_ERR returns its counts and clears them; a locked register keeps its value; SDIO_RDATA is an access at
SDIO_RADDR; GO over a command or a waiting group is ignored with GOERR, else the command enters the hub; a front-end peer's
command other than STREAM_PUSH never enters. -/
def Obligations.RegistersAreReadAndWritten : Prop :=
  ∀ (s : State) (mid a n : Nat) (v : BitVec 64),
    (s.boot = .off → exec (.registerWrite mid a n v) s = .next s ∧ exec (.registerRead mid a n) s = .next { s with rdata := 0 } ∧
      (∀ w, exec (.sdioRdataAccess w) s = .next s) ∧ exec (.sdioGo n) s = .next s) ∧
    (s.boot ≠ .off → 4 < mid → exec (.registerWrite mid a n v) s = .next (clogBar s mid a stAccess)) ∧
    (s.boot ≠ .off → mid ≤ 4 → a < bar2 →
      (1 ≤ n → n < 4 → a % 4 + n ≤ 4 → exec (.registerWrite mid a n v) s = .next (clogBar s mid a stAccess)) ∧
      (a % 4 = 0 → is64 (a / 8 * 8) = true → exec (.registerWrite mid a 4 v) s = .next (clogBar s mid a stAccess)) ∧
      (a % 4 = 0 → is64 (a / 8 * 8) = false →
        exec (.registerWrite mid a 4 v) s = .next (writeWord s mid a (v.extractLsb' 0 32)) ∧
        (is64 ((a + 4) / 8 * 8) = false → exec (.registerWrite mid a 8 v) s =
          .next (writeWord (writeWord s mid a (v.extractLsb' 0 32)) mid (a + 4) (v.extractLsb' 32 32)))) ∧
      (1 ≤ n → a % 4 + n ≤ 4 → assigned s (a / 4 * 4) = true → reaches s mid (a / 4 * 4) = true → blockOf a < 16 →
        ∃ t, exec (.registerRead mid a n) s = .next t ∧
          t = { barClear { s with rdata := 0 } mid (a / 4 * 4) with rdata := t.rdata } ∧
          t.rdata.toNat = (barWord s mid (a / 4 * 4)).toNat / 2 ^ (8 * (a % 4)) % 2 ^ (8 * n))) ∧
    (s.boot ≠ .off → mid ≤ 4 → 1 ≤ n → n ≤ 8 → a + n ≤ bar2 → (∀ w, a / 4 ≤ w → w ≤ (a + n - 1) / 4 → assigned s (4 * w) = false) →
      exec (.registerRead mid a n) s = .next { s with rdata := 0 } ∧
      exec (.registerWrite mid a n v) s =
        .next ((List.range ((a + n + 3) / 4 - a / 4)).foldl (fun u i => clogBar u mid (max a (4 * (a / 4 + i))) stAccess) s)) ∧
    (∀ core off, core < 1024 → off < 0x4000 → present s core = false → assigned s (0x1000000 + core * 0x4000 + off) = false) ∧
    (s.boot ≠ .off → mid < 4 →
      (∃ t, exec (.registerRead mid 0x200004 4) s = .next t ∧
        t.rdata = (s.fab.ce ++ s.fab.ue ++ s.fab.badPkt ++ s.fab.absent : BitVec 32).setWidth 64 ∧
        t.fab = { s.fab with ce := 0, ue := 0, badPkt := 0, absent := 0 } ∧ t = { s with fab := t.fab, rdata := t.rdata }) ∧
      exec (.registerWrite mid 0x100000 4 v) s = .next { s with hif := { s.hif with en := v.getLsbD 0 } } ∧
      (∀ k, k < 256 → s.glb.locked = true →
        exec (.registerWrite mid (0x101000 + 0x20 * k) 8 v) s = .next (clogBar s mid (0x101000 + 0x20 * k) stLocked)) ∧
      (∀ k, k < 256 → s.glb.locked = false → ∃ t, exec (.registerWrite mid (0x101000 + 0x20 * k) 8 v) s = .next t ∧
        (getSq t k).base = v &&& 0xFFFFFFFFFFFFF000 ∧ (getSq t k).tail = (getSq s k).tail ∧
        (∀ j, j ≠ k → getSq t j = getSq s j) ∧ t = { s with hif := t.hif })) ∧
    (s.boot ≠ .off → ∀ w : Word, ∃ t u, exec (.sdioRdataAccess none) s = .next t ∧
      exec (.registerRead 1 (s.sdio.raddr.toNat / 4 * 4) 4) s = .next t ∧ exec (.sdioRdataAccess (some w)) s = .next u ∧
      exec (.registerWrite 1 (s.sdio.raddr.toNat / 4 * 4) 4 (w.setWidth 64)) s = .next u) ∧
    (s.boot ≠ .off → s.sdio.busy = true ∨ s.sdio.cmpl = true → ∃ t, exec (.sdioGo n) s = .next t ∧
      t.sdio = { s.sdio with len := BitVec.ofNat 17 n, goerr := true } ∧ t.hif = s.hif ∧ t.cores = s.cores) ∧
    (s.boot ≠ .off → s.sdio.busy = false → s.sdio.cmpl = false → ∃ t, exec (.sdioGo n) s = .next t ∧
      t.hif.nextHandle = s.hif.nextHandle + 1 ∧ t.sdio.goerr = s.sdio.goerr ∧ t.cores = s.cores) ∧
    ∀ (port : Nat) (run : List Packet),
      let ls := bytesLines (flitBytes (run.flatMap fun p => p.flits))
      let m := ls.headD 0
      let bs := (ls.drop 1).take (mBales m)
      (ls ≠ [] → mOp m ≠ 0x19 → ∃ t, exec (.frontEndCommand port run) s = .next t ∧ t.hif.fetched = s.hif.fetched ∧ t.cores = s.cores) ∧
      (ls ≠ [] → mOp m = 0x19 → manifestCheck s m bs = none → resetCheck s m = none →
        ∃ t, exec (.frontEndCommand port run) s = .next t ∧
          t.hif.fetched = s.hif.fetched ++ [{ handle := s.hif.nextHandle, origin := .frontEnd port, manifest := m, bales := bs }])

/-- TILE_TOLL_WRITE, TOLL_WINDOW_BOUNDARY, LINK_SHAPE_WRITE, PORT_ENABLE, PORT_RETRAIN_REQUEST, REG_WR, REG_RD and REG_RSP
(R363, R366, R371, R382, R384, R388): a gate's word that keeps the rules waits for the boundary of the window, any other is
discarded and logged; the boundary puts waiting words into every gate and clears what was used, at the datapath and memory gates
of a core unless its learning work goes on there; a locked or an illegal shape is not taken; EN and RETRAIN move a port that EN
holds enabled exactly when it is not DISABLED; a tile answers each register request with its offset and the value, and the
answer gives the bytes asked for to the oldest request to that tile. -/
def Obligations.GatesPortsAndTileRegisters : Prop :=
  ∀ (s : State) (mid core off : Nat) (v : Word),
    (isGateWord s core off = true →
      let g := (off - 0x400) / 16
      let x := tileGate s core g
      (0xC ≤ mid → exec (.tileTollWrite mid core off v) s =
        .next (violTile s core mid (devNo s) 0 stAccess (tileAddr core off))) ∧
      (s.glb.locked = true → mid < 0xC → mid ≠ 2 → mid ≠ 6 → exec (.tileTollWrite mid core off v) s =
        .next (violTile s core mid (devNo s) 0 stLocked (tileAddr core off))) ∧
      (mid < 0xC → s.glb.locked = false ∨ mid = 2 ∨ mid = 6 →
        (gateWriteOk s core g (off % 16 == 4) v = false → exec (.tileTollWrite mid core off v) s =
          .next (violTile s core mid (devNo s) 0 stAccess (tileAddr core off))) ∧
        (gateWriteOk s core g (off % 16 == 4) v = true → ∃ t, exec (.tileTollWrite mid core off v) s = .next t ∧
          (tileGate t core g).a = x.a ∧ (tileGate t core g).b = x.b ∧ (tileGate t core g).used = x.used ∧
          (off % 16 = 0 → (tileGate t core g).pendA = some v) ∧ (off % 16 = 4 → (tileGate t core g).pendB = some v) ∧
          t = { s with fab := { s.fab with gates := t.fab.gates } }))) ∧
    (isGateWord s core off = false → exec (.tileTollWrite mid core off v) s = .next s) ∧
    (∃ t, exec .tollWindowBoundary s = .next t ∧ t.fab.win = s.fab.win + 1 ∧ t = { s with fab := t.fab, cores := t.cores } ∧
      t.fab.hub = s.fab.hub ∧ t.fab.cmd.used = [] ∧ t.fab.cvy.used = [] ∧
      (∀ n, (getCore s n).lrn.work = none → (getCore t n).ports.dp = [] ∧ (getCore t n).ports.mem = []) ∧
      t.fab.cmd.a = s.fab.cmd.pendA.getD s.fab.cmd.a ∧ t.fab.cvy.b = s.fab.cvy.pendB.getD s.fab.cvy.b ∧
      (∀ c, c < 16 → (ddrGate t c).used = [] ∧ (ddrGate t c).a = (ddrGate s c).pendA.getD (ddrGate s c).a) ∧
      (nwf (fun k => gateReset (k % 16)) s.fab.gates = true → ∀ g, g < 9 → (tileGate t core g).used = [] ∧
        (tileGate t core g).pendA = none ∧ (tileGate t core g).a = (tileGate s core g).pendA.getD (tileGate s core g).a ∧
        (tileGate t core g).b = (tileGate s core g).pendB.getD (tileGate s core g).b)) ∧
    (mid ≤ 2 → s.glb.locked = true → exec (.linkShapeWrite mid v) s = .next (clogBar s mid 0x300000 stLocked)) ∧
    (mid ≤ 2 → s.glb.locked = false → shapeLegal v = false → exec (.linkShapeWrite mid v) s = .next (clogBar s mid 0x300000 stAccess)) ∧
    (2 < mid → exec (.linkShapeWrite mid v) s = .next (clogBar s mid 0x300000 stAccess)) ∧
    (mid ≤ 2 → s.glb.locked = false → shapeLegal v = true → ∃ t, exec (.linkShapeWrite mid v) s = .next t ∧
      t.shape = v &&& 0x1FFFFFFF ∧ t.cores = s.cores ∧ t.ports = s.ports) ∧
    (∀ p, p < 6 →
      (mid ≤ 2 → s.glb.locked = false → (getPort s p).en = false → (getPort s p).state = .disabled → fld v 31 31 = 1 →
        ∃ t, exec (.portEnable mid p v) s = .next t ∧ (getPort t p).state = .detect ∧ (getPort t p).en = true ∧
          (getPort t p).wakeEn = bit v 16 ∧ ∀ q, q ≠ p → getPort t q = getPort s q) ∧
      (mid ≤ 2 → s.glb.locked = true → bit v 15 = false → ∃ t, exec (.portEnable mid p v) s = .next t ∧
        getPort t p = { getPort s p with wakeEn := bit v 16 } ∧ t.fab = (clogBar s mid (portAddr p 0) stLocked).fab) ∧
      (2 < mid → bit v 15 = false → ∃ t, exec (.portEnable mid p v) s = .next t ∧
        getPort t p = { getPort s p with wakeEn := bit v 16 } ∧ t.fab = (clogBar s mid (portAddr p 0) stAccess).fab) ∧
      ((getPort s p).en = true → (getPort s p).state = .active →
        ∃ t, exec (.portRetrainRequest mid p) s = .next t ∧ (getPort t p).state = .retrain) ∧
      (((getPort s p).en = true ↔ (getPort s p).state ≠ .disabled) → (getPort s p).state ≠ .active →
        ∃ t, exec (.portRetrainRequest mid p) s = .next t ∧ (getPort t p).state = (getPort s p).state)) ∧
    (∀ p, 6 ≤ p → exec (.portEnable mid p v) s = .next s ∧ exec (.portRetrainRequest mid p) s = .next s) ∧
    ∀ pkt : Packet,
      let o := stamp pkt % 2 ^ 14
      let by_ := fld pkt.head 67 64
      let u := portDone s core pkt
      (∃ t, exec (.regRd core pkt) s = .next t ∧
        t = regRsp (tileReadBy u core by_ o).2 core pkt (tileReadRefused by_ o) (tileReadBy u core by_ o).1 ∧ t.rdata = s.rdata ∧ t.hif = s.hif ∧
        (tileReadRefused by_ o = false → (tileReadBy u core by_ o).1 = tileRead u core o)) ∧
      (∃ t, exec (.regWr core pkt) s = .next t ∧
        t = regRsp (tileWriteBy u core by_ o (BitVec.ofNat 32 (payload pkt))) core pkt
          (tileRefuses u core by_ o (BitVec.ofNat 32 (payload pkt))).isSome (BitVec.ofNat 32 (payload pkt)) ∧
        t.hif = s.hif ∧ t.shape = s.shape ∧ ∀ k, k ≠ core → getCore t k = getCore s k) ∧
      (s.asked.find? (fun r => r.core == srcCore pkt) = none → exec (.regRsp pkt) s = .next (hubDone s pkt)) ∧
      ∀ r, s.asked.find? (fun r => r.core == srcCore pkt) = some r → exec (.regRsp pkt) s = .next { hubDone s pkt with
        asked := s.asked.erase r, rdata := putBytes s.rdata (BitVec.ofNat 32 (payload pkt)) r.lo r.n r.at_ }

/-- R512, R513: every step keeps a legal life cycle, and moves it, if at all, by a transition that exists; so SCRAPPED is never
left. -/
def Obligations.LifeCycleMovesOnlyAsAllowed : Prop :=
  ∀ (s t : State), LifeCycleLegal s → step s = .next t →
    LifeCycleLegal t ∧ (t.nv.lcState = s.nv.lcState ∨ LifeCycleMove s.nv.lcState t.nv.lcState) ∧ (s.nv.lcState = 5 → t.nv.lcState = 5)

/-- R513, R523, R546, R549: no step lowers the rollback count, restores a revoked key slot or brings back a destroyed key epoch,
and an entry leaves the defect ledger only when all of it is cleared in RMA. -/
def Obligations.FusesAndLedgerOnlyGrow : Prop :=
  ∀ (s t : State), step s = .next t →
    s.nv.rollback.toNat ≤ t.nv.rollback.toNat ∧ s.nv.slotRevoked &&& t.nv.slotRevoked = s.nv.slotRevoked ∧
    s.nv.keyEpoch ≤ t.nv.keyEpoch ∧ t.nv.part = s.nv.part ∧ t.nv.slotValid = s.nv.slotValid ∧
    ((∀ e ∈ s.nv.ledgerA, e ∈ t.nv.ledgerA) ∧ (∀ e ∈ s.nv.ledgerB, e ∈ t.nv.ledgerB) ∨
      s.nv.lcState = 4 ∧ t = { s with pending := t.pending, nv := { s.nv with ledgerA := [], ledgerB := [] } })

/-- Every step keeps the canonical form of the cores' local data memories and leaves 0 in scalar register 0 (R259; the canonical
form is the model's own, so that equal memories are equal data). -/
def Obligations.CoresStayCanonical : Prop :=
  ∀ (s t : State), CoresCanonical s → step s = .next t → CoresCanonical t

/-- Every command, in every state, answers a next state, and no command but the step that took it touches the queue of those
that wait: first in, first out (assumption 2). -/
def Obligations.EveryCommandAnswersAndKeepsTheQueue : Prop :=
  ∀ (c : Instr) (s : State), ∃ t, exec c s = .next t ∧ t.pending = s.pending

/-- Each part ships in its life-cycle state (R2); the invariants hold right after reset, and the state is that of R448 with a
cold start to come: nothing is bound, mapped or open, the mailbox bindings are those of R475 and the registers hold the reset
values of their tables (the non-volatile state is that of a module as shipped, the model's choice, assumption 3). -/
def Obligations.ResetMeetsTheInvariants : Prop :=
  State.reset = Part.m256.reset ∧ Part.m256.reset.nv.lcState = 3 ∧ Part.m128.reset.nv.lcState = 3 ∧ Part.dk.reset.nv.lcState = 2 ∧
  ∀ p : Part,
  let s := p.reset
  s.nv.part = p ∧ LifeCycleLegal s ∧ CoresCanonical s ∧ s.pending = [] ∧ s.cores = [] ∧ s.shards = [] ∧ s.remap = [] ∧ s.convoys = [] ∧ s.ports = [] ∧
    s.shape = 0 ∧ s.boot = .coldPending ∧ s.hif.en = false ∧ s.glb.locked = false ∧ s.pwr.state = .s0 ∧ s.pwr.pl = 0 ∧
    s.pwr.capW = 0x1E0 ∧ s.pwr.throttleC = 100 ∧ s.bst.sliceUs = 200 ∧ s.sec.level = 0 ∧ s.sec.zeroised = false ∧
    s.mgmt.running = false ∧ s.sdio.ready = false ∧ s.fab.win = 0

/-- R475: a cold reset (PERST, a loss of power that a cold start repairs) and a warm reset (a lost clock, a tamper trip) set the
bindings of the sixteen mailbox channels, with nothing pending. -/
def Obligations.ResetsBindTheMailboxes : Prop :=
  ∀ s : State, s.boot ≠ .off →
    let binds (t : State) : Prop :=
      (∀ n, n < 16 → (getMbx t n).pend = 0 ∧ (getMbx t n).en = decide (n < 6) ∧ (getMbx t n).secure = decide (n < 4)) ∧
      (∀ n, 6 ≤ n → n < 16 → (getMbx t n).smid = 0 ∧ (getMbx t n).rmid = 0) ∧
      (getMbx t 0).smid = 0 ∧ (getMbx t 0).rmid = 2 ∧ (getMbx t 1).smid = 2 ∧ (getMbx t 1).rmid = 0 ∧
      (getMbx t 2).smid = 1 ∧ (getMbx t 2).rmid = 2 ∧ (getMbx t 3).smid = 2 ∧ (getMbx t 3).rmid = 1 ∧
      (getMbx t 4).smid = 1 ∧ (getMbx t 4).rmid = 3 ∧ (getMbx t 5).smid = 3 ∧ (getMbx t 5).rmid = 1
    (∃ t, exec .perst s = .next t ∧ binds t) ∧ (∃ t, exec .refclkLoss s = .next t ∧ binds t) ∧
    (∃ t, exec (.tamperTrip true false false) s = .next t ∧ binds t) ∧
    (s.sec.jtag = .extest → ∃ t, exec .extestExit s = .next t ∧ binds t) ∧
    (s.boot ≠ .coldPending → ∀ ref fs, ∃ t, exec (.coldReset ref fs) s = .next t ∧ binds t) ∧
    (s.boot ≠ .coldPending → s.boot ≠ .warmPending → ∀ c ref, ∃ t, exec (.warmReset c ref) s = .next t ∧ binds t)
end

