-- ==== Sys2Proof/Laws/Bits.lean ====
section
/-! SUPPORT. The laws of bit fields: a field that was written is read back, and a field apart from it is as before. -/

namespace Sys2Proof.Machine

variable {n : Nat}

/-- A bit of a field. -/
theorem testBit_fld (x : BitVec n) (hi lo i : Nat) : (fld x hi lo).testBit i = (decide (i < hi + 1 - lo) && x.getLsbD (lo + i)) := by
  rw [fld, Nat.testBit_mod_two_pow, Nat.testBit_div_two_pow, Nat.add_comm i lo]; rfl

/-- A bit of a value with a field written. -/
theorem getLsbD_setFld (x : BitVec n) (hi lo v i : Nat) :
    (setFld x hi lo v).getLsbD i =
      if lo ≤ i ∧ i < hi + 1 ∧ i < n then v.testBit (i - lo) else x.getLsbD i := by
  unfold setFld
  rw [BitVec.getLsbD_or, BitVec.getLsbD_and, BitVec.getLsbD_not, BitVec.getLsbD_ofNat, BitVec.getLsbD_ofNat,
    Nat.testBit_mul_two_pow, Nat.testBit_mul_two_pow, Nat.testBit_two_pow_sub_one, Nat.testBit_mod_two_pow]
  by_cases hn : i < n
  · by_cases h1 : lo ≤ i
    · by_cases h2 : i < hi + 1
      · have h3 : i - lo < hi + 1 - lo := by omega
        simp [hn, h1, h2, h3]
      · have h3 : ¬ i - lo < hi + 1 - lo := by omega
        simp [hn, h1, h2, h3]
    · simp [hn, h1]
  · have : x.getLsbD i = false := BitVec.getLsbD_of_ge x i (by omega)
    simp [hn, this]

/-- A written field is read back. -/
theorem fld_setFld_same (x : BitVec n) (hi lo v : Nat) (h : hi < n) : fld (setFld x hi lo v) hi lo = v % 2 ^ (hi + 1 - lo) := by
  apply Nat.eq_of_testBit_eq
  intro i
  rw [testBit_fld, getLsbD_setFld, Nat.testBit_mod_two_pow]
  by_cases hi' : i < hi + 1 - lo
  · have h1 : lo + i < hi + 1 := by omega
    have h2 : lo + i < n := by omega
    simp [hi', h1, h2]
  · simp [hi']

/-- A field apart from the written one is as before. -/
theorem fld_setFld_other (x : BitVec n) (hi lo v h l : Nat) (hd : hi < l ∨ h < lo) : fld (setFld x hi lo v) h l = fld x h l := by
  apply Nat.eq_of_testBit_eq
  intro i
  rw [testBit_fld, testBit_fld, getLsbD_setFld]
  by_cases hi' : i < h + 1 - l
  · have : ¬ (lo ≤ l + i ∧ l + i < hi + 1 ∧ l + i < n) := by omega
    rw [if_neg this]
  · simp [hi']

end Sys2Proof.Machine
end

