-- ==== Sys2Proof/Laws/Maps.lean ====
section
/-! SUPPORT. The laws of the sparse maps and byte memories: reading back what was written, and the canonical form, which every
operation keeps. -/

namespace Sys2Proof.Machine

/-- The empty map is canonical. -/
theorem nwf_nil {α : Type} [DecidableEq α] (d : Nat → α) : nwf d ([] : NMap α) = true := by simp [nwf]

/-- When a map with a first entry is canonical. -/
theorem nwf_cons {α : Type} [DecidableEq α] (d : Nat → α) (k : Nat) (v : α) (m : NMap α) :
    nwf d ((k, v) :: m) = true ↔ (∀ p ∈ m, k < p.1) ∧ v ≠ d k ∧ nwf d m = true := by
  simp [nwf, List.pairwise_cons]; tauto

/-- Leaving out a key keeps the canonical form. -/
theorem nwf_nerase {α : Type} [DecidableEq α] (d : Nat → α) (k : Nat) (m : NMap α) (h : nwf d m = true) :
    nwf d (nerase k m) = true := by
  induction m with
  | nil => simpa [nerase] using h
  | cons a m ih =>
    obtain ⟨k', v⟩ := a
    rw [nwf_cons] at h
    by_cases hk : k' = k
    · simpa [nerase, hk] using ih h.2.2
    · have := ih h.2.2
      simp only [nerase, ne_eq, List.filter_cons, hk, not_false_eq_true, decide_true, if_true] at *
      rw [nwf_cons]
      exact ⟨fun p hp => h.1 p (List.mem_of_mem_filter hp), h.2.1, this⟩

/-- The entries of a map after one was put in. -/
theorem mem_nput {α : Type} (k : Nat) (v : α) (m : NMap α) (p : Nat × α) : p ∈ nput k v m ↔ p = (k, v) ∨ p ∈ m := by
  induction m with
  | nil => simp [nput]
  | cons a m ih =>
    obtain ⟨k', v'⟩ := a
    by_cases hk : k < k'
    · simp [nput, hk]
    · simp [nput, hk, ih]; tauto

/-- Putting in a new key keeps the canonical form. -/
theorem nwf_nput {α : Type} [DecidableEq α] (d : Nat → α) (k : Nat) (v : α) (m : NMap α) (h : nwf d m = true)
    (hk : ∀ p ∈ m, p.1 ≠ k) (hv : v ≠ d k) : nwf d (nput k v m) = true := by
  induction m with
  | nil => simp [nput, nwf, hv]
  | cons a m ih =>
    obtain ⟨k', v'⟩ := a
    rw [nwf_cons] at h
    have hne : k' ≠ k := hk (k', v') (by simp)
    by_cases hlt : k < k'
    · simp only [nput, hlt, if_true]
      rw [nwf_cons, nwf_cons]
      refine ⟨?_, hv, h⟩
      intro p hp
      rcases List.mem_cons.1 hp with rfl | hp
      · exact hlt
      · exact lt_trans hlt (h.1 p hp)
    · simp only [nput, hlt, if_false]
      rw [nwf_cons]
      refine ⟨?_, h.2.1, ih h.2.2 fun p hp => hk p (by simp [hp])⟩
      intro p hp
      rcases (mem_nput _ _ _ _).1 hp with rfl | hp
      · simp; omega
      · exact h.1 p hp

/-- The entries of a map without a key. -/
theorem mem_nerase {α : Type} (k : Nat) (m : NMap α) (p : Nat × α) : p ∈ nerase k m ↔ p ∈ m ∧ p.1 ≠ k := by simp [nerase]

/-- Writing a map keeps the canonical form. -/
@[simp] theorem nwf_nset {α : Type} [DecidableEq α] (d : α) (m : NMap α) (k : Nat) (v : α) (h : nwf (fun _ => d) m = true) :
    nwf (fun _ => d) (nset d m k v) = true := by
  unfold nset
  split
  · exact nwf_nerase _ _ _ h
  · rename_i hv
    exact nwf_nput _ _ _ _ (nwf_nerase _ _ _ h) (fun p hp => ((mem_nerase _ _ _).1 hp).2) hv

/-- The entries of a written map. -/
theorem mem_nset {α : Type} [DecidableEq α] (d : α) (m : NMap α) (k : Nat) (v : α) (p : Nat × α) (h : p ∈ nset d m k v) :
    p = (k, v) ∨ p ∈ m := by
  unfold nset at h
  split at h
  · exact .inr ((mem_nerase _ _ _).1 h).1
  · rcases (mem_nput _ _ _ _).1 h with h | h
    · exact .inl h
    · exact .inr ((mem_nerase _ _ _).1 h).1

/-- Writing consecutive keys keeps the canonical form. -/
@[simp] theorem nwf_nsetList {α : Type} [DecidableEq α] (d : α) (vs : List α) (m : NMap α) (k : Nat)
    (h : nwf (fun _ => d) m = true) : nwf (fun _ => d) (nsetList d m k vs) = true := by
  induction vs generalizing m k with
  | nil => exact h
  | cons v vs ih => exact ih _ _ (nwf_nset _ _ _ _ h)

/-- Reading a map without a key. -/
theorem nget_nerase {α : Type} (d : α) (m : NMap α) (k a : Nat) : nget d (nerase k m) a = if a = k then d else nget d m a := by
  induction m with
  | nil => simp [nerase, nget]
  | cons x m ih =>
    obtain ⟨k', v⟩ := x
    by_cases hk : k' = k
    · have : nerase k ((k', v) :: m) = nerase k m := by simp [nerase, hk]
      rw [this, ih]
      by_cases ha : a = k
      · simp [ha]
      · have : ¬ k' = a := by omega
        simp [ha, nget, this]
    · have : nerase k ((k', v) :: m) = (k', v) :: nerase k m := by simp [nerase, hk]
      rw [this]
      by_cases ha : k' = a
      · have : ¬ a = k := by omega
        simp [nget, ha, this]
      · simp [nget, ha, ih]

/-- Reading a map after a new key was put in. -/
theorem nget_nput {α : Type} (d : α) (m : NMap α) (k : Nat) (v : α) (a : Nat) (hk : ∀ p ∈ m, p.1 ≠ k) :
    nget d (nput k v m) a = if a = k then v else nget d m a := by
  induction m with
  | nil => by_cases h : k = a <;> simp [nput, nget, h, eq_comm]
  | cons x m ih =>
    obtain ⟨k', v'⟩ := x
    have hne : k' ≠ k := hk (k', v') (by simp)
    by_cases hlt : k < k'
    · by_cases ha : a = k
      · simp [nput, hlt, nget, ha]
      · have : ¬ k = a := by omega
        simp [nput, hlt, nget, ha, this]
    · by_cases ha : k' = a
      · subst ha
        have : ¬ k' = k := hne
        simp [nput, hlt, nget, this]
      · simp [nput, hlt, nget, ha, ih fun p hp => hk p (by simp [hp])]

/-- In a canonical map an entry is what its key reads as. -/
theorem nget_of_mem {α : Type} [DecidableEq α] (d : α) (m : NMap α) (h : nwf (fun _ => d) m = true) (p : Nat × α) (hp : p ∈ m) :
    nget d m p.1 = p.2 := by
  induction m with
  | nil => cases hp
  | cons a m ih =>
    obtain ⟨k, v⟩ := a
    rw [nwf_cons] at h
    rcases List.mem_cons.1 hp with rfl | hp
    · simp [nget]
    · have := h.1 p hp
      rw [nget, if_neg (by omega), ih h.2.2 hp]

/-- The keys of a canonical map differ. -/
theorem nodup_keys {α : Type} [DecidableEq α] (d : Nat → α) (m : NMap α) (h : nwf d m = true) : (m.map Prod.fst).Nodup := by
  simp only [nwf, Bool.and_eq_true, decide_eq_true_eq] at h
  exact h.1.imp fun h => by omega

/-- A map write read back: the value at its own key, every other key as before. -/
@[simp] theorem nget_nset {α : Type} [DecidableEq α] (d : α) (m : NMap α) (k : Nat) (v : α) (a : Nat) :
    nget d (nset d m k v) a = if a = k then v else nget d m a := by
  unfold nset
  split
  · rename_i hv; rw [nget_nerase]; split <;> simp [hv]
  · rw [nget_nput _ _ _ _ _ (fun p hp => ((mem_nerase _ _ _).1 hp).2), nget_nerase]; split <;> simp

/-- What a key reads as is the default or an entry. -/
theorem nget_mem {α : Type} (d : α) (m : NMap α) (k : Nat) : nget d m k = d ∨ (k, nget d m k) ∈ m := by
  induction m with
  | nil => simp [nget]
  | cons x m ih =>
    obtain ⟨k', v⟩ := x
    by_cases h : k' = k
    · simp [nget, h]
    · simp only [nget, h, if_false]; rcases ih with ih | ih
      · exact .inl ih
      · exact .inr (by simp [ih])

/-- Leaving out entries keeps the canonical form. -/
theorem nwf_filter {α : Type} [DecidableEq α] (d : Nat → α) (m : NMap α) (p : Nat × α → Bool) (h : nwf d m = true) :
    nwf d (m.filter p) = true := by
  induction m with
  | nil => exact h
  | cons a m ih =>
    obtain ⟨k, v⟩ := a
    rw [nwf_cons] at h
    have := ih h.2.2
    by_cases hp : p (k, v) = true
    · rw [List.filter_cons_of_pos hp, nwf_cons]
      exact ⟨fun q hq => h.1 q (List.mem_of_mem_filter hq), h.2.1, this⟩
    · rw [List.filter_cons_of_neg hp]; exact this

/-- A store to a byte memory keeps the canonical form. -/
theorem nwf_memSet (m : List Host.Cell) (a n v : Nat) (h : nwf (fun _ => (0 : Byte)) m = true) :
    nwf (fun _ => (0 : Byte)) (memSet m a n v) = true := nwf_nsetList _ _ _ _ h

/-- The memory of every core after reset is canonical. -/
theorem reset_memory_canonical (n : Nat) : nwf (fun _ => (0 : Byte)) (getCore State.reset n).ldm = true := rfl

end Sys2Proof.Machine
end

