-- ==== Sys2Proof/Laws/State.lean ====
section
/-! SUPPORT. One lemma for each part of the state and each update of a part: what the update leaves is read as before, what
it writes is read back. -/

namespace Sys2Proof.Machine

variable (s : State) (n k : Nat)

/-! ### `setCore` -/

@[simp] theorem setCore_nv (x : Core) : (setCore s n x).nv = s.nv := rfl
@[simp] theorem setCore_remap (x : Core) : (setCore s n x).remap = s.remap := rfl
@[simp] theorem setCore_glb (x : Core) : (setCore s n x).glb = s.glb := rfl
@[simp] theorem setCore_hif (x : Core) : (setCore s n x).hif = s.hif := rfl
@[simp] theorem setCore_sdio (x : Core) : (setCore s n x).sdio = s.sdio := rfl
@[simp] theorem setCore_mgmt (x : Core) : (setCore s n x).mgmt = s.mgmt := rfl
@[simp] theorem setCore_mbx (x : Core) : (setCore s n x).mbx = s.mbx := rfl
@[simp] theorem setCore_tmr (x : Core) : (setCore s n x).tmr = s.tmr := rfl
@[simp] theorem setCore_pwr (x : Core) : (setCore s n x).pwr = s.pwr := rfl
@[simp] theorem setCore_sec (x : Core) : (setCore s n x).sec = s.sec := rfl
@[simp] theorem setCore_bst (x : Core) : (setCore s n x).bst = s.bst := rfl
@[simp] theorem setCore_fab (x : Core) : (setCore s n x).fab = s.fab := rfl
@[simp] theorem setCore_shape (x : Core) : (setCore s n x).shape = s.shape := rfl
@[simp] theorem setCore_ports (x : Core) : (setCore s n x).ports = s.ports := rfl
@[simp] theorem setCore_dep (x : Core) : (setCore s n x).dep = s.dep := rfl
@[simp] theorem setCore_ingest (x : Core) : (setCore s n x).ingest = s.ingest := rfl
@[simp] theorem setCore_results (x : Core) : (setCore s n x).results = s.results := rfl
@[simp] theorem setCore_convoys (x : Core) : (setCore s n x).convoys = s.convoys := rfl
@[simp] theorem setCore_hubCvy (x : Core) : (setCore s n x).hubCvy = s.hubCvy := rfl
@[simp] theorem setCore_shards (x : Core) : (setCore s n x).shards = s.shards := rfl
@[simp] theorem setCore_boot (x : Core) : (setCore s n x).boot = s.boot := rfl
@[simp] theorem setCore_ddrDone (x : Core) : (setCore s n x).ddrDone = s.ddrDone := rfl
@[simp] theorem setCore_asked (x : Core) : (setCore s n x).asked = s.asked := rfl
@[simp] theorem setCore_free (x : Core) : (setCore s n x).free = s.free := rfl
@[simp] theorem setCore_rdata (x : Core) : (setCore s n x).rdata = s.rdata := rfl
@[simp] theorem setCore_pending (x : Core) : (setCore s n x).pending = s.pending := rfl

/-- What `setCore` wrote is read back; the others are as before. -/
@[simp] theorem getCore_setCore (x : Core) : getCore (setCore s n x) k = if k = n then x else getCore s k := nget_nset _ _ _ _ _
@[simp] theorem getShard_setCore (x : Core) : getShard (setCore s n x) k = getShard s k := rfl
@[simp] theorem getPort_setCore (x : Core) : getPort (setCore s n x) k = getPort s k := rfl
@[simp] theorem getSq_setCore (x : Core) : getSq (setCore s n x) k = getSq s k := rfl
@[simp] theorem getCq_setCore (x : Core) : getCq (setCore s n x) k = getCq s k := rfl
@[simp] theorem getIn_setCore (x : Core) : getIn (setCore s n x) k = getIn s k := rfl
@[simp] theorem getRes_setCore (x : Core) : getRes (setCore s n x) k = getRes s k := rfl
@[simp] theorem getTmr_setCore (x : Core) : getTmr (setCore s n x) k = getTmr s k := rfl
@[simp] theorem getMbx_setCore (x : Core) : getMbx (setCore s n x) k = getMbx s k := rfl

/-! ### `setShard` -/

@[simp] theorem setShard_nv (x : Shard) : (setShard s n x).nv = s.nv := rfl
@[simp] theorem setShard_remap (x : Shard) : (setShard s n x).remap = s.remap := rfl
@[simp] theorem setShard_glb (x : Shard) : (setShard s n x).glb = s.glb := rfl
@[simp] theorem setShard_hif (x : Shard) : (setShard s n x).hif = s.hif := rfl
@[simp] theorem setShard_sdio (x : Shard) : (setShard s n x).sdio = s.sdio := rfl
@[simp] theorem setShard_mgmt (x : Shard) : (setShard s n x).mgmt = s.mgmt := rfl
@[simp] theorem setShard_mbx (x : Shard) : (setShard s n x).mbx = s.mbx := rfl
@[simp] theorem setShard_tmr (x : Shard) : (setShard s n x).tmr = s.tmr := rfl
@[simp] theorem setShard_pwr (x : Shard) : (setShard s n x).pwr = s.pwr := rfl
@[simp] theorem setShard_sec (x : Shard) : (setShard s n x).sec = s.sec := rfl
@[simp] theorem setShard_bst (x : Shard) : (setShard s n x).bst = s.bst := rfl
@[simp] theorem setShard_fab (x : Shard) : (setShard s n x).fab = s.fab := rfl
@[simp] theorem setShard_shape (x : Shard) : (setShard s n x).shape = s.shape := rfl
@[simp] theorem setShard_ports (x : Shard) : (setShard s n x).ports = s.ports := rfl
@[simp] theorem setShard_dep (x : Shard) : (setShard s n x).dep = s.dep := rfl
@[simp] theorem setShard_ingest (x : Shard) : (setShard s n x).ingest = s.ingest := rfl
@[simp] theorem setShard_results (x : Shard) : (setShard s n x).results = s.results := rfl
@[simp] theorem setShard_convoys (x : Shard) : (setShard s n x).convoys = s.convoys := rfl
@[simp] theorem setShard_hubCvy (x : Shard) : (setShard s n x).hubCvy = s.hubCvy := rfl
@[simp] theorem setShard_cores (x : Shard) : (setShard s n x).cores = s.cores := rfl
@[simp] theorem setShard_boot (x : Shard) : (setShard s n x).boot = s.boot := rfl
@[simp] theorem setShard_ddrDone (x : Shard) : (setShard s n x).ddrDone = s.ddrDone := rfl
@[simp] theorem setShard_asked (x : Shard) : (setShard s n x).asked = s.asked := rfl
@[simp] theorem setShard_free (x : Shard) : (setShard s n x).free = s.free := rfl
@[simp] theorem setShard_rdata (x : Shard) : (setShard s n x).rdata = s.rdata := rfl
@[simp] theorem setShard_pending (x : Shard) : (setShard s n x).pending = s.pending := rfl

/-- What `setShard` wrote is read back; the others are as before. -/
@[simp] theorem getShard_setShard (x : Shard) : getShard (setShard s n x) k = if k = n then x else getShard s k := nget_nset _ _ _ _ _
@[simp] theorem getCore_setShard (x : Shard) : getCore (setShard s n x) k = getCore s k := rfl
@[simp] theorem getPort_setShard (x : Shard) : getPort (setShard s n x) k = getPort s k := rfl
@[simp] theorem getSq_setShard (x : Shard) : getSq (setShard s n x) k = getSq s k := rfl
@[simp] theorem getCq_setShard (x : Shard) : getCq (setShard s n x) k = getCq s k := rfl
@[simp] theorem getIn_setShard (x : Shard) : getIn (setShard s n x) k = getIn s k := rfl
@[simp] theorem getRes_setShard (x : Shard) : getRes (setShard s n x) k = getRes s k := rfl
@[simp] theorem getTmr_setShard (x : Shard) : getTmr (setShard s n x) k = getTmr s k := rfl
@[simp] theorem getMbx_setShard (x : Shard) : getMbx (setShard s n x) k = getMbx s k := rfl

/-! ### `setPort` -/

@[simp] theorem setPort_nv (x : Port) : (setPort s n x).nv = s.nv := rfl
@[simp] theorem setPort_remap (x : Port) : (setPort s n x).remap = s.remap := rfl
@[simp] theorem setPort_glb (x : Port) : (setPort s n x).glb = s.glb := rfl
@[simp] theorem setPort_hif (x : Port) : (setPort s n x).hif = s.hif := rfl
@[simp] theorem setPort_sdio (x : Port) : (setPort s n x).sdio = s.sdio := rfl
@[simp] theorem setPort_mgmt (x : Port) : (setPort s n x).mgmt = s.mgmt := rfl
@[simp] theorem setPort_mbx (x : Port) : (setPort s n x).mbx = s.mbx := rfl
@[simp] theorem setPort_tmr (x : Port) : (setPort s n x).tmr = s.tmr := rfl
@[simp] theorem setPort_pwr (x : Port) : (setPort s n x).pwr = s.pwr := rfl
@[simp] theorem setPort_sec (x : Port) : (setPort s n x).sec = s.sec := rfl
@[simp] theorem setPort_bst (x : Port) : (setPort s n x).bst = s.bst := rfl
@[simp] theorem setPort_fab (x : Port) : (setPort s n x).fab = s.fab := rfl
@[simp] theorem setPort_shape (x : Port) : (setPort s n x).shape = s.shape := rfl
@[simp] theorem setPort_dep (x : Port) : (setPort s n x).dep = s.dep := rfl
@[simp] theorem setPort_ingest (x : Port) : (setPort s n x).ingest = s.ingest := rfl
@[simp] theorem setPort_results (x : Port) : (setPort s n x).results = s.results := rfl
@[simp] theorem setPort_convoys (x : Port) : (setPort s n x).convoys = s.convoys := rfl
@[simp] theorem setPort_hubCvy (x : Port) : (setPort s n x).hubCvy = s.hubCvy := rfl
@[simp] theorem setPort_shards (x : Port) : (setPort s n x).shards = s.shards := rfl
@[simp] theorem setPort_cores (x : Port) : (setPort s n x).cores = s.cores := rfl
@[simp] theorem setPort_boot (x : Port) : (setPort s n x).boot = s.boot := rfl
@[simp] theorem setPort_ddrDone (x : Port) : (setPort s n x).ddrDone = s.ddrDone := rfl
@[simp] theorem setPort_asked (x : Port) : (setPort s n x).asked = s.asked := rfl
@[simp] theorem setPort_free (x : Port) : (setPort s n x).free = s.free := rfl
@[simp] theorem setPort_rdata (x : Port) : (setPort s n x).rdata = s.rdata := rfl
@[simp] theorem setPort_pending (x : Port) : (setPort s n x).pending = s.pending := rfl

/-- What `setPort` wrote is read back; the others are as before. -/
@[simp] theorem getPort_setPort (x : Port) : getPort (setPort s n x) k = if k = n then x else getPort s k := nget_nset _ _ _ _ _
@[simp] theorem getCore_setPort (x : Port) : getCore (setPort s n x) k = getCore s k := rfl
@[simp] theorem getShard_setPort (x : Port) : getShard (setPort s n x) k = getShard s k := rfl
@[simp] theorem getSq_setPort (x : Port) : getSq (setPort s n x) k = getSq s k := rfl
@[simp] theorem getCq_setPort (x : Port) : getCq (setPort s n x) k = getCq s k := rfl
@[simp] theorem getIn_setPort (x : Port) : getIn (setPort s n x) k = getIn s k := rfl
@[simp] theorem getRes_setPort (x : Port) : getRes (setPort s n x) k = getRes s k := rfl
@[simp] theorem getTmr_setPort (x : Port) : getTmr (setPort s n x) k = getTmr s k := rfl
@[simp] theorem getMbx_setPort (x : Port) : getMbx (setPort s n x) k = getMbx s k := rfl

/-! ### `setSq` -/

@[simp] theorem setSq_nv (x : SqRegs) : (setSq s n x).nv = s.nv := rfl
@[simp] theorem setSq_remap (x : SqRegs) : (setSq s n x).remap = s.remap := rfl
@[simp] theorem setSq_glb (x : SqRegs) : (setSq s n x).glb = s.glb := rfl
@[simp] theorem setSq_sdio (x : SqRegs) : (setSq s n x).sdio = s.sdio := rfl
@[simp] theorem setSq_mgmt (x : SqRegs) : (setSq s n x).mgmt = s.mgmt := rfl
@[simp] theorem setSq_mbx (x : SqRegs) : (setSq s n x).mbx = s.mbx := rfl
@[simp] theorem setSq_tmr (x : SqRegs) : (setSq s n x).tmr = s.tmr := rfl
@[simp] theorem setSq_pwr (x : SqRegs) : (setSq s n x).pwr = s.pwr := rfl
@[simp] theorem setSq_sec (x : SqRegs) : (setSq s n x).sec = s.sec := rfl
@[simp] theorem setSq_bst (x : SqRegs) : (setSq s n x).bst = s.bst := rfl
@[simp] theorem setSq_fab (x : SqRegs) : (setSq s n x).fab = s.fab := rfl
@[simp] theorem setSq_shape (x : SqRegs) : (setSq s n x).shape = s.shape := rfl
@[simp] theorem setSq_ports (x : SqRegs) : (setSq s n x).ports = s.ports := rfl
@[simp] theorem setSq_dep (x : SqRegs) : (setSq s n x).dep = s.dep := rfl
@[simp] theorem setSq_ingest (x : SqRegs) : (setSq s n x).ingest = s.ingest := rfl
@[simp] theorem setSq_results (x : SqRegs) : (setSq s n x).results = s.results := rfl
@[simp] theorem setSq_convoys (x : SqRegs) : (setSq s n x).convoys = s.convoys := rfl
@[simp] theorem setSq_hubCvy (x : SqRegs) : (setSq s n x).hubCvy = s.hubCvy := rfl
@[simp] theorem setSq_shards (x : SqRegs) : (setSq s n x).shards = s.shards := rfl
@[simp] theorem setSq_cores (x : SqRegs) : (setSq s n x).cores = s.cores := rfl
@[simp] theorem setSq_boot (x : SqRegs) : (setSq s n x).boot = s.boot := rfl
@[simp] theorem setSq_ddrDone (x : SqRegs) : (setSq s n x).ddrDone = s.ddrDone := rfl
@[simp] theorem setSq_asked (x : SqRegs) : (setSq s n x).asked = s.asked := rfl
@[simp] theorem setSq_free (x : SqRegs) : (setSq s n x).free = s.free := rfl
@[simp] theorem setSq_rdata (x : SqRegs) : (setSq s n x).rdata = s.rdata := rfl
@[simp] theorem setSq_pending (x : SqRegs) : (setSq s n x).pending = s.pending := rfl
@[simp] theorem setSq_hif_en (x : SqRegs) : (setSq s n x).hif.en = s.hif.en := rfl
@[simp] theorem setSq_hif_cqs (x : SqRegs) : (setSq s n x).hif.cqs = s.hif.cqs := rfl
@[simp] theorem setSq_hif_rr (x : SqRegs) : (setSq s n x).hif.rr = s.hif.rr := rfl
@[simp] theorem setSq_hif_fetched (x : SqRegs) : (setSq s n x).hif.fetched = s.hif.fetched := rfl
@[simp] theorem setSq_hif_nextHandle (x : SqRegs) : (setSq s n x).hif.nextHandle = s.hif.nextHandle := rfl
@[simp] theorem setSq_hif_written (x : SqRegs) : (setSq s n x).hif.written = s.hif.written := rfl
@[simp] theorem setSq_hif_msix (x : SqRegs) : (setSq s n x).hif.msix = s.hif.msix := rfl
@[simp] theorem setSq_hif_msixTable (x : SqRegs) : (setSq s n x).hif.msixTable = s.hif.msixTable := rfl

/-- What `setSq` wrote is read back; the others are as before. -/
@[simp] theorem getSq_setSq (x : SqRegs) : getSq (setSq s n x) k = if k = n then x else getSq s k := nget_nset _ _ _ _ _
@[simp] theorem getCore_setSq (x : SqRegs) : getCore (setSq s n x) k = getCore s k := rfl
@[simp] theorem getShard_setSq (x : SqRegs) : getShard (setSq s n x) k = getShard s k := rfl
@[simp] theorem getPort_setSq (x : SqRegs) : getPort (setSq s n x) k = getPort s k := rfl
@[simp] theorem getCq_setSq (x : SqRegs) : getCq (setSq s n x) k = getCq s k := rfl
@[simp] theorem getIn_setSq (x : SqRegs) : getIn (setSq s n x) k = getIn s k := rfl
@[simp] theorem getRes_setSq (x : SqRegs) : getRes (setSq s n x) k = getRes s k := rfl
@[simp] theorem getTmr_setSq (x : SqRegs) : getTmr (setSq s n x) k = getTmr s k := rfl
@[simp] theorem getMbx_setSq (x : SqRegs) : getMbx (setSq s n x) k = getMbx s k := rfl

/-! ### `setCq` -/

@[simp] theorem setCq_nv (x : CqRegs) : (setCq s n x).nv = s.nv := rfl
@[simp] theorem setCq_remap (x : CqRegs) : (setCq s n x).remap = s.remap := rfl
@[simp] theorem setCq_glb (x : CqRegs) : (setCq s n x).glb = s.glb := rfl
@[simp] theorem setCq_sdio (x : CqRegs) : (setCq s n x).sdio = s.sdio := rfl
@[simp] theorem setCq_mgmt (x : CqRegs) : (setCq s n x).mgmt = s.mgmt := rfl
@[simp] theorem setCq_mbx (x : CqRegs) : (setCq s n x).mbx = s.mbx := rfl
@[simp] theorem setCq_tmr (x : CqRegs) : (setCq s n x).tmr = s.tmr := rfl
@[simp] theorem setCq_pwr (x : CqRegs) : (setCq s n x).pwr = s.pwr := rfl
@[simp] theorem setCq_sec (x : CqRegs) : (setCq s n x).sec = s.sec := rfl
@[simp] theorem setCq_bst (x : CqRegs) : (setCq s n x).bst = s.bst := rfl
@[simp] theorem setCq_fab (x : CqRegs) : (setCq s n x).fab = s.fab := rfl
@[simp] theorem setCq_shape (x : CqRegs) : (setCq s n x).shape = s.shape := rfl
@[simp] theorem setCq_ports (x : CqRegs) : (setCq s n x).ports = s.ports := rfl
@[simp] theorem setCq_dep (x : CqRegs) : (setCq s n x).dep = s.dep := rfl
@[simp] theorem setCq_ingest (x : CqRegs) : (setCq s n x).ingest = s.ingest := rfl
@[simp] theorem setCq_results (x : CqRegs) : (setCq s n x).results = s.results := rfl
@[simp] theorem setCq_convoys (x : CqRegs) : (setCq s n x).convoys = s.convoys := rfl
@[simp] theorem setCq_hubCvy (x : CqRegs) : (setCq s n x).hubCvy = s.hubCvy := rfl
@[simp] theorem setCq_shards (x : CqRegs) : (setCq s n x).shards = s.shards := rfl
@[simp] theorem setCq_cores (x : CqRegs) : (setCq s n x).cores = s.cores := rfl
@[simp] theorem setCq_boot (x : CqRegs) : (setCq s n x).boot = s.boot := rfl
@[simp] theorem setCq_ddrDone (x : CqRegs) : (setCq s n x).ddrDone = s.ddrDone := rfl
@[simp] theorem setCq_asked (x : CqRegs) : (setCq s n x).asked = s.asked := rfl
@[simp] theorem setCq_free (x : CqRegs) : (setCq s n x).free = s.free := rfl
@[simp] theorem setCq_rdata (x : CqRegs) : (setCq s n x).rdata = s.rdata := rfl
@[simp] theorem setCq_pending (x : CqRegs) : (setCq s n x).pending = s.pending := rfl
@[simp] theorem setCq_hif_en (x : CqRegs) : (setCq s n x).hif.en = s.hif.en := rfl
@[simp] theorem setCq_hif_sqs (x : CqRegs) : (setCq s n x).hif.sqs = s.hif.sqs := rfl
@[simp] theorem setCq_hif_rr (x : CqRegs) : (setCq s n x).hif.rr = s.hif.rr := rfl
@[simp] theorem setCq_hif_fetched (x : CqRegs) : (setCq s n x).hif.fetched = s.hif.fetched := rfl
@[simp] theorem setCq_hif_nextHandle (x : CqRegs) : (setCq s n x).hif.nextHandle = s.hif.nextHandle := rfl
@[simp] theorem setCq_hif_written (x : CqRegs) : (setCq s n x).hif.written = s.hif.written := rfl
@[simp] theorem setCq_hif_msix (x : CqRegs) : (setCq s n x).hif.msix = s.hif.msix := rfl
@[simp] theorem setCq_hif_msixTable (x : CqRegs) : (setCq s n x).hif.msixTable = s.hif.msixTable := rfl

/-- What `setCq` wrote is read back; the others are as before. -/
@[simp] theorem getCq_setCq (x : CqRegs) : getCq (setCq s n x) k = if k = n then x else getCq s k := nget_nset _ _ _ _ _
@[simp] theorem getCore_setCq (x : CqRegs) : getCore (setCq s n x) k = getCore s k := rfl
@[simp] theorem getShard_setCq (x : CqRegs) : getShard (setCq s n x) k = getShard s k := rfl
@[simp] theorem getPort_setCq (x : CqRegs) : getPort (setCq s n x) k = getPort s k := rfl
@[simp] theorem getSq_setCq (x : CqRegs) : getSq (setCq s n x) k = getSq s k := rfl
@[simp] theorem getIn_setCq (x : CqRegs) : getIn (setCq s n x) k = getIn s k := rfl
@[simp] theorem getRes_setCq (x : CqRegs) : getRes (setCq s n x) k = getRes s k := rfl
@[simp] theorem getTmr_setCq (x : CqRegs) : getTmr (setCq s n x) k = getTmr s k := rfl
@[simp] theorem getMbx_setCq (x : CqRegs) : getMbx (setCq s n x) k = getMbx s k := rfl

/-! ### `setIn` -/

@[simp] theorem setIn_nv (x : Ingest) : (setIn s n x).nv = s.nv := rfl
@[simp] theorem setIn_remap (x : Ingest) : (setIn s n x).remap = s.remap := rfl
@[simp] theorem setIn_glb (x : Ingest) : (setIn s n x).glb = s.glb := rfl
@[simp] theorem setIn_hif (x : Ingest) : (setIn s n x).hif = s.hif := rfl
@[simp] theorem setIn_sdio (x : Ingest) : (setIn s n x).sdio = s.sdio := rfl
@[simp] theorem setIn_mgmt (x : Ingest) : (setIn s n x).mgmt = s.mgmt := rfl
@[simp] theorem setIn_mbx (x : Ingest) : (setIn s n x).mbx = s.mbx := rfl
@[simp] theorem setIn_tmr (x : Ingest) : (setIn s n x).tmr = s.tmr := rfl
@[simp] theorem setIn_pwr (x : Ingest) : (setIn s n x).pwr = s.pwr := rfl
@[simp] theorem setIn_sec (x : Ingest) : (setIn s n x).sec = s.sec := rfl
@[simp] theorem setIn_bst (x : Ingest) : (setIn s n x).bst = s.bst := rfl
@[simp] theorem setIn_fab (x : Ingest) : (setIn s n x).fab = s.fab := rfl
@[simp] theorem setIn_shape (x : Ingest) : (setIn s n x).shape = s.shape := rfl
@[simp] theorem setIn_ports (x : Ingest) : (setIn s n x).ports = s.ports := rfl
@[simp] theorem setIn_dep (x : Ingest) : (setIn s n x).dep = s.dep := rfl
@[simp] theorem setIn_results (x : Ingest) : (setIn s n x).results = s.results := rfl
@[simp] theorem setIn_convoys (x : Ingest) : (setIn s n x).convoys = s.convoys := rfl
@[simp] theorem setIn_hubCvy (x : Ingest) : (setIn s n x).hubCvy = s.hubCvy := rfl
@[simp] theorem setIn_shards (x : Ingest) : (setIn s n x).shards = s.shards := rfl
@[simp] theorem setIn_cores (x : Ingest) : (setIn s n x).cores = s.cores := rfl
@[simp] theorem setIn_boot (x : Ingest) : (setIn s n x).boot = s.boot := rfl
@[simp] theorem setIn_ddrDone (x : Ingest) : (setIn s n x).ddrDone = s.ddrDone := rfl
@[simp] theorem setIn_asked (x : Ingest) : (setIn s n x).asked = s.asked := rfl
@[simp] theorem setIn_free (x : Ingest) : (setIn s n x).free = s.free := rfl
@[simp] theorem setIn_rdata (x : Ingest) : (setIn s n x).rdata = s.rdata := rfl
@[simp] theorem setIn_pending (x : Ingest) : (setIn s n x).pending = s.pending := rfl

/-- What `setIn` wrote is read back; the others are as before. -/
@[simp] theorem getIn_setIn (x : Ingest) : getIn (setIn s n x) k = if k = n then x else getIn s k := nget_nset _ _ _ _ _
@[simp] theorem getCore_setIn (x : Ingest) : getCore (setIn s n x) k = getCore s k := rfl
@[simp] theorem getShard_setIn (x : Ingest) : getShard (setIn s n x) k = getShard s k := rfl
@[simp] theorem getPort_setIn (x : Ingest) : getPort (setIn s n x) k = getPort s k := rfl
@[simp] theorem getSq_setIn (x : Ingest) : getSq (setIn s n x) k = getSq s k := rfl
@[simp] theorem getCq_setIn (x : Ingest) : getCq (setIn s n x) k = getCq s k := rfl
@[simp] theorem getRes_setIn (x : Ingest) : getRes (setIn s n x) k = getRes s k := rfl
@[simp] theorem getTmr_setIn (x : Ingest) : getTmr (setIn s n x) k = getTmr s k := rfl
@[simp] theorem getMbx_setIn (x : Ingest) : getMbx (setIn s n x) k = getMbx s k := rfl

/-! ### `setRes` -/

@[simp] theorem setRes_nv (x : ResultStream) : (setRes s n x).nv = s.nv := rfl
@[simp] theorem setRes_remap (x : ResultStream) : (setRes s n x).remap = s.remap := rfl
@[simp] theorem setRes_glb (x : ResultStream) : (setRes s n x).glb = s.glb := rfl
@[simp] theorem setRes_hif (x : ResultStream) : (setRes s n x).hif = s.hif := rfl
@[simp] theorem setRes_sdio (x : ResultStream) : (setRes s n x).sdio = s.sdio := rfl
@[simp] theorem setRes_mgmt (x : ResultStream) : (setRes s n x).mgmt = s.mgmt := rfl
@[simp] theorem setRes_mbx (x : ResultStream) : (setRes s n x).mbx = s.mbx := rfl
@[simp] theorem setRes_tmr (x : ResultStream) : (setRes s n x).tmr = s.tmr := rfl
@[simp] theorem setRes_pwr (x : ResultStream) : (setRes s n x).pwr = s.pwr := rfl
@[simp] theorem setRes_sec (x : ResultStream) : (setRes s n x).sec = s.sec := rfl
@[simp] theorem setRes_bst (x : ResultStream) : (setRes s n x).bst = s.bst := rfl
@[simp] theorem setRes_fab (x : ResultStream) : (setRes s n x).fab = s.fab := rfl
@[simp] theorem setRes_shape (x : ResultStream) : (setRes s n x).shape = s.shape := rfl
@[simp] theorem setRes_ports (x : ResultStream) : (setRes s n x).ports = s.ports := rfl
@[simp] theorem setRes_dep (x : ResultStream) : (setRes s n x).dep = s.dep := rfl
@[simp] theorem setRes_ingest (x : ResultStream) : (setRes s n x).ingest = s.ingest := rfl
@[simp] theorem setRes_convoys (x : ResultStream) : (setRes s n x).convoys = s.convoys := rfl
@[simp] theorem setRes_hubCvy (x : ResultStream) : (setRes s n x).hubCvy = s.hubCvy := rfl
@[simp] theorem setRes_shards (x : ResultStream) : (setRes s n x).shards = s.shards := rfl
@[simp] theorem setRes_cores (x : ResultStream) : (setRes s n x).cores = s.cores := rfl
@[simp] theorem setRes_boot (x : ResultStream) : (setRes s n x).boot = s.boot := rfl
@[simp] theorem setRes_ddrDone (x : ResultStream) : (setRes s n x).ddrDone = s.ddrDone := rfl
@[simp] theorem setRes_asked (x : ResultStream) : (setRes s n x).asked = s.asked := rfl
@[simp] theorem setRes_free (x : ResultStream) : (setRes s n x).free = s.free := rfl
@[simp] theorem setRes_rdata (x : ResultStream) : (setRes s n x).rdata = s.rdata := rfl
@[simp] theorem setRes_pending (x : ResultStream) : (setRes s n x).pending = s.pending := rfl

/-- What `setRes` wrote is read back; the others are as before. -/
@[simp] theorem getRes_setRes (x : ResultStream) : getRes (setRes s n x) k = if k = n then x else getRes s k := nget_nset _ _ _ _ _
@[simp] theorem getCore_setRes (x : ResultStream) : getCore (setRes s n x) k = getCore s k := rfl
@[simp] theorem getShard_setRes (x : ResultStream) : getShard (setRes s n x) k = getShard s k := rfl
@[simp] theorem getPort_setRes (x : ResultStream) : getPort (setRes s n x) k = getPort s k := rfl
@[simp] theorem getSq_setRes (x : ResultStream) : getSq (setRes s n x) k = getSq s k := rfl
@[simp] theorem getCq_setRes (x : ResultStream) : getCq (setRes s n x) k = getCq s k := rfl
@[simp] theorem getIn_setRes (x : ResultStream) : getIn (setRes s n x) k = getIn s k := rfl
@[simp] theorem getTmr_setRes (x : ResultStream) : getTmr (setRes s n x) k = getTmr s k := rfl
@[simp] theorem getMbx_setRes (x : ResultStream) : getMbx (setRes s n x) k = getMbx s k := rfl

/-! ### `setTmr` -/

@[simp] theorem setTmr_nv (x : Timer) : (setTmr s n x).nv = s.nv := rfl
@[simp] theorem setTmr_remap (x : Timer) : (setTmr s n x).remap = s.remap := rfl
@[simp] theorem setTmr_glb (x : Timer) : (setTmr s n x).glb = s.glb := rfl
@[simp] theorem setTmr_hif (x : Timer) : (setTmr s n x).hif = s.hif := rfl
@[simp] theorem setTmr_sdio (x : Timer) : (setTmr s n x).sdio = s.sdio := rfl
@[simp] theorem setTmr_mgmt (x : Timer) : (setTmr s n x).mgmt = s.mgmt := rfl
@[simp] theorem setTmr_mbx (x : Timer) : (setTmr s n x).mbx = s.mbx := rfl
@[simp] theorem setTmr_pwr (x : Timer) : (setTmr s n x).pwr = s.pwr := rfl
@[simp] theorem setTmr_sec (x : Timer) : (setTmr s n x).sec = s.sec := rfl
@[simp] theorem setTmr_bst (x : Timer) : (setTmr s n x).bst = s.bst := rfl
@[simp] theorem setTmr_fab (x : Timer) : (setTmr s n x).fab = s.fab := rfl
@[simp] theorem setTmr_shape (x : Timer) : (setTmr s n x).shape = s.shape := rfl
@[simp] theorem setTmr_ports (x : Timer) : (setTmr s n x).ports = s.ports := rfl
@[simp] theorem setTmr_dep (x : Timer) : (setTmr s n x).dep = s.dep := rfl
@[simp] theorem setTmr_ingest (x : Timer) : (setTmr s n x).ingest = s.ingest := rfl
@[simp] theorem setTmr_results (x : Timer) : (setTmr s n x).results = s.results := rfl
@[simp] theorem setTmr_convoys (x : Timer) : (setTmr s n x).convoys = s.convoys := rfl
@[simp] theorem setTmr_hubCvy (x : Timer) : (setTmr s n x).hubCvy = s.hubCvy := rfl
@[simp] theorem setTmr_shards (x : Timer) : (setTmr s n x).shards = s.shards := rfl
@[simp] theorem setTmr_cores (x : Timer) : (setTmr s n x).cores = s.cores := rfl
@[simp] theorem setTmr_boot (x : Timer) : (setTmr s n x).boot = s.boot := rfl
@[simp] theorem setTmr_ddrDone (x : Timer) : (setTmr s n x).ddrDone = s.ddrDone := rfl
@[simp] theorem setTmr_asked (x : Timer) : (setTmr s n x).asked = s.asked := rfl
@[simp] theorem setTmr_free (x : Timer) : (setTmr s n x).free = s.free := rfl
@[simp] theorem setTmr_rdata (x : Timer) : (setTmr s n x).rdata = s.rdata := rfl
@[simp] theorem setTmr_pending (x : Timer) : (setTmr s n x).pending = s.pending := rfl

/-- What `setTmr` wrote is read back; the others are as before. -/
@[simp] theorem getTmr_setTmr (x : Timer) : getTmr (setTmr s n x) k = if k = n then x else getTmr s k := nget_nset _ _ _ _ _
@[simp] theorem getCore_setTmr (x : Timer) : getCore (setTmr s n x) k = getCore s k := rfl
@[simp] theorem getShard_setTmr (x : Timer) : getShard (setTmr s n x) k = getShard s k := rfl
@[simp] theorem getPort_setTmr (x : Timer) : getPort (setTmr s n x) k = getPort s k := rfl
@[simp] theorem getSq_setTmr (x : Timer) : getSq (setTmr s n x) k = getSq s k := rfl
@[simp] theorem getCq_setTmr (x : Timer) : getCq (setTmr s n x) k = getCq s k := rfl
@[simp] theorem getIn_setTmr (x : Timer) : getIn (setTmr s n x) k = getIn s k := rfl
@[simp] theorem getRes_setTmr (x : Timer) : getRes (setTmr s n x) k = getRes s k := rfl
@[simp] theorem getMbx_setTmr (x : Timer) : getMbx (setTmr s n x) k = getMbx s k := rfl

/-! ### `setMbx` -/

@[simp] theorem setMbx_nv (x : Mailbox) : (setMbx s n x).nv = s.nv := rfl
@[simp] theorem setMbx_remap (x : Mailbox) : (setMbx s n x).remap = s.remap := rfl
@[simp] theorem setMbx_glb (x : Mailbox) : (setMbx s n x).glb = s.glb := rfl
@[simp] theorem setMbx_hif (x : Mailbox) : (setMbx s n x).hif = s.hif := rfl
@[simp] theorem setMbx_sdio (x : Mailbox) : (setMbx s n x).sdio = s.sdio := rfl
@[simp] theorem setMbx_mgmt (x : Mailbox) : (setMbx s n x).mgmt = s.mgmt := rfl
@[simp] theorem setMbx_tmr (x : Mailbox) : (setMbx s n x).tmr = s.tmr := rfl
@[simp] theorem setMbx_pwr (x : Mailbox) : (setMbx s n x).pwr = s.pwr := rfl
@[simp] theorem setMbx_sec (x : Mailbox) : (setMbx s n x).sec = s.sec := rfl
@[simp] theorem setMbx_bst (x : Mailbox) : (setMbx s n x).bst = s.bst := rfl
@[simp] theorem setMbx_fab (x : Mailbox) : (setMbx s n x).fab = s.fab := rfl
@[simp] theorem setMbx_shape (x : Mailbox) : (setMbx s n x).shape = s.shape := rfl
@[simp] theorem setMbx_ports (x : Mailbox) : (setMbx s n x).ports = s.ports := rfl
@[simp] theorem setMbx_dep (x : Mailbox) : (setMbx s n x).dep = s.dep := rfl
@[simp] theorem setMbx_ingest (x : Mailbox) : (setMbx s n x).ingest = s.ingest := rfl
@[simp] theorem setMbx_results (x : Mailbox) : (setMbx s n x).results = s.results := rfl
@[simp] theorem setMbx_convoys (x : Mailbox) : (setMbx s n x).convoys = s.convoys := rfl
@[simp] theorem setMbx_hubCvy (x : Mailbox) : (setMbx s n x).hubCvy = s.hubCvy := rfl
@[simp] theorem setMbx_shards (x : Mailbox) : (setMbx s n x).shards = s.shards := rfl
@[simp] theorem setMbx_cores (x : Mailbox) : (setMbx s n x).cores = s.cores := rfl
@[simp] theorem setMbx_boot (x : Mailbox) : (setMbx s n x).boot = s.boot := rfl
@[simp] theorem setMbx_ddrDone (x : Mailbox) : (setMbx s n x).ddrDone = s.ddrDone := rfl
@[simp] theorem setMbx_asked (x : Mailbox) : (setMbx s n x).asked = s.asked := rfl
@[simp] theorem setMbx_free (x : Mailbox) : (setMbx s n x).free = s.free := rfl
@[simp] theorem setMbx_rdata (x : Mailbox) : (setMbx s n x).rdata = s.rdata := rfl
@[simp] theorem setMbx_pending (x : Mailbox) : (setMbx s n x).pending = s.pending := rfl

/-- What `setMbx` wrote is read back; the others are as before. -/
@[simp] theorem getMbx_setMbx (x : Mailbox) : getMbx (setMbx s n x) k = if k = n then x else getMbx s k := nget_nset _ _ _ _ _
@[simp] theorem getCore_setMbx (x : Mailbox) : getCore (setMbx s n x) k = getCore s k := rfl
@[simp] theorem getShard_setMbx (x : Mailbox) : getShard (setMbx s n x) k = getShard s k := rfl
@[simp] theorem getPort_setMbx (x : Mailbox) : getPort (setMbx s n x) k = getPort s k := rfl
@[simp] theorem getSq_setMbx (x : Mailbox) : getSq (setMbx s n x) k = getSq s k := rfl
@[simp] theorem getCq_setMbx (x : Mailbox) : getCq (setMbx s n x) k = getCq s k := rfl
@[simp] theorem getIn_setMbx (x : Mailbox) : getIn (setMbx s n x) k = getIn s k := rfl
@[simp] theorem getRes_setMbx (x : Mailbox) : getRes (setMbx s n x) k = getRes s k := rfl
@[simp] theorem getTmr_setMbx (x : Mailbox) : getTmr (setMbx s n x) k = getTmr s k := rfl

/-! ### `modCore`, `modShard`, `modPort` -/

/-- A changed core is read back; the others are as before. -/
@[simp] theorem getCore_modCore (f : Core → Core) : getCore (modCore s n f) k = if k = n then f (getCore s k) else getCore s k := by
  simp only [modCore, getCore_setCore]; split <;> simp_all

/-- A changed shard is read back; the others are as before. -/
@[simp] theorem getShard_modShard (f : Shard → Shard) :
    getShard (modShard s n f) k = if k = n then f (getShard s k) else getShard s k := by
  simp only [modShard, getShard_setShard]; split <;> simp_all

/-- A changed port is read back; the others are as before. -/
@[simp] theorem getPort_modPort (f : Port → Port) : getPort (modPort s n f) k = if k = n then f (getPort s k) else getPort s k := by
  simp only [modPort, getPort_setPort]; split <;> simp_all

@[simp] theorem modCore_nv (f : Core → Core) : (modCore s n f).nv = s.nv := rfl
@[simp] theorem modCore_remap (f : Core → Core) : (modCore s n f).remap = s.remap := rfl
@[simp] theorem modCore_glb (f : Core → Core) : (modCore s n f).glb = s.glb := rfl
@[simp] theorem modCore_hif (f : Core → Core) : (modCore s n f).hif = s.hif := rfl
@[simp] theorem modCore_sdio (f : Core → Core) : (modCore s n f).sdio = s.sdio := rfl
@[simp] theorem modCore_mgmt (f : Core → Core) : (modCore s n f).mgmt = s.mgmt := rfl
@[simp] theorem modCore_mbx (f : Core → Core) : (modCore s n f).mbx = s.mbx := rfl
@[simp] theorem modCore_tmr (f : Core → Core) : (modCore s n f).tmr = s.tmr := rfl
@[simp] theorem modCore_pwr (f : Core → Core) : (modCore s n f).pwr = s.pwr := rfl
@[simp] theorem modCore_sec (f : Core → Core) : (modCore s n f).sec = s.sec := rfl
@[simp] theorem modCore_bst (f : Core → Core) : (modCore s n f).bst = s.bst := rfl
@[simp] theorem modCore_fab (f : Core → Core) : (modCore s n f).fab = s.fab := rfl
@[simp] theorem modCore_shape (f : Core → Core) : (modCore s n f).shape = s.shape := rfl
@[simp] theorem modCore_ports (f : Core → Core) : (modCore s n f).ports = s.ports := rfl
@[simp] theorem modCore_dep (f : Core → Core) : (modCore s n f).dep = s.dep := rfl
@[simp] theorem modCore_ingest (f : Core → Core) : (modCore s n f).ingest = s.ingest := rfl
@[simp] theorem modCore_results (f : Core → Core) : (modCore s n f).results = s.results := rfl
@[simp] theorem modCore_convoys (f : Core → Core) : (modCore s n f).convoys = s.convoys := rfl
@[simp] theorem modCore_hubCvy (f : Core → Core) : (modCore s n f).hubCvy = s.hubCvy := rfl
@[simp] theorem modCore_shards (f : Core → Core) : (modCore s n f).shards = s.shards := rfl
@[simp] theorem modCore_boot (f : Core → Core) : (modCore s n f).boot = s.boot := rfl
@[simp] theorem modCore_ddrDone (f : Core → Core) : (modCore s n f).ddrDone = s.ddrDone := rfl
@[simp] theorem modCore_asked (f : Core → Core) : (modCore s n f).asked = s.asked := rfl
@[simp] theorem modCore_free (f : Core → Core) : (modCore s n f).free = s.free := rfl
@[simp] theorem modCore_rdata (f : Core → Core) : (modCore s n f).rdata = s.rdata := rfl
@[simp] theorem modCore_pending (f : Core → Core) : (modCore s n f).pending = s.pending := rfl
@[simp] theorem modShard_nv (f : Shard → Shard) : (modShard s n f).nv = s.nv := rfl
@[simp] theorem modShard_remap (f : Shard → Shard) : (modShard s n f).remap = s.remap := rfl
@[simp] theorem modShard_glb (f : Shard → Shard) : (modShard s n f).glb = s.glb := rfl
@[simp] theorem modShard_hif (f : Shard → Shard) : (modShard s n f).hif = s.hif := rfl
@[simp] theorem modShard_sdio (f : Shard → Shard) : (modShard s n f).sdio = s.sdio := rfl
@[simp] theorem modShard_mgmt (f : Shard → Shard) : (modShard s n f).mgmt = s.mgmt := rfl
@[simp] theorem modShard_mbx (f : Shard → Shard) : (modShard s n f).mbx = s.mbx := rfl
@[simp] theorem modShard_tmr (f : Shard → Shard) : (modShard s n f).tmr = s.tmr := rfl
@[simp] theorem modShard_pwr (f : Shard → Shard) : (modShard s n f).pwr = s.pwr := rfl
@[simp] theorem modShard_sec (f : Shard → Shard) : (modShard s n f).sec = s.sec := rfl
@[simp] theorem modShard_bst (f : Shard → Shard) : (modShard s n f).bst = s.bst := rfl
@[simp] theorem modShard_fab (f : Shard → Shard) : (modShard s n f).fab = s.fab := rfl
@[simp] theorem modShard_shape (f : Shard → Shard) : (modShard s n f).shape = s.shape := rfl
@[simp] theorem modShard_ports (f : Shard → Shard) : (modShard s n f).ports = s.ports := rfl
@[simp] theorem modShard_dep (f : Shard → Shard) : (modShard s n f).dep = s.dep := rfl
@[simp] theorem modShard_ingest (f : Shard → Shard) : (modShard s n f).ingest = s.ingest := rfl
@[simp] theorem modShard_results (f : Shard → Shard) : (modShard s n f).results = s.results := rfl
@[simp] theorem modShard_convoys (f : Shard → Shard) : (modShard s n f).convoys = s.convoys := rfl
@[simp] theorem modShard_hubCvy (f : Shard → Shard) : (modShard s n f).hubCvy = s.hubCvy := rfl
@[simp] theorem modShard_cores (f : Shard → Shard) : (modShard s n f).cores = s.cores := rfl
@[simp] theorem modShard_boot (f : Shard → Shard) : (modShard s n f).boot = s.boot := rfl
@[simp] theorem modShard_ddrDone (f : Shard → Shard) : (modShard s n f).ddrDone = s.ddrDone := rfl
@[simp] theorem modShard_asked (f : Shard → Shard) : (modShard s n f).asked = s.asked := rfl
@[simp] theorem modShard_free (f : Shard → Shard) : (modShard s n f).free = s.free := rfl
@[simp] theorem modShard_rdata (f : Shard → Shard) : (modShard s n f).rdata = s.rdata := rfl
@[simp] theorem modShard_pending (f : Shard → Shard) : (modShard s n f).pending = s.pending := rfl
@[simp] theorem modPort_nv (f : Port → Port) : (modPort s n f).nv = s.nv := rfl
@[simp] theorem modPort_remap (f : Port → Port) : (modPort s n f).remap = s.remap := rfl
@[simp] theorem modPort_glb (f : Port → Port) : (modPort s n f).glb = s.glb := rfl
@[simp] theorem modPort_hif (f : Port → Port) : (modPort s n f).hif = s.hif := rfl
@[simp] theorem modPort_sdio (f : Port → Port) : (modPort s n f).sdio = s.sdio := rfl
@[simp] theorem modPort_mgmt (f : Port → Port) : (modPort s n f).mgmt = s.mgmt := rfl
@[simp] theorem modPort_mbx (f : Port → Port) : (modPort s n f).mbx = s.mbx := rfl
@[simp] theorem modPort_tmr (f : Port → Port) : (modPort s n f).tmr = s.tmr := rfl
@[simp] theorem modPort_pwr (f : Port → Port) : (modPort s n f).pwr = s.pwr := rfl
@[simp] theorem modPort_sec (f : Port → Port) : (modPort s n f).sec = s.sec := rfl
@[simp] theorem modPort_bst (f : Port → Port) : (modPort s n f).bst = s.bst := rfl
@[simp] theorem modPort_fab (f : Port → Port) : (modPort s n f).fab = s.fab := rfl
@[simp] theorem modPort_shape (f : Port → Port) : (modPort s n f).shape = s.shape := rfl
@[simp] theorem modPort_dep (f : Port → Port) : (modPort s n f).dep = s.dep := rfl
@[simp] theorem modPort_ingest (f : Port → Port) : (modPort s n f).ingest = s.ingest := rfl
@[simp] theorem modPort_results (f : Port → Port) : (modPort s n f).results = s.results := rfl
@[simp] theorem modPort_convoys (f : Port → Port) : (modPort s n f).convoys = s.convoys := rfl
@[simp] theorem modPort_hubCvy (f : Port → Port) : (modPort s n f).hubCvy = s.hubCvy := rfl
@[simp] theorem modPort_shards (f : Port → Port) : (modPort s n f).shards = s.shards := rfl
@[simp] theorem modPort_cores (f : Port → Port) : (modPort s n f).cores = s.cores := rfl
@[simp] theorem modPort_boot (f : Port → Port) : (modPort s n f).boot = s.boot := rfl
@[simp] theorem modPort_ddrDone (f : Port → Port) : (modPort s n f).ddrDone = s.ddrDone := rfl
@[simp] theorem modPort_asked (f : Port → Port) : (modPort s n f).asked = s.asked := rfl
@[simp] theorem modPort_free (f : Port → Port) : (modPort s n f).free = s.free := rfl
@[simp] theorem modPort_rdata (f : Port → Port) : (modPort s n f).rdata = s.rdata := rfl
@[simp] theorem modPort_pending (f : Port → Port) : (modPort s n f).pending = s.pending := rfl
@[simp] theorem getShard_modCore (f : Core → Core) : getShard (modCore s n f) k = getShard s k := rfl
@[simp] theorem getPort_modCore (f : Core → Core) : getPort (modCore s n f) k = getPort s k := rfl
@[simp] theorem getSq_modCore (f : Core → Core) : getSq (modCore s n f) k = getSq s k := rfl
@[simp] theorem getCq_modCore (f : Core → Core) : getCq (modCore s n f) k = getCq s k := rfl
@[simp] theorem getIn_modCore (f : Core → Core) : getIn (modCore s n f) k = getIn s k := rfl
@[simp] theorem getRes_modCore (f : Core → Core) : getRes (modCore s n f) k = getRes s k := rfl
@[simp] theorem getTmr_modCore (f : Core → Core) : getTmr (modCore s n f) k = getTmr s k := rfl
@[simp] theorem getMbx_modCore (f : Core → Core) : getMbx (modCore s n f) k = getMbx s k := rfl
@[simp] theorem getCore_modShard (f : Shard → Shard) : getCore (modShard s n f) k = getCore s k := rfl
@[simp] theorem getPort_modShard (f : Shard → Shard) : getPort (modShard s n f) k = getPort s k := rfl
@[simp] theorem getSq_modShard (f : Shard → Shard) : getSq (modShard s n f) k = getSq s k := rfl
@[simp] theorem getCq_modShard (f : Shard → Shard) : getCq (modShard s n f) k = getCq s k := rfl
@[simp] theorem getIn_modShard (f : Shard → Shard) : getIn (modShard s n f) k = getIn s k := rfl
@[simp] theorem getRes_modShard (f : Shard → Shard) : getRes (modShard s n f) k = getRes s k := rfl
@[simp] theorem getTmr_modShard (f : Shard → Shard) : getTmr (modShard s n f) k = getTmr s k := rfl
@[simp] theorem getMbx_modShard (f : Shard → Shard) : getMbx (modShard s n f) k = getMbx s k := rfl
@[simp] theorem getCore_modPort (f : Port → Port) : getCore (modPort s n f) k = getCore s k := rfl
@[simp] theorem getShard_modPort (f : Port → Port) : getShard (modPort s n f) k = getShard s k := rfl
@[simp] theorem getSq_modPort (f : Port → Port) : getSq (modPort s n f) k = getSq s k := rfl
@[simp] theorem getCq_modPort (f : Port → Port) : getCq (modPort s n f) k = getCq s k := rfl
@[simp] theorem getIn_modPort (f : Port → Port) : getIn (modPort s n f) k = getIn s k := rfl
@[simp] theorem getRes_modPort (f : Port → Port) : getRes (modPort s n f) k = getRes s k := rfl
@[simp] theorem getTmr_modPort (f : Port → Port) : getTmr (modPort s n f) k = getTmr s k := rfl
@[simp] theorem getMbx_modPort (f : Port → Port) : getMbx (modPort s n f) k = getMbx s k := rfl

end Sys2Proof.Machine
end

