-- ==== Sys2Proof/Laws/Ops.lean ====
section
/-! SUPPORT. What each shared operation can touch: its result is the state it was given, but for the parts named. -/

namespace Sys2Proof.Machine

/-- A fold keeps what each of its steps keeps. -/
theorem foldl_keeps {β α γ : Type} (p : β → γ) (f : β → α → β) (h : ∀ s x, p (f s x) = p s) (l : List α) (s : β) :
    p (l.foldl f s) = p s := by
  induction l generalizing s with
  | nil => rfl
  | cons x l ih => rw [List.foldl_cons, ih, h]

/-- A fold has what its start has and each of its steps keeps. -/
theorem foldl_inv {β α : Type} (P : β → Prop) (f : β → α → β) (h : ∀ s x, P s → P (f s x)) (l : List α) (s : β) (hs : P s) :
    P (l.foldl f s) := by
  induction l generalizing s with
  | nil => exact hs
  | cons x l ih => exact ih _ (h _ _ hs)

variable (s : State)

/-- Firing a wake source touches power control only. -/
theorem wakeFires_touches (b : Nat) : wakeFires s b = { s with pwr := (wakeFires s b).pwr } := rfl

/-- A packet of a core touches the fabric only. -/
theorem coreSend_touches (n : Nat) (p : Packet) : coreSend s n p = { s with fab := (coreSend s n p).fab } := by
  unfold coreSend; split <;> rfl

/-- A fold of an operation that touches the fabric only. -/
theorem foldl_fab {α : Type} (f : State → α → State) (hf : ∀ s x, f s x = { s with fab := (f s x).fab }) (l : List α) :
    l.foldl f s = { s with fab := (l.foldl f s).fab } := by
  induction l generalizing s with
  | nil => rfl
  | cons x l ih => rw [List.foldl_cons, ih]; rw [hf s x]

/-- The packets of a core touch the fabric only. -/
theorem coreSendAll_touches (n : Nat) (ps : List Packet) : coreSendAll s n ps = { s with fab := (coreSendAll s n ps).fab } :=
  foldl_fab s _ (fun s p => coreSend_touches s n p) ps

/-- A packet of the hub touches the fabric only. -/
theorem hubSend_touches (p : Packet) : hubSend s p = { s with fab := (hubSend s p).fab } := rfl

/-- The packets of the hub touch the fabric only. -/
theorem hubSendAll_touches (ps : List Packet) : hubSendAll s ps = { s with fab := (hubSendAll s ps).fab } :=
  foldl_fab s _ hubSend_touches ps

/-- A notice of a core touches the fabric only. -/
theorem ctrlNotice_touches (n sub st pay cls : Nat) :
    ctrlNotice s n sub st pay cls = { s with fab := (ctrlNotice s n sub st pay cls).fab } := coreSend_touches s n _

/-- A customs report of the register arbiter touches the fabric only. -/
theorem clogBar_touches (mid addr : Nat) (st : Status) : clogBar s mid addr st = { s with fab := (clogBar s mid addr st).fab } := rfl

/-- A customs report of a core touches the fabric only. -/
theorem clogTile_touches (n mid d sc : Nat) (st : Status) (a : Nat) :
    clogTile s n mid d sc st a = { s with fab := (clogTile s n mid d sc st a).fab } := coreSendAll_touches s n _

/-- A customs violation at a tile touches its core's counter and the fabric. -/
theorem violTile_touches (n mid d sc : Nat) (st : Status) (a : Nat) :
    violTile s n mid d sc st a = { s with cores := (violTile s n mid d sc st a).cores, fab := (violTile s n mid d sc st a).fab } := by
  unfold violTile; rw [clogTile_touches]; rfl

/-- One written completion entry touches the host interface only. -/
theorem cqWriteOne_touches (n : Nat) (e : BitVec 256) : cqWriteOne s n e = { s with hif := (cqWriteOne s n e).hif } := rfl

/-- The interrupt rule touches the host interface only. -/
theorem cqSignal_touches (n k : Nat) : cqSignal s n k = { s with hif := (cqSignal s n k).hif } := by
  unfold cqSignal; dsimp only; split <;> rfl

/-- A fold of an operation that touches the host interface only. -/
theorem foldl_hif {α : Type} (f : State → α → State) (hf : ∀ s x, f s x = { s with hif := (f s x).hif }) (l : List α) :
    l.foldl f s = { s with hif := (l.foldl f s).hif } := by
  induction l generalizing s with
  | nil => rfl
  | cons x l ih => rw [List.foldl_cons, ih]; rw [hf s x]

/-- A written group touches the host interface only. -/
theorem cqWrite_touches (n : Nat) (es : List (BitVec 256)) : cqWrite s n es = { s with hif := (cqWrite s n es).hif } := by
  unfold cqWrite; rw [cqSignal_touches]
  generalize (cqSignal _ n es.length).hif = x
  rw [foldl_hif s _ (fun s e => cqWriteOne_touches s n e) es]

/-- A posted group touches the host interface only. -/
theorem cqPost_touches (n : Nat) (es : List (BitVec 256)) : cqPost s n es = { s with hif := (cqPost s n es).hif } := by
  unfold cqPost; split
  · exact cqWrite_touches s n es
  · rfl

/-- Dropping a command touches the host interface and the management complex only. -/
theorem dropCmd_touches (h : Nat) : dropCmd s h = { s with hif := (dropCmd s h).hif, mgmt := (dropCmd s h).mgmt } := rfl

/-- A returned completion touches the fabric only. -/
theorem feReply_touches (p : Nat) (es : List (BitVec 256)) : feReply s p es = { s with fab := (feReply s p es).fab } :=
  hubSendAll_touches s _

/-- An answered command touches the host interface, SDIO and the fabric only. -/
theorem answer_touches (f : Fetched) (st : Status) (r : Nat) (ps : List (BitVec 128)) :
    answer s f st r ps =
      { s with hif := (answer s f st r ps).hif, sdio := (answer s f st r ps).sdio, fab := (answer s f st r ps).fab } := by
  unfold answer; split
  · rw [cqPost_touches]
  · rfl
  · rw [feReply_touches]

/-- A completed command touches the host interface, SDIO, the management complex and the fabric only. -/
theorem complete_touches (h : Nat) (st : Status) (r : Nat) (ps : List (BitVec 128)) :
    complete s h st r ps =
      { s with hif := (complete s h st r ps).hif, sdio := (complete s h st r ps).sdio,
               mgmt := (complete s h st r ps).mgmt, fab := (complete s h st r ps).fab } := by
  unfold complete; split
  · rfl
  · split
    · rfl
    · rw [answer_touches, dropCmd_touches]

/-- A begun command touches the host interface and the management complex only. -/
theorem begun_touches (h : Nat) : begun s h = { s with hif := (begun s h).hif, mgmt := (begun s h).mgmt } := rfl

/-- A context notice touches the shards and the host interface only. -/
theorem notice_touches (c : Nat) (x : Notice) :
    notice s c x = { s with shards := (notice s c x).shards, hif := (notice s c x).hif } := by
  unfold notice; dsimp only; split
  · rfl
  · rw [cqWrite_touches]; rfl

/-- Notices to several contexts touch the shards and the host interface only. -/
theorem noticeAll_touches (cs : List Nat) (x : Notice) :
    noticeAll s cs x = { s with shards := (noticeAll s cs x).shards, hif := (noticeAll s cs x).hif } := by
  induction cs generalizing s with
  | nil => rfl
  | cons c cs ih => simp only [noticeAll, List.foldl_cons] at ih ⊢; rw [ih]; rw [notice_touches]

/-- A packet that the hub takes or has taken touches the fabric only. -/
theorem hubTake_touches (p : Packet) : hubTake s p = { s with fab := (hubTake s p).fab } := rfl

/-- A packet that a hub engine has taken touches the fabric only. -/
theorem hubDone_touches (p : Packet) : hubDone s p = { s with fab := (hubDone s p).fab } := rfl

/-- A packet that a core has taken touches the cores only. -/
theorem portDone_touches (n : Nat) (p : Packet) : portDone s n p = { s with cores := (portDone s n p).cores } := rfl

/-- A change of the cores of a shard touches the cores only. -/
theorem modShardCores_touches (c : Nat) (f : Nat → Core → Core) :
    modShardCores s c f = { s with cores := (modShardCores s c f).cores } := by
  unfold modShardCores
  generalize shardCores s c = l
  induction l generalizing s with
  | nil => rfl
  | cons n l ih => rw [List.foldl_cons, ih]; rfl

/-- The cores of a shard, in a state whose map of cores is canonical. -/
theorem mem_shardCores (h : nwf (fun _ => ({} : Core)) s.cores = true) (c n : Nat) :
    n ∈ shardCores s c ↔ (getCore s n).bound = true ∧ (getCore s n).ctx = c := by
  simp only [shardCores, List.mem_map, List.mem_filter, Bool.and_eq_true, beq_iff_eq]
  constructor
  · rintro ⟨p, ⟨hp, h1, h2⟩, rfl⟩
    rw [getCore, nget_of_mem _ _ h p hp]
    exact ⟨h1, h2⟩
  · rintro ⟨h1, h2⟩
    rcases nget_mem ({} : Core) s.cores n with hn | hn
    · rw [getCore, hn] at h1; cases h1
    · exact ⟨_, ⟨hn, h1, h2⟩, rfl⟩

/-- Every core of a shard is changed once, and no other core. -/
theorem getCore_modShardCores (h : nwf (fun _ => ({} : Core)) s.cores = true) (c k : Nat) (f : Nat → Core → Core) :
    getCore (modShardCores s c f) k = if k ∈ shardCores s c then f k (getCore s k) else getCore s k := by
  have hd : (shardCores s c).Nodup := (nodup_keys _ _ h).sublist ((List.filter_sublist).map _)
  unfold modShardCores
  generalize shardCores s c = l at *
  clear h
  induction l generalizing s with
  | nil => rfl
  | cons n l ih =>
    rw [List.nodup_cons] at hd
    rw [List.foldl_cons, ih _ hd.2, getCore_modCore]
    by_cases hk : k = n
    · subst hk; simp [hd.1]
    · simp [hk]

/-- A mailbox interrupt touches the host interface, SDIO and the management complex only. -/
theorem mbxInterrupt_touches (n mid : Nat) :
    mbxInterrupt s n mid =
      { s with hif := (mbxInterrupt s n mid).hif, sdio := (mbxInterrupt s n mid).sdio, mgmt := (mbxInterrupt s n mid).mgmt } := by
  unfold mbxInterrupt; split <;> rfl

end Sys2Proof.Machine
end

