-- ==== Sys2Proof/Laws/Frame.lean ====
section
/-! SUPPORT. What each shared operation leaves as it was, part by part (from the `_touches` lemmas). -/

namespace Sys2Proof.Machine

variable (s : State) (k : Nat)

/-! ### `wakeFires` -/

@[simp] theorem wakeFires_nv (b : Nat) : (wakeFires s b).nv = s.nv := rfl
@[simp] theorem wakeFires_remap (b : Nat) : (wakeFires s b).remap = s.remap := rfl
@[simp] theorem wakeFires_glb (b : Nat) : (wakeFires s b).glb = s.glb := rfl
@[simp] theorem wakeFires_hif (b : Nat) : (wakeFires s b).hif = s.hif := rfl
@[simp] theorem wakeFires_sdio (b : Nat) : (wakeFires s b).sdio = s.sdio := rfl
@[simp] theorem wakeFires_mgmt (b : Nat) : (wakeFires s b).mgmt = s.mgmt := rfl
@[simp] theorem wakeFires_mbx (b : Nat) : (wakeFires s b).mbx = s.mbx := rfl
@[simp] theorem wakeFires_tmr (b : Nat) : (wakeFires s b).tmr = s.tmr := rfl
@[simp] theorem wakeFires_sec (b : Nat) : (wakeFires s b).sec = s.sec := rfl
@[simp] theorem wakeFires_bst (b : Nat) : (wakeFires s b).bst = s.bst := rfl
@[simp] theorem wakeFires_fab (b : Nat) : (wakeFires s b).fab = s.fab := rfl
@[simp] theorem wakeFires_shape (b : Nat) : (wakeFires s b).shape = s.shape := rfl
@[simp] theorem wakeFires_ports (b : Nat) : (wakeFires s b).ports = s.ports := rfl
@[simp] theorem wakeFires_dep (b : Nat) : (wakeFires s b).dep = s.dep := rfl
@[simp] theorem wakeFires_ingest (b : Nat) : (wakeFires s b).ingest = s.ingest := rfl
@[simp] theorem wakeFires_results (b : Nat) : (wakeFires s b).results = s.results := rfl
@[simp] theorem wakeFires_convoys (b : Nat) : (wakeFires s b).convoys = s.convoys := rfl
@[simp] theorem wakeFires_hubCvy (b : Nat) : (wakeFires s b).hubCvy = s.hubCvy := rfl
@[simp] theorem wakeFires_shards (b : Nat) : (wakeFires s b).shards = s.shards := rfl
@[simp] theorem wakeFires_cores (b : Nat) : (wakeFires s b).cores = s.cores := rfl
@[simp] theorem wakeFires_boot (b : Nat) : (wakeFires s b).boot = s.boot := rfl
@[simp] theorem wakeFires_ddrDone (b : Nat) : (wakeFires s b).ddrDone = s.ddrDone := rfl
@[simp] theorem wakeFires_asked (b : Nat) : (wakeFires s b).asked = s.asked := rfl
@[simp] theorem wakeFires_free (b : Nat) : (wakeFires s b).free = s.free := rfl
@[simp] theorem wakeFires_rdata (b : Nat) : (wakeFires s b).rdata = s.rdata := rfl
@[simp] theorem wakeFires_pending (b : Nat) : (wakeFires s b).pending = s.pending := rfl
@[simp] theorem getCore_wakeFires (b : Nat) : getCore (wakeFires s b) k = getCore s k := rfl
@[simp] theorem getShard_wakeFires (b : Nat) : getShard (wakeFires s b) k = getShard s k := rfl
@[simp] theorem getPort_wakeFires (b : Nat) : getPort (wakeFires s b) k = getPort s k := rfl
@[simp] theorem getSq_wakeFires (b : Nat) : getSq (wakeFires s b) k = getSq s k := rfl
@[simp] theorem getCq_wakeFires (b : Nat) : getCq (wakeFires s b) k = getCq s k := rfl
@[simp] theorem getIn_wakeFires (b : Nat) : getIn (wakeFires s b) k = getIn s k := rfl
@[simp] theorem getRes_wakeFires (b : Nat) : getRes (wakeFires s b) k = getRes s k := rfl
@[simp] theorem getTmr_wakeFires (b : Nat) : getTmr (wakeFires s b) k = getTmr s k := rfl
@[simp] theorem getMbx_wakeFires (b : Nat) : getMbx (wakeFires s b) k = getMbx s k := rfl

/-! ### `coreSend` -/

@[simp] theorem coreSend_nv (n : Nat) (p : Packet) : (coreSend s n p).nv = s.nv := by
  rw [coreSend_touches]
@[simp] theorem coreSend_remap (n : Nat) (p : Packet) : (coreSend s n p).remap = s.remap := by
  rw [coreSend_touches]
@[simp] theorem coreSend_glb (n : Nat) (p : Packet) : (coreSend s n p).glb = s.glb := by
  rw [coreSend_touches]
@[simp] theorem coreSend_hif (n : Nat) (p : Packet) : (coreSend s n p).hif = s.hif := by
  rw [coreSend_touches]
@[simp] theorem coreSend_sdio (n : Nat) (p : Packet) : (coreSend s n p).sdio = s.sdio := by
  rw [coreSend_touches]
@[simp] theorem coreSend_mgmt (n : Nat) (p : Packet) : (coreSend s n p).mgmt = s.mgmt := by
  rw [coreSend_touches]
@[simp] theorem coreSend_mbx (n : Nat) (p : Packet) : (coreSend s n p).mbx = s.mbx := by
  rw [coreSend_touches]
@[simp] theorem coreSend_tmr (n : Nat) (p : Packet) : (coreSend s n p).tmr = s.tmr := by
  rw [coreSend_touches]
@[simp] theorem coreSend_pwr (n : Nat) (p : Packet) : (coreSend s n p).pwr = s.pwr := by
  rw [coreSend_touches]
@[simp] theorem coreSend_sec (n : Nat) (p : Packet) : (coreSend s n p).sec = s.sec := by
  rw [coreSend_touches]
@[simp] theorem coreSend_bst (n : Nat) (p : Packet) : (coreSend s n p).bst = s.bst := by
  rw [coreSend_touches]
@[simp] theorem coreSend_shape (n : Nat) (p : Packet) : (coreSend s n p).shape = s.shape := by
  rw [coreSend_touches]
@[simp] theorem coreSend_ports (n : Nat) (p : Packet) : (coreSend s n p).ports = s.ports := by
  rw [coreSend_touches]
@[simp] theorem coreSend_dep (n : Nat) (p : Packet) : (coreSend s n p).dep = s.dep := by
  rw [coreSend_touches]
@[simp] theorem coreSend_ingest (n : Nat) (p : Packet) : (coreSend s n p).ingest = s.ingest := by
  rw [coreSend_touches]
@[simp] theorem coreSend_results (n : Nat) (p : Packet) : (coreSend s n p).results = s.results := by
  rw [coreSend_touches]
@[simp] theorem coreSend_convoys (n : Nat) (p : Packet) : (coreSend s n p).convoys = s.convoys := by
  rw [coreSend_touches]
@[simp] theorem coreSend_hubCvy (n : Nat) (p : Packet) : (coreSend s n p).hubCvy = s.hubCvy := by
  rw [coreSend_touches]
@[simp] theorem coreSend_shards (n : Nat) (p : Packet) : (coreSend s n p).shards = s.shards := by
  rw [coreSend_touches]
@[simp] theorem coreSend_cores (n : Nat) (p : Packet) : (coreSend s n p).cores = s.cores := by
  rw [coreSend_touches]
@[simp] theorem coreSend_boot (n : Nat) (p : Packet) : (coreSend s n p).boot = s.boot := by
  rw [coreSend_touches]
@[simp] theorem coreSend_ddrDone (n : Nat) (p : Packet) : (coreSend s n p).ddrDone = s.ddrDone := by
  rw [coreSend_touches]
@[simp] theorem coreSend_asked (n : Nat) (p : Packet) : (coreSend s n p).asked = s.asked := by
  rw [coreSend_touches]
@[simp] theorem coreSend_free (n : Nat) (p : Packet) : (coreSend s n p).free = s.free := by
  rw [coreSend_touches]
@[simp] theorem coreSend_rdata (n : Nat) (p : Packet) : (coreSend s n p).rdata = s.rdata := by
  rw [coreSend_touches]
@[simp] theorem coreSend_pending (n : Nat) (p : Packet) : (coreSend s n p).pending = s.pending := by
  rw [coreSend_touches]
@[simp] theorem getCore_coreSend (n : Nat) (p : Packet) : getCore (coreSend s n p) k = getCore s k := by
  simp [getCore]
@[simp] theorem getShard_coreSend (n : Nat) (p : Packet) : getShard (coreSend s n p) k = getShard s k := by
  simp [getShard]
@[simp] theorem getPort_coreSend (n : Nat) (p : Packet) : getPort (coreSend s n p) k = getPort s k := by
  simp [getPort]
@[simp] theorem getSq_coreSend (n : Nat) (p : Packet) : getSq (coreSend s n p) k = getSq s k := by
  simp [getSq]
@[simp] theorem getCq_coreSend (n : Nat) (p : Packet) : getCq (coreSend s n p) k = getCq s k := by
  simp [getCq]
@[simp] theorem getIn_coreSend (n : Nat) (p : Packet) : getIn (coreSend s n p) k = getIn s k := by
  simp [getIn]
@[simp] theorem getRes_coreSend (n : Nat) (p : Packet) : getRes (coreSend s n p) k = getRes s k := by
  simp [getRes]
@[simp] theorem getTmr_coreSend (n : Nat) (p : Packet) : getTmr (coreSend s n p) k = getTmr s k := by
  simp [getTmr]
@[simp] theorem getMbx_coreSend (n : Nat) (p : Packet) : getMbx (coreSend s n p) k = getMbx s k := by
  simp [getMbx]

/-! ### `coreSendAll` -/

@[simp] theorem coreSendAll_nv (n : Nat) (ps : List Packet) : (coreSendAll s n ps).nv = s.nv := by
  rw [coreSendAll_touches]
@[simp] theorem coreSendAll_remap (n : Nat) (ps : List Packet) : (coreSendAll s n ps).remap = s.remap := by
  rw [coreSendAll_touches]
@[simp] theorem coreSendAll_glb (n : Nat) (ps : List Packet) : (coreSendAll s n ps).glb = s.glb := by
  rw [coreSendAll_touches]
@[simp] theorem coreSendAll_hif (n : Nat) (ps : List Packet) : (coreSendAll s n ps).hif = s.hif := by
  rw [coreSendAll_touches]
@[simp] theorem coreSendAll_sdio (n : Nat) (ps : List Packet) : (coreSendAll s n ps).sdio = s.sdio := by
  rw [coreSendAll_touches]
@[simp] theorem coreSendAll_mgmt (n : Nat) (ps : List Packet) : (coreSendAll s n ps).mgmt = s.mgmt := by
  rw [coreSendAll_touches]
@[simp] theorem coreSendAll_mbx (n : Nat) (ps : List Packet) : (coreSendAll s n ps).mbx = s.mbx := by
  rw [coreSendAll_touches]
@[simp] theorem coreSendAll_tmr (n : Nat) (ps : List Packet) : (coreSendAll s n ps).tmr = s.tmr := by
  rw [coreSendAll_touches]
@[simp] theorem coreSendAll_pwr (n : Nat) (ps : List Packet) : (coreSendAll s n ps).pwr = s.pwr := by
  rw [coreSendAll_touches]
@[simp] theorem coreSendAll_sec (n : Nat) (ps : List Packet) : (coreSendAll s n ps).sec = s.sec := by
  rw [coreSendAll_touches]
@[simp] theorem coreSendAll_bst (n : Nat) (ps : List Packet) : (coreSendAll s n ps).bst = s.bst := by
  rw [coreSendAll_touches]
@[simp] theorem coreSendAll_shape (n : Nat) (ps : List Packet) : (coreSendAll s n ps).shape = s.shape := by
  rw [coreSendAll_touches]
@[simp] theorem coreSendAll_ports (n : Nat) (ps : List Packet) : (coreSendAll s n ps).ports = s.ports := by
  rw [coreSendAll_touches]
@[simp] theorem coreSendAll_dep (n : Nat) (ps : List Packet) : (coreSendAll s n ps).dep = s.dep := by
  rw [coreSendAll_touches]
@[simp] theorem coreSendAll_ingest (n : Nat) (ps : List Packet) : (coreSendAll s n ps).ingest = s.ingest := by
  rw [coreSendAll_touches]
@[simp] theorem coreSendAll_results (n : Nat) (ps : List Packet) : (coreSendAll s n ps).results = s.results := by
  rw [coreSendAll_touches]
@[simp] theorem coreSendAll_convoys (n : Nat) (ps : List Packet) : (coreSendAll s n ps).convoys = s.convoys := by
  rw [coreSendAll_touches]
@[simp] theorem coreSendAll_hubCvy (n : Nat) (ps : List Packet) : (coreSendAll s n ps).hubCvy = s.hubCvy := by
  rw [coreSendAll_touches]
@[simp] theorem coreSendAll_shards (n : Nat) (ps : List Packet) : (coreSendAll s n ps).shards = s.shards := by
  rw [coreSendAll_touches]
@[simp] theorem coreSendAll_cores (n : Nat) (ps : List Packet) : (coreSendAll s n ps).cores = s.cores := by
  rw [coreSendAll_touches]
@[simp] theorem coreSendAll_boot (n : Nat) (ps : List Packet) : (coreSendAll s n ps).boot = s.boot := by
  rw [coreSendAll_touches]
@[simp] theorem coreSendAll_ddrDone (n : Nat) (ps : List Packet) : (coreSendAll s n ps).ddrDone = s.ddrDone := by
  rw [coreSendAll_touches]
@[simp] theorem coreSendAll_asked (n : Nat) (ps : List Packet) : (coreSendAll s n ps).asked = s.asked := by
  rw [coreSendAll_touches]
@[simp] theorem coreSendAll_free (n : Nat) (ps : List Packet) : (coreSendAll s n ps).free = s.free := by
  rw [coreSendAll_touches]
@[simp] theorem coreSendAll_rdata (n : Nat) (ps : List Packet) : (coreSendAll s n ps).rdata = s.rdata := by
  rw [coreSendAll_touches]
@[simp] theorem coreSendAll_pending (n : Nat) (ps : List Packet) : (coreSendAll s n ps).pending = s.pending := by
  rw [coreSendAll_touches]
@[simp] theorem getCore_coreSendAll (n : Nat) (ps : List Packet) : getCore (coreSendAll s n ps) k = getCore s k := by
  simp [getCore]
@[simp] theorem getShard_coreSendAll (n : Nat) (ps : List Packet) : getShard (coreSendAll s n ps) k = getShard s k := by
  simp [getShard]
@[simp] theorem getPort_coreSendAll (n : Nat) (ps : List Packet) : getPort (coreSendAll s n ps) k = getPort s k := by
  simp [getPort]
@[simp] theorem getSq_coreSendAll (n : Nat) (ps : List Packet) : getSq (coreSendAll s n ps) k = getSq s k := by
  simp [getSq]
@[simp] theorem getCq_coreSendAll (n : Nat) (ps : List Packet) : getCq (coreSendAll s n ps) k = getCq s k := by
  simp [getCq]
@[simp] theorem getIn_coreSendAll (n : Nat) (ps : List Packet) : getIn (coreSendAll s n ps) k = getIn s k := by
  simp [getIn]
@[simp] theorem getRes_coreSendAll (n : Nat) (ps : List Packet) : getRes (coreSendAll s n ps) k = getRes s k := by
  simp [getRes]
@[simp] theorem getTmr_coreSendAll (n : Nat) (ps : List Packet) : getTmr (coreSendAll s n ps) k = getTmr s k := by
  simp [getTmr]
@[simp] theorem getMbx_coreSendAll (n : Nat) (ps : List Packet) : getMbx (coreSendAll s n ps) k = getMbx s k := by
  simp [getMbx]

/-! ### `hubSend` -/

@[simp] theorem hubSend_nv (p : Packet) : (hubSend s p).nv = s.nv := rfl
@[simp] theorem hubSend_remap (p : Packet) : (hubSend s p).remap = s.remap := rfl
@[simp] theorem hubSend_glb (p : Packet) : (hubSend s p).glb = s.glb := rfl
@[simp] theorem hubSend_hif (p : Packet) : (hubSend s p).hif = s.hif := rfl
@[simp] theorem hubSend_sdio (p : Packet) : (hubSend s p).sdio = s.sdio := rfl
@[simp] theorem hubSend_mgmt (p : Packet) : (hubSend s p).mgmt = s.mgmt := rfl
@[simp] theorem hubSend_mbx (p : Packet) : (hubSend s p).mbx = s.mbx := rfl
@[simp] theorem hubSend_tmr (p : Packet) : (hubSend s p).tmr = s.tmr := rfl
@[simp] theorem hubSend_pwr (p : Packet) : (hubSend s p).pwr = s.pwr := rfl
@[simp] theorem hubSend_sec (p : Packet) : (hubSend s p).sec = s.sec := rfl
@[simp] theorem hubSend_bst (p : Packet) : (hubSend s p).bst = s.bst := rfl
@[simp] theorem hubSend_shape (p : Packet) : (hubSend s p).shape = s.shape := rfl
@[simp] theorem hubSend_ports (p : Packet) : (hubSend s p).ports = s.ports := rfl
@[simp] theorem hubSend_dep (p : Packet) : (hubSend s p).dep = s.dep := rfl
@[simp] theorem hubSend_ingest (p : Packet) : (hubSend s p).ingest = s.ingest := rfl
@[simp] theorem hubSend_results (p : Packet) : (hubSend s p).results = s.results := rfl
@[simp] theorem hubSend_convoys (p : Packet) : (hubSend s p).convoys = s.convoys := rfl
@[simp] theorem hubSend_hubCvy (p : Packet) : (hubSend s p).hubCvy = s.hubCvy := rfl
@[simp] theorem hubSend_shards (p : Packet) : (hubSend s p).shards = s.shards := rfl
@[simp] theorem hubSend_cores (p : Packet) : (hubSend s p).cores = s.cores := rfl
@[simp] theorem hubSend_boot (p : Packet) : (hubSend s p).boot = s.boot := rfl
@[simp] theorem hubSend_ddrDone (p : Packet) : (hubSend s p).ddrDone = s.ddrDone := rfl
@[simp] theorem hubSend_asked (p : Packet) : (hubSend s p).asked = s.asked := rfl
@[simp] theorem hubSend_free (p : Packet) : (hubSend s p).free = s.free := rfl
@[simp] theorem hubSend_rdata (p : Packet) : (hubSend s p).rdata = s.rdata := rfl
@[simp] theorem hubSend_pending (p : Packet) : (hubSend s p).pending = s.pending := rfl
@[simp] theorem getCore_hubSend (p : Packet) : getCore (hubSend s p) k = getCore s k := rfl
@[simp] theorem getShard_hubSend (p : Packet) : getShard (hubSend s p) k = getShard s k := rfl
@[simp] theorem getPort_hubSend (p : Packet) : getPort (hubSend s p) k = getPort s k := rfl
@[simp] theorem getSq_hubSend (p : Packet) : getSq (hubSend s p) k = getSq s k := rfl
@[simp] theorem getCq_hubSend (p : Packet) : getCq (hubSend s p) k = getCq s k := rfl
@[simp] theorem getIn_hubSend (p : Packet) : getIn (hubSend s p) k = getIn s k := rfl
@[simp] theorem getRes_hubSend (p : Packet) : getRes (hubSend s p) k = getRes s k := rfl
@[simp] theorem getTmr_hubSend (p : Packet) : getTmr (hubSend s p) k = getTmr s k := rfl
@[simp] theorem getMbx_hubSend (p : Packet) : getMbx (hubSend s p) k = getMbx s k := rfl

/-! ### `hubSendAll` -/

@[simp] theorem hubSendAll_nv (ps : List Packet) : (hubSendAll s ps).nv = s.nv := by
  rw [hubSendAll_touches]
@[simp] theorem hubSendAll_remap (ps : List Packet) : (hubSendAll s ps).remap = s.remap := by
  rw [hubSendAll_touches]
@[simp] theorem hubSendAll_glb (ps : List Packet) : (hubSendAll s ps).glb = s.glb := by
  rw [hubSendAll_touches]
@[simp] theorem hubSendAll_hif (ps : List Packet) : (hubSendAll s ps).hif = s.hif := by
  rw [hubSendAll_touches]
@[simp] theorem hubSendAll_sdio (ps : List Packet) : (hubSendAll s ps).sdio = s.sdio := by
  rw [hubSendAll_touches]
@[simp] theorem hubSendAll_mgmt (ps : List Packet) : (hubSendAll s ps).mgmt = s.mgmt := by
  rw [hubSendAll_touches]
@[simp] theorem hubSendAll_mbx (ps : List Packet) : (hubSendAll s ps).mbx = s.mbx := by
  rw [hubSendAll_touches]
@[simp] theorem hubSendAll_tmr (ps : List Packet) : (hubSendAll s ps).tmr = s.tmr := by
  rw [hubSendAll_touches]
@[simp] theorem hubSendAll_pwr (ps : List Packet) : (hubSendAll s ps).pwr = s.pwr := by
  rw [hubSendAll_touches]
@[simp] theorem hubSendAll_sec (ps : List Packet) : (hubSendAll s ps).sec = s.sec := by
  rw [hubSendAll_touches]
@[simp] theorem hubSendAll_bst (ps : List Packet) : (hubSendAll s ps).bst = s.bst := by
  rw [hubSendAll_touches]
@[simp] theorem hubSendAll_shape (ps : List Packet) : (hubSendAll s ps).shape = s.shape := by
  rw [hubSendAll_touches]
@[simp] theorem hubSendAll_ports (ps : List Packet) : (hubSendAll s ps).ports = s.ports := by
  rw [hubSendAll_touches]
@[simp] theorem hubSendAll_dep (ps : List Packet) : (hubSendAll s ps).dep = s.dep := by
  rw [hubSendAll_touches]
@[simp] theorem hubSendAll_ingest (ps : List Packet) : (hubSendAll s ps).ingest = s.ingest := by
  rw [hubSendAll_touches]
@[simp] theorem hubSendAll_results (ps : List Packet) : (hubSendAll s ps).results = s.results := by
  rw [hubSendAll_touches]
@[simp] theorem hubSendAll_convoys (ps : List Packet) : (hubSendAll s ps).convoys = s.convoys := by
  rw [hubSendAll_touches]
@[simp] theorem hubSendAll_hubCvy (ps : List Packet) : (hubSendAll s ps).hubCvy = s.hubCvy := by
  rw [hubSendAll_touches]
@[simp] theorem hubSendAll_shards (ps : List Packet) : (hubSendAll s ps).shards = s.shards := by
  rw [hubSendAll_touches]
@[simp] theorem hubSendAll_cores (ps : List Packet) : (hubSendAll s ps).cores = s.cores := by
  rw [hubSendAll_touches]
@[simp] theorem hubSendAll_boot (ps : List Packet) : (hubSendAll s ps).boot = s.boot := by
  rw [hubSendAll_touches]
@[simp] theorem hubSendAll_ddrDone (ps : List Packet) : (hubSendAll s ps).ddrDone = s.ddrDone := by
  rw [hubSendAll_touches]
@[simp] theorem hubSendAll_asked (ps : List Packet) : (hubSendAll s ps).asked = s.asked := by
  rw [hubSendAll_touches]
@[simp] theorem hubSendAll_free (ps : List Packet) : (hubSendAll s ps).free = s.free := by
  rw [hubSendAll_touches]
@[simp] theorem hubSendAll_rdata (ps : List Packet) : (hubSendAll s ps).rdata = s.rdata := by
  rw [hubSendAll_touches]
@[simp] theorem hubSendAll_pending (ps : List Packet) : (hubSendAll s ps).pending = s.pending := by
  rw [hubSendAll_touches]
@[simp] theorem getCore_hubSendAll (ps : List Packet) : getCore (hubSendAll s ps) k = getCore s k := by
  simp [getCore]
@[simp] theorem getShard_hubSendAll (ps : List Packet) : getShard (hubSendAll s ps) k = getShard s k := by
  simp [getShard]
@[simp] theorem getPort_hubSendAll (ps : List Packet) : getPort (hubSendAll s ps) k = getPort s k := by
  simp [getPort]
@[simp] theorem getSq_hubSendAll (ps : List Packet) : getSq (hubSendAll s ps) k = getSq s k := by
  simp [getSq]
@[simp] theorem getCq_hubSendAll (ps : List Packet) : getCq (hubSendAll s ps) k = getCq s k := by
  simp [getCq]
@[simp] theorem getIn_hubSendAll (ps : List Packet) : getIn (hubSendAll s ps) k = getIn s k := by
  simp [getIn]
@[simp] theorem getRes_hubSendAll (ps : List Packet) : getRes (hubSendAll s ps) k = getRes s k := by
  simp [getRes]
@[simp] theorem getTmr_hubSendAll (ps : List Packet) : getTmr (hubSendAll s ps) k = getTmr s k := by
  simp [getTmr]
@[simp] theorem getMbx_hubSendAll (ps : List Packet) : getMbx (hubSendAll s ps) k = getMbx s k := by
  simp [getMbx]

/-! ### `ctrlNotice` -/

@[simp] theorem ctrlNotice_nv (n sub st pay cls : Nat) : (ctrlNotice s n sub st pay cls).nv = s.nv := by
  rw [ctrlNotice_touches]
@[simp] theorem ctrlNotice_remap (n sub st pay cls : Nat) : (ctrlNotice s n sub st pay cls).remap = s.remap := by
  rw [ctrlNotice_touches]
@[simp] theorem ctrlNotice_glb (n sub st pay cls : Nat) : (ctrlNotice s n sub st pay cls).glb = s.glb := by
  rw [ctrlNotice_touches]
@[simp] theorem ctrlNotice_hif (n sub st pay cls : Nat) : (ctrlNotice s n sub st pay cls).hif = s.hif := by
  rw [ctrlNotice_touches]
@[simp] theorem ctrlNotice_sdio (n sub st pay cls : Nat) : (ctrlNotice s n sub st pay cls).sdio = s.sdio := by
  rw [ctrlNotice_touches]
@[simp] theorem ctrlNotice_mgmt (n sub st pay cls : Nat) : (ctrlNotice s n sub st pay cls).mgmt = s.mgmt := by
  rw [ctrlNotice_touches]
@[simp] theorem ctrlNotice_mbx (n sub st pay cls : Nat) : (ctrlNotice s n sub st pay cls).mbx = s.mbx := by
  rw [ctrlNotice_touches]
@[simp] theorem ctrlNotice_tmr (n sub st pay cls : Nat) : (ctrlNotice s n sub st pay cls).tmr = s.tmr := by
  rw [ctrlNotice_touches]
@[simp] theorem ctrlNotice_pwr (n sub st pay cls : Nat) : (ctrlNotice s n sub st pay cls).pwr = s.pwr := by
  rw [ctrlNotice_touches]
@[simp] theorem ctrlNotice_sec (n sub st pay cls : Nat) : (ctrlNotice s n sub st pay cls).sec = s.sec := by
  rw [ctrlNotice_touches]
@[simp] theorem ctrlNotice_bst (n sub st pay cls : Nat) : (ctrlNotice s n sub st pay cls).bst = s.bst := by
  rw [ctrlNotice_touches]
@[simp] theorem ctrlNotice_shape (n sub st pay cls : Nat) : (ctrlNotice s n sub st pay cls).shape = s.shape := by
  rw [ctrlNotice_touches]
@[simp] theorem ctrlNotice_ports (n sub st pay cls : Nat) : (ctrlNotice s n sub st pay cls).ports = s.ports := by
  rw [ctrlNotice_touches]
@[simp] theorem ctrlNotice_dep (n sub st pay cls : Nat) : (ctrlNotice s n sub st pay cls).dep = s.dep := by
  rw [ctrlNotice_touches]
@[simp] theorem ctrlNotice_ingest (n sub st pay cls : Nat) : (ctrlNotice s n sub st pay cls).ingest = s.ingest := by
  rw [ctrlNotice_touches]
@[simp] theorem ctrlNotice_results (n sub st pay cls : Nat) : (ctrlNotice s n sub st pay cls).results = s.results := by
  rw [ctrlNotice_touches]
@[simp] theorem ctrlNotice_convoys (n sub st pay cls : Nat) : (ctrlNotice s n sub st pay cls).convoys = s.convoys := by
  rw [ctrlNotice_touches]
@[simp] theorem ctrlNotice_hubCvy (n sub st pay cls : Nat) : (ctrlNotice s n sub st pay cls).hubCvy = s.hubCvy := by
  rw [ctrlNotice_touches]
@[simp] theorem ctrlNotice_shards (n sub st pay cls : Nat) : (ctrlNotice s n sub st pay cls).shards = s.shards := by
  rw [ctrlNotice_touches]
@[simp] theorem ctrlNotice_cores (n sub st pay cls : Nat) : (ctrlNotice s n sub st pay cls).cores = s.cores := by
  rw [ctrlNotice_touches]
@[simp] theorem ctrlNotice_boot (n sub st pay cls : Nat) : (ctrlNotice s n sub st pay cls).boot = s.boot := by
  rw [ctrlNotice_touches]
@[simp] theorem ctrlNotice_ddrDone (n sub st pay cls : Nat) : (ctrlNotice s n sub st pay cls).ddrDone = s.ddrDone := by
  rw [ctrlNotice_touches]
@[simp] theorem ctrlNotice_asked (n sub st pay cls : Nat) : (ctrlNotice s n sub st pay cls).asked = s.asked := by
  rw [ctrlNotice_touches]
@[simp] theorem ctrlNotice_free (n sub st pay cls : Nat) : (ctrlNotice s n sub st pay cls).free = s.free := by
  rw [ctrlNotice_touches]
@[simp] theorem ctrlNotice_rdata (n sub st pay cls : Nat) : (ctrlNotice s n sub st pay cls).rdata = s.rdata := by
  rw [ctrlNotice_touches]
@[simp] theorem ctrlNotice_pending (n sub st pay cls : Nat) : (ctrlNotice s n sub st pay cls).pending = s.pending := by
  rw [ctrlNotice_touches]
@[simp] theorem getCore_ctrlNotice (n sub st pay cls : Nat) : getCore (ctrlNotice s n sub st pay cls) k = getCore s k := by
  simp [getCore]
@[simp] theorem getShard_ctrlNotice (n sub st pay cls : Nat) : getShard (ctrlNotice s n sub st pay cls) k = getShard s k := by
  simp [getShard]
@[simp] theorem getPort_ctrlNotice (n sub st pay cls : Nat) : getPort (ctrlNotice s n sub st pay cls) k = getPort s k := by
  simp [getPort]
@[simp] theorem getSq_ctrlNotice (n sub st pay cls : Nat) : getSq (ctrlNotice s n sub st pay cls) k = getSq s k := by
  simp [getSq]
@[simp] theorem getCq_ctrlNotice (n sub st pay cls : Nat) : getCq (ctrlNotice s n sub st pay cls) k = getCq s k := by
  simp [getCq]
@[simp] theorem getIn_ctrlNotice (n sub st pay cls : Nat) : getIn (ctrlNotice s n sub st pay cls) k = getIn s k := by
  simp [getIn]
@[simp] theorem getRes_ctrlNotice (n sub st pay cls : Nat) : getRes (ctrlNotice s n sub st pay cls) k = getRes s k := by
  simp [getRes]
@[simp] theorem getTmr_ctrlNotice (n sub st pay cls : Nat) : getTmr (ctrlNotice s n sub st pay cls) k = getTmr s k := by
  simp [getTmr]
@[simp] theorem getMbx_ctrlNotice (n sub st pay cls : Nat) : getMbx (ctrlNotice s n sub st pay cls) k = getMbx s k := by
  simp [getMbx]

/-! ### `clogBar` -/

@[simp] theorem clogBar_nv (mid addr : Nat) (st : Status) : (clogBar s mid addr st).nv = s.nv := rfl
@[simp] theorem clogBar_remap (mid addr : Nat) (st : Status) : (clogBar s mid addr st).remap = s.remap := rfl
@[simp] theorem clogBar_glb (mid addr : Nat) (st : Status) : (clogBar s mid addr st).glb = s.glb := rfl
@[simp] theorem clogBar_hif (mid addr : Nat) (st : Status) : (clogBar s mid addr st).hif = s.hif := rfl
@[simp] theorem clogBar_sdio (mid addr : Nat) (st : Status) : (clogBar s mid addr st).sdio = s.sdio := rfl
@[simp] theorem clogBar_mgmt (mid addr : Nat) (st : Status) : (clogBar s mid addr st).mgmt = s.mgmt := rfl
@[simp] theorem clogBar_mbx (mid addr : Nat) (st : Status) : (clogBar s mid addr st).mbx = s.mbx := rfl
@[simp] theorem clogBar_tmr (mid addr : Nat) (st : Status) : (clogBar s mid addr st).tmr = s.tmr := rfl
@[simp] theorem clogBar_pwr (mid addr : Nat) (st : Status) : (clogBar s mid addr st).pwr = s.pwr := rfl
@[simp] theorem clogBar_sec (mid addr : Nat) (st : Status) : (clogBar s mid addr st).sec = s.sec := rfl
@[simp] theorem clogBar_bst (mid addr : Nat) (st : Status) : (clogBar s mid addr st).bst = s.bst := rfl
@[simp] theorem clogBar_shape (mid addr : Nat) (st : Status) : (clogBar s mid addr st).shape = s.shape := rfl
@[simp] theorem clogBar_ports (mid addr : Nat) (st : Status) : (clogBar s mid addr st).ports = s.ports := rfl
@[simp] theorem clogBar_dep (mid addr : Nat) (st : Status) : (clogBar s mid addr st).dep = s.dep := rfl
@[simp] theorem clogBar_ingest (mid addr : Nat) (st : Status) : (clogBar s mid addr st).ingest = s.ingest := rfl
@[simp] theorem clogBar_results (mid addr : Nat) (st : Status) : (clogBar s mid addr st).results = s.results := rfl
@[simp] theorem clogBar_convoys (mid addr : Nat) (st : Status) : (clogBar s mid addr st).convoys = s.convoys := rfl
@[simp] theorem clogBar_hubCvy (mid addr : Nat) (st : Status) : (clogBar s mid addr st).hubCvy = s.hubCvy := rfl
@[simp] theorem clogBar_shards (mid addr : Nat) (st : Status) : (clogBar s mid addr st).shards = s.shards := rfl
@[simp] theorem clogBar_cores (mid addr : Nat) (st : Status) : (clogBar s mid addr st).cores = s.cores := rfl
@[simp] theorem clogBar_boot (mid addr : Nat) (st : Status) : (clogBar s mid addr st).boot = s.boot := rfl
@[simp] theorem clogBar_ddrDone (mid addr : Nat) (st : Status) : (clogBar s mid addr st).ddrDone = s.ddrDone := rfl
@[simp] theorem clogBar_asked (mid addr : Nat) (st : Status) : (clogBar s mid addr st).asked = s.asked := rfl
@[simp] theorem clogBar_free (mid addr : Nat) (st : Status) : (clogBar s mid addr st).free = s.free := rfl
@[simp] theorem clogBar_rdata (mid addr : Nat) (st : Status) : (clogBar s mid addr st).rdata = s.rdata := rfl
@[simp] theorem clogBar_pending (mid addr : Nat) (st : Status) : (clogBar s mid addr st).pending = s.pending := rfl
@[simp] theorem getCore_clogBar (mid addr : Nat) (st : Status) : getCore (clogBar s mid addr st) k = getCore s k := rfl
@[simp] theorem getShard_clogBar (mid addr : Nat) (st : Status) : getShard (clogBar s mid addr st) k = getShard s k := rfl
@[simp] theorem getPort_clogBar (mid addr : Nat) (st : Status) : getPort (clogBar s mid addr st) k = getPort s k := rfl
@[simp] theorem getSq_clogBar (mid addr : Nat) (st : Status) : getSq (clogBar s mid addr st) k = getSq s k := rfl
@[simp] theorem getCq_clogBar (mid addr : Nat) (st : Status) : getCq (clogBar s mid addr st) k = getCq s k := rfl
@[simp] theorem getIn_clogBar (mid addr : Nat) (st : Status) : getIn (clogBar s mid addr st) k = getIn s k := rfl
@[simp] theorem getRes_clogBar (mid addr : Nat) (st : Status) : getRes (clogBar s mid addr st) k = getRes s k := rfl
@[simp] theorem getTmr_clogBar (mid addr : Nat) (st : Status) : getTmr (clogBar s mid addr st) k = getTmr s k := rfl
@[simp] theorem getMbx_clogBar (mid addr : Nat) (st : Status) : getMbx (clogBar s mid addr st) k = getMbx s k := rfl

/-! ### `clogTile` -/

@[simp] theorem clogTile_nv (n mid d sc : Nat) (st : Status) (a : Nat) : (clogTile s n mid d sc st a).nv = s.nv := by
  rw [clogTile_touches]
@[simp] theorem clogTile_remap (n mid d sc : Nat) (st : Status) (a : Nat) : (clogTile s n mid d sc st a).remap = s.remap := by
  rw [clogTile_touches]
@[simp] theorem clogTile_glb (n mid d sc : Nat) (st : Status) (a : Nat) : (clogTile s n mid d sc st a).glb = s.glb := by
  rw [clogTile_touches]
@[simp] theorem clogTile_hif (n mid d sc : Nat) (st : Status) (a : Nat) : (clogTile s n mid d sc st a).hif = s.hif := by
  rw [clogTile_touches]
@[simp] theorem clogTile_sdio (n mid d sc : Nat) (st : Status) (a : Nat) : (clogTile s n mid d sc st a).sdio = s.sdio := by
  rw [clogTile_touches]
@[simp] theorem clogTile_mgmt (n mid d sc : Nat) (st : Status) (a : Nat) : (clogTile s n mid d sc st a).mgmt = s.mgmt := by
  rw [clogTile_touches]
@[simp] theorem clogTile_mbx (n mid d sc : Nat) (st : Status) (a : Nat) : (clogTile s n mid d sc st a).mbx = s.mbx := by
  rw [clogTile_touches]
@[simp] theorem clogTile_tmr (n mid d sc : Nat) (st : Status) (a : Nat) : (clogTile s n mid d sc st a).tmr = s.tmr := by
  rw [clogTile_touches]
@[simp] theorem clogTile_pwr (n mid d sc : Nat) (st : Status) (a : Nat) : (clogTile s n mid d sc st a).pwr = s.pwr := by
  rw [clogTile_touches]
@[simp] theorem clogTile_sec (n mid d sc : Nat) (st : Status) (a : Nat) : (clogTile s n mid d sc st a).sec = s.sec := by
  rw [clogTile_touches]
@[simp] theorem clogTile_bst (n mid d sc : Nat) (st : Status) (a : Nat) : (clogTile s n mid d sc st a).bst = s.bst := by
  rw [clogTile_touches]
@[simp] theorem clogTile_shape (n mid d sc : Nat) (st : Status) (a : Nat) : (clogTile s n mid d sc st a).shape = s.shape := by
  rw [clogTile_touches]
@[simp] theorem clogTile_ports (n mid d sc : Nat) (st : Status) (a : Nat) : (clogTile s n mid d sc st a).ports = s.ports := by
  rw [clogTile_touches]
@[simp] theorem clogTile_dep (n mid d sc : Nat) (st : Status) (a : Nat) : (clogTile s n mid d sc st a).dep = s.dep := by
  rw [clogTile_touches]
@[simp] theorem clogTile_ingest (n mid d sc : Nat) (st : Status) (a : Nat) : (clogTile s n mid d sc st a).ingest = s.ingest := by
  rw [clogTile_touches]
@[simp] theorem clogTile_results (n mid d sc : Nat) (st : Status) (a : Nat) : (clogTile s n mid d sc st a).results = s.results := by
  rw [clogTile_touches]
@[simp] theorem clogTile_convoys (n mid d sc : Nat) (st : Status) (a : Nat) : (clogTile s n mid d sc st a).convoys = s.convoys := by
  rw [clogTile_touches]
@[simp] theorem clogTile_hubCvy (n mid d sc : Nat) (st : Status) (a : Nat) : (clogTile s n mid d sc st a).hubCvy = s.hubCvy := by
  rw [clogTile_touches]
@[simp] theorem clogTile_shards (n mid d sc : Nat) (st : Status) (a : Nat) : (clogTile s n mid d sc st a).shards = s.shards := by
  rw [clogTile_touches]
@[simp] theorem clogTile_cores (n mid d sc : Nat) (st : Status) (a : Nat) : (clogTile s n mid d sc st a).cores = s.cores := by
  rw [clogTile_touches]
@[simp] theorem clogTile_boot (n mid d sc : Nat) (st : Status) (a : Nat) : (clogTile s n mid d sc st a).boot = s.boot := by
  rw [clogTile_touches]
@[simp] theorem clogTile_ddrDone (n mid d sc : Nat) (st : Status) (a : Nat) : (clogTile s n mid d sc st a).ddrDone = s.ddrDone := by
  rw [clogTile_touches]
@[simp] theorem clogTile_asked (n mid d sc : Nat) (st : Status) (a : Nat) : (clogTile s n mid d sc st a).asked = s.asked := by
  rw [clogTile_touches]
@[simp] theorem clogTile_free (n mid d sc : Nat) (st : Status) (a : Nat) : (clogTile s n mid d sc st a).free = s.free := by
  rw [clogTile_touches]
@[simp] theorem clogTile_rdata (n mid d sc : Nat) (st : Status) (a : Nat) : (clogTile s n mid d sc st a).rdata = s.rdata := by
  rw [clogTile_touches]
@[simp] theorem clogTile_pending (n mid d sc : Nat) (st : Status) (a : Nat) : (clogTile s n mid d sc st a).pending = s.pending := by
  rw [clogTile_touches]
@[simp] theorem getCore_clogTile (n mid d sc : Nat) (st : Status) (a : Nat) : getCore (clogTile s n mid d sc st a) k = getCore s k := by
  simp [getCore]
@[simp] theorem getShard_clogTile (n mid d sc : Nat) (st : Status) (a : Nat) : getShard (clogTile s n mid d sc st a) k = getShard s k := by
  simp [getShard]
@[simp] theorem getPort_clogTile (n mid d sc : Nat) (st : Status) (a : Nat) : getPort (clogTile s n mid d sc st a) k = getPort s k := by
  simp [getPort]
@[simp] theorem getSq_clogTile (n mid d sc : Nat) (st : Status) (a : Nat) : getSq (clogTile s n mid d sc st a) k = getSq s k := by
  simp [getSq]
@[simp] theorem getCq_clogTile (n mid d sc : Nat) (st : Status) (a : Nat) : getCq (clogTile s n mid d sc st a) k = getCq s k := by
  simp [getCq]
@[simp] theorem getIn_clogTile (n mid d sc : Nat) (st : Status) (a : Nat) : getIn (clogTile s n mid d sc st a) k = getIn s k := by
  simp [getIn]
@[simp] theorem getRes_clogTile (n mid d sc : Nat) (st : Status) (a : Nat) : getRes (clogTile s n mid d sc st a) k = getRes s k := by
  simp [getRes]
@[simp] theorem getTmr_clogTile (n mid d sc : Nat) (st : Status) (a : Nat) : getTmr (clogTile s n mid d sc st a) k = getTmr s k := by
  simp [getTmr]
@[simp] theorem getMbx_clogTile (n mid d sc : Nat) (st : Status) (a : Nat) : getMbx (clogTile s n mid d sc st a) k = getMbx s k := by
  simp [getMbx]

/-! ### `violTile` -/

@[simp] theorem violTile_nv (n mid d sc : Nat) (st : Status) (a : Nat) : (violTile s n mid d sc st a).nv = s.nv := by
  rw [violTile_touches]
@[simp] theorem violTile_remap (n mid d sc : Nat) (st : Status) (a : Nat) : (violTile s n mid d sc st a).remap = s.remap := by
  rw [violTile_touches]
@[simp] theorem violTile_glb (n mid d sc : Nat) (st : Status) (a : Nat) : (violTile s n mid d sc st a).glb = s.glb := by
  rw [violTile_touches]
@[simp] theorem violTile_hif (n mid d sc : Nat) (st : Status) (a : Nat) : (violTile s n mid d sc st a).hif = s.hif := by
  rw [violTile_touches]
@[simp] theorem violTile_sdio (n mid d sc : Nat) (st : Status) (a : Nat) : (violTile s n mid d sc st a).sdio = s.sdio := by
  rw [violTile_touches]
@[simp] theorem violTile_mgmt (n mid d sc : Nat) (st : Status) (a : Nat) : (violTile s n mid d sc st a).mgmt = s.mgmt := by
  rw [violTile_touches]
@[simp] theorem violTile_mbx (n mid d sc : Nat) (st : Status) (a : Nat) : (violTile s n mid d sc st a).mbx = s.mbx := by
  rw [violTile_touches]
@[simp] theorem violTile_tmr (n mid d sc : Nat) (st : Status) (a : Nat) : (violTile s n mid d sc st a).tmr = s.tmr := by
  rw [violTile_touches]
@[simp] theorem violTile_pwr (n mid d sc : Nat) (st : Status) (a : Nat) : (violTile s n mid d sc st a).pwr = s.pwr := by
  rw [violTile_touches]
@[simp] theorem violTile_sec (n mid d sc : Nat) (st : Status) (a : Nat) : (violTile s n mid d sc st a).sec = s.sec := by
  rw [violTile_touches]
@[simp] theorem violTile_bst (n mid d sc : Nat) (st : Status) (a : Nat) : (violTile s n mid d sc st a).bst = s.bst := by
  rw [violTile_touches]
@[simp] theorem violTile_shape (n mid d sc : Nat) (st : Status) (a : Nat) : (violTile s n mid d sc st a).shape = s.shape := by
  rw [violTile_touches]
@[simp] theorem violTile_ports (n mid d sc : Nat) (st : Status) (a : Nat) : (violTile s n mid d sc st a).ports = s.ports := by
  rw [violTile_touches]
@[simp] theorem violTile_dep (n mid d sc : Nat) (st : Status) (a : Nat) : (violTile s n mid d sc st a).dep = s.dep := by
  rw [violTile_touches]
@[simp] theorem violTile_ingest (n mid d sc : Nat) (st : Status) (a : Nat) : (violTile s n mid d sc st a).ingest = s.ingest := by
  rw [violTile_touches]
@[simp] theorem violTile_results (n mid d sc : Nat) (st : Status) (a : Nat) : (violTile s n mid d sc st a).results = s.results := by
  rw [violTile_touches]
@[simp] theorem violTile_convoys (n mid d sc : Nat) (st : Status) (a : Nat) : (violTile s n mid d sc st a).convoys = s.convoys := by
  rw [violTile_touches]
@[simp] theorem violTile_hubCvy (n mid d sc : Nat) (st : Status) (a : Nat) : (violTile s n mid d sc st a).hubCvy = s.hubCvy := by
  rw [violTile_touches]
@[simp] theorem violTile_shards (n mid d sc : Nat) (st : Status) (a : Nat) : (violTile s n mid d sc st a).shards = s.shards := by
  rw [violTile_touches]
@[simp] theorem violTile_boot (n mid d sc : Nat) (st : Status) (a : Nat) : (violTile s n mid d sc st a).boot = s.boot := by
  rw [violTile_touches]
@[simp] theorem violTile_ddrDone (n mid d sc : Nat) (st : Status) (a : Nat) : (violTile s n mid d sc st a).ddrDone = s.ddrDone := by
  rw [violTile_touches]
@[simp] theorem violTile_asked (n mid d sc : Nat) (st : Status) (a : Nat) : (violTile s n mid d sc st a).asked = s.asked := by
  rw [violTile_touches]
@[simp] theorem violTile_free (n mid d sc : Nat) (st : Status) (a : Nat) : (violTile s n mid d sc st a).free = s.free := by
  rw [violTile_touches]
@[simp] theorem violTile_rdata (n mid d sc : Nat) (st : Status) (a : Nat) : (violTile s n mid d sc st a).rdata = s.rdata := by
  rw [violTile_touches]
@[simp] theorem violTile_pending (n mid d sc : Nat) (st : Status) (a : Nat) : (violTile s n mid d sc st a).pending = s.pending := by
  rw [violTile_touches]
@[simp] theorem getShard_violTile (n mid d sc : Nat) (st : Status) (a : Nat) : getShard (violTile s n mid d sc st a) k = getShard s k := by
  simp [getShard]
@[simp] theorem getPort_violTile (n mid d sc : Nat) (st : Status) (a : Nat) : getPort (violTile s n mid d sc st a) k = getPort s k := by
  simp [getPort]
@[simp] theorem getSq_violTile (n mid d sc : Nat) (st : Status) (a : Nat) : getSq (violTile s n mid d sc st a) k = getSq s k := by
  simp [getSq]
@[simp] theorem getCq_violTile (n mid d sc : Nat) (st : Status) (a : Nat) : getCq (violTile s n mid d sc st a) k = getCq s k := by
  simp [getCq]
@[simp] theorem getIn_violTile (n mid d sc : Nat) (st : Status) (a : Nat) : getIn (violTile s n mid d sc st a) k = getIn s k := by
  simp [getIn]
@[simp] theorem getRes_violTile (n mid d sc : Nat) (st : Status) (a : Nat) : getRes (violTile s n mid d sc st a) k = getRes s k := by
  simp [getRes]
@[simp] theorem getTmr_violTile (n mid d sc : Nat) (st : Status) (a : Nat) : getTmr (violTile s n mid d sc st a) k = getTmr s k := by
  simp [getTmr]
@[simp] theorem getMbx_violTile (n mid d sc : Nat) (st : Status) (a : Nat) : getMbx (violTile s n mid d sc st a) k = getMbx s k := by
  simp [getMbx]

/-! ### `cqWrite` -/

@[simp] theorem cqWrite_nv (n : Nat) (es : List (BitVec 256)) : (cqWrite s n es).nv = s.nv := by
  rw [cqWrite_touches]
@[simp] theorem cqWrite_remap (n : Nat) (es : List (BitVec 256)) : (cqWrite s n es).remap = s.remap := by
  rw [cqWrite_touches]
@[simp] theorem cqWrite_glb (n : Nat) (es : List (BitVec 256)) : (cqWrite s n es).glb = s.glb := by
  rw [cqWrite_touches]
@[simp] theorem cqWrite_sdio (n : Nat) (es : List (BitVec 256)) : (cqWrite s n es).sdio = s.sdio := by
  rw [cqWrite_touches]
@[simp] theorem cqWrite_mgmt (n : Nat) (es : List (BitVec 256)) : (cqWrite s n es).mgmt = s.mgmt := by
  rw [cqWrite_touches]
@[simp] theorem cqWrite_mbx (n : Nat) (es : List (BitVec 256)) : (cqWrite s n es).mbx = s.mbx := by
  rw [cqWrite_touches]
@[simp] theorem cqWrite_tmr (n : Nat) (es : List (BitVec 256)) : (cqWrite s n es).tmr = s.tmr := by
  rw [cqWrite_touches]
@[simp] theorem cqWrite_pwr (n : Nat) (es : List (BitVec 256)) : (cqWrite s n es).pwr = s.pwr := by
  rw [cqWrite_touches]
@[simp] theorem cqWrite_sec (n : Nat) (es : List (BitVec 256)) : (cqWrite s n es).sec = s.sec := by
  rw [cqWrite_touches]
@[simp] theorem cqWrite_bst (n : Nat) (es : List (BitVec 256)) : (cqWrite s n es).bst = s.bst := by
  rw [cqWrite_touches]
@[simp] theorem cqWrite_fab (n : Nat) (es : List (BitVec 256)) : (cqWrite s n es).fab = s.fab := by
  rw [cqWrite_touches]
@[simp] theorem cqWrite_shape (n : Nat) (es : List (BitVec 256)) : (cqWrite s n es).shape = s.shape := by
  rw [cqWrite_touches]
@[simp] theorem cqWrite_ports (n : Nat) (es : List (BitVec 256)) : (cqWrite s n es).ports = s.ports := by
  rw [cqWrite_touches]
@[simp] theorem cqWrite_dep (n : Nat) (es : List (BitVec 256)) : (cqWrite s n es).dep = s.dep := by
  rw [cqWrite_touches]
@[simp] theorem cqWrite_ingest (n : Nat) (es : List (BitVec 256)) : (cqWrite s n es).ingest = s.ingest := by
  rw [cqWrite_touches]
@[simp] theorem cqWrite_results (n : Nat) (es : List (BitVec 256)) : (cqWrite s n es).results = s.results := by
  rw [cqWrite_touches]
@[simp] theorem cqWrite_convoys (n : Nat) (es : List (BitVec 256)) : (cqWrite s n es).convoys = s.convoys := by
  rw [cqWrite_touches]
@[simp] theorem cqWrite_hubCvy (n : Nat) (es : List (BitVec 256)) : (cqWrite s n es).hubCvy = s.hubCvy := by
  rw [cqWrite_touches]
@[simp] theorem cqWrite_shards (n : Nat) (es : List (BitVec 256)) : (cqWrite s n es).shards = s.shards := by
  rw [cqWrite_touches]
@[simp] theorem cqWrite_cores (n : Nat) (es : List (BitVec 256)) : (cqWrite s n es).cores = s.cores := by
  rw [cqWrite_touches]
@[simp] theorem cqWrite_boot (n : Nat) (es : List (BitVec 256)) : (cqWrite s n es).boot = s.boot := by
  rw [cqWrite_touches]
@[simp] theorem cqWrite_ddrDone (n : Nat) (es : List (BitVec 256)) : (cqWrite s n es).ddrDone = s.ddrDone := by
  rw [cqWrite_touches]
@[simp] theorem cqWrite_asked (n : Nat) (es : List (BitVec 256)) : (cqWrite s n es).asked = s.asked := by
  rw [cqWrite_touches]
@[simp] theorem cqWrite_free (n : Nat) (es : List (BitVec 256)) : (cqWrite s n es).free = s.free := by
  rw [cqWrite_touches]
@[simp] theorem cqWrite_rdata (n : Nat) (es : List (BitVec 256)) : (cqWrite s n es).rdata = s.rdata := by
  rw [cqWrite_touches]
@[simp] theorem cqWrite_pending (n : Nat) (es : List (BitVec 256)) : (cqWrite s n es).pending = s.pending := by
  rw [cqWrite_touches]
@[simp] theorem getCore_cqWrite (n : Nat) (es : List (BitVec 256)) : getCore (cqWrite s n es) k = getCore s k := by
  simp [getCore]
@[simp] theorem getShard_cqWrite (n : Nat) (es : List (BitVec 256)) : getShard (cqWrite s n es) k = getShard s k := by
  simp [getShard]
@[simp] theorem getPort_cqWrite (n : Nat) (es : List (BitVec 256)) : getPort (cqWrite s n es) k = getPort s k := by
  simp [getPort]
@[simp] theorem getIn_cqWrite (n : Nat) (es : List (BitVec 256)) : getIn (cqWrite s n es) k = getIn s k := by
  simp [getIn]
@[simp] theorem getRes_cqWrite (n : Nat) (es : List (BitVec 256)) : getRes (cqWrite s n es) k = getRes s k := by
  simp [getRes]
@[simp] theorem getTmr_cqWrite (n : Nat) (es : List (BitVec 256)) : getTmr (cqWrite s n es) k = getTmr s k := by
  simp [getTmr]
@[simp] theorem getMbx_cqWrite (n : Nat) (es : List (BitVec 256)) : getMbx (cqWrite s n es) k = getMbx s k := by
  simp [getMbx]

/-! ### `cqPost` -/

@[simp] theorem cqPost_nv (n : Nat) (es : List (BitVec 256)) : (cqPost s n es).nv = s.nv := by
  rw [cqPost_touches]
@[simp] theorem cqPost_remap (n : Nat) (es : List (BitVec 256)) : (cqPost s n es).remap = s.remap := by
  rw [cqPost_touches]
@[simp] theorem cqPost_glb (n : Nat) (es : List (BitVec 256)) : (cqPost s n es).glb = s.glb := by
  rw [cqPost_touches]
@[simp] theorem cqPost_sdio (n : Nat) (es : List (BitVec 256)) : (cqPost s n es).sdio = s.sdio := by
  rw [cqPost_touches]
@[simp] theorem cqPost_mgmt (n : Nat) (es : List (BitVec 256)) : (cqPost s n es).mgmt = s.mgmt := by
  rw [cqPost_touches]
@[simp] theorem cqPost_mbx (n : Nat) (es : List (BitVec 256)) : (cqPost s n es).mbx = s.mbx := by
  rw [cqPost_touches]
@[simp] theorem cqPost_tmr (n : Nat) (es : List (BitVec 256)) : (cqPost s n es).tmr = s.tmr := by
  rw [cqPost_touches]
@[simp] theorem cqPost_pwr (n : Nat) (es : List (BitVec 256)) : (cqPost s n es).pwr = s.pwr := by
  rw [cqPost_touches]
@[simp] theorem cqPost_sec (n : Nat) (es : List (BitVec 256)) : (cqPost s n es).sec = s.sec := by
  rw [cqPost_touches]
@[simp] theorem cqPost_bst (n : Nat) (es : List (BitVec 256)) : (cqPost s n es).bst = s.bst := by
  rw [cqPost_touches]
@[simp] theorem cqPost_fab (n : Nat) (es : List (BitVec 256)) : (cqPost s n es).fab = s.fab := by
  rw [cqPost_touches]
@[simp] theorem cqPost_shape (n : Nat) (es : List (BitVec 256)) : (cqPost s n es).shape = s.shape := by
  rw [cqPost_touches]
@[simp] theorem cqPost_ports (n : Nat) (es : List (BitVec 256)) : (cqPost s n es).ports = s.ports := by
  rw [cqPost_touches]
@[simp] theorem cqPost_dep (n : Nat) (es : List (BitVec 256)) : (cqPost s n es).dep = s.dep := by
  rw [cqPost_touches]
@[simp] theorem cqPost_ingest (n : Nat) (es : List (BitVec 256)) : (cqPost s n es).ingest = s.ingest := by
  rw [cqPost_touches]
@[simp] theorem cqPost_results (n : Nat) (es : List (BitVec 256)) : (cqPost s n es).results = s.results := by
  rw [cqPost_touches]
@[simp] theorem cqPost_convoys (n : Nat) (es : List (BitVec 256)) : (cqPost s n es).convoys = s.convoys := by
  rw [cqPost_touches]
@[simp] theorem cqPost_hubCvy (n : Nat) (es : List (BitVec 256)) : (cqPost s n es).hubCvy = s.hubCvy := by
  rw [cqPost_touches]
@[simp] theorem cqPost_shards (n : Nat) (es : List (BitVec 256)) : (cqPost s n es).shards = s.shards := by
  rw [cqPost_touches]
@[simp] theorem cqPost_cores (n : Nat) (es : List (BitVec 256)) : (cqPost s n es).cores = s.cores := by
  rw [cqPost_touches]
@[simp] theorem cqPost_boot (n : Nat) (es : List (BitVec 256)) : (cqPost s n es).boot = s.boot := by
  rw [cqPost_touches]
@[simp] theorem cqPost_ddrDone (n : Nat) (es : List (BitVec 256)) : (cqPost s n es).ddrDone = s.ddrDone := by
  rw [cqPost_touches]
@[simp] theorem cqPost_asked (n : Nat) (es : List (BitVec 256)) : (cqPost s n es).asked = s.asked := by
  rw [cqPost_touches]
@[simp] theorem cqPost_free (n : Nat) (es : List (BitVec 256)) : (cqPost s n es).free = s.free := by
  rw [cqPost_touches]
@[simp] theorem cqPost_rdata (n : Nat) (es : List (BitVec 256)) : (cqPost s n es).rdata = s.rdata := by
  rw [cqPost_touches]
@[simp] theorem cqPost_pending (n : Nat) (es : List (BitVec 256)) : (cqPost s n es).pending = s.pending := by
  rw [cqPost_touches]
@[simp] theorem getCore_cqPost (n : Nat) (es : List (BitVec 256)) : getCore (cqPost s n es) k = getCore s k := by
  simp [getCore]
@[simp] theorem getShard_cqPost (n : Nat) (es : List (BitVec 256)) : getShard (cqPost s n es) k = getShard s k := by
  simp [getShard]
@[simp] theorem getPort_cqPost (n : Nat) (es : List (BitVec 256)) : getPort (cqPost s n es) k = getPort s k := by
  simp [getPort]
@[simp] theorem getIn_cqPost (n : Nat) (es : List (BitVec 256)) : getIn (cqPost s n es) k = getIn s k := by
  simp [getIn]
@[simp] theorem getRes_cqPost (n : Nat) (es : List (BitVec 256)) : getRes (cqPost s n es) k = getRes s k := by
  simp [getRes]
@[simp] theorem getTmr_cqPost (n : Nat) (es : List (BitVec 256)) : getTmr (cqPost s n es) k = getTmr s k := by
  simp [getTmr]
@[simp] theorem getMbx_cqPost (n : Nat) (es : List (BitVec 256)) : getMbx (cqPost s n es) k = getMbx s k := by
  simp [getMbx]

/-! ### `modCmd` -/

@[simp] theorem modCmd_nv (h : Nat) (f : Fetched → Fetched) : (modCmd s h f).nv = s.nv := rfl
@[simp] theorem modCmd_remap (h : Nat) (f : Fetched → Fetched) : (modCmd s h f).remap = s.remap := rfl
@[simp] theorem modCmd_glb (h : Nat) (f : Fetched → Fetched) : (modCmd s h f).glb = s.glb := rfl
@[simp] theorem modCmd_sdio (h : Nat) (f : Fetched → Fetched) : (modCmd s h f).sdio = s.sdio := rfl
@[simp] theorem modCmd_mgmt (h : Nat) (f : Fetched → Fetched) : (modCmd s h f).mgmt = s.mgmt := rfl
@[simp] theorem modCmd_mbx (h : Nat) (f : Fetched → Fetched) : (modCmd s h f).mbx = s.mbx := rfl
@[simp] theorem modCmd_tmr (h : Nat) (f : Fetched → Fetched) : (modCmd s h f).tmr = s.tmr := rfl
@[simp] theorem modCmd_pwr (h : Nat) (f : Fetched → Fetched) : (modCmd s h f).pwr = s.pwr := rfl
@[simp] theorem modCmd_sec (h : Nat) (f : Fetched → Fetched) : (modCmd s h f).sec = s.sec := rfl
@[simp] theorem modCmd_bst (h : Nat) (f : Fetched → Fetched) : (modCmd s h f).bst = s.bst := rfl
@[simp] theorem modCmd_fab (h : Nat) (f : Fetched → Fetched) : (modCmd s h f).fab = s.fab := rfl
@[simp] theorem modCmd_shape (h : Nat) (f : Fetched → Fetched) : (modCmd s h f).shape = s.shape := rfl
@[simp] theorem modCmd_ports (h : Nat) (f : Fetched → Fetched) : (modCmd s h f).ports = s.ports := rfl
@[simp] theorem modCmd_dep (h : Nat) (f : Fetched → Fetched) : (modCmd s h f).dep = s.dep := rfl
@[simp] theorem modCmd_ingest (h : Nat) (f : Fetched → Fetched) : (modCmd s h f).ingest = s.ingest := rfl
@[simp] theorem modCmd_results (h : Nat) (f : Fetched → Fetched) : (modCmd s h f).results = s.results := rfl
@[simp] theorem modCmd_convoys (h : Nat) (f : Fetched → Fetched) : (modCmd s h f).convoys = s.convoys := rfl
@[simp] theorem modCmd_hubCvy (h : Nat) (f : Fetched → Fetched) : (modCmd s h f).hubCvy = s.hubCvy := rfl
@[simp] theorem modCmd_shards (h : Nat) (f : Fetched → Fetched) : (modCmd s h f).shards = s.shards := rfl
@[simp] theorem modCmd_cores (h : Nat) (f : Fetched → Fetched) : (modCmd s h f).cores = s.cores := rfl
@[simp] theorem modCmd_boot (h : Nat) (f : Fetched → Fetched) : (modCmd s h f).boot = s.boot := rfl
@[simp] theorem modCmd_ddrDone (h : Nat) (f : Fetched → Fetched) : (modCmd s h f).ddrDone = s.ddrDone := rfl
@[simp] theorem modCmd_asked (h : Nat) (f : Fetched → Fetched) : (modCmd s h f).asked = s.asked := rfl
@[simp] theorem modCmd_free (h : Nat) (f : Fetched → Fetched) : (modCmd s h f).free = s.free := rfl
@[simp] theorem modCmd_rdata (h : Nat) (f : Fetched → Fetched) : (modCmd s h f).rdata = s.rdata := rfl
@[simp] theorem modCmd_pending (h : Nat) (f : Fetched → Fetched) : (modCmd s h f).pending = s.pending := rfl
@[simp] theorem getCore_modCmd (h : Nat) (f : Fetched → Fetched) : getCore (modCmd s h f) k = getCore s k := rfl
@[simp] theorem getShard_modCmd (h : Nat) (f : Fetched → Fetched) : getShard (modCmd s h f) k = getShard s k := rfl
@[simp] theorem getPort_modCmd (h : Nat) (f : Fetched → Fetched) : getPort (modCmd s h f) k = getPort s k := rfl
@[simp] theorem getIn_modCmd (h : Nat) (f : Fetched → Fetched) : getIn (modCmd s h f) k = getIn s k := rfl
@[simp] theorem getRes_modCmd (h : Nat) (f : Fetched → Fetched) : getRes (modCmd s h f) k = getRes s k := rfl
@[simp] theorem getTmr_modCmd (h : Nat) (f : Fetched → Fetched) : getTmr (modCmd s h f) k = getTmr s k := rfl
@[simp] theorem getMbx_modCmd (h : Nat) (f : Fetched → Fetched) : getMbx (modCmd s h f) k = getMbx s k := rfl

/-! ### `started` -/

@[simp] theorem started_nv (h : Nat) : (started s h).nv = s.nv := rfl
@[simp] theorem started_remap (h : Nat) : (started s h).remap = s.remap := rfl
@[simp] theorem started_glb (h : Nat) : (started s h).glb = s.glb := rfl
@[simp] theorem started_sdio (h : Nat) : (started s h).sdio = s.sdio := rfl
@[simp] theorem started_mgmt (h : Nat) : (started s h).mgmt = s.mgmt := rfl
@[simp] theorem started_mbx (h : Nat) : (started s h).mbx = s.mbx := rfl
@[simp] theorem started_tmr (h : Nat) : (started s h).tmr = s.tmr := rfl
@[simp] theorem started_pwr (h : Nat) : (started s h).pwr = s.pwr := rfl
@[simp] theorem started_sec (h : Nat) : (started s h).sec = s.sec := rfl
@[simp] theorem started_bst (h : Nat) : (started s h).bst = s.bst := rfl
@[simp] theorem started_fab (h : Nat) : (started s h).fab = s.fab := rfl
@[simp] theorem started_shape (h : Nat) : (started s h).shape = s.shape := rfl
@[simp] theorem started_ports (h : Nat) : (started s h).ports = s.ports := rfl
@[simp] theorem started_dep (h : Nat) : (started s h).dep = s.dep := rfl
@[simp] theorem started_ingest (h : Nat) : (started s h).ingest = s.ingest := rfl
@[simp] theorem started_results (h : Nat) : (started s h).results = s.results := rfl
@[simp] theorem started_convoys (h : Nat) : (started s h).convoys = s.convoys := rfl
@[simp] theorem started_hubCvy (h : Nat) : (started s h).hubCvy = s.hubCvy := rfl
@[simp] theorem started_shards (h : Nat) : (started s h).shards = s.shards := rfl
@[simp] theorem started_cores (h : Nat) : (started s h).cores = s.cores := rfl
@[simp] theorem started_boot (h : Nat) : (started s h).boot = s.boot := rfl
@[simp] theorem started_ddrDone (h : Nat) : (started s h).ddrDone = s.ddrDone := rfl
@[simp] theorem started_asked (h : Nat) : (started s h).asked = s.asked := rfl
@[simp] theorem started_free (h : Nat) : (started s h).free = s.free := rfl
@[simp] theorem started_rdata (h : Nat) : (started s h).rdata = s.rdata := rfl
@[simp] theorem started_pending (h : Nat) : (started s h).pending = s.pending := rfl
@[simp] theorem getCore_started (h : Nat) : getCore (started s h) k = getCore s k := rfl
@[simp] theorem getShard_started (h : Nat) : getShard (started s h) k = getShard s k := rfl
@[simp] theorem getPort_started (h : Nat) : getPort (started s h) k = getPort s k := rfl
@[simp] theorem getIn_started (h : Nat) : getIn (started s h) k = getIn s k := rfl
@[simp] theorem getRes_started (h : Nat) : getRes (started s h) k = getRes s k := rfl
@[simp] theorem getTmr_started (h : Nat) : getTmr (started s h) k = getTmr s k := rfl
@[simp] theorem getMbx_started (h : Nat) : getMbx (started s h) k = getMbx s k := rfl

/-! ### `dropCmd` -/

@[simp] theorem dropCmd_nv (h : Nat) : (dropCmd s h).nv = s.nv := rfl
@[simp] theorem dropCmd_remap (h : Nat) : (dropCmd s h).remap = s.remap := rfl
@[simp] theorem dropCmd_glb (h : Nat) : (dropCmd s h).glb = s.glb := rfl
@[simp] theorem dropCmd_sdio (h : Nat) : (dropCmd s h).sdio = s.sdio := rfl
@[simp] theorem dropCmd_mbx (h : Nat) : (dropCmd s h).mbx = s.mbx := rfl
@[simp] theorem dropCmd_tmr (h : Nat) : (dropCmd s h).tmr = s.tmr := rfl
@[simp] theorem dropCmd_pwr (h : Nat) : (dropCmd s h).pwr = s.pwr := rfl
@[simp] theorem dropCmd_sec (h : Nat) : (dropCmd s h).sec = s.sec := rfl
@[simp] theorem dropCmd_bst (h : Nat) : (dropCmd s h).bst = s.bst := rfl
@[simp] theorem dropCmd_fab (h : Nat) : (dropCmd s h).fab = s.fab := rfl
@[simp] theorem dropCmd_shape (h : Nat) : (dropCmd s h).shape = s.shape := rfl
@[simp] theorem dropCmd_ports (h : Nat) : (dropCmd s h).ports = s.ports := rfl
@[simp] theorem dropCmd_dep (h : Nat) : (dropCmd s h).dep = s.dep := rfl
@[simp] theorem dropCmd_ingest (h : Nat) : (dropCmd s h).ingest = s.ingest := rfl
@[simp] theorem dropCmd_results (h : Nat) : (dropCmd s h).results = s.results := rfl
@[simp] theorem dropCmd_convoys (h : Nat) : (dropCmd s h).convoys = s.convoys := rfl
@[simp] theorem dropCmd_hubCvy (h : Nat) : (dropCmd s h).hubCvy = s.hubCvy := rfl
@[simp] theorem dropCmd_shards (h : Nat) : (dropCmd s h).shards = s.shards := rfl
@[simp] theorem dropCmd_cores (h : Nat) : (dropCmd s h).cores = s.cores := rfl
@[simp] theorem dropCmd_boot (h : Nat) : (dropCmd s h).boot = s.boot := rfl
@[simp] theorem dropCmd_ddrDone (h : Nat) : (dropCmd s h).ddrDone = s.ddrDone := rfl
@[simp] theorem dropCmd_asked (h : Nat) : (dropCmd s h).asked = s.asked := rfl
@[simp] theorem dropCmd_free (h : Nat) : (dropCmd s h).free = s.free := rfl
@[simp] theorem dropCmd_rdata (h : Nat) : (dropCmd s h).rdata = s.rdata := rfl
@[simp] theorem dropCmd_pending (h : Nat) : (dropCmd s h).pending = s.pending := rfl
@[simp] theorem getCore_dropCmd (h : Nat) : getCore (dropCmd s h) k = getCore s k := rfl
@[simp] theorem getShard_dropCmd (h : Nat) : getShard (dropCmd s h) k = getShard s k := rfl
@[simp] theorem getPort_dropCmd (h : Nat) : getPort (dropCmd s h) k = getPort s k := rfl
@[simp] theorem getIn_dropCmd (h : Nat) : getIn (dropCmd s h) k = getIn s k := rfl
@[simp] theorem getRes_dropCmd (h : Nat) : getRes (dropCmd s h) k = getRes s k := rfl
@[simp] theorem getTmr_dropCmd (h : Nat) : getTmr (dropCmd s h) k = getTmr s k := rfl
@[simp] theorem getMbx_dropCmd (h : Nat) : getMbx (dropCmd s h) k = getMbx s k := rfl

/-! ### `answer` -/

@[simp] theorem answer_nv (f : Fetched) (st : Status) (r : Nat) (ps : List (BitVec 128)) : (answer s f st r ps).nv = s.nv := by
  rw [answer_touches]
@[simp] theorem answer_remap (f : Fetched) (st : Status) (r : Nat) (ps : List (BitVec 128)) : (answer s f st r ps).remap = s.remap := by
  rw [answer_touches]
@[simp] theorem answer_glb (f : Fetched) (st : Status) (r : Nat) (ps : List (BitVec 128)) : (answer s f st r ps).glb = s.glb := by
  rw [answer_touches]
@[simp] theorem answer_mgmt (f : Fetched) (st : Status) (r : Nat) (ps : List (BitVec 128)) : (answer s f st r ps).mgmt = s.mgmt := by
  rw [answer_touches]
@[simp] theorem answer_mbx (f : Fetched) (st : Status) (r : Nat) (ps : List (BitVec 128)) : (answer s f st r ps).mbx = s.mbx := by
  rw [answer_touches]
@[simp] theorem answer_tmr (f : Fetched) (st : Status) (r : Nat) (ps : List (BitVec 128)) : (answer s f st r ps).tmr = s.tmr := by
  rw [answer_touches]
@[simp] theorem answer_pwr (f : Fetched) (st : Status) (r : Nat) (ps : List (BitVec 128)) : (answer s f st r ps).pwr = s.pwr := by
  rw [answer_touches]
@[simp] theorem answer_sec (f : Fetched) (st : Status) (r : Nat) (ps : List (BitVec 128)) : (answer s f st r ps).sec = s.sec := by
  rw [answer_touches]
@[simp] theorem answer_bst (f : Fetched) (st : Status) (r : Nat) (ps : List (BitVec 128)) : (answer s f st r ps).bst = s.bst := by
  rw [answer_touches]
@[simp] theorem answer_shape (f : Fetched) (st : Status) (r : Nat) (ps : List (BitVec 128)) : (answer s f st r ps).shape = s.shape := by
  rw [answer_touches]
@[simp] theorem answer_ports (f : Fetched) (st : Status) (r : Nat) (ps : List (BitVec 128)) : (answer s f st r ps).ports = s.ports := by
  rw [answer_touches]
@[simp] theorem answer_dep (f : Fetched) (st : Status) (r : Nat) (ps : List (BitVec 128)) : (answer s f st r ps).dep = s.dep := by
  rw [answer_touches]
@[simp] theorem answer_ingest (f : Fetched) (st : Status) (r : Nat) (ps : List (BitVec 128)) : (answer s f st r ps).ingest = s.ingest := by
  rw [answer_touches]
@[simp] theorem answer_results (f : Fetched) (st : Status) (r : Nat) (ps : List (BitVec 128)) : (answer s f st r ps).results = s.results := by
  rw [answer_touches]
@[simp] theorem answer_convoys (f : Fetched) (st : Status) (r : Nat) (ps : List (BitVec 128)) : (answer s f st r ps).convoys = s.convoys := by
  rw [answer_touches]
@[simp] theorem answer_hubCvy (f : Fetched) (st : Status) (r : Nat) (ps : List (BitVec 128)) : (answer s f st r ps).hubCvy = s.hubCvy := by
  rw [answer_touches]
@[simp] theorem answer_shards (f : Fetched) (st : Status) (r : Nat) (ps : List (BitVec 128)) : (answer s f st r ps).shards = s.shards := by
  rw [answer_touches]
@[simp] theorem answer_cores (f : Fetched) (st : Status) (r : Nat) (ps : List (BitVec 128)) : (answer s f st r ps).cores = s.cores := by
  rw [answer_touches]
@[simp] theorem answer_boot (f : Fetched) (st : Status) (r : Nat) (ps : List (BitVec 128)) : (answer s f st r ps).boot = s.boot := by
  rw [answer_touches]
@[simp] theorem answer_ddrDone (f : Fetched) (st : Status) (r : Nat) (ps : List (BitVec 128)) : (answer s f st r ps).ddrDone = s.ddrDone := by
  rw [answer_touches]
@[simp] theorem answer_asked (f : Fetched) (st : Status) (r : Nat) (ps : List (BitVec 128)) : (answer s f st r ps).asked = s.asked := by
  rw [answer_touches]
@[simp] theorem answer_free (f : Fetched) (st : Status) (r : Nat) (ps : List (BitVec 128)) : (answer s f st r ps).free = s.free := by
  rw [answer_touches]
@[simp] theorem answer_rdata (f : Fetched) (st : Status) (r : Nat) (ps : List (BitVec 128)) : (answer s f st r ps).rdata = s.rdata := by
  rw [answer_touches]
@[simp] theorem answer_pending (f : Fetched) (st : Status) (r : Nat) (ps : List (BitVec 128)) : (answer s f st r ps).pending = s.pending := by
  rw [answer_touches]
@[simp] theorem getCore_answer (f : Fetched) (st : Status) (r : Nat) (ps : List (BitVec 128)) : getCore (answer s f st r ps) k = getCore s k := by
  simp [getCore]
@[simp] theorem getShard_answer (f : Fetched) (st : Status) (r : Nat) (ps : List (BitVec 128)) : getShard (answer s f st r ps) k = getShard s k := by
  simp [getShard]
@[simp] theorem getPort_answer (f : Fetched) (st : Status) (r : Nat) (ps : List (BitVec 128)) : getPort (answer s f st r ps) k = getPort s k := by
  simp [getPort]
@[simp] theorem getIn_answer (f : Fetched) (st : Status) (r : Nat) (ps : List (BitVec 128)) : getIn (answer s f st r ps) k = getIn s k := by
  simp [getIn]
@[simp] theorem getRes_answer (f : Fetched) (st : Status) (r : Nat) (ps : List (BitVec 128)) : getRes (answer s f st r ps) k = getRes s k := by
  simp [getRes]
@[simp] theorem getTmr_answer (f : Fetched) (st : Status) (r : Nat) (ps : List (BitVec 128)) : getTmr (answer s f st r ps) k = getTmr s k := by
  simp [getTmr]
@[simp] theorem getMbx_answer (f : Fetched) (st : Status) (r : Nat) (ps : List (BitVec 128)) : getMbx (answer s f st r ps) k = getMbx s k := by
  simp [getMbx]

/-! ### `complete` -/

@[simp] theorem complete_nv (h : Nat) (st : Status) (r : Nat) (ps : List (BitVec 128)) : (complete s h st r ps).nv = s.nv := by
  rw [complete_touches]
@[simp] theorem complete_remap (h : Nat) (st : Status) (r : Nat) (ps : List (BitVec 128)) : (complete s h st r ps).remap = s.remap := by
  rw [complete_touches]
@[simp] theorem complete_glb (h : Nat) (st : Status) (r : Nat) (ps : List (BitVec 128)) : (complete s h st r ps).glb = s.glb := by
  rw [complete_touches]
@[simp] theorem complete_mbx (h : Nat) (st : Status) (r : Nat) (ps : List (BitVec 128)) : (complete s h st r ps).mbx = s.mbx := by
  rw [complete_touches]
@[simp] theorem complete_tmr (h : Nat) (st : Status) (r : Nat) (ps : List (BitVec 128)) : (complete s h st r ps).tmr = s.tmr := by
  rw [complete_touches]
@[simp] theorem complete_pwr (h : Nat) (st : Status) (r : Nat) (ps : List (BitVec 128)) : (complete s h st r ps).pwr = s.pwr := by
  rw [complete_touches]
@[simp] theorem complete_sec (h : Nat) (st : Status) (r : Nat) (ps : List (BitVec 128)) : (complete s h st r ps).sec = s.sec := by
  rw [complete_touches]
@[simp] theorem complete_bst (h : Nat) (st : Status) (r : Nat) (ps : List (BitVec 128)) : (complete s h st r ps).bst = s.bst := by
  rw [complete_touches]
@[simp] theorem complete_shape (h : Nat) (st : Status) (r : Nat) (ps : List (BitVec 128)) : (complete s h st r ps).shape = s.shape := by
  rw [complete_touches]
@[simp] theorem complete_ports (h : Nat) (st : Status) (r : Nat) (ps : List (BitVec 128)) : (complete s h st r ps).ports = s.ports := by
  rw [complete_touches]
@[simp] theorem complete_dep (h : Nat) (st : Status) (r : Nat) (ps : List (BitVec 128)) : (complete s h st r ps).dep = s.dep := by
  rw [complete_touches]
@[simp] theorem complete_ingest (h : Nat) (st : Status) (r : Nat) (ps : List (BitVec 128)) : (complete s h st r ps).ingest = s.ingest := by
  rw [complete_touches]
@[simp] theorem complete_results (h : Nat) (st : Status) (r : Nat) (ps : List (BitVec 128)) : (complete s h st r ps).results = s.results := by
  rw [complete_touches]
@[simp] theorem complete_convoys (h : Nat) (st : Status) (r : Nat) (ps : List (BitVec 128)) : (complete s h st r ps).convoys = s.convoys := by
  rw [complete_touches]
@[simp] theorem complete_hubCvy (h : Nat) (st : Status) (r : Nat) (ps : List (BitVec 128)) : (complete s h st r ps).hubCvy = s.hubCvy := by
  rw [complete_touches]
@[simp] theorem complete_shards (h : Nat) (st : Status) (r : Nat) (ps : List (BitVec 128)) : (complete s h st r ps).shards = s.shards := by
  rw [complete_touches]
@[simp] theorem complete_cores (h : Nat) (st : Status) (r : Nat) (ps : List (BitVec 128)) : (complete s h st r ps).cores = s.cores := by
  rw [complete_touches]
@[simp] theorem complete_boot (h : Nat) (st : Status) (r : Nat) (ps : List (BitVec 128)) : (complete s h st r ps).boot = s.boot := by
  rw [complete_touches]
@[simp] theorem complete_ddrDone (h : Nat) (st : Status) (r : Nat) (ps : List (BitVec 128)) : (complete s h st r ps).ddrDone = s.ddrDone := by
  rw [complete_touches]
@[simp] theorem complete_asked (h : Nat) (st : Status) (r : Nat) (ps : List (BitVec 128)) : (complete s h st r ps).asked = s.asked := by
  rw [complete_touches]
@[simp] theorem complete_free (h : Nat) (st : Status) (r : Nat) (ps : List (BitVec 128)) : (complete s h st r ps).free = s.free := by
  rw [complete_touches]
@[simp] theorem complete_rdata (h : Nat) (st : Status) (r : Nat) (ps : List (BitVec 128)) : (complete s h st r ps).rdata = s.rdata := by
  rw [complete_touches]
@[simp] theorem complete_pending (h : Nat) (st : Status) (r : Nat) (ps : List (BitVec 128)) : (complete s h st r ps).pending = s.pending := by
  rw [complete_touches]
@[simp] theorem getCore_complete (h : Nat) (st : Status) (r : Nat) (ps : List (BitVec 128)) : getCore (complete s h st r ps) k = getCore s k := by
  simp [getCore]
@[simp] theorem getShard_complete (h : Nat) (st : Status) (r : Nat) (ps : List (BitVec 128)) : getShard (complete s h st r ps) k = getShard s k := by
  simp [getShard]
@[simp] theorem getPort_complete (h : Nat) (st : Status) (r : Nat) (ps : List (BitVec 128)) : getPort (complete s h st r ps) k = getPort s k := by
  simp [getPort]
@[simp] theorem getIn_complete (h : Nat) (st : Status) (r : Nat) (ps : List (BitVec 128)) : getIn (complete s h st r ps) k = getIn s k := by
  simp [getIn]
@[simp] theorem getRes_complete (h : Nat) (st : Status) (r : Nat) (ps : List (BitVec 128)) : getRes (complete s h st r ps) k = getRes s k := by
  simp [getRes]
@[simp] theorem getTmr_complete (h : Nat) (st : Status) (r : Nat) (ps : List (BitVec 128)) : getTmr (complete s h st r ps) k = getTmr s k := by
  simp [getTmr]
@[simp] theorem getMbx_complete (h : Nat) (st : Status) (r : Nat) (ps : List (BitVec 128)) : getMbx (complete s h st r ps) k = getMbx s k := by
  simp [getMbx]

/-! ### `begun` -/

@[simp] theorem begun_nv (h : Nat) : (begun s h).nv = s.nv := rfl
@[simp] theorem begun_remap (h : Nat) : (begun s h).remap = s.remap := rfl
@[simp] theorem begun_glb (h : Nat) : (begun s h).glb = s.glb := rfl
@[simp] theorem begun_sdio (h : Nat) : (begun s h).sdio = s.sdio := rfl
@[simp] theorem begun_mbx (h : Nat) : (begun s h).mbx = s.mbx := rfl
@[simp] theorem begun_tmr (h : Nat) : (begun s h).tmr = s.tmr := rfl
@[simp] theorem begun_pwr (h : Nat) : (begun s h).pwr = s.pwr := rfl
@[simp] theorem begun_sec (h : Nat) : (begun s h).sec = s.sec := rfl
@[simp] theorem begun_bst (h : Nat) : (begun s h).bst = s.bst := rfl
@[simp] theorem begun_fab (h : Nat) : (begun s h).fab = s.fab := rfl
@[simp] theorem begun_shape (h : Nat) : (begun s h).shape = s.shape := rfl
@[simp] theorem begun_ports (h : Nat) : (begun s h).ports = s.ports := rfl
@[simp] theorem begun_dep (h : Nat) : (begun s h).dep = s.dep := rfl
@[simp] theorem begun_ingest (h : Nat) : (begun s h).ingest = s.ingest := rfl
@[simp] theorem begun_results (h : Nat) : (begun s h).results = s.results := rfl
@[simp] theorem begun_convoys (h : Nat) : (begun s h).convoys = s.convoys := rfl
@[simp] theorem begun_hubCvy (h : Nat) : (begun s h).hubCvy = s.hubCvy := rfl
@[simp] theorem begun_shards (h : Nat) : (begun s h).shards = s.shards := rfl
@[simp] theorem begun_cores (h : Nat) : (begun s h).cores = s.cores := rfl
@[simp] theorem begun_boot (h : Nat) : (begun s h).boot = s.boot := rfl
@[simp] theorem begun_ddrDone (h : Nat) : (begun s h).ddrDone = s.ddrDone := rfl
@[simp] theorem begun_asked (h : Nat) : (begun s h).asked = s.asked := rfl
@[simp] theorem begun_free (h : Nat) : (begun s h).free = s.free := rfl
@[simp] theorem begun_rdata (h : Nat) : (begun s h).rdata = s.rdata := rfl
@[simp] theorem begun_pending (h : Nat) : (begun s h).pending = s.pending := rfl
@[simp] theorem getCore_begun (h : Nat) : getCore (begun s h) k = getCore s k := rfl
@[simp] theorem getShard_begun (h : Nat) : getShard (begun s h) k = getShard s k := rfl
@[simp] theorem getPort_begun (h : Nat) : getPort (begun s h) k = getPort s k := rfl
@[simp] theorem getIn_begun (h : Nat) : getIn (begun s h) k = getIn s k := rfl
@[simp] theorem getRes_begun (h : Nat) : getRes (begun s h) k = getRes s k := rfl
@[simp] theorem getTmr_begun (h : Nat) : getTmr (begun s h) k = getTmr s k := rfl
@[simp] theorem getMbx_begun (h : Nat) : getMbx (begun s h) k = getMbx s k := rfl

/-! ### `notice` -/

@[simp] theorem notice_nv (c : Nat) (x : Notice) : (notice s c x).nv = s.nv := by
  rw [notice_touches]
@[simp] theorem notice_remap (c : Nat) (x : Notice) : (notice s c x).remap = s.remap := by
  rw [notice_touches]
@[simp] theorem notice_glb (c : Nat) (x : Notice) : (notice s c x).glb = s.glb := by
  rw [notice_touches]
@[simp] theorem notice_sdio (c : Nat) (x : Notice) : (notice s c x).sdio = s.sdio := by
  rw [notice_touches]
@[simp] theorem notice_mgmt (c : Nat) (x : Notice) : (notice s c x).mgmt = s.mgmt := by
  rw [notice_touches]
@[simp] theorem notice_mbx (c : Nat) (x : Notice) : (notice s c x).mbx = s.mbx := by
  rw [notice_touches]
@[simp] theorem notice_tmr (c : Nat) (x : Notice) : (notice s c x).tmr = s.tmr := by
  rw [notice_touches]
@[simp] theorem notice_pwr (c : Nat) (x : Notice) : (notice s c x).pwr = s.pwr := by
  rw [notice_touches]
@[simp] theorem notice_sec (c : Nat) (x : Notice) : (notice s c x).sec = s.sec := by
  rw [notice_touches]
@[simp] theorem notice_bst (c : Nat) (x : Notice) : (notice s c x).bst = s.bst := by
  rw [notice_touches]
@[simp] theorem notice_fab (c : Nat) (x : Notice) : (notice s c x).fab = s.fab := by
  rw [notice_touches]
@[simp] theorem notice_shape (c : Nat) (x : Notice) : (notice s c x).shape = s.shape := by
  rw [notice_touches]
@[simp] theorem notice_ports (c : Nat) (x : Notice) : (notice s c x).ports = s.ports := by
  rw [notice_touches]
@[simp] theorem notice_dep (c : Nat) (x : Notice) : (notice s c x).dep = s.dep := by
  rw [notice_touches]
@[simp] theorem notice_ingest (c : Nat) (x : Notice) : (notice s c x).ingest = s.ingest := by
  rw [notice_touches]
@[simp] theorem notice_results (c : Nat) (x : Notice) : (notice s c x).results = s.results := by
  rw [notice_touches]
@[simp] theorem notice_convoys (c : Nat) (x : Notice) : (notice s c x).convoys = s.convoys := by
  rw [notice_touches]
@[simp] theorem notice_hubCvy (c : Nat) (x : Notice) : (notice s c x).hubCvy = s.hubCvy := by
  rw [notice_touches]
@[simp] theorem notice_cores (c : Nat) (x : Notice) : (notice s c x).cores = s.cores := by
  rw [notice_touches]
@[simp] theorem notice_boot (c : Nat) (x : Notice) : (notice s c x).boot = s.boot := by
  rw [notice_touches]
@[simp] theorem notice_ddrDone (c : Nat) (x : Notice) : (notice s c x).ddrDone = s.ddrDone := by
  rw [notice_touches]
@[simp] theorem notice_asked (c : Nat) (x : Notice) : (notice s c x).asked = s.asked := by
  rw [notice_touches]
@[simp] theorem notice_free (c : Nat) (x : Notice) : (notice s c x).free = s.free := by
  rw [notice_touches]
@[simp] theorem notice_rdata (c : Nat) (x : Notice) : (notice s c x).rdata = s.rdata := by
  rw [notice_touches]
@[simp] theorem notice_pending (c : Nat) (x : Notice) : (notice s c x).pending = s.pending := by
  rw [notice_touches]
@[simp] theorem getCore_notice (c : Nat) (x : Notice) : getCore (notice s c x) k = getCore s k := by
  simp [getCore]
@[simp] theorem getPort_notice (c : Nat) (x : Notice) : getPort (notice s c x) k = getPort s k := by
  simp [getPort]
@[simp] theorem getIn_notice (c : Nat) (x : Notice) : getIn (notice s c x) k = getIn s k := by
  simp [getIn]
@[simp] theorem getRes_notice (c : Nat) (x : Notice) : getRes (notice s c x) k = getRes s k := by
  simp [getRes]
@[simp] theorem getTmr_notice (c : Nat) (x : Notice) : getTmr (notice s c x) k = getTmr s k := by
  simp [getTmr]
@[simp] theorem getMbx_notice (c : Nat) (x : Notice) : getMbx (notice s c x) k = getMbx s k := by
  simp [getMbx]

/-! ### `noticeAll` -/

@[simp] theorem noticeAll_nv (cs : List Nat) (x : Notice) : (noticeAll s cs x).nv = s.nv := by
  rw [noticeAll_touches]
@[simp] theorem noticeAll_remap (cs : List Nat) (x : Notice) : (noticeAll s cs x).remap = s.remap := by
  rw [noticeAll_touches]
@[simp] theorem noticeAll_glb (cs : List Nat) (x : Notice) : (noticeAll s cs x).glb = s.glb := by
  rw [noticeAll_touches]
@[simp] theorem noticeAll_sdio (cs : List Nat) (x : Notice) : (noticeAll s cs x).sdio = s.sdio := by
  rw [noticeAll_touches]
@[simp] theorem noticeAll_mgmt (cs : List Nat) (x : Notice) : (noticeAll s cs x).mgmt = s.mgmt := by
  rw [noticeAll_touches]
@[simp] theorem noticeAll_mbx (cs : List Nat) (x : Notice) : (noticeAll s cs x).mbx = s.mbx := by
  rw [noticeAll_touches]
@[simp] theorem noticeAll_tmr (cs : List Nat) (x : Notice) : (noticeAll s cs x).tmr = s.tmr := by
  rw [noticeAll_touches]
@[simp] theorem noticeAll_pwr (cs : List Nat) (x : Notice) : (noticeAll s cs x).pwr = s.pwr := by
  rw [noticeAll_touches]
@[simp] theorem noticeAll_sec (cs : List Nat) (x : Notice) : (noticeAll s cs x).sec = s.sec := by
  rw [noticeAll_touches]
@[simp] theorem noticeAll_bst (cs : List Nat) (x : Notice) : (noticeAll s cs x).bst = s.bst := by
  rw [noticeAll_touches]
@[simp] theorem noticeAll_fab (cs : List Nat) (x : Notice) : (noticeAll s cs x).fab = s.fab := by
  rw [noticeAll_touches]
@[simp] theorem noticeAll_shape (cs : List Nat) (x : Notice) : (noticeAll s cs x).shape = s.shape := by
  rw [noticeAll_touches]
@[simp] theorem noticeAll_ports (cs : List Nat) (x : Notice) : (noticeAll s cs x).ports = s.ports := by
  rw [noticeAll_touches]
@[simp] theorem noticeAll_dep (cs : List Nat) (x : Notice) : (noticeAll s cs x).dep = s.dep := by
  rw [noticeAll_touches]
@[simp] theorem noticeAll_ingest (cs : List Nat) (x : Notice) : (noticeAll s cs x).ingest = s.ingest := by
  rw [noticeAll_touches]
@[simp] theorem noticeAll_results (cs : List Nat) (x : Notice) : (noticeAll s cs x).results = s.results := by
  rw [noticeAll_touches]
@[simp] theorem noticeAll_convoys (cs : List Nat) (x : Notice) : (noticeAll s cs x).convoys = s.convoys := by
  rw [noticeAll_touches]
@[simp] theorem noticeAll_hubCvy (cs : List Nat) (x : Notice) : (noticeAll s cs x).hubCvy = s.hubCvy := by
  rw [noticeAll_touches]
@[simp] theorem noticeAll_cores (cs : List Nat) (x : Notice) : (noticeAll s cs x).cores = s.cores := by
  rw [noticeAll_touches]
@[simp] theorem noticeAll_boot (cs : List Nat) (x : Notice) : (noticeAll s cs x).boot = s.boot := by
  rw [noticeAll_touches]
@[simp] theorem noticeAll_ddrDone (cs : List Nat) (x : Notice) : (noticeAll s cs x).ddrDone = s.ddrDone := by
  rw [noticeAll_touches]
@[simp] theorem noticeAll_asked (cs : List Nat) (x : Notice) : (noticeAll s cs x).asked = s.asked := by
  rw [noticeAll_touches]
@[simp] theorem noticeAll_free (cs : List Nat) (x : Notice) : (noticeAll s cs x).free = s.free := by
  rw [noticeAll_touches]
@[simp] theorem noticeAll_rdata (cs : List Nat) (x : Notice) : (noticeAll s cs x).rdata = s.rdata := by
  rw [noticeAll_touches]
@[simp] theorem noticeAll_pending (cs : List Nat) (x : Notice) : (noticeAll s cs x).pending = s.pending := by
  rw [noticeAll_touches]
@[simp] theorem getCore_noticeAll (cs : List Nat) (x : Notice) : getCore (noticeAll s cs x) k = getCore s k := by
  simp [getCore]
@[simp] theorem getPort_noticeAll (cs : List Nat) (x : Notice) : getPort (noticeAll s cs x) k = getPort s k := by
  simp [getPort]
@[simp] theorem getIn_noticeAll (cs : List Nat) (x : Notice) : getIn (noticeAll s cs x) k = getIn s k := by
  simp [getIn]
@[simp] theorem getRes_noticeAll (cs : List Nat) (x : Notice) : getRes (noticeAll s cs x) k = getRes s k := by
  simp [getRes]
@[simp] theorem getTmr_noticeAll (cs : List Nat) (x : Notice) : getTmr (noticeAll s cs x) k = getTmr s k := by
  simp [getTmr]
@[simp] theorem getMbx_noticeAll (cs : List Nat) (x : Notice) : getMbx (noticeAll s cs x) k = getMbx s k := by
  simp [getMbx]

/-! ### `hubTake` -/

@[simp] theorem hubTake_nv (p : Packet) : (hubTake s p).nv = s.nv := rfl
@[simp] theorem hubTake_remap (p : Packet) : (hubTake s p).remap = s.remap := rfl
@[simp] theorem hubTake_glb (p : Packet) : (hubTake s p).glb = s.glb := rfl
@[simp] theorem hubTake_hif (p : Packet) : (hubTake s p).hif = s.hif := rfl
@[simp] theorem hubTake_sdio (p : Packet) : (hubTake s p).sdio = s.sdio := rfl
@[simp] theorem hubTake_mgmt (p : Packet) : (hubTake s p).mgmt = s.mgmt := rfl
@[simp] theorem hubTake_mbx (p : Packet) : (hubTake s p).mbx = s.mbx := rfl
@[simp] theorem hubTake_tmr (p : Packet) : (hubTake s p).tmr = s.tmr := rfl
@[simp] theorem hubTake_pwr (p : Packet) : (hubTake s p).pwr = s.pwr := rfl
@[simp] theorem hubTake_sec (p : Packet) : (hubTake s p).sec = s.sec := rfl
@[simp] theorem hubTake_bst (p : Packet) : (hubTake s p).bst = s.bst := rfl
@[simp] theorem hubTake_shape (p : Packet) : (hubTake s p).shape = s.shape := rfl
@[simp] theorem hubTake_ports (p : Packet) : (hubTake s p).ports = s.ports := rfl
@[simp] theorem hubTake_dep (p : Packet) : (hubTake s p).dep = s.dep := rfl
@[simp] theorem hubTake_ingest (p : Packet) : (hubTake s p).ingest = s.ingest := rfl
@[simp] theorem hubTake_results (p : Packet) : (hubTake s p).results = s.results := rfl
@[simp] theorem hubTake_convoys (p : Packet) : (hubTake s p).convoys = s.convoys := rfl
@[simp] theorem hubTake_hubCvy (p : Packet) : (hubTake s p).hubCvy = s.hubCvy := rfl
@[simp] theorem hubTake_shards (p : Packet) : (hubTake s p).shards = s.shards := rfl
@[simp] theorem hubTake_cores (p : Packet) : (hubTake s p).cores = s.cores := rfl
@[simp] theorem hubTake_boot (p : Packet) : (hubTake s p).boot = s.boot := rfl
@[simp] theorem hubTake_ddrDone (p : Packet) : (hubTake s p).ddrDone = s.ddrDone := rfl
@[simp] theorem hubTake_asked (p : Packet) : (hubTake s p).asked = s.asked := rfl
@[simp] theorem hubTake_free (p : Packet) : (hubTake s p).free = s.free := rfl
@[simp] theorem hubTake_rdata (p : Packet) : (hubTake s p).rdata = s.rdata := rfl
@[simp] theorem hubTake_pending (p : Packet) : (hubTake s p).pending = s.pending := rfl
@[simp] theorem getCore_hubTake (p : Packet) : getCore (hubTake s p) k = getCore s k := rfl
@[simp] theorem getShard_hubTake (p : Packet) : getShard (hubTake s p) k = getShard s k := rfl
@[simp] theorem getPort_hubTake (p : Packet) : getPort (hubTake s p) k = getPort s k := rfl
@[simp] theorem getSq_hubTake (p : Packet) : getSq (hubTake s p) k = getSq s k := rfl
@[simp] theorem getCq_hubTake (p : Packet) : getCq (hubTake s p) k = getCq s k := rfl
@[simp] theorem getIn_hubTake (p : Packet) : getIn (hubTake s p) k = getIn s k := rfl
@[simp] theorem getRes_hubTake (p : Packet) : getRes (hubTake s p) k = getRes s k := rfl
@[simp] theorem getTmr_hubTake (p : Packet) : getTmr (hubTake s p) k = getTmr s k := rfl
@[simp] theorem getMbx_hubTake (p : Packet) : getMbx (hubTake s p) k = getMbx s k := rfl

/-! ### `hubDone` -/

@[simp] theorem hubDone_nv (p : Packet) : (hubDone s p).nv = s.nv := rfl
@[simp] theorem hubDone_remap (p : Packet) : (hubDone s p).remap = s.remap := rfl
@[simp] theorem hubDone_glb (p : Packet) : (hubDone s p).glb = s.glb := rfl
@[simp] theorem hubDone_hif (p : Packet) : (hubDone s p).hif = s.hif := rfl
@[simp] theorem hubDone_sdio (p : Packet) : (hubDone s p).sdio = s.sdio := rfl
@[simp] theorem hubDone_mgmt (p : Packet) : (hubDone s p).mgmt = s.mgmt := rfl
@[simp] theorem hubDone_mbx (p : Packet) : (hubDone s p).mbx = s.mbx := rfl
@[simp] theorem hubDone_tmr (p : Packet) : (hubDone s p).tmr = s.tmr := rfl
@[simp] theorem hubDone_pwr (p : Packet) : (hubDone s p).pwr = s.pwr := rfl
@[simp] theorem hubDone_sec (p : Packet) : (hubDone s p).sec = s.sec := rfl
@[simp] theorem hubDone_bst (p : Packet) : (hubDone s p).bst = s.bst := rfl
@[simp] theorem hubDone_shape (p : Packet) : (hubDone s p).shape = s.shape := rfl
@[simp] theorem hubDone_ports (p : Packet) : (hubDone s p).ports = s.ports := rfl
@[simp] theorem hubDone_dep (p : Packet) : (hubDone s p).dep = s.dep := rfl
@[simp] theorem hubDone_ingest (p : Packet) : (hubDone s p).ingest = s.ingest := rfl
@[simp] theorem hubDone_results (p : Packet) : (hubDone s p).results = s.results := rfl
@[simp] theorem hubDone_convoys (p : Packet) : (hubDone s p).convoys = s.convoys := rfl
@[simp] theorem hubDone_hubCvy (p : Packet) : (hubDone s p).hubCvy = s.hubCvy := rfl
@[simp] theorem hubDone_shards (p : Packet) : (hubDone s p).shards = s.shards := rfl
@[simp] theorem hubDone_cores (p : Packet) : (hubDone s p).cores = s.cores := rfl
@[simp] theorem hubDone_boot (p : Packet) : (hubDone s p).boot = s.boot := rfl
@[simp] theorem hubDone_ddrDone (p : Packet) : (hubDone s p).ddrDone = s.ddrDone := rfl
@[simp] theorem hubDone_asked (p : Packet) : (hubDone s p).asked = s.asked := rfl
@[simp] theorem hubDone_free (p : Packet) : (hubDone s p).free = s.free := rfl
@[simp] theorem hubDone_rdata (p : Packet) : (hubDone s p).rdata = s.rdata := rfl
@[simp] theorem hubDone_pending (p : Packet) : (hubDone s p).pending = s.pending := rfl
@[simp] theorem getCore_hubDone (p : Packet) : getCore (hubDone s p) k = getCore s k := rfl
@[simp] theorem getShard_hubDone (p : Packet) : getShard (hubDone s p) k = getShard s k := rfl
@[simp] theorem getPort_hubDone (p : Packet) : getPort (hubDone s p) k = getPort s k := rfl
@[simp] theorem getSq_hubDone (p : Packet) : getSq (hubDone s p) k = getSq s k := rfl
@[simp] theorem getCq_hubDone (p : Packet) : getCq (hubDone s p) k = getCq s k := rfl
@[simp] theorem getIn_hubDone (p : Packet) : getIn (hubDone s p) k = getIn s k := rfl
@[simp] theorem getRes_hubDone (p : Packet) : getRes (hubDone s p) k = getRes s k := rfl
@[simp] theorem getTmr_hubDone (p : Packet) : getTmr (hubDone s p) k = getTmr s k := rfl
@[simp] theorem getMbx_hubDone (p : Packet) : getMbx (hubDone s p) k = getMbx s k := rfl

/-! ### `portDone` -/

@[simp] theorem portDone_nv (n : Nat) (p : Packet) : (portDone s n p).nv = s.nv := rfl
@[simp] theorem portDone_remap (n : Nat) (p : Packet) : (portDone s n p).remap = s.remap := rfl
@[simp] theorem portDone_glb (n : Nat) (p : Packet) : (portDone s n p).glb = s.glb := rfl
@[simp] theorem portDone_hif (n : Nat) (p : Packet) : (portDone s n p).hif = s.hif := rfl
@[simp] theorem portDone_sdio (n : Nat) (p : Packet) : (portDone s n p).sdio = s.sdio := rfl
@[simp] theorem portDone_mgmt (n : Nat) (p : Packet) : (portDone s n p).mgmt = s.mgmt := rfl
@[simp] theorem portDone_mbx (n : Nat) (p : Packet) : (portDone s n p).mbx = s.mbx := rfl
@[simp] theorem portDone_tmr (n : Nat) (p : Packet) : (portDone s n p).tmr = s.tmr := rfl
@[simp] theorem portDone_pwr (n : Nat) (p : Packet) : (portDone s n p).pwr = s.pwr := rfl
@[simp] theorem portDone_sec (n : Nat) (p : Packet) : (portDone s n p).sec = s.sec := rfl
@[simp] theorem portDone_bst (n : Nat) (p : Packet) : (portDone s n p).bst = s.bst := rfl
@[simp] theorem portDone_fab (n : Nat) (p : Packet) : (portDone s n p).fab = s.fab := rfl
@[simp] theorem portDone_shape (n : Nat) (p : Packet) : (portDone s n p).shape = s.shape := rfl
@[simp] theorem portDone_ports (n : Nat) (p : Packet) : (portDone s n p).ports = s.ports := rfl
@[simp] theorem portDone_dep (n : Nat) (p : Packet) : (portDone s n p).dep = s.dep := rfl
@[simp] theorem portDone_ingest (n : Nat) (p : Packet) : (portDone s n p).ingest = s.ingest := rfl
@[simp] theorem portDone_results (n : Nat) (p : Packet) : (portDone s n p).results = s.results := rfl
@[simp] theorem portDone_convoys (n : Nat) (p : Packet) : (portDone s n p).convoys = s.convoys := rfl
@[simp] theorem portDone_hubCvy (n : Nat) (p : Packet) : (portDone s n p).hubCvy = s.hubCvy := rfl
@[simp] theorem portDone_shards (n : Nat) (p : Packet) : (portDone s n p).shards = s.shards := rfl
@[simp] theorem portDone_boot (n : Nat) (p : Packet) : (portDone s n p).boot = s.boot := rfl
@[simp] theorem portDone_ddrDone (n : Nat) (p : Packet) : (portDone s n p).ddrDone = s.ddrDone := rfl
@[simp] theorem portDone_asked (n : Nat) (p : Packet) : (portDone s n p).asked = s.asked := rfl
@[simp] theorem portDone_free (n : Nat) (p : Packet) : (portDone s n p).free = s.free := rfl
@[simp] theorem portDone_rdata (n : Nat) (p : Packet) : (portDone s n p).rdata = s.rdata := rfl
@[simp] theorem portDone_pending (n : Nat) (p : Packet) : (portDone s n p).pending = s.pending := rfl
@[simp] theorem getShard_portDone (n : Nat) (p : Packet) : getShard (portDone s n p) k = getShard s k := rfl
@[simp] theorem getPort_portDone (n : Nat) (p : Packet) : getPort (portDone s n p) k = getPort s k := rfl
@[simp] theorem getSq_portDone (n : Nat) (p : Packet) : getSq (portDone s n p) k = getSq s k := rfl
@[simp] theorem getCq_portDone (n : Nat) (p : Packet) : getCq (portDone s n p) k = getCq s k := rfl
@[simp] theorem getIn_portDone (n : Nat) (p : Packet) : getIn (portDone s n p) k = getIn s k := rfl
@[simp] theorem getRes_portDone (n : Nat) (p : Packet) : getRes (portDone s n p) k = getRes s k := rfl
@[simp] theorem getTmr_portDone (n : Nat) (p : Packet) : getTmr (portDone s n p) k = getTmr s k := rfl
@[simp] theorem getMbx_portDone (n : Nat) (p : Packet) : getMbx (portDone s n p) k = getMbx s k := rfl

/-! ### `modShardCores` -/

@[simp] theorem modShardCores_nv (c : Nat) (f : Nat → Core → Core) : (modShardCores s c f).nv = s.nv := by
  rw [modShardCores_touches]
@[simp] theorem modShardCores_remap (c : Nat) (f : Nat → Core → Core) : (modShardCores s c f).remap = s.remap := by
  rw [modShardCores_touches]
@[simp] theorem modShardCores_glb (c : Nat) (f : Nat → Core → Core) : (modShardCores s c f).glb = s.glb := by
  rw [modShardCores_touches]
@[simp] theorem modShardCores_hif (c : Nat) (f : Nat → Core → Core) : (modShardCores s c f).hif = s.hif := by
  rw [modShardCores_touches]
@[simp] theorem modShardCores_sdio (c : Nat) (f : Nat → Core → Core) : (modShardCores s c f).sdio = s.sdio := by
  rw [modShardCores_touches]
@[simp] theorem modShardCores_mgmt (c : Nat) (f : Nat → Core → Core) : (modShardCores s c f).mgmt = s.mgmt := by
  rw [modShardCores_touches]
@[simp] theorem modShardCores_mbx (c : Nat) (f : Nat → Core → Core) : (modShardCores s c f).mbx = s.mbx := by
  rw [modShardCores_touches]
@[simp] theorem modShardCores_tmr (c : Nat) (f : Nat → Core → Core) : (modShardCores s c f).tmr = s.tmr := by
  rw [modShardCores_touches]
@[simp] theorem modShardCores_pwr (c : Nat) (f : Nat → Core → Core) : (modShardCores s c f).pwr = s.pwr := by
  rw [modShardCores_touches]
@[simp] theorem modShardCores_sec (c : Nat) (f : Nat → Core → Core) : (modShardCores s c f).sec = s.sec := by
  rw [modShardCores_touches]
@[simp] theorem modShardCores_bst (c : Nat) (f : Nat → Core → Core) : (modShardCores s c f).bst = s.bst := by
  rw [modShardCores_touches]
@[simp] theorem modShardCores_fab (c : Nat) (f : Nat → Core → Core) : (modShardCores s c f).fab = s.fab := by
  rw [modShardCores_touches]
@[simp] theorem modShardCores_shape (c : Nat) (f : Nat → Core → Core) : (modShardCores s c f).shape = s.shape := by
  rw [modShardCores_touches]
@[simp] theorem modShardCores_ports (c : Nat) (f : Nat → Core → Core) : (modShardCores s c f).ports = s.ports := by
  rw [modShardCores_touches]
@[simp] theorem modShardCores_dep (c : Nat) (f : Nat → Core → Core) : (modShardCores s c f).dep = s.dep := by
  rw [modShardCores_touches]
@[simp] theorem modShardCores_ingest (c : Nat) (f : Nat → Core → Core) : (modShardCores s c f).ingest = s.ingest := by
  rw [modShardCores_touches]
@[simp] theorem modShardCores_results (c : Nat) (f : Nat → Core → Core) : (modShardCores s c f).results = s.results := by
  rw [modShardCores_touches]
@[simp] theorem modShardCores_convoys (c : Nat) (f : Nat → Core → Core) : (modShardCores s c f).convoys = s.convoys := by
  rw [modShardCores_touches]
@[simp] theorem modShardCores_hubCvy (c : Nat) (f : Nat → Core → Core) : (modShardCores s c f).hubCvy = s.hubCvy := by
  rw [modShardCores_touches]
@[simp] theorem modShardCores_shards (c : Nat) (f : Nat → Core → Core) : (modShardCores s c f).shards = s.shards := by
  rw [modShardCores_touches]
@[simp] theorem modShardCores_boot (c : Nat) (f : Nat → Core → Core) : (modShardCores s c f).boot = s.boot := by
  rw [modShardCores_touches]
@[simp] theorem modShardCores_ddrDone (c : Nat) (f : Nat → Core → Core) : (modShardCores s c f).ddrDone = s.ddrDone := by
  rw [modShardCores_touches]
@[simp] theorem modShardCores_asked (c : Nat) (f : Nat → Core → Core) : (modShardCores s c f).asked = s.asked := by
  rw [modShardCores_touches]
@[simp] theorem modShardCores_free (c : Nat) (f : Nat → Core → Core) : (modShardCores s c f).free = s.free := by
  rw [modShardCores_touches]
@[simp] theorem modShardCores_rdata (c : Nat) (f : Nat → Core → Core) : (modShardCores s c f).rdata = s.rdata := by
  rw [modShardCores_touches]
@[simp] theorem modShardCores_pending (c : Nat) (f : Nat → Core → Core) : (modShardCores s c f).pending = s.pending := by
  rw [modShardCores_touches]
@[simp] theorem getShard_modShardCores (c : Nat) (f : Nat → Core → Core) : getShard (modShardCores s c f) k = getShard s k := by
  simp [getShard]
@[simp] theorem getPort_modShardCores (c : Nat) (f : Nat → Core → Core) : getPort (modShardCores s c f) k = getPort s k := by
  simp [getPort]
@[simp] theorem getSq_modShardCores (c : Nat) (f : Nat → Core → Core) : getSq (modShardCores s c f) k = getSq s k := by
  simp [getSq]
@[simp] theorem getCq_modShardCores (c : Nat) (f : Nat → Core → Core) : getCq (modShardCores s c f) k = getCq s k := by
  simp [getCq]
@[simp] theorem getIn_modShardCores (c : Nat) (f : Nat → Core → Core) : getIn (modShardCores s c f) k = getIn s k := by
  simp [getIn]
@[simp] theorem getRes_modShardCores (c : Nat) (f : Nat → Core → Core) : getRes (modShardCores s c f) k = getRes s k := by
  simp [getRes]
@[simp] theorem getTmr_modShardCores (c : Nat) (f : Nat → Core → Core) : getTmr (modShardCores s c f) k = getTmr s k := by
  simp [getTmr]
@[simp] theorem getMbx_modShardCores (c : Nat) (f : Nat → Core → Core) : getMbx (modShardCores s c f) k = getMbx s k := by
  simp [getMbx]

/-! ### `mbxInterrupt` -/

@[simp] theorem mbxInterrupt_nv (n mid : Nat) : (mbxInterrupt s n mid).nv = s.nv := by
  rw [mbxInterrupt_touches]
@[simp] theorem mbxInterrupt_remap (n mid : Nat) : (mbxInterrupt s n mid).remap = s.remap := by
  rw [mbxInterrupt_touches]
@[simp] theorem mbxInterrupt_glb (n mid : Nat) : (mbxInterrupt s n mid).glb = s.glb := by
  rw [mbxInterrupt_touches]
@[simp] theorem mbxInterrupt_mbx (n mid : Nat) : (mbxInterrupt s n mid).mbx = s.mbx := by
  rw [mbxInterrupt_touches]
@[simp] theorem mbxInterrupt_tmr (n mid : Nat) : (mbxInterrupt s n mid).tmr = s.tmr := by
  rw [mbxInterrupt_touches]
@[simp] theorem mbxInterrupt_pwr (n mid : Nat) : (mbxInterrupt s n mid).pwr = s.pwr := by
  rw [mbxInterrupt_touches]
@[simp] theorem mbxInterrupt_sec (n mid : Nat) : (mbxInterrupt s n mid).sec = s.sec := by
  rw [mbxInterrupt_touches]
@[simp] theorem mbxInterrupt_bst (n mid : Nat) : (mbxInterrupt s n mid).bst = s.bst := by
  rw [mbxInterrupt_touches]
@[simp] theorem mbxInterrupt_fab (n mid : Nat) : (mbxInterrupt s n mid).fab = s.fab := by
  rw [mbxInterrupt_touches]
@[simp] theorem mbxInterrupt_shape (n mid : Nat) : (mbxInterrupt s n mid).shape = s.shape := by
  rw [mbxInterrupt_touches]
@[simp] theorem mbxInterrupt_ports (n mid : Nat) : (mbxInterrupt s n mid).ports = s.ports := by
  rw [mbxInterrupt_touches]
@[simp] theorem mbxInterrupt_dep (n mid : Nat) : (mbxInterrupt s n mid).dep = s.dep := by
  rw [mbxInterrupt_touches]
@[simp] theorem mbxInterrupt_ingest (n mid : Nat) : (mbxInterrupt s n mid).ingest = s.ingest := by
  rw [mbxInterrupt_touches]
@[simp] theorem mbxInterrupt_results (n mid : Nat) : (mbxInterrupt s n mid).results = s.results := by
  rw [mbxInterrupt_touches]
@[simp] theorem mbxInterrupt_convoys (n mid : Nat) : (mbxInterrupt s n mid).convoys = s.convoys := by
  rw [mbxInterrupt_touches]
@[simp] theorem mbxInterrupt_hubCvy (n mid : Nat) : (mbxInterrupt s n mid).hubCvy = s.hubCvy := by
  rw [mbxInterrupt_touches]
@[simp] theorem mbxInterrupt_shards (n mid : Nat) : (mbxInterrupt s n mid).shards = s.shards := by
  rw [mbxInterrupt_touches]
@[simp] theorem mbxInterrupt_cores (n mid : Nat) : (mbxInterrupt s n mid).cores = s.cores := by
  rw [mbxInterrupt_touches]
@[simp] theorem mbxInterrupt_boot (n mid : Nat) : (mbxInterrupt s n mid).boot = s.boot := by
  rw [mbxInterrupt_touches]
@[simp] theorem mbxInterrupt_ddrDone (n mid : Nat) : (mbxInterrupt s n mid).ddrDone = s.ddrDone := by
  rw [mbxInterrupt_touches]
@[simp] theorem mbxInterrupt_asked (n mid : Nat) : (mbxInterrupt s n mid).asked = s.asked := by
  rw [mbxInterrupt_touches]
@[simp] theorem mbxInterrupt_free (n mid : Nat) : (mbxInterrupt s n mid).free = s.free := by
  rw [mbxInterrupt_touches]
@[simp] theorem mbxInterrupt_rdata (n mid : Nat) : (mbxInterrupt s n mid).rdata = s.rdata := by
  rw [mbxInterrupt_touches]
@[simp] theorem mbxInterrupt_pending (n mid : Nat) : (mbxInterrupt s n mid).pending = s.pending := by
  rw [mbxInterrupt_touches]
@[simp] theorem getCore_mbxInterrupt (n mid : Nat) : getCore (mbxInterrupt s n mid) k = getCore s k := by
  simp [getCore]
@[simp] theorem getShard_mbxInterrupt (n mid : Nat) : getShard (mbxInterrupt s n mid) k = getShard s k := by
  simp [getShard]
@[simp] theorem getPort_mbxInterrupt (n mid : Nat) : getPort (mbxInterrupt s n mid) k = getPort s k := by
  simp [getPort]
@[simp] theorem getIn_mbxInterrupt (n mid : Nat) : getIn (mbxInterrupt s n mid) k = getIn s k := by
  simp [getIn]
@[simp] theorem getRes_mbxInterrupt (n mid : Nat) : getRes (mbxInterrupt s n mid) k = getRes s k := by
  simp [getRes]
@[simp] theorem getTmr_mbxInterrupt (n mid : Nat) : getTmr (mbxInterrupt s n mid) k = getTmr s k := by
  simp [getTmr]
@[simp] theorem getMbx_mbxInterrupt (n mid : Nat) : getMbx (mbxInterrupt s n mid) k = getMbx s k := by
  simp [getMbx]

end Sys2Proof.Machine
end

