-- ==== Sys2Proof/Laws/Memory.lean ====
section
/-! SUPPORT. The laws of local data memory: a store is read back, and no other byte changes. -/

namespace Sys2Proof.Machine

/-- Reading a map after values were written at consecutive keys. -/
theorem nget_nsetList {α : Type} [DecidableEq α] (d : α) (vs : List α) (m : NMap α) (a k : Nat) :
    nget d (nsetList d m a vs) k = if a ≤ k then (vs[k - a]?).getD (nget d m k) else nget d m k := by
  induction vs generalizing m a with
  | nil => simp [nsetList]
  | cons v vs ih =>
    rw [nsetList, ih, nget_nset]
    by_cases h1 : a + 1 ≤ k
    · have h2 : a ≤ k := by omega
      have h3 : ¬ k = a := by omega
      have h4 : k - a = (k - (a + 1)) + 1 := by omega
      simp [h1, h2, h3, h4]
    · by_cases h2 : k = a
      · simp [h2]
      · have h3 : ¬ a ≤ k := by omega
        simp [h1, h2, h3]

/-- The bytes of a value number as many as asked for. -/
@[simp] theorem length_bytesOf (n v : Nat) : (bytesOf n v).length = n := by simp [bytesOf]

/-- The bytes of a value, the first apart. -/
theorem bytesOf_succ (n v : Nat) : bytesOf (n + 1) v = BitVec.ofNat 8 v :: bytesOf n (v / 256) := by
  simp only [bytesOf, List.range_succ_eq_map, List.map_cons, List.map_map, pow_zero, Nat.div_one]
  congr 1
  apply List.map_congr_left
  intro i _
  simp [Nat.div_div_eq_div_mul, pow_succ, mul_comm]

/-- The number that the bytes of a value spell. -/
@[simp] theorem ofBytes_bytesOf (n v : Nat) : ofBytes (bytesOf n v) = v % 256 ^ n := by
  induction n generalizing v with
  | zero => simp [bytesOf, ofBytes, Nat.mod_one]
  | succ n ih =>
    rw [bytesOf_succ, ofBytes, ih, pow_succ, mul_comm (256 ^ n) 256, Nat.mod_mul]
    simp

/-- Consecutive values read back after they were written. -/
theorem ngetList_nsetList {α : Type} [DecidableEq α] (d : α) (m : NMap α) (a : Nat) (vs : List α) :
    ngetList d (nsetList d m a vs) a vs.length = vs := by
  apply List.ext_getElem
  · simp [ngetList]
  · intro i h1 h2
    simp [ngetList, nget_nsetList, h2]

/-- A store is read back. -/
@[simp] theorem memGet_memSet (m : List Host.Cell) (a n v : Nat) : memGet (memSet m a n v) a n = v % 256 ^ n := by
  have := ngetList_nsetList (0 : Byte) m a (bytesOf n v)
  rw [length_bytesOf] at this
  rw [memGet, memSet, this, ofBytes_bytesOf]

/-- A store changes no byte outside its own. -/
theorem nget_memSet_outside (m : List Host.Cell) (a n v k : Nat) (h : k < a ∨ a + n ≤ k) :
    nget (0 : Byte) (memSet m a n v) k = nget 0 m k := by
  rw [memSet, nget_nsetList]
  rcases h with h | h
  · rw [if_neg (by omega)]
  · rw [if_pos (by omega), List.getElem?_eq_none (by simp; omega), Option.getD_none]

/-- A store to the local data memory of a core is read back. -/
@[simp] theorem ldmGet_ldmSet (c : Core) (a n v : Nat) : ldmGet (ldmSet c a n v) a n = v % 256 ^ n := memGet_memSet _ _ _ _

/-! A store to local data memory changes no other part of the core. -/

@[simp] theorem ldmSet_bound (c : Core) (a n v : Nat) : (ldmSet c a n v).bound = c.bound := rfl
@[simp] theorem ldmSet_ctx (c : Core) (a n v : Nat) : (ldmSet c a n v).ctx = c.ctx := rfl
@[simp] theorem ldmSet_gen (c : Core) (a n v : Nat) : (ldmSet c a n v).gen = c.gen := rfl
@[simp] theorem ldmSet_st (c : Core) (a n v : Nat) : (ldmSet c a n v).st = c.st := rfl
@[simp] theorem ldmSet_nrn (c : Core) (a n v : Nat) : (ldmSet c a n v).nrn = c.nrn := rfl
@[simp] theorem ldmSet_syn (c : Core) (a n v : Nat) : (ldmSet c a n v).syn = c.syn := rfl
@[simp] theorem ldmSet_lrn (c : Core) (a n v : Nat) : (ldmSet c a n v).lrn = c.lrn := rfl
@[simp] theorem ldmSet_hnd (c : Core) (a n v : Nat) : (ldmSet c a n v).hnd = c.hnd := rfl
@[simp] theorem ldmSet_q (c : Core) (a n v : Nat) : (ldmSet c a n v).q = c.q := rfl
@[simp] theorem ldmSet_cvy (c : Core) (a n v : Nat) : (ldmSet c a n v).cvy = c.cvy := rfl
@[simp] theorem ldmSet_cnt (c : Core) (a n v : Nat) : (ldmSet c a n v).cnt = c.cnt := rfl
@[simp] theorem ldmSet_watch (c : Core) (a n v : Nat) : (ldmSet c a n v).watch = c.watch := rfl
@[simp] theorem ldmSet_arrived (c : Core) (a n v : Nat) : (ldmSet c a n v).arrived = c.arrived := rfl

/-- A store keeps the canonical form of local data memory. -/
theorem nwf_ldmSet (c : Core) (a n v : Nat) (h : nwf (fun _ => (0 : Byte)) c.ldm = true) :
    nwf (fun _ => (0 : Byte)) (ldmSet c a n v).ldm = true := nwf_memSet _ _ _ _ h

end Sys2Proof.Machine
end

