-- ==== Sys2Proof/Laws/Handler.lean ====
section
/-! SUPPORT. The handler unit: what an issued instruction runs, the register files, and the lanes of vectors and accumulators. -/

namespace Sys2Proof.Machine

variable (s : State) (n : Nat)

/-- An issued word runs its instruction on the core as it finds it. -/
theorem issue_runs (w : Word) (k : Core → State) (h : Issues s n w) : issue s n w k = k (issued s n w) := by
  obtain ⟨h1, h2, h3, h4, h5, h6⟩ := h
  have hf : fetchFault (getCore s n) = none := by
    unfold fetchFault
    rw [h3, h4, h5, h6]
    rfl
  unfold issue
  dsimp only
  rw [h1, h2, hf, if_neg (by decide)]
  exact if_pos h4

/-- What an instruction finds differs from what stands only in the VRQs still in flight. -/
theorem issued_eq (w : Word) : issued s n w =
    { getCore s n with hnd := { (getCore s n).hnd with flight := (issued s n w).hnd.flight } } := rfl

variable (w : Word)
@[simp] theorem issued_q : (issued s n w).q = (getCore s n).q := rfl
@[simp] theorem issued_ldm : (issued s n w).ldm = (getCore s n).ldm := rfl
@[simp] theorem issued_st : (issued s n w).st = (getCore s n).st := rfl
@[simp] theorem issued_syn : (issued s n w).syn = (getCore s n).syn := rfl
@[simp] theorem issued_lrn : (issued s n w).lrn = (getCore s n).lrn := rfl
@[simp] theorem issued_ports : (issued s n w).ports = (getCore s n).ports := rfl
@[simp] theorem issued_cnt : (issued s n w).cnt = (getCore s n).cnt := rfl
@[simp] theorem issued_ctx : (issued s n w).ctx = (getCore s n).ctx := rfl
@[simp] theorem issued_gen : (issued s n w).gen = (getCore s n).gen := rfl
@[simp] theorem issued_wait : (issued s n w).hnd.wait = (getCore s n).hnd.wait := rfl
@[simp] theorem issued_pc : (issued s n w).hnd.pc = (getCore s n).hnd.pc := rfl
@[simp] theorem issued_cur : (issued s n w).hnd.cur = (getCore s n).hnd.cur := rfl
@[simp] theorem issued_loopState : (issued s n w).hnd.loopState = (getCore s n).hnd.loopState := rfl
@[simp] theorem issued_lfsr : (issued s n w).hnd.lfsr = (getCore s n).hnd.lfsr := rfl
@[simp] theorem rv_issued (r : Nat) : rv (issued s n w) r = rv (getCore s n) r := rfl
@[simp] theorem vv_issued (r : Nat) : vv (issued s n w) r = vv (getCore s n) r := rfl
@[simp] theorem av_issued (r : Nat) : av (issued s n w) r = av (getCore s n) r := rfl
@[simp] theorem chan_issued (k : Nat) : chan (issued s n w) k = chan (getCore s n) k := rfl

/-- A datapath or row-store cycle that the HANDLER toll leaves is taken and charged. -/
theorem onPorts_runs (dp mem : Bool) (c : Core) (k : Core → State)
    (h1 : dp = true → mayTake (tileGate s n 0) c.ports.dp handlerClass = true)
    (h2 : mem = true → mayTake (tileGate s n 1) c.ports.mem handlerClass = true) :
    onPorts s n dp mem c k = k (chargePorts c handlerClass (b1 dp) (b1 mem)) := by
  unfold onPorts
  rw [if_neg, if_neg]
  · cases mem <;> simp_all
  · cases dp <;> simp_all

/-- A core whose handler waits for no word is not woken. -/
theorem wakeWord_none (c : Core) (h : c.hnd.wait = .none) : wakeWord c = c := by simp [wakeWord, h]

/-- The next instruction in order leaves what the handler waits for. -/
@[simp] theorem nextPc_wait (h : HandlerState) : (nextPc h).wait = h.wait := by
  unfold nextPc; split
  · split
    · split <;> rfl
    · rfl
  · rfl

/-- An instruction done by a handler that does not wait. -/
theorem advanceTo_eq (c : Core) (ps : List Packet) (h : c.hnd.wait = .none) :
    advanceTo s n c ps = fetchAt (coreSendAll (setCore s n { c with hnd := nextPc c.hnd }) n ps) n := by
  have hw : (Core.hnd { c with hnd := nextPc c.hnd }).wait = .none := by simpa using h
  rw [advanceTo, applyEff, wakeWord_none _ hw]

/-- A written scalar register is read back; s0 reads 0 and the others are as before. -/
theorem rv_wr (c : Core) (a b : Nat) (v : Word) :
    rv (wr c a v) b = if b % 32 = 0 then 0 else if b % 32 = a % 32 then v else rv c b := by
  unfold rv wr setS
  by_cases hb : b % 32 = 0
  · simp [hb]
  · by_cases ha : a % 32 = 0
    · have : ¬ b % 32 = a % 32 := by omega
      simp [hb, ha]
    · simp [hb, ha]

/-- A written vector register is read back; the others are as before. -/
theorem vv_wv (c : Core) (a b : Nat) (v : BitVec 512) : vv (wv c a v) b = if b % 8 = a % 8 then v else vv c b := by simp [vv, wv]

/-- A written accumulator is read back; the others are as before. -/
theorem av_wa (c : Core) (a b : Nat) (v : BitVec 2048) : av (wa c a v) b = if b % 4 = a % 4 then v else av c b := by simp [av, wa]

/-- A field of packed codes. -/
theorem packLanes_field (w : Nat) (xs : List Nat) (i : Nat) : packLanes w xs / 2 ^ (w * i) % 2 ^ w = (xs[i]?).getD 0 % 2 ^ w := by
  induction xs generalizing i with
  | nil => simp [packLanes]
  | cons x xs ih =>
    have hp : packLanes w (x :: xs) = x % 2 ^ w + 2 ^ w * packLanes w xs := rfl
    cases i with
    | zero => simp [hp]
    | succ i =>
      rw [hp, Nat.mul_succ, pow_add, mul_comm (2 ^ (w * i)), ← Nat.div_div_eq_div_mul,
        Nat.add_mul_div_left _ _ (Nat.two_pow_pos w), Nat.div_eq_of_lt (Nat.mod_lt _ (Nat.two_pow_pos w)), Nat.zero_add, ih]
      simp

/-- Packed codes stay below the size of their field. -/
theorem packLanes_lt (w : Nat) (xs : List Nat) : packLanes w xs < 2 ^ (w * xs.length) := by
  induction xs with
  | nil => simp [packLanes]
  | cons x xs ih =>
    have hp : packLanes w (x :: xs) = x % 2 ^ w + 2 ^ w * packLanes w xs := rfl
    rw [hp, List.length_cons, Nat.mul_succ, pow_add]
    have h1 := Nat.mod_lt x (Nat.two_pow_pos w)
    calc x % 2 ^ w + 2 ^ w * packLanes w xs < 2 ^ w + 2 ^ w * packLanes w xs := by omega
      _ = (packLanes w xs + 1) * 2 ^ w := by ring
      _ ≤ 2 ^ (w * xs.length) * 2 ^ w := Nat.mul_le_mul_right _ ih

/-- A lane of a vector built lane by lane. -/
theorem lane_mkVec (f : Nat → Nat) (i : Nat) (h : i < 128) : lane (mkVec f) i = f i % 16 := by
  have hl := packLanes_lt 4 ((List.range 128).map f)
  simp only [List.length_map, List.length_range] at hl
  have e1 : 4 * i + 3 + 1 - 4 * i = 4 := by omega
  rw [lane, fld, e1, mkVec, BitVec.toNat_ofNat, Nat.mod_eq_of_lt (show _ < 2 ^ 512 from hl), packLanes_field]
  simp [h]

/-- A lane of an accumulator built lane by lane. -/
theorem accLane_mkAcc (f : Nat → Int) (i : Nat) (h : i < 128) : accLane (mkAcc f) i = signed 16 (wrap 16 (f i)) := by
  have hl := packLanes_lt 16 ((List.range 128).map fun i => wrap 16 (f i))
  simp only [List.length_map, List.length_range] at hl
  have e1 : 16 * i + 15 + 1 - 16 * i = 16 := by omega
  rw [accLane, fld, e1, mkAcc, BitVec.toNat_ofNat, Nat.mod_eq_of_lt (show _ < 2 ^ 2048 from hl), packLanes_field]
  have hw : wrap 16 (f i) < 2 ^ 16 := by
    unfold wrap
    have := Int.emod_lt_of_pos (f i) (show (0 : Int) < 2 ^ 16 by norm_num)
    have := Int.emod_nonneg (f i) (show ((2 : Int) ^ 16) ≠ 0 by norm_num)
    omega
  rw [List.getElem?_map, List.getElem?_range h]
  exact congrArg _ (Nat.mod_eq_of_lt hw)

/-- The 16-bit two's complement form of an integer in range is the integer. -/
theorem signed_wrap16 (x : Int) (h1 : -32768 ≤ x) (h2 : x ≤ 32767) : signed 16 (wrap 16 x) = x := by
  unfold signed wrap
  by_cases h : 0 ≤ x
  · have : x % (2 ^ 16 : Int) = x := Int.emod_eq_of_lt h (by norm_num; omega)
    rw [this]; rw [if_pos (by norm_num; omega)]; omega
  · have : x % (2 ^ 16 : Int) = x + 65536 := by norm_num; omega
    rw [this]; rw [if_neg (by norm_num; omega)]; norm_num; omega

end Sys2Proof.Machine
end

