-- ==== Sys2Proof/Laws/Hif.lean ====
section
/-! SUPPORT. The rows of host commands: a command that may run has its effect, one that may not completes with the status of the
check, and a completed command leaves the list of fetched ones. -/

namespace Sys2Proof.Machine

variable (s : State)

/-- A command that may run has the effect of its row, on the state that marks it started. -/
theorem withCmd_mayRun (h op : Nat) (f : Fetched) (k : State → Fetched → State) (hr : MayRun s h op f) :
    withCmd s h op k = k (started s h) f := by
  simp [withCmd, hr.1, hr.2, started]

/-- A command that its context or core does not permit completes with the status of the check and has no effect. -/
theorem withCmd_refused (h op : Nat) (f : Fetched) (k : State → Fetched → State) (st : Status)
    (hr : runnable s h op = some f) (hc : startCheck s f.manifest = some st) : withCmd s h op k = complete s h st := by
  simp [withCmd, hr, hc]

/-- A handle that names no command whose turn has come leaves the state as it is. -/
theorem withCmd_none (h op : Nat) (k : State → Fetched → State) (hr : runnable s h op = none) : withCmd s h op k = s := by
  simp [withCmd, hr]

@[simp] theorem cqWriteOne_fetched (n : Nat) (e : BitVec 256) : (cqWriteOne s n e).hif.fetched = s.hif.fetched := rfl

@[simp] theorem cqSignal_fetched (n k : Nat) : (cqSignal s n k).hif.fetched = s.hif.fetched := by
  unfold cqSignal; dsimp only; split <;> rfl

@[simp] theorem cqWrite_fetched (n : Nat) (es : List (BitVec 256)) : (cqWrite s n es).hif.fetched = s.hif.fetched := by
  unfold cqWrite; rw [cqSignal_fetched]
  generalize es.length = z
  induction es generalizing s with
  | nil => rfl
  | cons e es ih => rw [List.foldl_cons, ih]; rfl

@[simp] theorem cqPost_fetched (n : Nat) (es : List (BitVec 256)) : (cqPost s n es).hif.fetched = s.hif.fetched := by
  unfold cqPost; split
  · simp
  · rfl

/-- An answer leaves the list of fetched commands. -/
@[simp] theorem answer_fetched (f : Fetched) (st : Status) (r : Nat) (ps : List (BitVec 128)) :
    (answer s f st r ps).hif.fetched = s.hif.fetched := by
  unfold answer; split
  · simp
  · rfl
  · unfold feReply; simp

/-- A dropped command is no longer among the fetched ones. -/
@[simp] theorem findCmd_dropCmd (h : Nat) : findCmd (dropCmd s h) h = none := by
  simp [findCmd, dropCmd, List.find?_eq_none]

/-- A completed command is no longer among the fetched ones. -/
@[simp] theorem findCmd_complete (h : Nat) (st : Status) (r : Nat) (ps : List (BitVec 128)) :
    findCmd (complete s h st r ps) h = none := by
  unfold complete; split
  · assumption
  · split
    · simp
    · simp only [findCmd, answer_fetched]; exact findCmd_dropCmd s h

/-- A started command that completes writes nothing but its completion. -/
theorem onlyAnswered_complete (h h' : Nat) (st : Status) (r : Nat) (ps : List (BitVec 128)) :
    OnlyAnswered s (complete (started s h') h st r ps) := by
  unfold OnlyAnswered; conv => lhs; rw [complete_touches]
  simp

/-- A command that may run is among the fetched ones. -/
theorem MayRun.found {s : State} {h op : Nat} {f : Fetched} (hr : MayRun s h op f) : findCmd s h = some f := by
  have h1 := hr.1
  unfold runnable at h1
  cases hf : findCmd s h with
  | none => simp [hf] at h1
  | some f' => rw [hf] at h1; exact (Option.ite_none_right_eq_some.1 h1).2

/-- The manifest checks read the device number and the shards only. -/
theorem manifestCheck_congr {s t : State} (m : Line) (b : List Line) (h1 : t.shape = s.shape) (h2 : t.shards = s.shards) :
    manifestCheck t m b = manifestCheck s m b := by
  unfold manifestCheck getShard devNo; rw [h1, h2]

/-- The check of a resetting context reads the shards only. -/
theorem resetCheck_congr {s t : State} (m : Line) (h2 : t.shards = s.shards) : resetCheck t m = resetCheck s m := by
  unfold resetCheck getShard; rw [h2]

end Sys2Proof.Machine
end

