-- ==== Sys2Proof/WellFormed.lean ====
section
/-! DEFINITION. The static check of a command: its operands lie in the ranges of the numbers they are (1,024 logical
cores R13, 34 x 32 physical tiles R13, 64 contexts and streams, 256 queues R405, 32 timers R477, 16 mailbox channels R466, 6
ports R376, 13 master identities R37, the fields of an instruction word R270). -/

namespace Sys2Proof

/-- A packet's master identity is one of R37's, and its flits are those of one packet: at most 16 (R346). -/
def Packet.ok (p : Packet) : Bool := p.mid.toNat < 13 && p.flits.length ≤ 16

/-- A member is a logical core or the hub. -/
def Member.ok : Member → Bool
  | .core n => n < 1024
  | .hub => true

/-- A frame comes on sixteen lanes (R379). -/
def RxFrame.ok (f : RxFrame) : Bool := f.lanes.length == 16

/-- Bits turned over on a link of the mesh: each once, within the slots of the longest packet, 17 of 256 data bits and 52 sideband
bits (R346, R350). -/
def flipsOk (flips : List Nat) : Bool := decide flips.Nodup && flips.all (· < 17 * 308)

/-- A failure lies on a physical tile. -/
def TestFailure.ok (f : TestFailure) : Bool := f.px < 34 && f.py < 32 && f.mem < 16

/-- A wake source is one that exists. -/
def WakeSource.ok : WakeSource → Bool
  | .trigger pin => pin < 8
  | .host => true
  | .sdio => true
  | .timer => true
  | .link => true

/-- The check of a command. -/
def WellFormed (i : Instr) : Bool :=
  match i with
  | .sqDoorbell n _ => n < 256
  | .cqDoorbell n _ => n < 256
  | .commandFetch slots => 1 ≤ slots.length && slots.length ≤ 2048
  | .completionHoldRelease cq => cq < 256
  | .cqCoalesceTimer cq => cq < 256
  | .commandTimeout _ => true
  | .mgmtCommandTake hart _ => hart < 2
  | .nop _ => true
  | .contextCreate _ => true
  | .contextDestroy _ => true
  | .contextReset _ => true
  | .contextResetDrainDone ctx => ctx < 64
  | .contextResetDrainTimeout ctx => ctx < 64
  | .loadSectionData _ => true
  | .loadSectionCommit _ => true
  | .loadSectionCompact _ => true
  | .start _ => true
  | .stop _ => true
  | .stopDone ctx => ctx < 64
  | .stepRun _ => true
  | .stepRunWaitDone _ => true
  | .paceSet _ => true
  | .modulatorSet _ => true
  | .streamOpen _ => true
  | .streamPush _ => true
  | .streamClose _ => true
  | .resultOpen _ => true
  | .resultClose _ => true
  | .queueSend _ => true
  | .convoyBegin _ => true
  | .convoyStage _ => true
  | .convoyRecordStage mid record => mid < 13 && record.data.length ≤ 4096
  | .convoyPrepare _ => true
  | .convoyCommit _ => true
  | .convoyAbort _ => true
  | .prepareReceive m tag _ => m.ok && tag < 32768
  | .convoyFillDone m tag => m.ok && tag < 32768
  | .convoyAnswer tag dev m _ => tag < 32768 && dev < 512 && m.ok
  | .commitReceive m tag _ => m.ok && tag < 32768
  | .abortReceive m tag => m.ok && tag < 32768
  | .convoyApply m => m.ok
  | .convoyAck tag dev m => tag < 32768 && dev < 512 && m.ok
  | .join tag dev core => tag < 32768 && dev < 512 && core < 1024
  | .query tag dev m => tag < 32768 && dev < 512 && m.ok
  | .conflict tag first => tag < 32768 && first < 32768
  | .convoyCoordinatorTimeout tag => tag < 32768
  | .convoyMemberTimer m tag => m.ok && tag < 32768
  | .weightSave _ => true
  | .weightSaveDone ctx => ctx < 64
  | .weightRestore _ => true
  | .stateRead _ => true
  | .stateWrite _ => true
  | .statsRead _ => true
  | .firmwareUpdate _ => true
  | .attest _ => true
  | .lock _ => true
  | .bistRun _ => true
  | .bstCtlGo mid _ => mid < 13
  | .bistDone failures => failures.all TestFailure.ok
  | .bistLimitStop _ failures => failures.all TestFailure.ok
  | .powerSetPl _ => true
  | .powerSetState _ => true
  | .sleepEntryDone => true
  | .wake source => source.ok
  | .plChangeDone => true
  | .thermalPoll _ => true
  | .thermalHwLimit => true
  | .thermalHwRelease => true
  | .brownOut rail => rail < 4
  | .powerFailWarning => true
  | .currentLimitTrip => true
  | .currentLimitRetry => true
  | .inputLockout _ _ => true
  | .presenceSeated => true
  | .presenceOpen contact => contact < 3
  | .perst => true
  | .coldReset _ failures => failures.all TestFailure.ok
  | .ddrTrainingDone _ => true
  | .warmReset _ _ => true
  | .computeReset _ => true
  | .managementRestart hart _ _ => hart < 4
  | .mgmtWatchdogExpire hart => hart < 4
  | .mgmtScrub hart _ _ => hart < 4
  | .mgmtSelfCheck hart _ => hart < 4
  | .mgpBusyTimer => true
  | .heartbeat => true
  | .refclkLoss => true
  | .tamperTrip _ _ _ => true
  | .debugOpen mid _ => mid < 13
  | .debugClose mid _ => mid < 13
  | .present mid _ => mid < 13
  | .tokenCheckDone => true
  | .goProduction mid _ => mid < 13
  | .lcTransitionDone _ => true
  | .extestExit => true
  | .jtagInstruction _ => true
  | .ledgerClear mid _ => mid < 13
  | .customsLogClear mid _ => mid < 13
  | .customsLogRecord a b => a.ok && b.ok
  | .registerWrite mid addr bytes _ => mid < 13 && addr < 2 ^ 27 && (bytes == 1 || bytes == 2 || bytes == 4 || bytes == 8)
  | .sdioGo len => len < 2 ^ 32
  | .sdioRdataAccess _ => true
  | .tileTollWrite mid core offset _ => mid < 13 && core < 1024 && offset < 16384
  | .tollWindowBoundary => true
  | .linkShapeWrite mid _ => mid < 13
  | .portEnable mid port _ => mid < 13 && port < 6
  | .portRetrainRequest mid port => mid < 13 && port < 6
  | .mailboxDataWrite mid n word _ => mid < 13 && n < 16 && word < 16
  | .mailboxSet mid n _ => mid < 13 && n < 16
  | .mailboxPendClear mid n _ => mid < 13 && n < 16
  | .mailboxAckTimeout n => n < 16
  | .mailboxBind mid n _ => mid < 13 && n < 16
  | .timerCtlWrite mid i _ => mid < 13 && i < 32
  | .timerReloadNow mid i => mid < 13 && i < 32
  | .timerReloadWrite mid i _ => mid < 13 && i < 32
  | .timerCompareWrite mid i k _ => mid < 13 && i < 32 && k < 4
  | .timerTbRead i => i < 32
  | .timerCaploRead i => i < 32
  | .timerTick i => i < 32
  | .timerLinkAction i => i < 32
  | .triggerCapture pin _ => pin < 8
  | .paceRelease ctx => ctx < 64
  | .release core pkt => core < 1024 && pkt.ok
  | .integrateBegin core => core < 1024
  | .event core pkt => core < 1024 && pkt.ok
  | .integrateEnd core => core < 1024
  | .rearguard core pkt => core < 1024 && pkt.ok
  | .credit core pkt => core < 1024 && pkt.ok
  | .fireBegin core => core < 1024
  | .fireEnd core => core < 1024
  | .learnEnd core => core < 1024
  | .closeEnd core => core < 1024
  | .eagerEvaluate core => core < 1024
  | .stepWatchdogExpire core => core < 1024
  | .outriderPrefetch core => core < 1024
  | .dreq r => r.pkt.ok
  | .ddata core pkt => core < 1024 && pkt.ok
  | .penReturn core => core < 1024
  | .penSpillWrite core => core < 1024
  | .waystationForward tile port vc flips => tile < 1088 && port < 7 && vc < 3 && flipsOk flips
  | .regWr core pkt => core < 1024 && pkt.ok
  | .regRd core pkt => core < 1024 && pkt.ok
  | .regRsp pkt => pkt.ok
  | .linkFrameTransmit port => port < 6
  | .linkFrameReceive port frame => port < 6 && frame.ok
  | .linkAckTimeout port => port < 6
  | .linkReplayLimit port => port < 6
  | .linkLaneUeLimit port => port < 6
  | .transitReserve port buffer => port < 6 && buffer < 6
  | .portDetectLock port => port < 6
  | .portTrainEqDone port => port < 6
  | .portTrainEqTimeout port => port < 6
  | .portAlignDone port => port < 6
  | .portAlignTimeout port => port < 6
  | .paramExchange port _ => port < 6
  | .portRetrainTimeout port => port < 6
  | .portDownRetry port => port < 6
  | .miswiredParamRetry port _ => port < 6
  | .lossOfSignal port _ => port < 6
  | .lpiWake port _ => port < 6
  | .frontEndCommand port run => port < 6 && run.all Packet.ok
  | .handlerDispatch r => r.core < 1024 && r.failing.all (· < 8192)
  | .handlerCycleLimit core => core < 1024
  | .alu core rd ra rb func => core < 1024 && rd < 32 && ra < 32 && rb < 32 && func < 2048
  | .addi core rd ra imm => core < 1024 && rd < 32 && ra < 32 && imm < 65536
  | .andi core rd ra imm => core < 1024 && rd < 32 && ra < 32 && imm < 65536
  | .ori core rd ra imm => core < 1024 && rd < 32 && ra < 32 && imm < 65536
  | .xori core rd ra imm => core < 1024 && rd < 32 && ra < 32 && imm < 65536
  | .lui core rd ra imm => core < 1024 && rd < 32 && ra < 32 && imm < 65536
  | .slti core rd ra imm => core < 1024 && rd < 32 && ra < 32 && imm < 65536
  | .shi core rd ra imm => core < 1024 && rd < 32 && ra < 32 && imm < 65536
  | .beq core ra rb off => core < 1024 && ra < 32 && rb < 32 && off < 65536
  | .bne core ra rb off => core < 1024 && ra < 32 && rb < 32 && off < 65536
  | .blt core ra rb off => core < 1024 && ra < 32 && rb < 32 && off < 65536
  | .bge core ra rb off => core < 1024 && ra < 32 && rb < 32 && off < 65536
  | .bltu core ra rb off => core < 1024 && ra < 32 && rb < 32 && off < 65536
  | .bgeu core ra rb off => core < 1024 && ra < 32 && rb < 32 && off < 65536
  | .jal core rd off => core < 1024 && rd < 32 && off < 2 ^ 21
  | .jr core rd ra rb func => core < 1024 && rd < 32 && ra < 32 && rb < 32 && func < 2048
  | .loop core rd ra imm => core < 1024 && rd < 32 && ra < 32 && imm < 65536
  | .endHandler core rest => core < 1024 && rest < 2 ^ 26
  | .yieldTo core rd ra imm => core < 1024 && rd < 32 && ra < 32 && imm < 65536
  | .ldw core rd ra imm => core < 1024 && rd < 32 && ra < 32 && imm < 65536
  | .stw core rd ra imm => core < 1024 && rd < 32 && ra < 32 && imm < 65536
  | .ldh core rd ra imm => core < 1024 && rd < 32 && ra < 32 && imm < 65536
  | .sth core rd ra imm => core < 1024 && rd < 32 && ra < 32 && imm < 65536
  | .ldb core rd ra imm => core < 1024 && rd < 32 && ra < 32 && imm < 65536
  | .stb core rd ra imm => core < 1024 && rd < 32 && ra < 32 && imm < 65536
  | .vld core rd ra imm => core < 1024 && rd < 32 && ra < 32 && imm < 65536
  | .vst core rd ra imm => core < 1024 && rd < 32 && ra < 32 && imm < 65536
  | .accld core rd ra imm => core < 1024 && rd < 32 && ra < 32 && imm < 65536
  | .accst core rd ra imm => core < 1024 && rd < 32 && ra < 32 && imm < 65536
  | .vmac core d va vb za zb n clr neg => core < 1024 && d < 4 && va < 8 && vb < 8 && za < 16 && zb < 16 && n < 128 && clr < 2 && neg < 2
  | .vmacb core d va vb za zb n clr neg => core < 1024 && d < 4 && va < 8 && vb < 8 && za < 16 && zb < 16 && n < 128 && clr < 2 && neg < 2
  | .vmacm core d ra vb rn za zb inc clr => core < 1024 && d < 4 && ra < 32 && vb < 8 && rn < 32 && za < 16 && zb < 16 && inc < 2 && clr < 2
  | .vdot core rd va vb za zb rest => core < 1024 && rd < 32 && va < 8 && vb < 8 && za < 16 && zb < 16 && rest < 128
  | .accop core rd ra rb func => core < 1024 && rd < 32 && ra < 32 && rb < 32 && func < 2048
  | .vrq core rd ra rb func => core < 1024 && rd < 32 && ra < 32 && rb < 32 && func < 2048
  | .vfun core d va vb za zb n clr neg => core < 1024 && d < 8 && va < 8 && vb < 8 && za < 16 && zb < 16 && n < 128 && clr < 2 && neg < 2
  | .vperm core d va vb za zb n clr neg => core < 1024 && d < 8 && va < 8 && vb < 8 && za < 16 && zb < 16 && n < 128 && clr < 2 && neg < 2
  | .vselm core d va vb za zb n clr neg => core < 1024 && d < 8 && va < 8 && vb < 8 && za < 16 && zb < 16 && n < 128 && clr < 2 && neg < 2
  | .vsplat core rd ra imm => core < 1024 && rd < 32 && ra < 32 && imm < 65536
  | .vext core rd ra imm => core < 1024 && rd < 32 && ra < 32 && imm < 65536
  | .vins core rd ra imm => core < 1024 && rd < 32 && ra < 32 && imm < 65536
  | .send core rd ra rb func => core < 1024 && rd < 32 && ra < 32 && rb < 32 && func < 2048
  | .tallyc core rd ra rb func => core < 1024 && rd < 32 && ra < 32 && rb < 32 && func < 2048
  | .waitne core rd ra rb func => core < 1024 && rd < 32 && ra < 32 && rb < 32 && func < 2048
  | .cstg core rd ra rb func => core < 1024 && rd < 32 && ra < 32 && rb < 32 && func < 2048
  | .qry core rd ra imm => core < 1024 && rd < 32 && ra < 32 && imm < 65536
  | .modw core rd ra rb func => core < 1024 && rd < 32 && ra < 32 && rb < 32 && func < 2048
  | .sendWaitExpire core => core < 1024
  | .waitneTimeout core => core < 1024
  | .msg core pkt => core < 1024 && pkt.ok
  | .tally core pkt => core < 1024 && pkt.ok
  | .qcredit core pkt => core < 1024 && pkt.ok
  | .nack core pkt => core < 1024 && pkt.ok
  | .openChannel core pkt => core < 1024 && pkt.ok
  | .openAck core pkt => core < 1024 && pkt.ok
  | .closeChannel core pkt => core < 1024 && pkt.ok
  | .closeAck core pkt => core < 1024 && pkt.ok
  | .closeDrainDone core q => core < 1024 && q < 256
  | .modWrite pkt => pkt.ok
  | .modDeliver core pkt => core < 1024 && pkt.ok
  | .stepNotice pkt => pkt.ok
  | .ingestGraceExpire stream => stream < 64
  | .lateNotice pkt => pkt.ok
  | .readoutPacket pkt => pkt.ok
  | .readoutHoldExpire stream window _ => stream < 64 && window < 2 ^ 32
  | .readoutPeerRetry stream => stream < 64
  | .resultLossMark ctx _ => ctx < 64
  | .wdogNotice pkt => pkt.ok
  | .lossNotice pkt => pkt.ok
  | .ueNotice pkt => pkt.ok
  | .faultNotice pkt => pkt.ok
  | .orphanNotice pkt => pkt.ok
  | .peerResetNotice pkt => pkt.ok
  | .noticeFoldTimer ctx => ctx < 64
  | .registerRead mid addr bytes => mid < 13 && addr < 2 ^ 27 && (bytes == 1 || bytes == 2 || bytes == 4 || bytes == 8)
  | .weightRestoreDone ctx => ctx < 64
  | .pmbusCommand code data => code < 256 && data < 65536
  | .mgmtParityFailure hart _ => hart < 4

end Sys2Proof
end

