-- ==== Sys2Proof/Tests/Slice0.lean ====
section
/-! SUPPORT. The model's own tests. First values that the worked examples of spec/ give, then the check of a command on a term that
it accepts and terms that it refuses, then, for each statement of Certificates/Slice0/Obligations.lean with premises, a theorem
`test_<statement>` that gives for each clause of it a state and operands which meet the premises of the clause together; a clause whose
premises need a proof of their own has a theorem `test_<statement>_<clause>`. The clauses are counted from 0 in the order in which the
statement gives them. -/

namespace Sys2Proof.Tests

set_option Elab.async false
set_option linter.all false

open Sys2Proof.Machine

/-! ### Worked examples of the spec -/

/-- A membrane of 3,168 A in Q4 with scale code 0xE0 and zero point 8 has n = 11 and r = 96: it rounds up for draws below 6,144
(spec/02_narrow_arithmetic.md, 'a membrane requantised every step'). -/
theorem test_requant_rounds : (requantWith .q4 0xE0 8 3168 6143).code = 12 ∧ (requantWith .q4 0xE0 8 3168 6144).code = 11 ∧
    (requantWith .q4 0xE0 8 4064 63487).code = 12 ∧ (requantWith .q4 0xE0 8 4064 63488).code = 11 := by decide +kernel

/-- A residual of 144 A gives n = 8 and rounds up for draws below 9,216 (spec/03_neuron_model.md, 'a neuron of Kettle's middle
layer'). -/
theorem test_requant_residual : (requantWith .q4 0xE0 8 144 9215).code = 9 ∧ (requantWith .q4 0xE0 8 144 9216).code = 8 := by decide +kernel

/-- A membrane of Q8 at 3,840 A with scale code 0xE0 and zero point 8 is code 188 and meets no rounding
(spec/02_narrow_arithmetic.md). -/
theorem test_requant_double : (requantWith .q8 0xE0 8 3840 0).code = 188 := by decide +kernel

/-- The decays of Kettle's middle layer: LEAK 2 over three steps and over two (spec/03_neuron_model.md). -/
theorem test_decay : decay 3072 2 3 = 1296 ∧ decay 4096 2 2 = 2304 ∧ decay 3072 3 1 = 3072 - 384 := by decide +kernel

/-- A 4-bit row's element 2i is bits [3:0] of byte i and element 2i + 1 bits [7:4] (R60). -/
theorem test_packing : lineElem .q4 0x21 0 = 1 ∧ lineElem .q4 0x21 1 = 2 ∧ lineElem .q2 0xE4 3 = 3 := by decide +kernel

/-- No row of the opcode table gives its command bits, so no word spells a command. -/
theorem test_decode : decodeTableWord 32 0x14820000 = none := by decide

/-! ### The check of a command -/

theorem test_wellFormed_core : WellFormed (.addi 1023 1 2 3) = true ∧ WellFormed (.addi 1024 1 2 3) = false := by decide
theorem test_wellFormed_fields : WellFormed (.addi 0 32 2 3) = false ∧ WellFormed (.addi 0 1 2 65536) = false ∧
    WellFormed (.vmac 0 4 0 0 0 0 0 0 0) = false ∧ WellFormed (.jal 0 1 (2 ^ 21)) = false := by decide
theorem test_wellFormed_rings : WellFormed (.sqDoorbell 255 0) = true ∧ WellFormed (.sqDoorbell 256 0) = false ∧
    WellFormed (.mgmtCommandTake 2 0) = false := by decide
theorem test_wellFormed_packet : WellFormed (.event 0 { head := 0, mid := 12 }) = true ∧ WellFormed (.event 0 { head := 0, mid := 13 }) = false ∧
    WellFormed (.msg 0 { head := 0, flits := List.replicate 17 0 }) = false := by decide
theorem test_wellFormed_ports : WellFormed (.linkAckTimeout 5) = true ∧ WellFormed (.linkAckTimeout 6) = false ∧
    WellFormed (.linkFrameReceive 0 { lanes := [] }) = false ∧ WellFormed (.transitReserve 0 6) = false := by decide
theorem test_wellFormed_mesh : WellFormed (.waystationForward 1087 6 2 [0, 5235]) = true ∧ WellFormed (.waystationForward 1088 0 0 []) = false ∧
    WellFormed (.waystationForward 0 7 0 []) = false ∧ WellFormed (.waystationForward 0 0 0 [3, 3]) = false := by decide
theorem test_wellFormed_start : WellFormed (.handlerDispatch ⟨3, [8191]⟩) = true ∧ WellFormed (.handlerDispatch ⟨3, [8192]⟩) = false := by decide
theorem test_wellFormed_blocks : WellFormed (.registerWrite 0 0 4 0) = true ∧ WellFormed (.registerWrite 0 0 3 0) = false ∧
    WellFormed (.timerCtlWrite 0 32 0) = false ∧ WellFormed (.mailboxSet 0 16 0) = false ∧ WellFormed (.presenceOpen 3) = false ∧
    WellFormed (.wake (.trigger 8)) = false ∧ WellFormed (.join 0 512 0) = false := by decide

/-! ### States that the premises of the statements meet -/

def man (op : Nat) (ctx : Nat := 0) (ws : List Nat := []) (tobj : Nat := 0) (tcore : Nat := 0) (bales : Nat := 0)
    (timeout : Nat := 0) (rst : Nat := 0) (fence : Nat := 0) (tag : Nat := 7) (tdev : Nat := 0) : Line :=
  BitVec.ofNat 512 (1 + op * 2^8 + rst * 2^32 + fence * 2^33 + ctx * 2^58 + tag * 2^64 + timeout * 2^80 + bales * 2^85 + tobj * 2^96 +
    tcore * 2^109 + tdev * 2^119 + (ws.zipIdx.map fun p => p.1 * 2 ^ (128 + 32 * p.2)).sum)
def row0 : State := { State.reset with
  boot := .ready, ddrDone := true
  mgmt := { running := true }
  sdio := { ready := true }
  hif := { en := true, sqs := [(0, { en := true, cq := 0 }), (1, { en := true, cq := 1, log2 := 2 }), (2, { en := true })],
           cqs := [(0, { en := true, vector := 3 }), (1, { en := true, log2 := 2, vector := 5, coalCnt := 3, coalUs := 9 })] }
  remap := [(0, List.range 12)]
  shards := [(0, { state := .stopped, gen := 3, w := 4 }), (1, { state := .running, gen := 2, w := 4, sections := 1 }), (2, { state := .stopped, gen := 1, w := 3 }),
             (4, { state := .resetting, gen := 9 }), (5, { state := .stopping, gen := 4, stopAt := some 3, stopCmd := some 50 })]
  cores := [(0, { bound := true, ctx := 0, gen := 3, st := { phase := .notRunning } }),
            (1, { bound := true, ctx := 1, gen := 2, st := { phase := .waiting, step := 4 } }),
            (2, { bound := true, ctx := 1, gen := 2, st := { phase := .waiting, step := 4, runLimit := 100 } }),
            (3, { bound := true, ctx := 2, gen := 1 })] }
def cmd (h : Nat) (m : Line) (bs : List Line := []) (taken : Bool := true) (o : Origin := .sq h) : Fetched :=
  { handle := h, origin := o, manifest := m, bales := bs, taken := taken }
def withCmds (s : State) (fs : List Fetched) : State := { s with hif := { s.hif with fetched := fs, nextHandle := 90 } }
/-- core 0 runs a handler whose next word is `w` -/
def hcore (w : Word) (rs : List (Nat × Word)) : Core := { bound := true, ctx := 0, gen := 3, hnd := { run := true, en := true, pc := 5, loaded := [(4, 20)], store := [(5, w)] ++ (List.range 14).map (fun i => (6 + i, (0 : Word))), sc := rs, v := [(1, 0x123456789ABCDEF0FEDCBA9876543210FFFF), (2, 0x77777777777777770000FFFFFFFF11112222)], acc := [(1, 0x7FFF80001234FFFF), (2, 0x7FFF80000001FFFF)], lfsr := 0xACE1 }, ldm := [(0x100, 1), (0x101, 2), (0x102, 3), (0x103, 0x80), (0x140, 9), (0x17F, 7)], q := {}, st := { step := 9, phase := .waiting } }
def hst (c : Core) : State := { row0 with cores := [(0, c), (1, { bound := true, ctx := 1, gen := 2, st := { phase := .waiting, step := 4 } })] }
def hs (w : Word) (rs : List (Nat × Word)) : State := hst (hcore w rs)
def rfiles : List (List (Nat × Word)) := [[(2, 0x100), (3, 0x103)], [(2, 0xFFFFFFFF), (3, 0x80000000)], [(1, 7), (2, 0x3FFFC), (3, 0x3FFFC)], []]
def chRec (kind state credits : Nat) (pdev : Nat := 0) (pcore : Nat := 9) (pqueue : Nat := 6) (pcgen : Nat := 3) (win : Nat := 7) (rq : Nat := 2) (round : Nat := 0) (owed : Nat := 0) (freed : Nat := 0) (mc : Nat := 0) (sp : Nat := 0) : BitVec 128 :=
  BitVec.ofNat 128 (pdev * 2^119 + pcore * 2^109 + pqueue * 2^101 + pcgen * 2^93 + win * 2^81 + rq * 2^73 + kind * 2^70 + state * 2^67 + credits * 2^60 + owed * 2^53 + freed * 2^46 + round * 2^45 + mc * 2^43 + sp * 2^38)
def qEntry (kind : Nat) (cls : Nat := 0) (depth : Nat := 3) (base : Nat := 4) (win : Nat := 0x10) (winlen : Nat := 7) (tmode : Nat := 0) (tzero : Nat := 0) (expect : Nat := 1) (pdev : Nat := 0) (pcore : Nat := 9) (pchan : Nat := 3) (rq : Nat := 5) (rqc : Nat := 4) (th : Nat := 2) : BitVec 128 :=
  BitVec.ofNat 128 (2^127 + kind * 2^124 + cls * 2^120 + depth * 2^114 + base * 2^104 + win * 2^92 + winlen * 2^80 + tmode * 2^78 + tzero * 2^74 + expect * 2^64 + pdev * 2^50 + pcore * 2^40 + pchan * 2^32 + rq * 2^24 + rqc * 2^16 + th * 2^10 + 8 * 2^4)
def withQ (c : Core) : Core := { c with q := { c.q with
  table := [(0, qEntry 0), (1, qEntry 1 (base := 8)), (2, qEntry 2 (base := 12)), (3, qEntry 3 (base := 16) (win := 0x20)), (4, qEntry 4 (base := 20))],
  chans := [(0, chRec 0 2 3), (1, chRec 0 2 0), (2, chRec 0 1 1), (3, chRec 1 2 0 (round := 1)), (4, chRec 2 2 0 (mc := 2) (sp := 3)), (5, chRec 0 5 1), (6, chRec 0 3 1), (7, chRec 1 2 3), (8, chRec 0 4 1), (9, chRec 1 1 0)] } }
def openQ (c : Core) : Core := [1,2,3,4,0].foldl (fun c q => openQueue c q 1) c
def recd (kind : Nat) (core idx : Nat) (units arg : Nat) (data : List Nat) (home cvid tdev : Nat := 0) : ActionRecord :=
  { header := BitVec.ofNat 128 (kind * 2^120 + home * 2^111 + cvid * 2^105 + tdev * 2^96 + core * 2^86 + idx * 2^72 + (units - 1) * 2^58 + arg * 2^29 + data.length * 2^19), data := data.map (BitVec.ofNat 8) }
def recBytes (r : ActionRecord) : List Byte := bytesOf 16 r.header.toNat ++ r.data ++ List.replicate ((16 - r.data.length % 16) % 16) 0
def image (rs : List ActionRecord) : List Byte :=
  let body := rs.flatMap recBytes
  bytesOf 64 (1 + (64 + body.length) * 2^64 + rs.length * 2^96) ++ body
def regioned (s : State) : State := { s with dep := { s.dep with rgn := [(0, BitVec.ofNat 32 (1 * 2^16)), (1, BitVec.ofNat 32 (1 * 2^16)), (2, BitVec.ofNat 32 (2 * 2^16 + 1)), (3, BitVec.ofNat 32 (2 * 2^16 + 4)), (4, BitVec.ofNat 32 (1 * 2^16 + 9))], keys := [(0, 1), (1, 2), (2, 3)], nextKey := 4 } }
def putImg (s : State) (ctx : Nat) (off : Nat) (bs : List Byte) : State := regionWrite s ctx false off (bs ++ List.replicate ((64 - bs.length % 64) % 64) 0)
def mkDesc (sdev score sbase : Nat := 0) (g : Nat := 0) (fmt : Nat := 4) (cont depot relay lrn : Nat := 0) (delay : Nat := 1) (scale : Nat := 0) (zero : Nat := 0) (addr tbase len stride step prune : Nat := 0) : BitVec 128 :=
  BitVec.ofNat 128 (sdev * 2^119 + score * 2^109 + sbase * 2^96 + g * 2^92 + fmt * 2^89 + cont * 2^88 + depot * 2^87 + relay * 2^86 + lrn * 2^85 + delay * 2^81 + scale * 2^73 + zero * 2^69 + addr * 2^36 + tbase * 2^23 + len * 2^11 + stride * 2^3 + step * 4 + prune)
def iDesc (stream : Nat) (enc : Nat := 0) (sfmt : Nat := 0) (outn : Nat := 1) (level k1 : Nat := 0) (bexp : Nat := 0) (timer : Nat := 0) (chans : Nat := 0) (acore abase : Nat := 0) (period grace t0s : Nat := 0) (cap : Nat := 0) : BitVec 256 :=
  BitVec.ofNat 256 (stream * 2^26 + cap * 2^32 + sfmt * 2^33 + enc * 2^36 + outn * 2^39 + level * 2^46 + k1 * 2^50 + bexp * 2^54 + timer * 2^59 + chans * 2^64 + acore * 2^73 + abase * 2^83 + 8 * 2^96 + 4 * 2^108 + 1 * 2^120 + period * 2^128 + grace * 2^160 + t0s * 2^192)
def iPay (d : BitVec 256) (es : List Nat) : List Line := bytesLines (bytesOf 32 d.toNat ++ es.flatMap (bytesOf 8))
def lEnt (core : Nat) (kind : Nat := 0) (dev : Nat := 0) : Nat := dev * 2^55 + core * 2^45 + kind * 2^36
def rDesc (stream : Nat) (dec ofmt : Nat := 0) (len : Nat := 4) (dest cq : Nat := 0) (nr : Nat := 1) (x : Nat := 0): Nat := stream * 2^58 + dec * 2^56 + ofmt * 2^54 + len * 2^48 + dest * 2^46 + cq * 2^38 + x * 2^11 + nr * 2^4
def gRange (core sbase slots : Nat) : Nat := core * 2^54 + sbase * 2^41 + (slots - 1) * 2^31
def rPay (d : Nat) (rs : List Nat) : List Line := bytesLines (bytesOf 8 d ++ rs.flatMap (bytesOf 8))
def bcmd (h : Nat) (op ctx : Nat) (ws : List Nat) (bs : List Line) (tobj tcore : Nat := 0) : Fetched := cmd h (man op ctx ws (bales := bs.length) (tobj := tobj) (tcore := tcore)) bs
def small : State := { row0 with remap := [(0, [0,1,2,3])], shards := [(0, { state := .stopped, gen := 3, w := 4 })] }
def qc : Core := openQ (withQ { bound := true, ctx := 1, gen := 2, st := { phase := .waiting, step := 4 }, q := { } })
def shp (x : Nat) : Word := BitVec.ofNat 32 (3 * 2^17 + 2^20 + 2^26 + x * 2^8 + 9)
def pk (t vc n : Nat) (dev core : Nat) (ctx gen : Nat) (c : Nat := 0) : Packet := mkPkt t vc dev core 0 0 (srcWord 1 2 3) 4 ctx gen 0 9 c 0xA (List.replicate n 0x77)
def mk (c : Core) : State := { regioned row0 with cores := [(1, syncGset c), (2, { bound := true, ctx := 1, gen := 2, st := { phase := .waiting, step := 4 } })] }
def lpa (c : Core) : Core := { c with hnd := { c.hnd with loopState := some (4, 5, 3) } }
def cur (isReq : Bool) (host : Option Nat) (rep : Bool) (c : Core) : Core := { c with hnd := { c.hnd with cur := { chain := { isReq := isReq, host := host, replied := rep, entry := qEntry 1, sender := 0x1234 } } } }
def mod (f : Core → Core) (s : State) : State := modCore s 0 f
def bc (ph : Phase) : Core := { bound := true, ctx := 1, gen := 2, st := { phase := ph, step := 4, runLimit := 100, c := 4, g := 8, cr := [(4, 1)], rg := [(5, 1)], inCount := 2, outCount := 1, dmax := 2, outEntries := 1, inEntries := 1, wdogEn := true, w := 4 }, nrn := { words := [(0, 0x123456789ABCDEF0), (3, 0xFF00FF0012345678)], accs := [(0, 100), (3, 0xFFFF00)], groups := [(0, 0x1234567890ABCDEF1234567890ABCDEF1234567890), (1, 77)], touch := [0, 3], loaded := [(0, 8)], lfsr := 0xACE1 }, syn := { index := [(2 * homeBucket 0 2 3 0, mkDesc (fmt := 0) (len := 7) (score := 2) (sbase := 3) (delay := 1)), (2 * homeBucket 0 2 4 0, mkDesc (fmt := 4) (len := 3) (score := 2) (sbase := 4) (lrn := 1)), (2 * homeBucket 0 9 0 0, mkDesc (score := 9) (fmt := 0) (relay := 1) (addr := 64))], rows := [(0, 0x1234567890), (1, 0xFF)] }, hnd := { lfsr := 3 } }
def more (c : Core) : List Core := [c, { c with st := { c.st with c := 2, paced := true, overrun := 1, released := 9 } }, { c with st := { c.st with c := 0xFFFFFFF0, paced := true, overrun := 1, released := 9, step := 4 } }, { c with syn := { c.syn with ring := [⟨BitVec.ofNat 64 (4 * 2^40 + 3), 4, .none⟩, ⟨5, 5, .none⟩, ⟨5, 6, .queued⟩] } }, { c with syn := { c.syn with pen := [⟨5, 6, .queued⟩, ⟨7, 6, .partly⟩, ⟨9, 9, .stored 2⟩, ⟨3, 5, .stored 1⟩] } }, { c with lrn := { c.lrn with work := some { swept := true } } }, { c with st := { c.st with cr := [], outCount := 0, inCount := 0, step := 0xFFFFFFFF, c := 0xFFFFFFFE } }, { c with lrn := { c.lrn with pending := [3], depotOut := [(4, [5])], eagerLen := 2, backLen := 1 }, ldm := [(0x3E300, 4), (0x3E302, 6), (0x3E100, 4)] }, { c with lrn := { c.lrn with eagerLen := 1, eagerNow := some (4, true, 0) }, ports := { mem := [(2, 4096)] } }, { c with lrn := { c.lrn with eagerLen := 1, eagerNow := some (4, true, 0) } }, { c with cvy := [{ tag := 3, ctx := 1, commit := some 4, sc := some 4 }], st := { c.st with haltStep := some 4, saveBarrier := some 5 } }]
def phs : List Phase := [.waiting, .integrate, .waitCredit, .fire, .learn, .close, .notRunning]
def pc : List Fetched := ((List.range 4).map fun pl => cmd (1 + pl) (man 0x49 0 [pl * 16 + 64])) ++ ((List.range 5).map fun st => cmd (10 + st) (man 0x49 0 [st + 16]))
def okRec (core cvid : Nat) (sc : Nat := 0) : ActionRecord := recd 0x07 core 0 1 0 [0,0,0,0] 0 cvid 0
def cv (core sub tag ctx gen pay : Nat) : Packet := mkPkt 6 0 0 core 0 0 (BitVec.ofNat 32 6) tag ctx gen sub pay 5 0x6
def sh (tag ctx : Nat) (recs : List ActionRecord) : MemberConvoy := { tag := tag, ctx := ctx, records := recs }
def fillRec (core cvid : Nat) : ActionRecord := recd 0x04 core 9 1 0 [] 0 cvid 0
def shs (ctx core : Nat) : List MemberConvoy := [sh 1 ctx [okRec core 1], { sh 2 ctx [okRec core 2] with failed := some 6 }, { sh 3 ctx [okRec core 3] with prepared := true, sc := some 9, barrier := some 9 }, { sh 4 ctx [fillRec core 4] with filling := true, sc := some 9, barrier := some 9 }, { sh 5 ctx [okRec core 5] with prepared := true, sc := some 4, commit := some 4 }, { sh 6 ctx [fillRec core 6] with }, { sh 70 ctx [okRec core 5] with prepared := true, sc := some 12, commit := some 12 }, { sh 130 ctx [] with prepared := true }]
def base : State := { regioned row0 with cores := [(0, { bound := true, ctx := 0, gen := 3, cvy := shs 0 0 }), (1, { bound := true, ctx := 1, gen := 2, cvy := shs 1 1, st := { step := 4, phase := .waiting } }), (2, { bound := true, ctx := 1, gen := 2, st := { step := 4, phase := .integrate }, cvy := shs 1 2 })], hubCvy := [{ sh 3 1 [] with prepared := true }], convoys := [{ tag := 3, ctx := 1, phase := .preparing, members := [(0, .core 1), (0, .core 2)] }] }
def arr (p : List Packet) (n : Nat) (s : State) : State := modCore s n fun c => { c with arrived := p }
def mS : List State := [base, arr [cv 1 1 1 1 2 5, cv 1 4 3 1 2 9, cv 1 5 3 1 2 0x41] 1 base, arr [cv 1 4 3 1 2 9, cv 1 1 1 1 2 5] 1 base, arr [cv 1 5 3 1 2 0x16, cv 1 4 3 1 2 9, cv 1 1 1 1 2 5] 1 base, modCore base 1 fun c => { c with hnd := { c.hnd with run := true } }, modCore base 1 fun c => { c with syn := { c.syn with reads := [{ tag := 1, what := .prefetch, edge := false, burst := 0, count := 1 }] } }, { base with shape := 0x21 }]
def msg (t : Nat) (q cgen : Nat) (score : Nat := 9) (chn : Nat := 3) (len land : Nat := 0) (ctx : Nat := 1) (gen : Nat := 2) (mid : Nat := 0xB) (reply : Bool := false) (sub : Nat := 2) (dev : Nat := 0) : Packet :=
  mkPkt t 2 0 1 0 0 (msgSrc reply dev score chn) (q * 256 + cgen) ctx gen sub (land * 2^20 + len * 2^10) 3 mid (if len = 0 then [] else List.replicate ((len + 31) / 32) 0x55)
def pS : List State := do
  let pl ← [0, 1, 3]
  let st ← [PowerState.s0, .s1, .s2, .s3]
  let tgt ← [(none : Option PowerState), some .s1, some .s2, some .s3, some .s4, some .s0]
  let ch ← [true, false]
  let cap ← [480, 250]
  let lat ← [0, 0x1FFF]
  [{ withCmds small pc with shards := (if cap = 480 then small.shards else row0.shards), pwr := { small.pwr with pl := pl, state := st, target := tgt, changing := ch, capW := cap, latched := lat, plReq := 2, plCmds := [1,2], entryCmd := some 11, plTherm := pl, hwlimit := ch } }]
def ep (t : Nat) (core neuron stampv ctx gen pay : Nat) (vc : Nat := 1) : Packet := mkPkt t vc 0 1 0 0 (srcWord 0 core neuron) stampv ctx gen 0 pay 0
def eps : List Packet := [ep 0 2 3 4 1 2 0, ep 0 2 4 4 1 2 0, ep 0 2 4 2 1 2 0, ep 0 2 4 9 1 2 0, ep 0 9 0 4 1 2 0, ep 0 2 99 4 1 2 0, ep 0 2 4 4 1 3 0, ep 1 2 0 5 1 2 0, ep 2 2 0 5 1 2 0, ep 3 2 0 5 1 2 9 0, ep 3 2 0 5 1 2 70000 0, ep 0 2 4 4 2 2 0]
def ar (s : State) : State := modCore s 1 fun c => { c with arrived := eps }
def upc : List Fetched := [cmd 1 (man 0x40 0 [0, 0] (bales := 1)) [BitVec.ofNat 512 (2^300+9)], cmd 2 (man 0x40 0 [1, 0] (bales := 1)) [BitVec.ofNat 512 (2^300+9)], cmd 3 (man 0x40 0 [1, 64] (bales := 1)) [BitVec.ofNat 512 77], cmd 4 (man 0x40 0 [0, 0x7FFFFF] (bales := 1)) [0], cmd 5 (man 0x41 0 [1,2,3,4])]
def np (sub : Nat) : Packet := mkPkt 0xC 0 0 1 0 0 (srcWord 0 2 0) 7 1 2 sub 5 5
def uS : List State := do
  let lc ← [0,1,2,3,4]
  let lk ← [false, true]
  let up ← [none, some 64, some 0x7FFFFF]
  let pf ← [false, true]
  [{ withCmds small upc with nv := { small.nv with lcState := BitVec.ofNat 3 lc, ledgerA := [1] }, glb := { small.glb with locked := lk }, sec := { small.sec with updateAt := up, pufFail := pf, level := 2 }, fab := { small.fab with hub := [np 0x25, np 0x26] } }]
def wcs : List Fetched := [cmd 1 (man 0x30 0 [0]), cmd 2 (man 0x30 1 [1, 3]), cmd 3 (man 0x30 1 [1, 1]), cmd 4 (man 0x30 1 [1, 9]), cmd 5 (man 0x31 0 [0]), cmd 6 (man 0x31 1 [1, 3]), cmd 7 (man 0x31 1 [0, 3]), cmd 8 (man 0x30 1 [1, 5]), cmd 50 (man 0x30 0 [0]), cmd 51 (man 0x31 1 [1,3])]
def mkk (ph : Phase) (p0 : Phase := .notRunning) : State := let s := withCmds (mk (bc ph)) wcs; { s with pwr := { s.pwr with state := .s0 }, cores := nset {} s.cores 0 { bc p0 with ctx := 0, gen := 3 } }
def saved1 (s : State) : State :=
  let s1 := match exec (.weightSave 2) s with | .next t => t | _ => s
  let s2 := match exec (.weightSaveDone 1) s1 with | .next t => t | _ => s1
  { s2 with hif := s.hif }

namespace Bist
def bcm : List Fetched := [cmd 1 (man 0x48 0 [0] (tcore := 1)), cmd 2 (man 0x48 0 [1 + 4]), cmd 3 (man 0x48 0 [2] (tcore := 3)), cmd 4 (man 0x48 0 [3]), cmd 5 (man 0x48 0 [0] (tcore := 99)), cmd 6 (man 0x48 0 [1] (tcore := 0))]
def free (s : State) : State := { s with shards := [], cores := [(1, { cnt := [(0x800,3)], ldm := [(5,5)] }), (2, {})] }
def part (s : State) : State := { s with shards := [(0, { state := .stopped, gen := 3, w := 4 })], cores := [(0, { bound := true, ctx := 0, gen := 3 }), (1, { cnt := [(0x800,3)], ldm := [(5,5)] })] }
def bS : List State := (do
  let lc ← [0,1,2,3,4,5]
  let pl ← [0, 1]
  let r ← [(none : Option BistRun), some { test := 0, cores := [1], cmd := some 1 }, some { test := 3, cores := [0,1,2,3], cmd := none }, some { test := 1, cores := [0,2], cmd := some 2, partly := true }]
  let f ← [free, part]
  [f { withCmds small bcm with nv := { small.nv with lcState := BitVec.ofNat 3 lc }, pwr := { small.pwr with pl := BitVec.ofNat 2 pl }, bst := { small.bst with running := r, held := [3] } }]) ++ [part { withCmds small bcm with pwr := { small.pwr with target := some .s1 } }, part { withCmds small bcm with pwr := { small.pwr with state := .s1 } }]
/-- Clauses 0, 1, 2, 3, 4, 5, 6, 7, 8, 9 of BistRunsAndEnds. -/
theorem test_BistRunsAndEnds :
    (let s : State := bS.getD 2 State.reset; let h : Nat := 1; let f : Fetched := (s.hif.fetched).getD 0 (cmd 0 0); let busy := s.bst.running.isSome = true ∨ s.pwr.target.isSome = true; MayRun s h 0x48 f ∧ busy) ∧
    (let s : State := bS.getD 0 State.reset; let h : Nat := 5; let f : Fetched := (s.hif.fetched).getD 4 (cmd 0 0); let w := mw f.manifest 0; let test := w % 4; let all : Bool := w / 4 % 2 = 1; let busy := s.bst.running.isSome = true ∨ s.pwr.target.isSome = true; MayRun s h 0x48 f ∧ (¬busy) ∧ bistMay s test all (mTcore f.manifest) = false) ∧
    (let s : State := bS.getD 8 State.reset; let h : Nat := 1; let f : Fetched := (s.hif.fetched).getD 0 (cmd 0 0); let w := mw f.manifest 0; let test := w % 4; let all : Bool := w / 4 % 2 = 1; let busy := s.bst.running.isSome = true ∨ s.pwr.target.isSome = true; MayRun s h 0x48 f ∧ (¬busy) ∧ bistMay s test all (mTcore f.manifest) = true ∧ inLimits s = false) ∧
    (let s : State := bS.getD 0 State.reset; let h : Nat := 1; let f : Fetched := (s.hif.fetched).getD 0 (cmd 0 0); let w := mw f.manifest 0; let test := w % 4; let all : Bool := w / 4 % 2 = 1; let busy := s.bst.running.isSome = true ∨ s.pwr.target.isSome = true; MayRun s h 0x48 f ∧ (¬busy) ∧ bistMay s test all (mTcore f.manifest) = true ∧ inLimits s = true) ∧
    (let s : State := bS.getD 0 State.reset; let mid : Nat := 2; let v : Word := 0x800001; let may : Bool := (mid == 2 || mid == 4) && bistFull s.nv.lcState && reaches s mid (bstAddr 4) && fld v 31 24 == 0x6B; (may = false ∨ s.bst.running.isSome = true)) ∧
    (let s : State := bS.getD 0 State.reset; let mid : Nat := 2; let v : Word := 0x6b000001; let may : Bool := (mid == 2 || mid == 4) && bistFull s.nv.lcState && reaches s mid (bstAddr 4) && fld v 31 24 == 0x6B; may = true ∧ s.bst.running = none ∧ (bit v 23 = false ∨ s.pwr.target.isSome = true ∨ bistMay s (fld v 21 20) (bit v 22) (fld v 9 0) = false)) ∧
    (let s : State := bS.getD 8 State.reset; let mid : Nat := 2; let v : Word := 0x6b800000; let may : Bool := (mid == 2 || mid == 4) && bistFull s.nv.lcState && reaches s mid (bstAddr 4) && fld v 31 24 == 0x6B; may = true ∧ s.bst.running = none ∧ bit v 23 = true ∧ s.pwr.target = none ∧ bistMay s (fld v 21 20) (bit v 22) (fld v 9 0) = true ∧ inLimits s = false) ∧
    (let s : State := bS.getD 0 State.reset; let mid : Nat := 2; let v : Word := 0x6b800000; let may : Bool := (mid == 2 || mid == 4) && bistFull s.nv.lcState && reaches s mid (bstAddr 4) && fld v 31 24 == 0x6B; may = true ∧ s.bst.running = none ∧ bit v 23 = true ∧ s.pwr.target = none ∧ bistMay s (fld v 21 20) (bit v 22) (fld v 9 0) = true ∧ inLimits s = true) ∧
    (let s : State := bS.getD 0 State.reset; s.bst.running = none) ∧
    (let s : State := bS.getD 2 State.reset; let r : BistRun := ((s.bst.running).getD ({ test := 0, cores := [] })); s.bst.running = some r) := by
  refine ⟨?_, ?_, ?_, ?_, ?_, ?_, ?_, ?_, ?_, ?_⟩ <;> (try unfold MayRun) <;> decide +kernel
end Bist

namespace Channels
def withFree (c : Core) : Core := { c with q := { c.q with table := c.q.table ++ [(5, qEntry 1 (cls := 2) (base := 24)), (6, qEntry 3 (cls := 3) (base := 28)), (7, qEntry 1 (cls := 1) (base := 30))] } }
def op (sub q : Nat) (lo : Nat := 0) (ctx : Nat := 1) (gen : Nat := 2) (cg : Nat := 1) : Packet := mkPkt 9 0 0 1 0 0 (srcWord 0 9 3) (q * 256 + cg) ctx gen sub lo 3
def ops : List Packet := do
  let sub ← [0, 1, 2, 3]
  let q ← [0, 1, 2, 5, 6, 9]
  let lo ← [0, 0x20000000, 0x20000080, 0x30000000, 0x10000000, 0x100000FF, 0x01010180]
  [op sub q lo, op sub q lo (gen := 3), op sub q lo (ctx := 2)]
def pend (c0 : Core) (q : Nat) : Core := let c := arrive c0 q 1 1; { c with q := { c.q with msgs := [{ queue := q, slot := 8, kind := 0, chain := { entry := qEntry 1, isReq := true } }] } }
def cores : List Core := [qc, withFree qc, pend (withFree qc) 1, openQueue (withFree qc) 6 1, { withFree qc with q := { (withFree qc).q with draining := [(4, false), (1, true), (1, false)] } }, { qc with q := { qc.q with draining := [(4, false), (1, true)] } }]
def mS : List State := cores.flatMap fun c => [{ row0 with cores := [(1, c), (3, { qc with ctx := 2, gen := 1 })] }, { row0 with cores := [(1, { c with arrived := ops.reverse }), (3, { bound := true, ctx := 2, gen := 1 })] }]
/-- Clauses 0, 1, 2, 3, 4 of ChannelsOpenDrainAndClose. -/
theorem test_ChannelsOpenDrainAndClose :
    (let s : State := mS.getD 1 State.reset; let n : Nat := 1; let pkt : Packet := ops.getD 0 { head := 0 }; portTurn s n pkt = false) ∧
    (let s : State := mS.getD 0 State.reset; let n : Nat := 1; let pkt : Packet := ops.getD 0 { head := 0 }; portTurn s n pkt = true) ∧
    (let s : State := mS.getD 4 State.reset; let n : Nat := 1; let q : Nat := 1; let d := getCore s n; qPending d q ≠ 0) ∧
    (let s : State := mS.getD 8 State.reset; let n : Nat := 1; let q : Nat := 1; let d := getCore s n; qPending d q = 0 ∧ (d.q.draining.contains (q, true) = true)) ∧
    (let s : State := mS.getD 8 State.reset; let n : Nat := 1; let q : Nat := 4; let d := getCore s n; qPending d q = 0 ∧ (d.q.draining.contains (q, true) = false) ∧ (d.q.draining.contains (q, false) = true)) := by
  refine ⟨?_, ?_, ?_, ?_, ?_⟩ <;> decide +kernel
end Channels

namespace Rings
def sqs3 : State := { row0 with hif := { row0.hif with sqs := [(0, { en := true, cq := 0, head := 3, tail := 9 }), (1, { en := true, cq := 1, log2 := 2, head := 3, tail := 2 })] } }
def d2 : List State := [row0, sqs3, { sqs3 with hif := {sqs3.hif with rr := 1}}, { sqs3 with hif := {sqs3.hif with sqs := [(1, { en := true, cq := 1, log2 := 2, head := 3, tail := 2 })]}},
  { sqs3 with shape := 0x00012300 }, { sqs3 with hif := {sqs3.hif with sqs := [(9, { en := true, log2 := 0, head := 65535, tail := 20 })]}}]
def d1 : List State := [State.reset, row0,
  { row0 with hif := { row0.hif with sqs := [(0, { en := true, cq := 0, head := 3, tail := 9 }), (1, { en := true, cq := 1, log2 := 2, head := 3, tail := 2 })], cqs := [(0, { en := true, vector := 3, tail := 5, head := 14, hold := [⟨[1,2]⟩] }), (1, { en := true, log2 := 2, tail := 3, head := 3, vector := 5, coalCnt := 3, coalUs := 9, unsig := 1, hold := [⟨[0x100, 0x200]⟩, ⟨[3]⟩] }), (2, {en := true, tail := 3, hold := [⟨[3]⟩]})] } },
  { row0 with hif := { row0.hif with cqs := [(1, {en := true, log2 := 2, coalCnt := 3, unsig := 2, tail := 3, phase := false, hold := [⟨[0x100 + 1 * 2^22, 0x200, 5]⟩]})] } }]
/-- Clauses 0, 1, 2 of CommandFetchTakesTheNextRing. -/
theorem test_CommandFetchTakesTheNextRing :
    (let s : State := d2.getD 2 State.reset; let n : Nat := 1; let m : Line := 0x3006000070400000000001901; let q := getSq s n; let size := ringSize q.log2; s.hif.en = true ∧ s.sdio.ready = true ∧ s.pwr.state = .s0 ∧ hubMay s.pwr.pl.toNat s.fab.cmd hostClass = true ∧ nextSq s = some n ∧ (size - 1 < mBales m + 1)) ∧
    (let s : State := d2.getD 1 State.reset; let n : Nat := 0; let m : Line := 0x70000000000007701; let rest : List Line := []; let q := getSq s n; let size := ringSize q.log2; let bales := (List.range (mBales m)).map fun i => (rest[i]?).getD 0; let st : Status := 17; s.hif.en = true ∧ s.sdio.ready = true ∧ s.pwr.state = .s0 ∧ hubMay s.pwr.pl.toNat s.fab.cmd hostClass = true ∧ nextSq s = some n ∧ (mBales m + 1 ≤ size - 1) ∧ (mBales m + 1 ≤ sqUsed q) ∧ ((isFast (mOp m) = true ∨ s.mgmt.queue.length < 256)) ∧ manifestCheck s m bales = some st) ∧
    (let s : State := d2.getD 1 State.reset; let n : Nat := 0; let m : Line := 0x70000000000000001; let rest : List Line := []; let q := getSq s n; let size := ringSize q.log2; let bales := (List.range (mBales m)).map fun i => (rest[i]?).getD 0; s.hif.en = true ∧ s.sdio.ready = true ∧ s.pwr.state = .s0 ∧ hubMay s.pwr.pl.toNat s.fab.cmd hostClass = true ∧ nextSq s = some n ∧ (mBales m + 1 ≤ size - 1) ∧ (mBales m + 1 ≤ sqUsed q) ∧ ((isFast (mOp m) = true ∨ s.mgmt.queue.length < 256)) ∧ manifestCheck s m bales = none ∧ resetCheck s m = none) := by
  refine ⟨?_, ?_, ?_⟩ <;> decide +kernel
/-- Clauses 0, 1 of DoorbellsPublishOrDiscard. -/
theorem test_DoorbellsPublishOrDiscard :
    (let s : State := d1.getD 0 State.reset; let n : Nat := 0; let value : Word := 0; let c := getCq s n; let size := ringSize c.log2; let v := fld value 15 0; let taken := v < size ∧ (v + size - c.head.toNat) % size ≤ (c.tail.toNat + size - c.head.toNat) % size; n < 256 ∧ taken) ∧
    (let s : State := d1.getD 0 State.reset; let n : Nat := 0; let value : Word := 1; let c := getCq s n; let size := ringSize c.log2; let v := fld value 15 0; let taken := v < size ∧ (v + size - c.head.toNat) % size ≤ (c.tail.toNat + size - c.head.toNat) % size; n < 256 ∧ (¬taken)) := by
  refine ⟨?_, ?_⟩ <;> decide +kernel
/-- Clauses 0, 1 of HeldGroupsAndCoalescing. -/
theorem test_HeldGroupsAndCoalescing :
    (let s : State := d1.getD 2 State.reset; let cq : Nat := 0; let g : Sys2Proof.Machine.Group := ((getCq s cq).hold).headD { entries := [] }; let gs : List Sys2Proof.Machine.Group := ((getCq s cq).hold).tail; ((getCq s cq).hold = g :: gs) ∧ (getCq s cq).en = true ∧ g.entries.length ≤ cqFree (getCq s cq) ∧ (getCq s cq).tail.toNat < ringSize (getCq s cq).log2) ∧
    (let s : State := d1.getD 2 State.reset; let cq : Nat := 1; (getCq s cq).unsig ≠ 0) := by
  refine ⟨?_, ?_⟩ <;> decide +kernel
end Rings

namespace Mailboxes
def q1 : State := withCmds { row0 with mgmt := { running := true, queue := [3, 4, 7, 8], late := [3], maxUs := 9 } } [cmd 3 (man 0 0 [5] (timeout := 3)) (taken := false), cmd 4 (man 0x28 1 (timeout := 2) (rst := 1)) (taken := false), cmd 6 (man 0 0 [9]), cmd 7 (man 0x29 1) (taken := false), { cmd 8 (man 0x03 4) with begun := true }, { cmd 9 (man 0x03 4) with held := true }, cmd 10 (man 0x10 1 [3,0] (rst := 1) (timeout := 1)) (taken := true) (o := .sdio), cmd 11 (man 0x10 4 [3,0] (rst := 1) (timeout := 1)) (o := .frontEnd 2), cmd 12 (man 0x10 4 [3,0] (rst := 1) (timeout := 31)) (o := .frontEnd 2), cmd 13 (man 0x3A 4 [2,0] (rst := 1) (timeout := 3)) (o := .frontEnd 2) (taken := false)]
def d3 : List State := [row0, q1, { q1 with mgmt := { q1.mgmt with late := [3,4,7,8] } }, { q1 with mgmt := { q1.mgmt with hart0 := some 3, restarting := true } }, { q1 with sec := { q1.sec with haltedHarts := [0] } }, { q1 with mgmt := { q1.mgmt with late := [], hart1 := some 6 } }]
def mb : State := { row0 with mbx := [(0, { en := true, secure := true, smid := 0, rmid := 2, pend := 5, tmoUs := 8, timing := true, data := [(2, 7)] }), (1, {en := true, secure := true, smid := 2, rmid := 0}), (4, {en := true, smid := 1, rmid := 3, mask := 2, vector := 4, timing := true}), (5, {en := true, smid := 3, rmid := 1, pend := 8, timing := true}), (6, {smid := 1, rmid := 0, timing := true}), (7, {en := true, smid := 2, rmid := 0, secure := true, timing := true})] }
def d4 : List State := [row0, mb, { mb with glb := { mb.glb with locked := true } }]
def tmr (m : TimerMode) (en : Bool) (c r : Word) : Timer := { mode := m, en := en, count := c, reload := r, ie := true, wake := true, vector := 7, tb := 0x1FFFFFFFF, pre := 3, cmp := [(0, 6), (2, 0)], behind := 2, capTb := 0x500000003, capCount := 4, ltarget := 3, lact := 3, levt := 1, src := 1, edge := 1, pin := 3 }
def d5 : List State := [row0, { row0 with tmr := [(0, tmr .native true 1 9), (1, tmr .native true 0 9), (2, tmr .native true 5 9), (3, tmr .compat true 5 9), (4, tmr .compat true 0xFFFFFFFF 9), (5, tmr .pace true 3 4), (6, {tmr .native true 3 4 with resetNext := true}), (7, {tmr .compat true 3 4 with resetNext := true}), (8, {tmr .native true 0 4 with oneshot := true}), (9, { tmr .native false 2 4 with edge := 2, capNew := true }), (10, { tmr .native true 2 4 with linkNow := true, lact := 1 }), (11, { tmr .native true 2 4 with linkNow := true, ltarget := 5 }), (12, { tmr .native true 2 4 with linkNow := true, ltarget := 12 })], pwr := { row0.pwr with wakeEn := 8, target := some .s1 } }]
/-- Clauses 0, 1, 2, 3 of CommandTimeoutEndsTheWait. -/
theorem test_CommandTimeoutEndsTheWait :
    (let s : State := d3.getD 1 State.reset; let h : Nat := 9; let f : Fetched := ((findCmd s h).getD (cmd 0 0)); findCmd s h = some f ∧ (f.held = true ∨ mTimeout f.manifest = 31)) ∧
    (let s : State := d3.getD 1 State.reset; let h : Nat := 3; let f : Fetched := ((findCmd s h).getD (cmd 0 0)); findCmd s h = some f ∧ f.held = false ∧ mTimeout f.manifest ≠ 31 ∧ hasStarted f = false) ∧
    (let s : State := d3.getD 1 State.reset; let h : Nat := 4; let f : Fetched := ((findCmd s h).getD (cmd 0 0)); let st := (getShard s (mCtx f.manifest)).state; let resets := mReset f.manifest = true ∧ namesCtx f.manifest = true ∧ st ≠ .free ∧ st ≠ .resetting; findCmd s h = some f ∧ f.held = false ∧ mTimeout f.manifest ≠ 31 ∧ resets) ∧
    (let s : State := d3.getD 1 State.reset; let h : Nat := 3; let f : Fetched := ((findCmd s h).getD (cmd 0 0)); let st := (getShard s (mCtx f.manifest)).state; let resets := mReset f.manifest = true ∧ namesCtx f.manifest = true ∧ st ≠ .free ∧ st ≠ .resetting; findCmd s h = some f ∧ f.held = false ∧ mTimeout f.manifest ≠ 31 ∧ (¬resets)) := by
  refine ⟨?_, ?_, ?_, ?_⟩ <;> decide +kernel
/-- Clauses 0, 1, 2 of HartsTakeCommands. -/
theorem test_HartsTakeCommands :
    (let s : State := d3.getD 1 State.reset; let hart : Nat := 0; let f : Fetched := ((nextFor s hart).getD (cmd 0 0)); s.mgmt.running = true ∧ s.mgmt.restarting = false ∧ s.sec.haltedHarts.contains hart = false ∧ hartFree s hart = true ∧ nextFor s hart = some f) ∧
    (let s : State := d3.getD 1 State.reset; let h : Nat := 4; ((s.mgmt.queue.find? fun x => !s.mgmt.late.contains x) = some h)) ∧
    (let s : State := d3.getD 1 State.reset; let h : Nat := 6; let f : Fetched := (s.hif.fetched).getD 2 (cmd 0 0); MayRun s h 0 f) := by
  refine ⟨?_, ?_, ?_⟩ <;> (try unfold MayRun) <;> decide +kernel
/-- Clauses 0, 1 of MailboxChannelsCarryMessages. -/
theorem test_MailboxChannelsCarryMessages :
    (let s : State := d4.getD 0 State.reset; let n : Nat := 0; let word : Nat := 0; n < 16 ∧ word < 16) ∧
    (let s : State := d4.getD 0 State.reset; let n : Nat := 0; n < 16) := by
  refine ⟨?_, ?_⟩ <;> decide +kernel
/-- Clauses 0, 1 of MailboxTimersAndBindings. -/
theorem test_MailboxTimersAndBindings :
    (let s : State := d4.getD 1 State.reset; let n : Nat := 0; let x := getMbx s n; n < 16 ∧ x.timing = true) ∧
    (let s : State := d4.getD 0 State.reset; let n : Nat := 0; n < 16) := by
  refine ⟨?_, ?_⟩ <;> decide +kernel
/-- Clauses 0, 1 of TimerReadsLinksAndCaptures. -/
theorem test_TimerReadsLinksAndCaptures :
    (let s : State := d5.getD 0 State.reset; let i : Nat := 0; i < 32) ∧
    (let s : State := d5.getD 1 State.reset; let i : Nat := 10; (getTmr s i).linkNow = true ∧ (getTmr s i).ltarget.toNat ≠ i) := by
  refine ⟨?_, ?_⟩ <;> decide +kernel
/-- Clauses 0, 1, 2, 3, 4, 5, 6, 7 of TimerRegisterWrites. -/
theorem test_TimerRegisterWrites :
    (let s : State := d5.getD 0 State.reset; let mid : Nat := 0; let i : Nat := 0; let t := getTmr s i; let may := mid ≤ 3 ∧ t.mode ≠ .pace; let v : Word := 0; let new : TimerMode := if fld v 30 29 = 1 then .compat else .native; let ok := may ∧ fld v 30 29 < 2 ∧ (t.en = true → new = t.mode ∧ fld v 3 0 = t.pre.toNat); i < 32 ∧ ok) ∧
    (let s : State := d5.getD 0 State.reset; let mid : Nat := 0; let i : Nat := 0; let t := getTmr s i; let may := mid ≤ 3 ∧ t.mode ≠ .pace; let v : Word := 0xc0000000; let new : TimerMode := if fld v 30 29 = 1 then .compat else .native; let ok := may ∧ fld v 30 29 < 2 ∧ (t.en = true → new = t.mode ∧ fld v 3 0 = t.pre.toNat); i < 32 ∧ (¬ok)) ∧
    (let s : State := d5.getD 0 State.reset; let mid : Nat := 0; let i : Nat := 0; let t := getTmr s i; let may := mid ≤ 3 ∧ t.mode ≠ .pace; i < 32 ∧ may) ∧
    (let s : State := d5.getD 0 State.reset; let mid : Nat := 4; let i : Nat := 0; let t := getTmr s i; let may := mid ≤ 3 ∧ t.mode ≠ .pace; i < 32 ∧ (¬may)) ∧
    (let s : State := d5.getD 0 State.reset; let mid : Nat := 0; let i : Nat := 0; let t := getTmr s i; let may := mid ≤ 3 ∧ t.mode ≠ .pace; i < 32 ∧ may) ∧
    (let s : State := d5.getD 0 State.reset; let mid : Nat := 4; let i : Nat := 0; let t := getTmr s i; let may := mid ≤ 3 ∧ t.mode ≠ .pace; i < 32 ∧ (¬may)) ∧
    (let s : State := d5.getD 0 State.reset; let mid : Nat := 4; let i : Nat := 0; let t := getTmr s i; let may := mid ≤ 3 ∧ t.mode ≠ .pace; let k : Nat := 0; i < 32 ∧ k < 4 ∧ (¬may)) ∧
    (let s : State := d5.getD 0 State.reset; let mid : Nat := 0; let i : Nat := 0; let t := getTmr s i; let may := mid ≤ 3 ∧ t.mode ≠ .pace; let k : Nat := 0; i < 32 ∧ k < 4 ∧ may) := by
  refine ⟨?_, ?_, ?_, ?_, ?_, ?_, ?_, ?_⟩ <;> decide +kernel
/-- Clauses 0, 1 of TimerTickCounts. -/
theorem test_TimerTickCounts :
    (let s : State := d5.getD 0 State.reset; let i : Nat := 0; let t := getTmr s i; i < 32 ∧ t.en = false) ∧
    (let s : State := d5.getD 1 State.reset; let i : Nat := 0; let t := getTmr s i; i < 32 ∧ t.en = true) := by
  refine ⟨?_, ?_⟩ <;> decide +kernel
end Mailboxes

namespace Contexts
def r0 := regioned row0
def crs : List Fetched := [cmd 1 (man 0x01 7 [0x374, 1, 1, 0x10, 0]), cmd 2 (man 0x01 0 [0x4, 1, 1, 0x10, 0]), cmd 3 (man 0x01 8 [0x4, 4000, 1, 0, 0]), cmd 4 (man 0x02 0), cmd 5 (man 0x02 2), cmd 6 (man 0x02 1), cmd 7 (man 0x01 9 [0x4, 0, 0, 0, 0]), cmd 8 (man 0x03 0), cmd 9 (man 0x03 1), cmd 10 (man 0x03 4), cmd 11 (man 0x03 5)]
/-- Clauses 0, 1, 2 of ContextResets. -/
theorem test_ContextResets :
    (let s : State := withCmds r0 crs; let h : Nat := 8; let f : Fetched := (s.hif.fetched).getD 7 (cmd 0 0); let ctx := mCtx f.manifest; let sh := getShard s ctx; MayRun s h 0x03 f ∧ sh.state ≠ .resetting) ∧
    (let s : State := withCmds r0 crs; let h : Nat := 10; let f : Fetched := (s.hif.fetched).getD 9 (cmd 0 0); let ctx := mCtx f.manifest; let sh := getShard s ctx; MayRun s h 0x03 f ∧ sh.state = .resetting) ∧
    (let s : State := withCmds r0 crs; let ctx : Nat := 4; (getShard s ctx).state = .resetting) := by
  refine ⟨?_, ?_, ?_⟩ <;> (try unfold MayRun) <;> decide +kernel
/-- Clauses 0, 1, 2 of ContextsCreatedAndDestroyed. -/
theorem test_ContextsCreatedAndDestroyed :
    (let s : State := withCmds r0 crs; let h : Nat := 1; let f : Fetched := (s.hif.fetched).getD 0 (cmd 0 0); let m := f.manifest; let ctx := mCtx m; let old := getShard s ctx; let n : Nat := 3; let so : Nat := 1; MayRun s h 0x01 f ∧ old.state = .free ∧ allocRegion s false (mw m 1) = some n ∧ allocRegion s true (mw m 2) = some so) ∧
    (let s : State := withCmds r0 crs; let h : Nat := 2; let f : Fetched := (s.hif.fetched).getD 1 (cmd 0 0); let m := f.manifest; let ctx := mCtx m; let old := getShard s ctx; MayRun s h 0x01 f ∧ (old.state ≠ .free ∨ allocRegion s false (mw m 1) = none ∨ allocRegion s true (mw m 2) = none)) ∧
    (let s : State := withCmds r0 crs; let h : Nat := 4; let f : Fetched := (s.hif.fetched).getD 3 (cmd 0 0); MayRun s h 0x02 f) := by
  refine ⟨?_, ?_, ?_⟩ <;> (try unfold MayRun) <;> decide +kernel
end Contexts

namespace Loads
def img2 : List Byte := image [recd 0x06 7 2 1 0 [1,2,3,4,0,0,0,0x80], recd 0x20 7 0 1 0 (List.replicate 8 0xFF)]
def img3 : List Byte := image [recd 0x04 8 9 1 0 []]
def ld (h ctx k off len : Nat) (bs : List Line := []) : Fetched := cmd h (man 0x08 ctx [k, off, 0, len, 0] (bales := bs.length)) bs
def lds (n : Nat) : List Fetched := [ld 1 2 0 64 0 [5, 6], ld 2 2 0 0x3FFFFC0 0 [5,6], ld 3 2 1 0 n, ld 6 2 1 0x4000000 64, ld 9 2 2 0 0, ld 10 1 2 0 0, cmd 11 (man 0x09 2 [77]), cmd 12 (man 0x09 0 [77]), cmd 13 (man 0x12 1 [0x13, 99]), cmd 14 (man 0x12 2 [0x3, 99])]
def sL (img : List Byte) : State := putImg (withCmds (regioned row0) (lds img.length)) 2 0 img
def sLb : State := let s := putImg (withCmds (regioned row0) [ld 3 2 1 0x1000 img3.length]) 2 0x1000 img3; { s with dep := { s.dep with bad := [burstKey false (9 * 2^20)] } }
def sLc : State := { sL img3 with dep := { (sL img3).dep with bad := [burstKey false (9 * 2^20)] }, shards := nset {} (sL []).shards 2 { state := .stopped, gen := 1, w := 3, sections := 1 } }
def sLx : State := modCore (withCmds (regioned row0) (lds 0)) 2 fun c => { c with syn := { c.syn with index := [(4, mkDesc (lrn := 1) (prune := 1) (len := 2))], rows := [(1, 7)] } }
/-- Clauses 0, 1, 2, 3, 4, 5, 6, 7, 8, 9, 10, 11, 12 of ContextsLoadedAndStarted. -/
theorem test_ContextsLoadedAndStarted :
    (let s : State := sL []; let h : Nat := 1; let f : Fetched := (s.hif.fetched).getD 0 (cmd 0 0); let m := f.manifest; let ctx := mCtx m; let u := started s h; MayRun s h 0x08 f ∧ mw m 0 = 0 ∧ (outsideRegion u ctx false (mw2 m 1) (64 * f.bales.length) = false)) ∧
    (let s : State := sL []; let h : Nat := 2; let f : Fetched := (s.hif.fetched).getD 1 (cmd 0 0); let m := f.manifest; let ctx := mCtx m; let u := started s h; MayRun s h 0x08 f ∧ mw m 0 = 0 ∧ (outsideRegion u ctx false (mw2 m 1) (64 * f.bales.length) = true)) ∧
    (let s : State := sL []; let h : Nat := 6; let f : Fetched := (s.hif.fetched).getD 3 (cmd 0 0); let m := f.manifest; let ctx := mCtx m; let u := started s h; MayRun s h 0x08 f ∧ mw m 0 = 1 ∧ outsideRegion u ctx false (mw2 m 1) (mw2 m 3) = true) ∧
    (let s : State := sLc; let h : Nat := 3; let f : Fetched := (s.hif.fetched).getD 2 (cmd 0 0); let m := f.manifest; let ctx := mCtx m; let u := started s h; MayRun s h 0x08 f ∧ mw m 0 = 1 ∧ outsideRegion u ctx false (mw2 m 1) (mw2 m 3) = false ∧ regionBad u ctx false (mw2 m 1) (mw2 m 3) = true) ∧
    (let s : State := sL []; let h : Nat := 3; let f : Fetched := (s.hif.fetched).getD 2 (cmd 0 0); let m := f.manifest; let ctx := mCtx m; let u := started s h; let img := regionRead u ctx false (mw2 m 1) (mw2 m 3); MayRun s h 0x08 f ∧ mw m 0 = 1 ∧ outsideRegion u ctx false (mw2 m 1) (mw2 m 3) = false ∧ regionBad u ctx false (mw2 m 1) (mw2 m 3) = false ∧ imageRecords (devNo s) img = none) ∧
    (let s : State := sL img3; let h : Nat := 3; let f : Fetched := (s.hif.fetched).getD 2 (cmd 0 0); let m := f.manifest; let ctx := mCtx m; let u := started s h; let img := regionRead u ctx false (mw2 m 1) (mw2 m 3); let v := chargeRegion u ctx false (mw2 m 1) (mw2 m 3) 4; let rs : List ActionRecord := ((imageRecords (devNo s) img).getD []); let t := loadAll v ctx rs; let check := loaderCheck { old := v, new := t, ctx := ctx, recs := byCore rs, loader := true }; MayRun s h 0x08 f ∧ mw m 0 = 1 ∧ outsideRegion u ctx false (mw2 m 1) (mw2 m 3) = false ∧ regionBad u ctx false (mw2 m 1) (mw2 m 3) = false ∧ imageRecords (devNo s) img = some rs ∧ check = none ∧ rs.any (readsBad u ctx) = false) ∧
    (let s : State := sLb; let h : Nat := 3; let f : Fetched := (s.hif.fetched).getD 0 (cmd 0 0); let m := f.manifest; let ctx := mCtx m; let u := started s h; let img := regionRead u ctx false (mw2 m 1) (mw2 m 3); let v := chargeRegion u ctx false (mw2 m 1) (mw2 m 3) 4; let rs : List ActionRecord := ((imageRecords (devNo s) img).getD []); let t := loadAll v ctx rs; let check := loaderCheck { old := v, new := t, ctx := ctx, recs := byCore rs, loader := true }; MayRun s h 0x08 f ∧ mw m 0 = 1 ∧ outsideRegion u ctx false (mw2 m 1) (mw2 m 3) = false ∧ regionBad u ctx false (mw2 m 1) (mw2 m 3) = false ∧ imageRecords (devNo s) img = some rs ∧ check = none ∧ rs.any (readsBad u ctx) = true) ∧
    (let s : State := sL img2; let h : Nat := 3; let f : Fetched := (s.hif.fetched).getD 2 (cmd 0 0); let m := f.manifest; let ctx := mCtx m; let u := started s h; let img := regionRead u ctx false (mw2 m 1) (mw2 m 3); let v := chargeRegion u ctx false (mw2 m 1) (mw2 m 3) 4; let rs : List ActionRecord := ((imageRecords (devNo s) img).getD []); let t := loadAll v ctx rs; let check := loaderCheck { old := v, new := t, ctx := ctx, recs := byCore rs, loader := true }; let reason : Nat := 1; let core : Nat := 7; let index : Nat := 0; MayRun s h 0x08 f ∧ mw m 0 = 1 ∧ outsideRegion u ctx false (mw2 m 1) (mw2 m 3) = false ∧ regionBad u ctx false (mw2 m 1) (mw2 m 3) = false ∧ imageRecords (devNo s) img = some rs ∧ (check = some (reason, core, index))) ∧
    (let s : State := sL []; let h : Nat := 9; let f : Fetched := (s.hif.fetched).getD 4 (cmd 0 0); let m := f.manifest; let ctx := mCtx m; let u := started s h; let rows := (shardCores u ctx).map fun n => (n, dormantRows u ctx n); let k := (rows.map fun p => p.2.length).sum; MayRun s h 0x08 f ∧ mw m 0 = 2 ∧ k = 0) ∧
    (let s : State := sLx; let h : Nat := 10; let f : Fetched := (s.hif.fetched).getD 5 (cmd 0 0); let m := f.manifest; let ctx := mCtx m; let u := started s h; let rows := (shardCores u ctx).map fun n => (n, dormantRows u ctx n); let k := (rows.map fun p => p.2.length).sum; MayRun s h 0x08 f ∧ mw m 0 = 2 ∧ k ≠ 0) ∧
    (let s : State := sLc; let h : Nat := 11; let f : Fetched := (s.hif.fetched).getD 6 (cmd 0 0); let m := f.manifest; let ctx := mCtx m; let sh := getShard s ctx; let ready := sh.state = .stopped ∧ sh.sections ≠ 0 ∧ (sh.paced = true → sh.pacedSet = true); MayRun s h 0x09 f ∧ ready) ∧
    (let s : State := sL []; let h : Nat := 11; let f : Fetched := (s.hif.fetched).getD 6 (cmd 0 0); let m := f.manifest; let ctx := mCtx m; let sh := getShard s ctx; let ready := sh.state = .stopped ∧ sh.sections ≠ 0 ∧ (sh.paced = true → sh.pacedSet = true); MayRun s h 0x09 f ∧ (¬ready)) ∧
    (let s : State := sL []; let h : Nat := 13; let f : Fetched := (s.hif.fetched).getD 8 (cmd 0 0); MayRun s h 0x12 f) := by
  refine ⟨?_, ?_, ?_, ?_, ?_, ?_, ?_, ?_, ?_, ?_, ?_, ?_, ?_⟩ <;> (try unfold MayRun) <;> decide +kernel
end Loads

namespace Coordinator
def rBytes (rs : List ActionRecord) : List Line := bytesLines (rs.flatMap recBytes)
def okRec (core cvid : Nat) : ActionRecord := recd 0x07 core 0 1 0 [0,0,0,0] 0 cvid 0
def cc : List Fetched := [cmd 1 (man 0x28 1 [0x2C9, 9]), cmd 2 (man 0x28 1 [0x245, 9]), cmd 3 (man 0x28 1 [3, 9]), bcmd 4 0x29 1 [3] (rBytes [okRec 1 3]), bcmd 5 0x29 1 [3] (rBytes [okRec 9 3, okRec 1 3]), bcmd 6 0x29 1 [4] (rBytes [okRec 1 4]), bcmd 7 0x29 1 [20] (rBytes [okRec 1 20]), bcmd 8 0x29 1 [3] [BitVec.ofNat 512 (2^100 + 1000 * 2^19)], cmd 9 (man 0x2A 1 [3]), cmd 10 (man 0x2A 1 [4]), cmd 11 (man 0x2B 1 [5]), cmd 12 (man 0x2B 1 [3]), cmd 13 (man 0x2C 1 [3]), cmd 14 (man 0x2C 1 [4]), cmd 15 (man 0x2C 1 [5]), cmd 16 (man 0x2C 1 [6]), cmd 17 (man 0x2C 1 [20]), cmd 18 (man 0x2C 1 [7]), cmd 19 (man 0x2A 2 [3]), bcmd 21 0x29 1 [3] (rBytes [recd 0x07 1 0 1 0 [0,0,0,0] 0 3 1, okRec 2 3])]
def cvs : List Convoy := [{ tag := 3, ctx := 1 }, { tag := 4, ctx := 1, phase := .preparing, members := [(0, .core 1), (0, .core 2)], preCmd := some 70 }, { tag := 5, ctx := 1, phase := .ready, members := [(0, .core 1)], h := some 9, sc := some 9, ready := 1, answered := [(0, .core 1)] }, { tag := 6, ctx := 1, phase := .committing, sc := some 9, members := [(0, .core 1)], comCmd := some 71 }, { tag := 7, ctx := 1, ownerCmd := some 72, phase := .preparing, members := [(0, .core 1)] }, { tag := 8, ctx := 1, phase := .aborted, status := 0x41, members := [(0, .core 1)] }, { tag := 100, ctx := 1, phase := .preparing, relay := true, members := [(0, .core 1)] }]
def sC : State := { withCmds row0 (cc ++ [cmd 70 (man 0x2A 1 [4]), cmd 71 (man 0x2B 1 [6])].map fun f => { f with begun := true }) with convoys := cvs }
/-- Clauses 0, 1, 2, 3, 4, 5, 6, 7, 8, 9, 10, 11 of CoordinatorCommandsFollowTheConvoyState. -/
theorem test_CoordinatorCommandsFollowTheConvoyState :
    (let s : State := sC; let h : Nat := 2; let f : Fetched := (s.hif.fetched).getD 1 (cmd 0 0); let w := mw f.manifest 0; let tag := tagOf s (w % 64); MayRun s h 0x28 f ∧ ((findConvoy s tag).isSome ∨ s.convoys.length ≥ 64)) ∧
    (let s : State := sC; let h : Nat := 1; let f : Fetched := (s.hif.fetched).getD 0 (cmd 0 0); let w := mw f.manifest 0; let tag := tagOf s (w % 64); MayRun s h 0x28 f ∧ findConvoy s tag = none ∧ s.convoys.length < 64) ∧
    (let s : State := sC; let h : Nat := 7; let f : Fetched := (s.hif.fetched).getD 6 (cmd 0 0); MayRun s h 0x29 f ∧ cmdConvoy s f = none) ∧
    (let s : State := sC; let h : Nat := 6; let f : Fetched := (s.hif.fetched).getD 5 (cmd 0 0); let c : Convoy := ((cmdConvoy s f).getD ({ tag := 0, ctx := 0 })); MayRun s h 0x29 f ∧ cmdConvoy s f = some c ∧ c.phase ≠ .opened) ∧
    (let s : State := sC; let h : Nat := 8; let f : Fetched := (s.hif.fetched).getD 7 (cmd 0 0); let c : Convoy := ((cmdConvoy s f).getD ({ tag := 0, ctx := 0 })); MayRun s h 0x29 f ∧ cmdConvoy s f = some c ∧ c.phase = .opened ∧ (parseRecords (4 * f.bales.length) (linesBytes f.bales) = none)) ∧
    (let s : State := sC; let h : Nat := 4; let f : Fetched := (s.hif.fetched).getD 3 (cmd 0 0); let c : Convoy := ((cmdConvoy s f).getD ({ tag := 0, ctx := 0 })); let rs : List ActionRecord := ((parseRecords (4 * f.bales.length) (linesBytes f.bales)).getD []); MayRun s h 0x29 f ∧ cmdConvoy s f = some c ∧ c.phase = .opened ∧ (parseRecords (4 * f.bales.length) (linesBytes f.bales) = some rs)) ∧
    (let s : State := sC; let h : Nat := 9; let f : Fetched := (s.hif.fetched).getD 8 (cmd 0 0); let c : Convoy := ((cmdConvoy s f).getD ({ tag := 0, ctx := 0 })); cmdConvoy s f = some c ∧ MayRun s h 0x2A f ∧ c.phase = .opened) ∧
    (let s : State := sC; let h : Nat := 11; let f : Fetched := (s.hif.fetched).getD 10 (cmd 0 0); let c : Convoy := ((cmdConvoy s f).getD ({ tag := 0, ctx := 0 })); cmdConvoy s f = some c ∧ MayRun s h 0x2B f ∧ c.phase = .ready) ∧
    (let s : State := sC; let h : Nat := 13; let f : Fetched := (s.hif.fetched).getD 12 (cmd 0 0); let c : Convoy := ((cmdConvoy s f).getD ({ tag := 0, ctx := 0 })); cmdConvoy s f = some c ∧ MayRun s h 0x2C f ∧ undecided c = true ∧ c.ownerCmd = none) ∧
    (let s : State := sC; let h : Nat := 10; let f : Fetched := (s.hif.fetched).getD 9 (cmd 0 0); ((∀ c, cmdConvoy s f = some c → c.phase ≠ .opened)) ∧ MayRun s h 0x2A f) ∧
    (let s : State := sC; let h : Nat := 12; let f : Fetched := (s.hif.fetched).getD 11 (cmd 0 0); ((∀ c, cmdConvoy s f = some c → c.phase ≠ .ready)) ∧ MayRun s h 0x2B f) ∧
    (let s : State := sC; let h : Nat := 16; let f : Fetched := (s.hif.fetched).getD 15 (cmd 0 0); ((∀ c, cmdConvoy s f = some c → undecided c = false ∨ c.ownerCmd ≠ none)) ∧ MayRun s h 0x2C f) := by
  refine ⟨?_, ?_, ?_, ?_, ?_, ?_, ?_, ?_, ?_, ?_, ?_, ?_⟩ <;> (try unfold MayRun) <;> decide +kernel
end Coordinator

namespace Decisions
def cvp (sub tag ctx gen pay : Nat) (core : Nat := 1) : Packet := mkPkt 6 0 0 0x3FF 0 0 (srcWord 0 core 0) tag ctx gen sub pay 5
def cvs : List Convoy := [{ tag := 3, ctx := 1, members := [(0, .core 1)] }, { tag := 4, ctx := 1, phase := .preparing, members := [(0, .core 1), (0, .core 2)], preCmd := some 70 }, { tag := 5, ctx := 1, phase := .ready, members := [(0, .core 1)], h := some 9, sc := some 9, ready := 1, answered := [(0, .core 1)] }, { tag := 6, ctx := 1, phase := .committing, sc := some 9, members := [(0, .core 1), (1, .hub)], comCmd := some 71, acks := [(1, .hub)] }, { tag := 7, ctx := 1, ownerCmd := some 72, phase := .preparing, members := [(0, .core 1)] }, { tag := 8, ctx := 1, phase := .aborted, status := 0x41, members := [(0, .core 1)] }, { tag := 100, ctx := 1, phase := .preparing, relay := true, members := [(0, .core 1)], asks := 1 }, { tag := 9, ctx := 1, phase := .preparing, auto := true, members := [(0, .core 1), (0, .core 2)], answered := [(0, .core 2)], ready := 1, h := some 3, ownerCmd := some 73, result := 4 }, { tag := 10, ctx := 1, phase := .preparing, members := [(0, .core 1), (1, .hub)], extra := [(1, .hub)], answered := [(1, .hub)], ready := 1, preCmd := some 74 }]
def base : State := { withCmds row0 ([cmd 70 (man 0x2A 1 [4]), cmd 71 (man 0x2B 1 [6]), cmd 72 (man 0x18 1), cmd 73 (man 0x08 1), cmd 74 (man 0x2A 1 [10])].map fun f => { f with begun := true }) with convoys := cvs, cores := [(1, { bound := true, ctx := 1, gen := 2, cvy := [{ tag := 4, ctx := 1, prepared := true }, { tag := 100, ctx := 1, prepared := true }, { tag := 99, ctx := 1 }], st := { phase := .waiting, step := 4 } })] }
def sS : List State := [base, { base with fab := { base.fab with hub := [cvp 2 4 1 2 7, cvp 3 4 1 2 7, cvp 9 3 2 2 0, cvp 9 4 1 2 0, cvp 7 6 1 2 0, cvp 6 6 1 2 0, cvp 0xA 4 1 2 0, cvp 9 99 2 1 0] } }, { base with fab := { base.fab with cvy := { base.fab.cvy with a := 0, b := 0 } } }, { base with shape := 0x21 }]
/-- Clauses 0, 1, 2, 3, 4, 5, 6, 7, 8, 9, 10, 11, 12, 13, 14, 15, 16, 17, 18, 19, 20 of CoordinatorDecides. -/
theorem test_CoordinatorDecides :
    (let s : State := sS.getD 2 State.reset; hubMay s.pwr.pl.toNat s.fab.cvy 5 = false) ∧
    (let s : State := sS.getD 0 State.reset; let tag : Nat := 99; findConvoy s tag = none ∧ hubMay s.pwr.pl.toNat s.fab.cvy 5 = true) ∧
    (let s : State := sS.getD 0 State.reset; let tag : Nat := 99; findConvoy s tag = none) ∧
    (let s : State := sS.getD 0 State.reset; let tag : Nat := 5; let c : Convoy := ((findConvoy s tag).getD ({ tag := 0, ctx := 0 })); let dev : Nat := 0; let m : Member := Member.core 1; let party : Nat × Member := if dev = devNo s then (dev, m) else (dev, .hub); let counts : Bool := c.answered.count party ≤ c.extra.count party; findConvoy s tag = some c ∧ hubMay s.pwr.pl.toNat s.fab.cvy 5 = true ∧ counts = false) ∧
    (let s : State := sS.getD 0 State.reset; let tag : Nat := 4; let c : Convoy := ((findConvoy s tag).getD ({ tag := 0, ctx := 0 })); let dev : Nat := 0; let m : Member := Member.core 1; let party : Nat × Member := if dev = devNo s then (dev, m) else (dev, .hub); let counts : Bool := c.answered.count party ≤ c.extra.count party; findConvoy s tag = some c ∧ hubMay s.pwr.pl.toNat s.fab.cvy 5 = true ∧ counts = true ∧ c.phase = .preparing ∧ c.relay = false) ∧
    (let s : State := sS.getD 0 State.reset; let tag : Nat := 100; let c : Convoy := ((findConvoy s tag).getD ({ tag := 0, ctx := 0 })); let dev : Nat := 0; let m : Member := Member.core 1; let party : Nat × Member := if dev = devNo s then (dev, m) else (dev, .hub); let counts : Bool := c.answered.count party ≤ c.extra.count party; findConvoy s tag = some c ∧ hubMay s.pwr.pl.toNat s.fab.cvy 5 = true ∧ counts = true ∧ c.phase = .preparing ∧ c.relay = true) ∧
    (let s : State := sS.getD 0 State.reset; let tag : Nat := 3; let c : Convoy := ((findConvoy s tag).getD ({ tag := 0, ctx := 0 })); let dev : Nat := 0; let m : Member := Member.core 1; let party : Nat × Member := if dev = devNo s then (dev, m) else (dev, .hub); let counts : Bool := c.answered.count party ≤ c.extra.count party; findConvoy s tag = some c ∧ hubMay s.pwr.pl.toNat s.fab.cvy 5 = true ∧ counts = true ∧ c.phase ≠ .preparing) ∧
    (let s : State := sS.getD 0 State.reset; let tag : Nat := 4; let c : Convoy := ((findConvoy s tag).getD ({ tag := 0, ctx := 0 })); let dev : Nat := 0; let m : Member := Member.core 1; let party : Nat × Member := if dev = devNo s then (dev, m) else (dev, .hub); let counts : Bool := c.answered.count party ≤ c.extra.count party; findConvoy s tag = some c ∧ hubMay s.pwr.pl.toNat s.fab.cvy 5 = true ∧ counts = true ∧ c.phase = .preparing ∧ c.relay = false) ∧
    (let s : State := sS.getD 0 State.reset; let tag : Nat := 100; let c : Convoy := ((findConvoy s tag).getD ({ tag := 0, ctx := 0 })); let dev : Nat := 0; let m : Member := Member.core 1; let party : Nat × Member := if dev = devNo s then (dev, m) else (dev, .hub); let counts : Bool := c.answered.count party ≤ c.extra.count party; findConvoy s tag = some c ∧ hubMay s.pwr.pl.toNat s.fab.cvy 5 = true ∧ counts = true ∧ c.phase = .preparing ∧ c.relay = true) ∧
    (let s : State := sS.getD 0 State.reset; let tag : Nat := 3; let c : Convoy := ((findConvoy s tag).getD ({ tag := 0, ctx := 0 })); let dev : Nat := 0; let m : Member := Member.core 1; let party : Nat × Member := if dev = devNo s then (dev, m) else (dev, .hub); let counts : Bool := c.answered.count party ≤ c.extra.count party; findConvoy s tag = some c ∧ hubMay s.pwr.pl.toNat s.fab.cvy 5 = true ∧ counts = true ∧ c.phase = .opened ∧ c.relay = false) ∧
    (let s : State := sS.getD 0 State.reset; let tag : Nat := 6; let c : Convoy := ((findConvoy s tag).getD ({ tag := 0, ctx := 0 })); findConvoy s tag = some c ∧ hubMay s.pwr.pl.toNat s.fab.cvy 5 = true ∧ c.phase = .committing) ∧
    (let s : State := sS.getD 0 State.reset; let tag : Nat := 8; let c : Convoy := ((findConvoy s tag).getD ({ tag := 0, ctx := 0 })); findConvoy s tag = some c ∧ hubMay s.pwr.pl.toNat s.fab.cvy 5 = true ∧ c.phase = .aborted) ∧
    (let s : State := sS.getD 0 State.reset; let tag : Nat := 3; let c : Convoy := ((findConvoy s tag).getD ({ tag := 0, ctx := 0 })); findConvoy s tag = some c ∧ hubMay s.pwr.pl.toNat s.fab.cvy 5 = true ∧ c.phase ≠ .committing ∧ c.phase ≠ .aborted) ∧
    (let s : State := sS.getD 1 State.reset; let tag : Nat := 3; let c : Convoy := ((findConvoy s tag).getD ({ tag := 0, ctx := 0 })); let v := unitCycles s 5 1; let p : Packet := ((cvyPkt v .hub 9 tag).getD ({ head := 0 })); findConvoy s tag = some c ∧ hubMay s.pwr.pl.toNat s.fab.cvy 5 = true ∧ cvyPkt v .hub 9 tag = some p ∧ pctx p ≠ c.ctx) ∧
    (let s : State := sS.getD 0 State.reset; let tag : Nat := 3; let c : Convoy := ((findConvoy s tag).getD ({ tag := 0, ctx := 0 })); let v := unitCycles s 5 1; findConvoy s tag = some c ∧ hubMay s.pwr.pl.toNat s.fab.cvy 5 = true ∧ ((∀ p, cvyPkt v .hub 9 tag = some p → pctx p = c.ctx)) ∧ c.phase = .opened) ∧
    (let s : State := sS.getD 0 State.reset; let tag : Nat := 4; let c : Convoy := ((findConvoy s tag).getD ({ tag := 0, ctx := 0 })); let v := unitCycles s 5 1; let dev : Nat := 0; findConvoy s tag = some c ∧ hubMay s.pwr.pl.toNat s.fab.cvy 5 = true ∧ ((∀ p, cvyPkt v .hub 9 tag = some p → pctx p = c.ctx)) ∧ c.phase = .preparing ∧ dev = devNo s) ∧
    (let s : State := sS.getD 0 State.reset; let tag : Nat := 5; let c : Convoy := ((findConvoy s tag).getD ({ tag := 0, ctx := 0 })); let v := unitCycles s 5 1; findConvoy s tag = some c ∧ hubMay s.pwr.pl.toNat s.fab.cvy 5 = true ∧ ((∀ p, cvyPkt v .hub 9 tag = some p → pctx p = c.ctx)) ∧ c.phase ≠ .opened ∧ c.phase ≠ .preparing) ∧
    (let s : State := sS.getD 0 State.reset; let tag : Nat := 3; let c : Convoy := ((findConvoy s tag).getD ({ tag := 0, ctx := 0 })); let first : Nat := 4; findConvoy s tag = some c ∧ hubMay s.pwr.pl.toNat s.fab.cvy 5 = true ∧ undecided c = true ∧ first ≠ tag) ∧
    (let s : State := sS.getD 0 State.reset; let tag : Nat := 3; let c : Convoy := ((findConvoy s tag).getD ({ tag := 0, ctx := 0 })); let first : Nat := 3; findConvoy s tag = some c ∧ hubMay s.pwr.pl.toNat s.fab.cvy 5 = true ∧ (undecided c = false ∨ first = tag)) ∧
    (let s : State := sS.getD 0 State.reset; let tag : Nat := 3; let c : Convoy := ((findConvoy s tag).getD ({ tag := 0, ctx := 0 })); findConvoy s tag = some c ∧ undecided c = true) ∧
    (let s : State := sS.getD 0 State.reset; let tag : Nat := 6; let c : Convoy := ((findConvoy s tag).getD ({ tag := 0, ctx := 0 })); findConvoy s tag = some c ∧ undecided c = false) := by
  refine ⟨?_, ?_, ?_, ?_, ?_, ?_, ?_, ?_, ?_, ?_, ?_, ?_, ?_, ?_, ?_, ?_, ?_, ?_, ?_, ?_, ?_⟩ <;> decide +kernel
end Decisions

namespace Debug
def lcs : List State := do
  let lc ← [0,1,2,3,4,5]
  let busy ← [false, true]
  let lk ← [false, true]
  let tok ← [0, 1, 2, 0x12, 0x13, 0x14, 0x15, 7]
  let rq ← [SecRequest.none, .token]
  [{ small with nv := { small.nv with lcState := BitVec.ofNat 3 lc }, glb := { small.glb with locked := lk }, shards := if busy then row0.shards else small.shards, sec := { small.sec with token := if tok = 0 then [] else [(2, BitVec.ofNat 8 tok)], request := rq, level := 1, haltedHarts := [0] } }]
def more : List State := [{ small with pwr := { small.pwr with state := .s1 } }, { small with pwr := { small.pwr with target := some .s1 } }, { small with sec := { small.sec with request := .transition 3 } }, { small with sec := { small.sec with request := .token, haltedHarts := [1] } }]
/-- Clauses 0, 1, 2, 3, 4, 5, 6, 7, 8, 9, 10, 11, 12, 13, 14, 15, 16, 17, 18, 19 of DebugRequestsAreCheckedInOrder. -/
theorem test_DebugRequestsAreCheckedInOrder :
    (let s : State := ((lcs ++ more)).getD 0 State.reset; let mid : Nat := 0; let v : Word := 0x3d000003; let asks := fld v 3 0; let may : Bool := (mid == 0 || mid == 1 || (mid == 4 && asks != 1)) && reaches s mid dbgCtlAddr && fld v 31 24 == 0x3D && !secBusy s && [0, 1, 2, 4, 8].contains asks; may = false) ∧
    (let s : State := ((lcs ++ more)).getD 0 State.reset; let mid : Nat := 0; let v : Word := 0x3d000018; let asks := fld v 3 0; let may : Bool := (mid == 0 || mid == 1 || (mid == 4 && asks != 1)) && reaches s mid dbgCtlAddr && fld v 31 24 == 0x3D && !secBusy s && [0, 1, 2, 4, 8].contains asks; may = true ∧ asks = 8 ∧ fld v 5 4 ≠ 0 ∧ (inS0 s = false ∨ levelFree s.nv.lcState (fld v 5 4) = false)) ∧
    (let s : State := ((lcs ++ more)).getD 64 State.reset; let mid : Nat := 0; let v : Word := 0x3d000018; let asks := fld v 3 0; let may : Bool := (mid == 0 || mid == 1 || (mid == 4 && asks != 1)) && reaches s mid dbgCtlAddr && fld v 31 24 == 0x3D && !secBusy s && [0, 1, 2, 4, 8].contains asks; may = true ∧ asks = 8 ∧ fld v 5 4 ≠ 0 ∧ inS0 s = true ∧ levelFree s.nv.lcState (fld v 5 4) = true) ∧
    (let s : State := ((lcs ++ more)).getD 64 State.reset; let mid : Nat := 0; let v : Word := 0x3d000004; let asks := fld v 3 0; let may : Bool := (mid == 0 || mid == 1 || (mid == 4 && asks != 1)) && reaches s mid dbgCtlAddr && fld v 31 24 == 0x3D && !secBusy s && [0, 1, 2, 4, 8].contains asks; may = true ∧ (asks = 4 ∨ (asks = 8 ∧ fld v 5 4 = 0)) ∧ s.nv.lcState ≠ 0) ∧
    (let s : State := ((lcs ++ more)).getD 0 State.reset; let mid : Nat := 0; let v : Word := 0x3d000001; let asks := fld v 3 0; let may : Bool := (mid == 0 || mid == 1 || (mid == 4 && asks != 1)) && reaches s mid dbgCtlAddr && fld v 31 24 == 0x3D && !secBusy s && [0, 1, 2, 4, 8].contains asks; may = true ∧ asks = 1 ∧ (inS0 s = false ∨ s.nv.lcState ≠ 2)) ∧
    (let s : State := ((lcs ++ more)).getD 144 State.reset; let mid : Nat := 0; let v : Word := 0x3d000001; let asks := fld v 3 0; let may : Bool := (mid == 0 || mid == 1 || (mid == 4 && asks != 1)) && reaches s mid dbgCtlAddr && fld v 31 24 == 0x3D && !secBusy s && [0, 1, 2, 4, 8].contains asks; may = true ∧ asks = 1 ∧ inS0 s = true ∧ s.nv.lcState = 2 ∧ s.glb.locked = true) ∧
    (let s : State := ((lcs ++ more)).getD 160 State.reset; let mid : Nat := 0; let v : Word := 0x3d000001; let asks := fld v 3 0; let may : Bool := (mid == 0 || mid == 1 || (mid == 4 && asks != 1)) && reaches s mid dbgCtlAddr && fld v 31 24 == 0x3D && !secBusy s && [0, 1, 2, 4, 8].contains asks; may = true ∧ asks = 1 ∧ inS0 s = true ∧ s.nv.lcState = 2 ∧ s.glb.locked = false ∧ shardsBusy s = true) ∧
    (let s : State := ((lcs ++ more)).getD 128 State.reset; let mid : Nat := 0; let v : Word := 0x3d000001; let asks := fld v 3 0; let may : Bool := (mid == 0 || mid == 1 || (mid == 4 && asks != 1)) && reaches s mid dbgCtlAddr && fld v 31 24 == 0x3D && !secBusy s && [0, 1, 2, 4, 8].contains asks; may = true ∧ asks = 1 ∧ inS0 s = true ∧ s.nv.lcState = 2 ∧ s.glb.locked = false ∧ shardsBusy s = false) ∧
    (let s : State := ((lcs ++ more)).getD 66 State.reset; let mid : Nat := 0; let v : Word := 0x3d000002; let asks := fld v 3 0; let may : Bool := (mid == 0 || mid == 1 || (mid == 4 && asks != 1)) && reaches s mid dbgCtlAddr && fld v 31 24 == 0x3D && !secBusy s && [0, 1, 2, 4, 8].contains asks; let purpose := memGet s.sec.token 2 1; may = true ∧ asks = 2 ∧ inS0 s = true ∧ (purpose = 1 ∨ purpose = 2) ∧ levelExists s.nv.lcState purpose = true) ∧
    (let s : State := ((lcs ++ more)).getD 2 State.reset; let mid : Nat := 0; let v : Word := 0x3d000002; let asks := fld v 3 0; let may : Bool := (mid == 0 || mid == 1 || (mid == 4 && asks != 1)) && reaches s mid dbgCtlAddr && fld v 31 24 == 0x3D && !secBusy s && [0, 1, 2, 4, 8].contains asks; let purpose := memGet s.sec.token 2 1; may = true ∧ asks = 2 ∧ inS0 s = true ∧ (purpose = 1 ∨ purpose = 2) ∧ levelExists s.nv.lcState purpose = false) ∧
    (let s : State := ((lcs ++ more)).getD 0 State.reset; let mid : Nat := 0; let v : Word := 0x3d000002; let asks := fld v 3 0; let may : Bool := (mid == 0 || mid == 1 || (mid == 4 && asks != 1)) && reaches s mid dbgCtlAddr && fld v 31 24 == 0x3D && !secBusy s && [0, 1, 2, 4, 8].contains asks; let purpose := memGet s.sec.token 2 1; may = true ∧ asks = 2 ∧ inS0 s = true ∧ purpose ≠ 1 ∧ purpose ≠ 2 ∧ (purpose < 0x10 ∨ tokenMove s.nv.lcState (purpose - 0x10) = false)) ∧
    (let s : State := ((lcs ++ more)).getD 86 State.reset; let mid : Nat := 0; let v : Word := 0x3d000002; let asks := fld v 3 0; let may : Bool := (mid == 0 || mid == 1 || (mid == 4 && asks != 1)) && reaches s mid dbgCtlAddr && fld v 31 24 == 0x3D && !secBusy s && [0, 1, 2, 4, 8].contains asks; let purpose := memGet s.sec.token 2 1; may = true ∧ asks = 2 ∧ inS0 s = true ∧ purpose ≠ 1 ∧ purpose ≠ 2 ∧ 0x10 ≤ purpose ∧ (tokenMove s.nv.lcState (purpose - 0x10) = true) ∧ s.glb.locked = true) ∧
    (let s : State := ((lcs ++ more)).getD 102 State.reset; let mid : Nat := 0; let v : Word := 0x3d000002; let asks := fld v 3 0; let may : Bool := (mid == 0 || mid == 1 || (mid == 4 && asks != 1)) && reaches s mid dbgCtlAddr && fld v 31 24 == 0x3D && !secBusy s && [0, 1, 2, 4, 8].contains asks; let purpose := memGet s.sec.token 2 1; may = true ∧ asks = 2 ∧ inS0 s = true ∧ purpose ≠ 1 ∧ purpose ≠ 2 ∧ 0x10 ≤ purpose ∧ (tokenMove s.nv.lcState (purpose - 0x10) = true) ∧ s.glb.locked = false ∧ shardsBusy s = true) ∧
    (let s : State := ((lcs ++ more)).getD 70 State.reset; let mid : Nat := 0; let v : Word := 0x3d000002; let asks := fld v 3 0; let may : Bool := (mid == 0 || mid == 1 || (mid == 4 && asks != 1)) && reaches s mid dbgCtlAddr && fld v 31 24 == 0x3D && !secBusy s && [0, 1, 2, 4, 8].contains asks; let purpose := memGet s.sec.token 2 1; may = true ∧ asks = 2 ∧ inS0 s = true ∧ purpose ≠ 1 ∧ purpose ≠ 2 ∧ 0x10 ≤ purpose ∧ (tokenMove s.nv.lcState (purpose - 0x10) = true) ∧ s.glb.locked = false ∧ shardsBusy s = false) ∧
    (let s : State := ((lcs ++ more)).getD 0 State.reset; let mid : Nat := 0; let v : Word := 0x3d000004; let asks := fld v 3 0; let may : Bool := (mid == 0 || mid == 1 || (mid == 4 && asks != 1)) && reaches s mid dbgCtlAddr && fld v 31 24 == 0x3D && !secBusy s && [0, 1, 2, 4, 8].contains asks; may = true ∧ (asks = 4 ∨ (asks = 8 ∧ fld v 5 4 = 0)) ∧ s.nv.lcState = 0) ∧
    (let s : State := ((lcs ++ more)).getD 384 State.reset; let mid : Nat := 0; let v : Word := 0x3d000002; let asks := fld v 3 0; let may : Bool := (mid == 0 || mid == 1 || (mid == 4 && asks != 1)) && reaches s mid dbgCtlAddr && fld v 31 24 == 0x3D && !secBusy s && [0, 1, 2, 4, 8].contains asks; may = true ∧ asks = 2 ∧ inS0 s = false) ∧
    (let s : State := ((lcs ++ more)).getD 0 State.reset; let mid : Nat := 0; let v : Word := 0x3d000000; let asks := fld v 3 0; let may : Bool := (mid == 0 || mid == 1 || (mid == 4 && asks != 1)) && reaches s mid dbgCtlAddr && fld v 31 24 == 0x3D && !secBusy s && [0, 1, 2, 4, 8].contains asks; may = true ∧ asks = 0) ∧
    (let s : State := ((lcs ++ more)).getD 0 State.reset; (s.sec.request ≠ .token ∨ hartRuns s 1 = false)) ∧
    (let s : State := ((lcs ++ more)).getD 1 State.reset; s.sec.request = .token ∧ hartRuns s 1 = true ∧ tokenMay s = false) ∧
    (let s : State := ((lcs ++ more)).getD 67 State.reset; s.sec.request = .token ∧ hartRuns s 1 = true ∧ tokenMay s = true ∧ tokenOk s = false) := by
  refine ⟨?_, ?_, ?_, ?_, ?_, ?_, ?_, ?_, ?_, ?_, ?_, ?_, ?_, ?_, ?_, ?_, ?_, ?_, ?_, ?_⟩ <;> decide +kernel
def accept20 : State := { small with nv := { small.nv with lcState := 1 }, sec := { small.sec with token := [(2, 2), (3, 1)], request := .token, nonce := 0 } }
theorem fields_20 : imgNum (tokenBytes accept20) 3 1 = 1 ∧ imgNum (tokenBytes accept20) 0x10 32 = 0 ∧ imgNum (tokenBytes accept20) 0x30 48 = 0 ∧ imgNum (tokenBytes accept20) 4 1 = 0 ∧
    accept20.nv.lcState = 1 ∧ accept20.sec.nonce = 0 ∧ bit accept20.nv.slotValid 0 = true ∧ bit accept20.nv.slotRevoked 0 = false := by decide +kernel
/-- The premises are met where the signatures of the token verify, which no evaluation of the model decides (assumption 7). -/
theorem test_DebugRequestsAreCheckedInOrder_20
    (h1 : Config.sha384 (imgPart (tokenBytes accept20) 0x60 0x220) = Config.slotHash 0)
    (h2 : Config.rsaPssVerify (imgPart (tokenBytes accept20) 0x60 0x220) (imgPart (tokenBytes accept20) 0 0x220) (imgPart (tokenBytes accept20) 0x220 0x3A0) = true)
    (h3 : Config.slhDsaVerify (imgPart (tokenBytes accept20) 0x60 0x220) (imgPart (tokenBytes accept20) 0 0x220) (imgPart (tokenBytes accept20) 0x3A0 0x4300) = true) :
    accept20.sec.request = .token ∧ hartRuns accept20 1 = true ∧ tokenMay accept20 = true ∧ tokenOk accept20 = true ∧ memGet accept20.sec.token 2 1 < 0x10 := by
  obtain ⟨a1, a2, a3, a4, a5, a6, a7, a8⟩ := fields_20
  refine ⟨by decide +kernel, by decide +kernel, by decide +kernel, ?_, by decide +kernel⟩
  simp [tokenOk, a1, a2, a3, a4, a5, a6, a7, a8, h1, h2, h3]
def accept21 : State := { small with nv := { small.nv with lcState := 1 }, sec := { small.sec with token := [(2, 0x12), (3, 1)], request := .token, nonce := 0 } }
theorem fields_21 : imgNum (tokenBytes accept21) 3 1 = 1 ∧ imgNum (tokenBytes accept21) 0x10 32 = 0 ∧ imgNum (tokenBytes accept21) 0x30 48 = 0 ∧ imgNum (tokenBytes accept21) 4 1 = 0 ∧
    accept21.nv.lcState = 1 ∧ accept21.sec.nonce = 0 ∧ bit accept21.nv.slotValid 0 = true ∧ bit accept21.nv.slotRevoked 0 = false := by decide +kernel
/-- The premises are met where the signatures of the token verify, which no evaluation of the model decides (assumption 7). -/
theorem test_DebugRequestsAreCheckedInOrder_21
    (h1 : Config.sha384 (imgPart (tokenBytes accept21) 0x60 0x220) = Config.slotHash 0)
    (h2 : Config.rsaPssVerify (imgPart (tokenBytes accept21) 0x60 0x220) (imgPart (tokenBytes accept21) 0 0x220) (imgPart (tokenBytes accept21) 0x220 0x3A0) = true)
    (h3 : Config.slhDsaVerify (imgPart (tokenBytes accept21) 0x60 0x220) (imgPart (tokenBytes accept21) 0 0x220) (imgPart (tokenBytes accept21) 0x3A0 0x4300) = true) :
    accept21.sec.request = .token ∧ hartRuns accept21 1 = true ∧ tokenMay accept21 = true ∧ tokenOk accept21 = true ∧ 0x10 ≤ memGet accept21.sec.token 2 1 := by
  obtain ⟨a1, a2, a3, a4, a5, a6, a7, a8⟩ := fields_21
  refine ⟨by decide +kernel, by decide +kernel, by decide +kernel, ?_, by decide +kernel⟩
  simp [tokenOk, a1, a2, a3, a4, a5, a6, a7, a8, h1, h2, h3]
end Debug

namespace Frames
def po (st : PortState) : Port := { state := st, en := true, retry := [{ seq := 1, frame := ⟨0, [], [], 0⟩, packets := [pk 0 1 0 0 5 1 2], replays := 8 }], tx := [(2, [pk 0 1 0 2 5 1 2]), (4, [pk 9 2 4 2 3 1 2, pk 9 2 16 2 3 1 2])], nextSeq := 5, lastGood := 7, rx := [(2, [pk 0 1 0 0 5 1 2, pk 0 1 0 0 6 1 2]), (4, [pk 9 2 4 0 3 1 2]), (0, [pk 7 0 0 0 3 4 1, pk 7 0 0 2 3 1 2])], retraining := st == .retrain || st == .align, laneUe := [(3, 4)], lanes := 0xFFFF }
def mk (x : Nat) (p : Nat) (po : Port) : State := { row0 with shape := shp x, ports := nset {} (List.range 6 |>.map fun q => (q, { state := .active, en := true })) p po }
def rxf (f : Frame) : RxFrame := { lanes := lanesOf f }
def flipL (r : RxFrame) (l : Nat) (bits : List Nat) : RxFrame := { r with lanes := r.lanes.zipIdx.map fun x => if x.2 = l then bits.foldl (fun w b => w ^^^ (1 <<< b)) x.1 else x.1 }
def hd (seq ack : Nat) (idle wake reset nak : Nat) : BitVec 48 := BitVec.ofNat 48 (seq * 2^36 + ack * 2^24 + nak * 2^23 + reset * 2^16 + wake * 2^15 + idle * 2^14)
def rfs : List RxFrame := [{ lanes := [] }, rxf (mkFrame (hd 8 1 0 0 0 0) (packSlots [pk 0 1 0 0 5 1 2])), rxf (mkFrame (hd 9 1 0 0 0 0) []), rxf (mkFrame (hd 0 1 1 1 0 0) []), flipL (rxf (mkFrame (hd 8 1 0 0 0 0) (packSlots [pk 9 2 4 0 3 1 2]))) 3 [100, 200], flipL (rxf (mkFrame (hd 8 1 0 0 0 0) [])) 3 [100, 200, 300], rxf (mkFrame (hd 8 0 0 0 1 1) []), { lanes := [] }]
def s2 : List State := [mk 0 0 (po .active), mk 0 0 { po .active with retry := [{ seq := 4, frame := ⟨0, [], [], 0⟩, packets := [pk 0 1 0 2 5 1 2], sent := false }] }, mk 0 0 { po .active with inReset := true, laneUe := [] }, mk 0 0 { po .active with retry := [], tx := [] }, mk 0 0 (po .lpi), mk 0 0 { po .lpi with tx := [], wakeEn := false }, mk 0 0 (po .retrain), mk 0 0 { po .active with peerOff := 0x3F }, { mk 0 0 (po .active) with fab := { row0.fab with off := [bufKey (portTile 0 0) 6 1] } }, mk 0 0 { po .active with retry := (List.range 128).map fun i => { seq := BitVec.ofNat 12 i, frame := ⟨0, [], [], 0⟩, packets := [] } }, setPort (mk 0 0 (po .active)) 1 { state := .down }, setPort (mk 0 0 { po .active with rx := [(1, [pk 0 1 0 2 5 1 2]), (0, [pk 0 1 0 3 5 1 2]), (2, [pk 0 1 0 8 5 1 2]), (4, [pk 9 2 16 8 5 1 2])] }) 1 { state := .active, reserved := [(2, 62), (4, 62)] }, setPort (mk 0 0 { po .active with rx := [(1, [pk 0 1 0 2 5 1 2]), (0, [pk 0 1 0 3 5 1 2]), (2, [pk 0 1 0 8 5 1 2]), (4, [pk 9 2 16 8 5 1 2])] }) 1 { state := .down, reserved := [(2, 62), (4, 62)] }]
/-- Clauses 0, 1, 2, 4, 5, 6, 7, 8, 11, 12, 13, 14, 15, 16, 17, 18, 19, 20, 21, 22, 23 of FramesKeepTheirOrder. -/
theorem test_FramesKeepTheirOrder :
    (let s : State := s2.getD 5 State.reset; let p : Nat := 0; let x := getPort s p; p < 6 ∧ x.state ≠ .active ∧ (x.state ≠ .lpi ∨ raisesWake x = false)) ∧
    (let s : State := s2.getD 4 State.reset; let p : Nat := 0; let x := getPort s p; p < 6 ∧ x.state ≠ .active ∧ x.state = .lpi ∧ raisesWake x = true) ∧
    (let s : State := s2.getD 4 State.reset; let p : Nat := 0; let x := getPort s p; let r : RxFrame := rfs.getD 0 { lanes := [] }; p < 6 ∧ x.state ≠ .active ∧ (x.state ≠ .lpi ∨ (goodFrame r).any (fun f => hWake f.hdr) = false)) ∧
    (let s : State := s2.getD 2 State.reset; let p : Nat := 0; let x := getPort s p; p < 6 ∧ x.state = .active ∧ x.inReset = true) ∧
    (let s : State := s2.getD 1 State.reset; let p : Nat := 0; let x := getPort s p; let f : RetryFrame := (((x.retry.find? fun f => !f.sent)).getD ({ seq := 0, frame := ⟨0, [], [], 0⟩, packets := [] })); p < 6 ∧ x.state = .active ∧ x.inReset = false ∧ ((x.retry.find? fun f => !f.sent) = some f)) ∧
    (let s : State := s2.getD 0 State.reset; let p : Nat := 0; let x := getPort s p; p < 6 ∧ x.state = .active ∧ x.inReset = false ∧ ((x.retry.find? fun f => !f.sent) = none) ∧ ((takeNew x).1 ≠ []) ∧ x.retry.length < 128) ∧
    (let s : State := s2.getD 3 State.reset; let p : Nat := 0; let x := getPort s p; p < 6 ∧ x.state = .active ∧ x.inReset = false ∧ ((x.retry.find? fun f => !f.sent) = none) ∧ ((takeNew x).1 = [] ∨ x.retry.length ≥ 128)) ∧
    (let s : State := s2.getD 0 State.reset; let p : Nat := 0; let x := getPort s p; let r : RxFrame := rfs.getD 0 { lanes := [] }; p < 6 ∧ x.state = .active ∧ goodFrame r = none) ∧
    (let s : State := s2.getD 0 State.reset; let p : Nat := 0; let x := getPort s p; p < 6 ∧ x.state = .active ∧ (x.retry ≠ [])) ∧
    (let s : State := s2.getD 3 State.reset; let p : Nat := 0; let x := getPort s p; p < 6 ∧ x.state = .active ∧ (x.retry = [])) ∧
    (let s : State := s2.getD 0 State.reset; let p : Nat := 0; let x := getPort s p; p < 6 ∧ x.state = .active ∧ ((x.retry.any fun f => f.replays ≥ 8) = true)) ∧
    (let s : State := s2.getD 1 State.reset; let p : Nat := 0; let x := getPort s p; p < 6 ∧ x.state = .active ∧ ((x.retry.any fun f => f.replays ≥ 8) = false)) ∧
    (let s : State := s2.getD 0 State.reset; let p : Nat := 0; let x := getPort s p; p < 6 ∧ x.state = .active ∧ ((x.laneUe.any fun l => l.2 ≥ 4) = true)) ∧
    (let s : State := s2.getD 2 State.reset; let p : Nat := 0; let x := getPort s p; p < 6 ∧ x.state = .active ∧ ((x.laneUe.any fun l => l.2 ≥ 4) = false)) ∧
    (let s : State := s2.getD 0 State.reset; let p : Nat := 0; let x := getPort s p; let b : Nat := 1; p < 6 ∧ b < 6 ∧ (nget [] x.rx b = [])) ∧
    (let s : State := s2.getD 0 State.reset; let p : Nat := 0; let x := getPort s p; let b : Nat := 0; let q : Packet := (nget [] x.rx b).headD { head := 0 }; let qs : List Packet := (nget [] x.rx b).tail; p < 6 ∧ b < 6 ∧ (nget [] x.rx b = q :: qs) ∧ stale s q = true) ∧
    (let s : State := s2.getD 8 State.reset; let p : Nat := 0; let x := getPort s p; let b : Nat := 2; let q : Packet := (nget [] x.rx b).headD { head := 0 }; let qs : List Packet := (nget [] x.rx b).tail; let tile := portTile p (dcore q / 32); let held : Bool := s.fab.off.contains (bufKey tile 6 (vcOf q)); p < 6 ∧ b < 6 ∧ (nget [] x.rx b = q :: qs) ∧ stale s q = false ∧ held = true) ∧
    (let s : State := s2.getD 0 State.reset; let p : Nat := 0; let x := getPort s p; let b : Nat := 2; let q : Packet := (nget [] x.rx b).headD { head := 0 }; let qs : List Packet := (nget [] x.rx b).tail; let tile := portTile p (dcore q / 32); let held : Bool := s.fab.off.contains (bufKey tile 6 (vcOf q)); p < 6 ∧ b < 6 ∧ (nget [] x.rx b = q :: qs) ∧ stale s q = false ∧ held = false ∧ exitPort s q = none) ∧
    (let s : State := s2.getD 12 State.reset; let p : Nat := 0; let x := getPort s p; let b : Nat := 2; let q : Packet := (nget [] x.rx b).headD { head := 0 }; let qs : List Packet := (nget [] x.rx b).tail; let tile := portTile p (dcore q / 32); let held : Bool := s.fab.off.contains (bufKey tile 6 (vcOf q)); let e : Nat := 1; p < 6 ∧ b < 6 ∧ (nget [] x.rx b = q :: qs) ∧ stale s q = false ∧ held = false ∧ exitPort s q = some e ∧ portLost (getPort s e) = true) ∧
    (let s : State := s2.getD 11 State.reset; let p : Nat := 0; let x := getPort s p; let b : Nat := 4; let q : Packet := (nget [] x.rx b).headD { head := 0 }; let qs : List Packet := (nget [] x.rx b).tail; let tile := portTile p (dcore q / 32); let held : Bool := s.fab.off.contains (bufKey tile 6 (vcOf q)); let e : Nat := 1; let q1 := entryForm p (some e) q; let k := bufNo (vcOf q) (txForm s e q1).dc; p < 6 ∧ b < 6 ∧ (nget [] x.rx b = q :: qs) ∧ stale s q = false ∧ held = false ∧ exitPort s q = some e ∧ portLost (getPort s e) = false ∧ (txUsed (getPort s e) k + entriesOf q > 64)) ∧
    (let s : State := s2.getD 11 State.reset; let p : Nat := 0; let x := getPort s p; let b : Nat := 0; let q : Packet := (nget [] x.rx b).headD { head := 0 }; let qs : List Packet := (nget [] x.rx b).tail; let tile := portTile p (dcore q / 32); let held : Bool := s.fab.off.contains (bufKey tile 6 (vcOf q)); let e : Nat := 3; let q1 := entryForm p (some e) q; let k := bufNo (vcOf q) (txForm s e q1).dc; p < 6 ∧ b < 6 ∧ (nget [] x.rx b = q :: qs) ∧ stale s q = false ∧ held = false ∧ exitPort s q = some e ∧ portLost (getPort s e) = false ∧ (txUsed (getPort s e) k + entriesOf q ≤ 64)) := by
  refine ⟨?_, ?_, ?_, ?_, ?_, ?_, ?_, ?_, ?_, ?_, ?_, ?_, ?_, ?_, ?_, ?_, ?_, ?_, ?_, ?_, ?_⟩ <;> decide +kernel
/-- A frame with WAKE, SEQ 0 and slots that no packet fills, all of whose set bits but for its parity lie in lane 15, and whose CRC is 0. -/
def oneLane : RxFrame := { lanes := List.replicate 15 0 ++ [0x3120000000000000000000000000000000000000000000000000000000000000000000000000000000000000000000ab7585240000000001] }
set_option maxRecDepth 100000 in
theorem oneLane_good : (goodFrame oneLane).map (fun f => (hIdle f.hdr, hWake f.hdr, hSeq f.hdr)) = some (false, true, 0) := by decide +kernel
theorem oneLane_frame : ∃ f, goodFrame oneLane = some f ∧ hIdle f.hdr = false ∧ hWake f.hdr = true ∧ hSeq f.hdr = 0 := by
  have h := oneLane_good
  rw [Option.map_eq_some_iff] at h
  obtain ⟨f, h1, h2⟩ := h
  simp only [Prod.mk.injEq] at h2
  exact ⟨f, h1, h2⟩
def ready (g : BitVec 12) : State := mk 0 0 { po .active with lastGood := g }
theorem test_FramesKeepTheirOrder_3 : let s : State := s2.getD 4 State.reset; let x := getPort s 0; x.state ≠ .active ∧ x.state = .lpi ∧ (goodFrame oneLane).any (fun f => hWake f.hdr) = true := by
  obtain ⟨f, h1, _, h2, _⟩ := oneLane_frame
  refine ⟨by decide +kernel, by decide +kernel, ?_⟩
  rw [h1]; exact h2
theorem test_FramesKeepTheirOrder_9 : ∃ f : Frame, (getPort (ready 7) 0).state = .active ∧ goodFrame oneLane = some f ∧ (hIdle f.hdr = true ∨ hSeq f.hdr ≠ (getPort (ready 7) 0).lastGood + 1) := by
  obtain ⟨f, h1, _, _, h2⟩ := oneLane_frame
  exact ⟨f, by decide +kernel, h1, Or.inr (by rw [h2]; decide +kernel)⟩
theorem test_FramesKeepTheirOrder_10 : ∃ f : Frame, (getPort (ready 0xFFF) 0).state = .active ∧ goodFrame oneLane = some f ∧ hIdle f.hdr = false ∧ hSeq f.hdr = (getPort (ready 0xFFF) 0).lastGood + 1 := by
  obtain ⟨f, h1, h3, _, h2⟩ := oneLane_frame
  exact ⟨f, by decide +kernel, h1, h3, by rw [h2]; decide +kernel⟩
end Frames

namespace Gates
def ports : NMap Port := [(0, { en := true, state := .active }), (1, { en := false, state := .disabled }), (2, { en := true, state := .detect })]
def gg (a b pa : Word) : Gate := { a := a, b := b, pendA := some pa, used := [(0, 4)] }
def gS : List State := do
  let lk ← [true, false]
  let as ← [[], [⟨1, 0, 4, 0⟩, ⟨2, 1, 2, 0⟩]]
  [{ small with glb := { small.glb with locked := lk }, ports := ports, fab := { small.fab with gates := [(1 * 16 + 2, gg 0x08080808 0x08080808 0x08080807)], hub := [] }, asked := as, cores := [(1, { bound := true, ctx := 1, gen := 2, arrived := [] , lrn := { work := some {} }, ports := { dp := [(0, 5)] } }), (2, { ports := { dp := [(0, 5)], mem := [(1,2)] } })] }]
def rp (core off by_ pay : Nat) (src : Nat := 1) (sub : Nat := 0) : Packet := { mkPkt 6 0 0 core 0 0 (srcWord 0 src by_) off 1 2 sub pay 5 with mid := BitVec.ofNat 4 by_ }
def rps : List Packet := [rp 1 0x100 0 0xFFFFFFFF, rp 1 0x100 2 1, rp 1 0x400 0 0x08080808, rp 1 0x420 2 0x08080808, rp 1 0xE00 0xC 5, rp 1 0x800 0xD 5, rp 1 0x3FFC 0 5, rp 1 0x104 0 5 2]
def mS : List State := do
  let r ← [true, false]
  let rs ← [true, false]
  let hh ← [([] : List Nat), [1]]
  let b ← [Boot.ready, .training]
  [{ withCmds small [cmd 1 (man 0x48), cmd 2 (man 0x49)] with boot := b, mgmt := { small.mgmt with running := r, restarting := rs, hart0 := some 1, hart1 := some 2, queue := [2, 3] }, sec := { small.sec with haltedHarts := hh } }]
/-- Clauses 0, 1, 2, 3, 4, 5, 6, 7, 8, 9, 10, 11, 12, 13, 14, 15, 16 of GatesPortsAndTileRegisters. -/
theorem test_GatesPortsAndTileRegisters :
    (let s : State := gS.getD 0 State.reset; let mid : Nat := 12; let core : Nat := 1; let off : Nat := 1024; isGateWord s core off = true ∧ 0xC ≤ mid) ∧
    (let s : State := gS.getD 0 State.reset; let mid : Nat := 0; let core : Nat := 1; let off : Nat := 1024; isGateWord s core off = true ∧ s.glb.locked = true ∧ mid < 0xC ∧ mid ≠ 2 ∧ mid ≠ 6) ∧
    (let s : State := gS.getD 0 State.reset; let mid : Nat := 2; let core : Nat := 1; let off : Nat := 1024; let v : Word := 0xffffffff; let g := (off - 0x400) / 16; isGateWord s core off = true ∧ mid < 0xC ∧ (s.glb.locked = false ∨ mid = 2 ∨ mid = 6) ∧ (gateWriteOk s core g (off % 16 == 4) v = false)) ∧
    (let s : State := gS.getD 0 State.reset; let mid : Nat := 2; let core : Nat := 1; let off : Nat := 1024; let v : Word := 0; let g := (off - 0x400) / 16; isGateWord s core off = true ∧ mid < 0xC ∧ (s.glb.locked = false ∨ mid = 2 ∨ mid = 6) ∧ (gateWriteOk s core g (off % 16 == 4) v = true)) ∧
    (let s : State := gS.getD 0 State.reset; let core : Nat := 1; let off : Nat := 1032; isGateWord s core off = false) ∧
    (let s : State := gS.getD 0 State.reset; let mid : Nat := 0; mid ≤ 2 ∧ s.glb.locked = true) ∧
    (let s : State := gS.getD 2 State.reset; let mid : Nat := 0; let v : Word := 0x8080808; mid ≤ 2 ∧ s.glb.locked = false ∧ shapeLegal v = false) ∧
    (let s : State := gS.getD 0 State.reset; let mid : Nat := 3; 2 < mid) ∧
    (let s : State := gS.getD 2 State.reset; let mid : Nat := 0; let v : Word := 0; mid ≤ 2 ∧ s.glb.locked = false ∧ shapeLegal v = true) ∧
    (let s : State := gS.getD 2 State.reset; let mid : Nat := 0; let v : Word := 0xffffffff; let p : Nat := 1; p < 6 ∧ mid ≤ 2 ∧ s.glb.locked = false ∧ (getPort s p).en = false ∧ (getPort s p).state = .disabled ∧ fld v 31 31 = 1) ∧
    (let s : State := gS.getD 0 State.reset; let mid : Nat := 0; let v : Word := 0; let p : Nat := 0; p < 6 ∧ mid ≤ 2 ∧ s.glb.locked = true ∧ bit v 15 = false) ∧
    (let s : State := gS.getD 0 State.reset; let mid : Nat := 3; let v : Word := 0; let p : Nat := 0; p < 6 ∧ 2 < mid ∧ bit v 15 = false) ∧
    (let s : State := gS.getD 0 State.reset; let p : Nat := 0; p < 6 ∧ (getPort s p).en = true ∧ (getPort s p).state = .active) ∧
    (let s : State := gS.getD 0 State.reset; let p : Nat := 1; p < 6 ∧ (((getPort s p).en = true ↔ (getPort s p).state ≠ .disabled)) ∧ (getPort s p).state ≠ .active) ∧
    (let s : State := gS.getD 0 State.reset; let p : Nat := 7; 6 ≤ p) ∧
    (let s : State := gS.getD 0 State.reset; let core : Nat := 1; let pkt : Packet := rps.getD 0 { head := 0 }; (s.asked.find? (fun r => r.core == srcCore pkt) = none)) ∧
    (let s : State := gS.getD 1 State.reset; let core : Nat := 1; let pkt : Packet := rps.getD 0 { head := 0 }; let r : TileAsk := ((s.asked.find? (fun r => r.core == srcCore pkt)).getD ({ core := 0, lo := 0, n := 0, at_ := 0 })); (s.asked.find? (fun r => r.core == srcCore pkt) = some r)) := by
  refine ⟨?_, ?_, ?_, ?_, ?_, ?_, ?_, ?_, ?_, ?_, ?_, ?_, ?_, ?_, ?_, ?_, ?_⟩ <;> decide +kernel
/-- Clauses 0, 1, 2, 3, 4, 5, 6, 7, 8, 9 of ManagementRestartsAndCounts. -/
theorem test_ManagementRestartsAndCounts :
    (let s : State := mS.getD 8 State.reset; s.mgmt.running = false) ∧
    (let s : State := mS.getD 0 State.reset; s.mgmt.running = true) ∧
    (let s : State := mS.getD 4 State.reset; let n : Nat := 0; n < 4 ∧ s.boot = .ready ∧ hartRuns s n = true) ∧
    (let s : State := mS.getD 0 State.reset; let n : Nat := 0; (4 ≤ n ∨ s.boot ≠ .ready ∨ hartRuns s n = false)) ∧
    (let s : State := mS.getD 0 State.reset; let n : Nat := 0; let b : Bool := true; (b = true ∨ hartRuns s n = false)) ∧
    (let s : State := mS.getD 4 State.reset; let n : Nat := 0; hartRuns s n = true) ∧
    (let s : State := mS.getD 0 State.reset; let h : Nat := 2; s.mgmt.queue.contains h = true) ∧
    (let s : State := mS.getD 0 State.reset; let h : Nat := 1; s.mgmt.queue.contains h = false) ∧
    (let s : State := mS.getD 4 State.reset; hartRuns s 2 = true) ∧
    (let s : State := mS.getD 0 State.reset; hartRuns s 2 = false) := by
  refine ⟨?_, ?_, ?_, ?_, ?_, ?_, ?_, ?_, ?_, ?_⟩ <;> decide +kernel
end Gates

namespace Handler
def rowed (c : Core) : Core := { c with syn := { c.syn with rows := [(1, 0x77), (3, 0x99)] }, lrn := { c.lrn with pending := [1] } }
def busyDp (c : Core) : Core := { c with ports := { dp := [(3, 4096)] } }
def busyMem (c : Core) : Core := { c with ports := { mem := [(3, 4096)] } }
/-- Clauses 0, 1, 2, 3, 4, 5, 6, 7, 8, 9, 10, 11 of HandlerAccumulates. -/
theorem test_HandlerAccumulates :
    (let n : Nat := 0; let d : Nat := 1; let va : Nat := 1; let vb : Nat := 2; let za : Nat := 3; let zb : Nat := 4; let k : Nat := 0; let clr : Nat := 0; let neg : Nat := 0; let s : State := hs (encV 0x20 d va vb za zb k clr neg) []; let c := getCore s n; let dp := mayTake (tileGate s n 0) c.ports.dp handlerClass = true; Issues s n (encV 0x20 d va vb za zb k clr neg) ∧ dp) ∧
    (let n : Nat := 0; let d : Nat := 1; let va : Nat := 1; let vb : Nat := 2; let za : Nat := 3; let zb : Nat := 4; let k : Nat := 0; let clr : Nat := 0; let neg : Nat := 0; let s : State := modCore (hs (encV 0x20 d va vb za zb k clr neg) []) 0 busyDp; let c := getCore s n; let dp := mayTake (tileGate s n 0) c.ports.dp handlerClass = true; Issues s n (encV 0x20 d va vb za zb k clr neg) ∧ (¬dp)) ∧
    (let n : Nat := 0; let d : Nat := 1; let va : Nat := 1; let vb : Nat := 2; let za : Nat := 3; let zb : Nat := 4; let k : Nat := 0; let clr : Nat := 0; let neg : Nat := 0; let s : State := hs (encV 0x21 d va vb za zb k clr neg) []; let c := getCore s n; let dp := mayTake (tileGate s n 0) c.ports.dp handlerClass = true; Issues s n (encV 0x21 d va vb za zb k clr neg) ∧ dp) ∧
    (let n : Nat := 0; let d : Nat := 1; let va : Nat := 1; let vb : Nat := 2; let za : Nat := 3; let zb : Nat := 4; let k : Nat := 0; let clr : Nat := 0; let neg : Nat := 0; let s : State := modCore (hs (encV 0x21 d va vb za zb k clr neg) []) 0 busyDp; let c := getCore s n; let dp := mayTake (tileGate s n 0) c.ports.dp handlerClass = true; Issues s n (encV 0x21 d va vb za zb k clr neg) ∧ (¬dp)) ∧
    (let n : Nat := 0; let d : Nat := 1; let vb : Nat := 2; let za : Nat := 3; let zb : Nat := 4; let clr : Nat := 0; let ra : Nat := 2; let rn : Nat := 3; let inc : Nat := 0; let s : State := hs (encM 0x22 d ra vb rn za zb inc clr) []; let c := getCore s n; let dp := mayTake (tileGate s n 0) c.ports.dp handlerClass = true; let port := mayTake (tileGate s n 1) c.ports.mem handlerClass = true; let a := (rv c ra).toNat; let m : Line := 0; Issues s n (encM 0x22 d ra vb rn za zb inc clr) ∧ lineAt c a = some m ∧ lineHeld c a = false ∧ dp ∧ ((inRowStore a = true → port))) ∧
    (let n : Nat := 0; let d : Nat := 1; let vb : Nat := 2; let za : Nat := 3; let zb : Nat := 4; let clr : Nat := 0; let ra : Nat := 2; let rn : Nat := 3; let inc : Nat := 0; let s : State := modCore (hs (encM 0x22 d ra vb rn za zb inc clr) []) 0 busyDp; let c := getCore s n; let dp := mayTake (tileGate s n 0) c.ports.dp handlerClass = true; let a := (rv c ra).toNat; let m : Line := 0; Issues s n (encM 0x22 d ra vb rn za zb inc clr) ∧ lineAt c a = some m ∧ lineHeld c a = false ∧ (¬dp)) ∧
    (let n : Nat := 0; let d : Nat := 1; let vb : Nat := 2; let za : Nat := 3; let zb : Nat := 4; let clr : Nat := 0; let ra : Nat := 2; let rn : Nat := 3; let inc : Nat := 0; let s : State := modCore (hs (encM 0x22 d ra vb rn za zb inc clr) [(2, 0x100040), (3, 127)]) 0 busyMem; let c := getCore s n; let dp := mayTake (tileGate s n 0) c.ports.dp handlerClass = true; let port := mayTake (tileGate s n 1) c.ports.mem handlerClass = true; let a := (rv c ra).toNat; let m : Line := 0; Issues s n (encM 0x22 d ra vb rn za zb inc clr) ∧ lineAt c a = some m ∧ lineHeld c a = false ∧ dp ∧ inRowStore a = true ∧ (¬port)) ∧
    (let n : Nat := 0; let d : Nat := 1; let vb : Nat := 2; let za : Nat := 3; let zb : Nat := 4; let clr : Nat := 0; let ra : Nat := 2; let rn : Nat := 3; let inc : Nat := 0; let s : State := modCore (hs (encM 0x22 d ra vb rn za zb inc clr) [(2, 0x100040), (3, 127)]) 0 rowed; let c := getCore s n; let a := (rv c ra).toNat; let m : Line := 119; Issues s n (encM 0x22 d ra vb rn za zb inc clr) ∧ lineAt c a = some m ∧ lineHeld c a = true) ∧
    (let n : Nat := 0; let d : Nat := 1; let vb : Nat := 2; let za : Nat := 3; let zb : Nat := 4; let clr : Nat := 0; let ra : Nat := 2; let rn : Nat := 3; let inc : Nat := 0; let s : State := hs (encM 0x22 d ra vb rn za zb inc clr) [(2, 0xFFFFFFFF), (3, 0x80000000)]; let c := getCore s n; let a := (rv c ra).toNat; Issues s n (encM 0x22 d ra vb rn za zb inc clr) ∧ lineAt c a = none) ∧
    (let n : Nat := 0; let d : Nat := 1; let ra : Nat := 2; let rb : Nat := 3; let s : State := hs (encR 0x24 d ra rb 0) []; Issues s n (encR 0x24 d ra rb 0)) ∧
    (let n : Nat := 0; let d : Nat := 1; let ra : Nat := 2; let rb : Nat := 3; let s : State := hs (encR 0x24 d ra rb 1) []; Issues s n (encR 0x24 d ra rb 1)) ∧
    (let n : Nat := 0; let d : Nat := 1; let ra : Nat := 2; let rb : Nat := 3; let s : State := hs (encR 0x24 d ra rb 2) []; Issues s n (encR 0x24 d ra rb 2)) := by
  refine ⟨?_, ?_, ?_, ?_, ?_, ?_, ?_, ?_, ?_, ?_, ?_, ?_⟩ <;> (try unfold Issues) <;> decide +kernel
/-- Clauses 0, 1, 2, 3, 4, 5, 6, 7, 8, 9, 10 of HandlerControlFlow. -/
theorem test_HandlerControlFlow :
    (let n : Nat := 0; let ra : Nat := 2; let rb : Nat := 3; let off : Nat := 0; let s : State := hs (encB 0x08 ra rb off) []; Issues s n (encB 0x08 ra rb off)) ∧
    (let n : Nat := 0; let ra : Nat := 2; let rb : Nat := 3; let off : Nat := 0; let s : State := hs (encB 0x09 ra rb off) []; Issues s n (encB 0x09 ra rb off)) ∧
    (let n : Nat := 0; let ra : Nat := 2; let rb : Nat := 3; let off : Nat := 0; let s : State := hs (encB 0x0A ra rb off) []; Issues s n (encB 0x0A ra rb off)) ∧
    (let n : Nat := 0; let ra : Nat := 2; let rb : Nat := 3; let off : Nat := 0; let s : State := hs (encB 0x0B ra rb off) []; Issues s n (encB 0x0B ra rb off)) ∧
    (let n : Nat := 0; let ra : Nat := 2; let rb : Nat := 3; let off : Nat := 0; let s : State := hs (encB 0x0C ra rb off) []; Issues s n (encB 0x0C ra rb off)) ∧
    (let n : Nat := 0; let ra : Nat := 2; let rb : Nat := 3; let off : Nat := 0; let s : State := hs (encB 0x0D ra rb off) []; Issues s n (encB 0x0D ra rb off)) ∧
    (let n : Nat := 0; let rd : Nat := 1; let off : Nat := 0; let s : State := hs (encJ 0x0E rd off) []; Issues s n (encJ 0x0E rd off)) ∧
    (let n : Nat := 0; let ra : Nat := 2; let rb : Nat := 3; let rd : Nat := 1; let func : Nat := 0; let s : State := hs (encR 0x0F rd ra rb func) []; Issues s n (encR 0x0F rd ra rb func)) ∧
    (let n : Nat := 0; let ra : Nat := 2; let rd : Nat := 1; let imm : Nat := 1; let s : State := modCore (hs (encI 0x10 rd ra imm) []) 0 lpa; let c := getCore s n; Issues s n (encI 0x10 rd ra imm) ∧ c.hnd.loopState.isSome = true) ∧
    (let n : Nat := 0; let ra : Nat := 2; let rd : Nat := 1; let imm : Nat := 1; let s : State := hs (encI 0x10 rd ra imm) []; let c := getCore s n; let a := rv c ra; Issues s n (encI 0x10 rd ra imm) ∧ c.hnd.loopState = none ∧ a = 0) ∧
    (let n : Nat := 0; let ra : Nat := 2; let rd : Nat := 1; let imm : Nat := 1; let s : State := hs (encI 0x10 rd ra imm) [(2, 0x100), (3, 0x103)]; let c := getCore s n; let a := rv c ra; Issues s n (encI 0x10 rd ra imm) ∧ c.hnd.loopState = none ∧ a ≠ 0) := by
  refine ⟨?_, ?_, ?_, ?_, ?_, ?_, ?_, ?_, ?_, ?_, ?_⟩ <;> (try unfold Issues) <;> decide +kernel
/-- Clauses 0, 1, 2, 3, 4, 5, 6, 7, 8 of HandlerLaneResults. -/
theorem test_HandlerLaneResults :
    (let n : Nat := 0; let d : Nat := 1; let va : Nat := 1; let vb : Nat := 2; let za : Nat := 3; let zb : Nat := 4; let rest : Nat := 0; let s : State := hs (encS 0x23 d va vb za zb rest) []; let c := getCore s n; let dp := mayTake (tileGate s n 0) c.ports.dp handlerClass = true; Issues s n (encS 0x23 d va vb za zb rest) ∧ dp) ∧
    (let n : Nat := 0; let d : Nat := 1; let va : Nat := 1; let vb : Nat := 2; let za : Nat := 3; let zb : Nat := 4; let rest : Nat := 0; let s : State := modCore (hs (encS 0x23 d va vb za zb rest) []) 0 busyDp; let c := getCore s n; let dp := mayTake (tileGate s n 0) c.ports.dp handlerClass = true; Issues s n (encS 0x23 d va vb za zb rest) ∧ (¬dp)) ∧
    (let n : Nat := 0; let d : Nat := 1; let ra : Nat := 2; let rb : Nat := 1; let func : Nat := 0; let s : State := hs (encR 0x25 d ra rb func) []; Issues s n (encR 0x25 d ra rb func)) ∧
    (let n : Nat := 0; let d : Nat := 1; let va : Nat := 1; let vb : Nat := 2; let za : Nat := 3; let zb : Nat := 4; let k : Nat := 0; let clr : Nat := 0; let neg : Nat := 0; let s : State := hs (encV 0x26 d va vb za zb k clr neg) []; Issues s n (encV 0x26 d va vb za zb k clr neg)) ∧
    (let n : Nat := 0; let d : Nat := 1; let va : Nat := 1; let vb : Nat := 2; let za : Nat := 3; let zb : Nat := 4; let k : Nat := 0; let clr : Nat := 0; let neg : Nat := 0; let s : State := hs (encV 0x27 d va vb za zb k clr neg) []; Issues s n (encV 0x27 d va vb za zb k clr neg)) ∧
    (let n : Nat := 0; let d : Nat := 1; let va : Nat := 1; let vb : Nat := 2; let za : Nat := 3; let zb : Nat := 4; let k : Nat := 0; let clr : Nat := 0; let neg : Nat := 0; let s : State := hs (encV 0x28 d va vb za zb k clr neg) []; Issues s n (encV 0x28 d va vb za zb k clr neg)) ∧
    (let n : Nat := 0; let d : Nat := 1; let ra : Nat := 2; let imm : Nat := 0; let s : State := hs (encI 0x29 d ra imm) []; Issues s n (encI 0x29 d ra imm)) ∧
    (let n : Nat := 0; let d : Nat := 1; let ra : Nat := 2; let imm : Nat := 0; let s : State := hs (encI 0x2A d ra imm) []; Issues s n (encI 0x2A d ra imm)) ∧
    (let n : Nat := 0; let d : Nat := 1; let ra : Nat := 2; let imm : Nat := 0; let s : State := hs (encI 0x2B d ra imm) []; Issues s n (encI 0x2B d ra imm)) := by
  refine ⟨?_, ?_, ?_, ?_, ?_, ?_, ?_, ?_, ?_⟩ <;> (try unfold Issues) <;> decide +kernel
/-- Clause 3 of HandlerRegistersAndFetch. -/
theorem test_HandlerRegistersAndFetch : let n : Nat := 0; let rd : Nat := 1; let ra : Nat := 2; let imm : Nat := 3; let s : State := modCore (hs (encI 0x10 rd ra imm) []) 0 lpa; Issues s n (encI 0x10 rd ra imm) ∧ (getCore s n).hnd.loopState.isSome = true := by unfold Issues; decide +kernel
/-- Clauses 2, 4, 5 of HandlerRunsToCompletion. -/
theorem test_HandlerRunsToCompletion :
    (let n : Nat := 0; let rest : Nat := 0; let s : State := hs (BitVec.ofNat 32 (0x11 * 2 ^ 26 + rest % 2 ^ 26)) []; (Issues s n (BitVec.ofNat 32 (0x11 * 2 ^ 26 + rest % 2 ^ 26)))) ∧
    (let n : Nat := 0; let rd : Nat := 1; let ra : Nat := 2; let imm : Nat := 4; let s : State := hs (encI 0x12 rd ra imm) []; let c := getCore s n; let room := if qKind (qEnt c 0) = 0 ∧ qValid (qEnt c 0) = true then freeSlotOf { c with hnd := { c.hnd with run := false } } 0 else none; Issues s n (encI 0x12 rd ra imm) ∧ room = none) ∧
    (let n : Nat := 0; let rd : Nat := 1; let ra : Nat := 2; let imm : Nat := 4; let s : State := modCore (hs (encI 0x12 rd ra imm) []) 0 withQ; let c := getCore s n; let room := if qKind (qEnt c 0) = 0 ∧ qValid (qEnt c 0) = true then freeSlotOf { c with hnd := { c.hnd with run := false } } 0 else none; let k : Nat := 0; Issues s n (encI 0x12 rd ra imm) ∧ room = some k) := by
  refine ⟨?_, ?_, ?_⟩ <;> (try unfold Issues) <;> decide +kernel
/-- Clauses 1, 2, 3, 4, 5, 6, 7 of HandlerScalarResults. -/
theorem test_HandlerScalarResults :
    (let n : Nat := 0; let rd : Nat := 1; let ra : Nat := 2; let imm : Nat := 0; let s : State := hs (encI 0x01 rd ra imm) []; Issues s n (encI 0x01 rd ra imm)) ∧
    (let n : Nat := 0; let rd : Nat := 1; let ra : Nat := 2; let imm : Nat := 0; let s : State := hs (encI 0x02 rd ra imm) []; Issues s n (encI 0x02 rd ra imm)) ∧
    (let n : Nat := 0; let rd : Nat := 1; let ra : Nat := 2; let imm : Nat := 0; let s : State := hs (encI 0x03 rd ra imm) []; Issues s n (encI 0x03 rd ra imm)) ∧
    (let n : Nat := 0; let rd : Nat := 1; let ra : Nat := 2; let imm : Nat := 0; let s : State := hs (encI 0x04 rd ra imm) []; Issues s n (encI 0x04 rd ra imm)) ∧
    (let n : Nat := 0; let rd : Nat := 1; let ra : Nat := 2; let imm : Nat := 0; let s : State := hs (encI 0x05 rd ra imm) []; Issues s n (encI 0x05 rd ra imm)) ∧
    (let n : Nat := 0; let rd : Nat := 1; let ra : Nat := 2; let imm : Nat := 0; let s : State := hs (encI 0x06 rd ra imm) []; Issues s n (encI 0x06 rd ra imm)) ∧
    (let n : Nat := 0; let rd : Nat := 1; let ra : Nat := 2; let imm : Nat := 0; let s : State := hs (encI 0x07 rd ra imm) []; let c := getCore s n; let a := rv c ra; let p : Nat × BitVec 32 := ((([(0, a <<< (imm % 32)), (1, a >>> (imm % 32)), (2, a.sshiftRight (imm % 32))]))).getD 0 (0, 0); (p ∈ [(0, a <<< (imm % 32)), (1, a >>> (imm % 32)), (2, a.sshiftRight (imm % 32))]) ∧ (imm / 32 % 4 = p.1) ∧ Issues s n (encI 0x07 rd ra imm)) := by
  refine ⟨?_, ?_, ?_, ?_, ?_, ?_, ?_⟩ <;> (try unfold Issues) <;> decide +kernel
/-- Clauses 0, 1, 2, 3, 4, 5, 6 of HandlerSendsMessages. -/
theorem test_HandlerSendsMessages :
    (let n : Nat := 0; let rd : Nat := 1; let ra : Nat := 2; let rb : Nat := 3; let func : Nat := 0; let s : State := hs (encR 0x30 rd ra rb func) []; let c := getCore s n; let a := rv c ra; let d := rv c rb; let k := d.toNat % 2 ^ 8; let land := d.toNat / 2 ^ 20; let len := d.toNat / 2 ^ 10 % 2 ^ 10; let r := chan c k; let legal := chState r ≠ 0 ∧ (chKind r = 0 ∨ chKind r = 2) ∧ landingOk (sendWin r) land len = true ∧ (len = 0 ∨ a.toNat + len ≤ 0x40000); Issues s n (encR 0x30 rd ra rb func) ∧ (func % 2 = 0) ∧ (¬legal)) ∧
    (let n : Nat := 0; let rd : Nat := 1; let ra : Nat := 2; let rb : Nat := 3; let func : Nat := 0; let s : State := modCore (hs (encR 0x30 rd ra rb func) []) 0 withQ; let c := getCore s n; let a := rv c ra; let d := rv c rb; let k := d.toNat % 2 ^ 8; let land := d.toNat / 2 ^ 20; let len := d.toNat / 2 ^ 10 % 2 ^ 10; let r := chan c k; let legal := chState r ≠ 0 ∧ (chKind r = 0 ∨ chKind r = 2) ∧ landingOk (sendWin r) land len = true ∧ (len = 0 ∨ a.toNat + len ≤ 0x40000); Issues s n (encR 0x30 rd ra rb func) ∧ (func % 2 = 0) ∧ legal) ∧
    (let n : Nat := 0; let rd : Nat := 1; let ra : Nat := 2; let rb : Nat := 3; let func : Nat := 1; let s : State := hs (encR 0x30 rd ra rb func) []; let c := getCore s n; let a := rv c ra; let d := rv c rb; let land := d.toNat / 2 ^ 20; let len := d.toNat / 2 ^ 10 % 2 ^ 10; let ch := c.hnd.cur.chain; let e := ch.entry; let legal := ch.replied = false ∧ (len = 0 ∨ a.toNat + len ≤ 0x40000) ∧ ((ch.isReq = true ∧ landingOk ((fld e 15 4 + 1) * 64) land len = true) ∨ (ch.isReq = false ∧ ch.host.isSome = true ∧ len ≤ 256)); Issues s n (encR 0x30 rd ra rb func) ∧ (func % 2 = 1) ∧ (¬legal)) ∧
    (let n : Nat := 0; let rd : Nat := 1; let ra : Nat := 2; let rb : Nat := 3; let func : Nat := 1; let s : State := modCore (hs (encR 0x30 rd ra rb func) []) 0 (cur true none false); let c := getCore s n; let a := rv c ra; let d := rv c rb; let land := d.toNat / 2 ^ 20; let len := d.toNat / 2 ^ 10 % 2 ^ 10; let ch := c.hnd.cur.chain; let e := ch.entry; let legal := ch.replied = false ∧ (len = 0 ∨ a.toNat + len ≤ 0x40000) ∧ ((ch.isReq = true ∧ landingOk ((fld e 15 4 + 1) * 64) land len = true) ∨ (ch.isReq = false ∧ ch.host.isSome = true ∧ len ≤ 256)); Issues s n (encR 0x30 rd ra rb func) ∧ (func % 2 = 1) ∧ legal ∧ ch.isReq = true) ∧
    (let n : Nat := 0; let rd : Nat := 1; let ra : Nat := 2; let rb : Nat := 3; let func : Nat := 1; let s : State := modCore (hs (encR 0x30 rd ra rb func) []) 0 (cur false (some 4) false); let c := getCore s n; let a := rv c ra; let d := rv c rb; let land := d.toNat / 2 ^ 20; let len := d.toNat / 2 ^ 10 % 2 ^ 10; let ch := c.hnd.cur.chain; let e := ch.entry; let legal := ch.replied = false ∧ (len = 0 ∨ a.toNat + len ≤ 0x40000) ∧ ((ch.isReq = true ∧ landingOk ((fld e 15 4 + 1) * 64) land len = true) ∨ (ch.isReq = false ∧ ch.host.isSome = true ∧ len ≤ 256)); Issues s n (encR 0x30 rd ra rb func) ∧ (func % 2 = 1) ∧ legal ∧ ch.isReq = false) ∧
    (let n : Nat := 0; let rd : Nat := 1; let ra : Nat := 2; let rb : Nat := 3; let func : Nat := 0; let s : State := hs (encR 0x31 rd ra rb func) []; let c := getCore s n; let a := rv c ra; let d := rv c rb; let k := d.toNat % 2 ^ 8; let k := a.toNat % 2 ^ 8; let t := chan c k; let legal := chState t ≠ 0 ∧ (chKind t = 1 ∨ (chState t = 1 ∧ chKind t = 0)); Issues s n (encR 0x31 rd ra rb func) ∧ (¬legal)) ∧
    (let n : Nat := 0; let rd : Nat := 1; let ra : Nat := 2; let rb : Nat := 3; let func : Nat := 0; let s : State := modCore (hs (encR 0x31 rd ra rb func) [(2, 0x102), (3, 0x80030201)]) 0 withQ; let c := getCore s n; let a := rv c ra; let d := rv c rb; let k := d.toNat % 2 ^ 8; let k := a.toNat % 2 ^ 8; let t := chan c k; let legal := chState t ≠ 0 ∧ (chKind t = 1 ∨ (chState t = 1 ∧ chKind t = 0)); Issues s n (encR 0x31 rd ra rb func) ∧ legal) := by
  refine ⟨?_, ?_, ?_, ?_, ?_, ?_, ?_⟩ <;> (try unfold Issues) <;> decide +kernel
/-- Clauses 0, 1, 2, 3, 4, 5, 6, 7, 8, 9, 10 of HandlerVectorMemory. -/
theorem test_HandlerVectorMemory :
    (let n : Nat := 0; let rd : Nat := 1; let ra : Nat := 2; let imm : Nat := 0; let s : State := hs (encI 0x1A rd ra imm) []; let c := getCore s n; let a := (rv c ra + BitVec.ofNat 32 (imm % 2 ^ 16)).toNat; Issues s n (encI 0x1A rd ra imm) ∧ (a % 64 = 0) ∧ (a + 64 ≤ 0x40000)) ∧
    (let n : Nat := 0; let rd : Nat := 1; let ra : Nat := 2; let imm : Nat := 0; let s : State := hs (encI 0x1A rd ra imm) [(2, 0x100040), (3, 127)]; let c := getCore s n; let a := (rv c ra + BitVec.ofNat 32 (imm % 2 ^ 16)).toNat; let port := mayTake (tileGate s n 1) c.ports.mem handlerClass; let line : Nat := 1; Issues s n (encI 0x1A rd ra imm) ∧ line < 0x4000 ∧ (a = 0x100000 + 64 * line) ∧ c.lrn.pending.contains line = false ∧ port = true) ∧
    (let n : Nat := 0; let rd : Nat := 1; let ra : Nat := 2; let imm : Nat := 0; let s : State := modCore (hs (encI 0x1A rd ra imm) [(2, 0x100040), (3, 127)]) 0 busyMem; let c := getCore s n; let a := (rv c ra + BitVec.ofNat 32 (imm % 2 ^ 16)).toNat; let port := mayTake (tileGate s n 1) c.ports.mem handlerClass; let line : Nat := 1; Issues s n (encI 0x1A rd ra imm) ∧ line < 0x4000 ∧ (a = 0x100000 + 64 * line) ∧ c.lrn.pending.contains line = false ∧ port = false) ∧
    (let n : Nat := 0; let rd : Nat := 1; let ra : Nat := 2; let imm : Nat := 0; let s : State := modCore (hs (encI 0x1A rd ra imm) [(2, 0x100040), (3, 127)]) 0 rowed; let c := getCore s n; let a := (rv c ra + BitVec.ofNat 32 (imm % 2 ^ 16)).toNat; let line : Nat := 1; Issues s n (encI 0x1A rd ra imm) ∧ line < 0x4000 ∧ (a = 0x100000 + 64 * line) ∧ c.lrn.pending.contains line = true) ∧
    (let n : Nat := 0; let rd : Nat := 1; let ra : Nat := 2; let imm : Nat := 0; let s : State := hs (encI 0x1A rd ra imm) [(2, 0xFFFFFFFF), (3, 0x80000000)]; let c := getCore s n; let a := (rv c ra + BitVec.ofNat 32 (imm % 2 ^ 16)).toNat; Issues s n (encI 0x1A rd ra imm) ∧ (a % 64 ≠ 0 ∨ (0x40000 < a + 64 ∧ (a < 0x100000 ∨ 0x200000 ≤ a)))) ∧
    (let n : Nat := 0; let rd : Nat := 1; let ra : Nat := 2; let imm : Nat := 0; let s : State := hs (encI 0x1B rd ra imm) []; let c := getCore s n; let a := (rv c ra + BitVec.ofNat 32 (imm % 2 ^ 16)).toNat; Issues s n (encI 0x1B rd ra imm) ∧ (a % 64 = 0) ∧ mayWrite c a 64 = true) ∧
    (let n : Nat := 0; let rd : Nat := 1; let ra : Nat := 2; let imm : Nat := 0; let s : State := hs (encI 0x1B rd ra imm) [(2, 0xFFFFFFFF), (3, 0x80000000)]; let c := getCore s n; let a := (rv c ra + BitVec.ofNat 32 (imm % 2 ^ 16)).toNat; Issues s n (encI 0x1B rd ra imm) ∧ (¬(a % 64 = 0 ∧ mayWrite c a 64 = true))) ∧
    (let n : Nat := 0; let rd : Nat := 1; let ra : Nat := 2; let imm : Nat := 0; let s : State := hs (encI 0x1C rd ra imm) []; let c := getCore s n; let a := (rv c ra + BitVec.ofNat 32 (imm % 2 ^ 16)).toNat; Issues s n (encI 0x1C rd ra imm) ∧ (a % 64 = 0) ∧ (a + 256 ≤ 0x40000)) ∧
    (let n : Nat := 0; let rd : Nat := 1; let ra : Nat := 2; let imm : Nat := 0; let s : State := hs (encI 0x1C rd ra imm) [(2, 0xFFFFFFFF), (3, 0x80000000)]; let c := getCore s n; let a := (rv c ra + BitVec.ofNat 32 (imm % 2 ^ 16)).toNat; Issues s n (encI 0x1C rd ra imm) ∧ (¬(a % 64 = 0 ∧ a + 256 ≤ 0x40000))) ∧
    (let n : Nat := 0; let rd : Nat := 1; let ra : Nat := 2; let imm : Nat := 0; let s : State := hs (encI 0x1D rd ra imm) []; let c := getCore s n; let a := (rv c ra + BitVec.ofNat 32 (imm % 2 ^ 16)).toNat; Issues s n (encI 0x1D rd ra imm) ∧ (a % 64 = 0) ∧ mayWrite c a 256 = true) ∧
    (let n : Nat := 0; let rd : Nat := 1; let ra : Nat := 2; let imm : Nat := 0; let s : State := hs (encI 0x1D rd ra imm) [(2, 0xFFFFFFFF), (3, 0x80000000)]; let c := getCore s n; let a := (rv c ra + BitVec.ofNat 32 (imm % 2 ^ 16)).toNat; Issues s n (encI 0x1D rd ra imm) ∧ (¬(a % 64 = 0 ∧ mayWrite c a 256 = true))) := by
  refine ⟨?_, ?_, ?_, ?_, ?_, ?_, ?_, ?_, ?_, ?_, ?_⟩ <;> (try unfold Issues) <;> decide +kernel
/-- Clauses 0, 1, 2, 4, 5, 6, 7, 8 of HandlerWaitsAndQueries. -/
theorem test_HandlerWaitsAndQueries :
    (let n : Nat := 0; let rd : Nat := 1; let ra : Nat := 2; let rb : Nat := 3; let func : Nat := 0; let s : State := hs (encR 0x32 rd ra rb func) [(2, 0xFFFFFFFF), (3, 0x80000000)]; let c := getCore s n; let a := (rv c ra).toNat; Issues s n (encR 0x32 rd ra rb func) ∧ (a % 4 ≠ 0 ∨ 0x40000 < a + 4)) ∧
    (let n : Nat := 0; let rd : Nat := 1; let ra : Nat := 2; let rb : Nat := 3; let func : Nat := 0; let s : State := hs (encR 0x32 rd ra rb func) [(2, 0x100), (3, 0x103)]; let c := getCore s n; let a := (rv c ra).toNat; let b := rv c rb; let word := BitVec.ofNat 32 (ldmGet c a 4); Issues s n (encR 0x32 rd ra rb func) ∧ (a % 4 = 0) ∧ (a + 4 ≤ 0x40000) ∧ word ≠ b) ∧
    (let n : Nat := 0; let rd : Nat := 1; let ra : Nat := 2; let rb : Nat := 3; let func : Nat := 0; let s : State := hs (encR 0x32 rd ra rb func) []; let c := getCore s n; let a := (rv c ra).toNat; let b := rv c rb; let word := BitVec.ofNat 32 (ldmGet c a 4); Issues s n (encR 0x32 rd ra rb func) ∧ (a % 4 = 0) ∧ (a + 4 ≤ 0x40000) ∧ word = b) ∧
    (let n : Nat := 0; let rd : Nat := 1; let ra : Nat := 2; let imm : Nat := 0; let s : State := hs (encI 0x34 rd ra imm) []; let c := getCore s n; let p : Nat × Word := ((([(0, c.st.step), (1, c.st.c), (2, c.st.released), (3, c.gen.setWidth 32), (4, BitVec.ofNat 32 (b1 c.hnd.rqclamp * 2 + b1 c.hnd.asat)), (5, BitVec.ofNat 32 (devNo s * 2 ^ 10 + n))]))).getD 0 (0, 0); (p ∈ [(0, c.st.step), (1, c.st.c), (2, c.st.released), (3, c.gen.setWidth 32), (4, BitVec.ofNat 32 (b1 c.hnd.rqclamp * 2 + b1 c.hnd.asat)), (5, BitVec.ofNat 32 (devNo s * 2 ^ 10 + n))]) ∧ (imm % 8 = p.1) ∧ Issues s n (encI 0x34 rd ra imm)) ∧
    (let n : Nat := 0; let rd : Nat := 1; let ra : Nat := 2; let imm : Nat := 6; let s : State := hs (encI 0x34 rd ra imm) []; (5 < imm % 8) ∧ Issues s n (encI 0x34 rd ra imm)) ∧
    (let n : Nat := 0; let rd : Nat := 1; let ra : Nat := 2; let rb : Nat := 3; let func : Nat := 0; let s : State := hs (encR 0x35 rd ra rb func) []; Issues s n (encR 0x35 rd ra rb func)) ∧
    (let n : Nat := 0; let rd : Nat := 1; let ra : Nat := 2; let rb : Nat := 3; let func : Nat := 0; let s : State := hs (encR 0x33 rd ra rb func) [(2, 0xFFFFFFFF), (3, 0x80000000)]; let c := getCore s n; let b := rv c rb; let hd := BitVec.ofNat 128 (ldmGet c b.toNat 16); let len := fld hd 28 19; Issues s n (encR 0x33 rd ra rb func) ∧ (0x40000 < b.toNat + (16 + len))) ∧
    (let n : Nat := 0; let rd : Nat := 1; let ra : Nat := 2; let rb : Nat := 3; let func : Nat := 0; let s : State := hs (encR 0x33 rd ra rb func) []; let c := getCore s n; let b := rv c rb; let hd := BitVec.ofNat 128 (ldmGet c b.toNat 16); let len := fld hd 28 19; Issues s n (encR 0x33 rd ra rb func) ∧ (b.toNat + (16 + len) ≤ 0x40000)) := by
  refine ⟨?_, ?_, ?_, ?_, ?_, ?_, ?_, ?_⟩ <;> (try unfold Issues) <;> decide +kernel
end Handler

namespace Scalar
def bad : List State := [hs 0xFFFFFFFF [], hs 0 [], modCore (hs 0 []) 0 (fun c => { c with hnd := { c.hnd with pc := 2 } }), modCore (hs 0 []) 0 (fun c => { c with hnd := { c.hnd with failing := [5] } }), modCore (hs 0 []) 0 (fun c => { c with hnd := { c.hnd with run := false } })]
def funcs := List.range 14
def imms : List Nat := [0, 1, 0x1F, 0x25, 0x4A, 0x7FFF, 0x8000, 0xFFFF, 0x62]
def sA : List State := funcs.flatMap (fun f => rfiles.map (hs (encR 0 1 2 3 f))) ++ ([1,2,3,4,5,6,7].flatMap fun op => imms.flatMap fun i => rfiles.map (hs (encI op 1 2 i)))
/-- Clauses 0, 1, 2, 4, 5, 6, 7 of HandlerRegistersAndFetch. -/
theorem test_HandlerRegistersAndFetch_0 :
    (let i : Nat := 0; i < 128) ∧
    (let f : Nat → Int := 0; let i : Nat := 0; i < 128 ∧ (-32768 ≤ f i) ∧ f i ≤ 32767) ∧
    (let s : State := (bad ++ [modCore (hs (encI 0x10 1 2 3) []) 0 lpa]).getD 0 State.reset; let c : Core := hcore 0 []; c.hnd.wait = .none) ∧
    (let s : State := (bad ++ [modCore (hs (encI 0x10 1 2 3) []) 0 lpa]).getD 2 State.reset; let n : Nat := 0; let c := getCore s n; let inside := inRanges c.hnd.loaded c.hnd.pc.toNat; c.hnd.run = true ∧ c.hnd.wait = .none ∧ inside = false) ∧
    (let s : State := (bad ++ [modCore (hs (encI 0x10 1 2 3) []) 0 lpa]).getD 0 State.reset; let n : Nat := 0; let c := getCore s n; let inside := inRanges c.hnd.loaded c.hnd.pc.toNat; c.hnd.run = true ∧ c.hnd.wait = .none ∧ inside = true ∧ insnOk (nget 0 c.hnd.store c.hnd.pc.toNat) = false) ∧
    (let s : State := (bad ++ [modCore (hs (encI 0x10 1 2 3) []) 0 lpa]).getD 3 State.reset; let n : Nat := 0; let c := getCore s n; let inside := inRanges c.hnd.loaded c.hnd.pc.toNat; c.hnd.run = true ∧ c.hnd.wait = .none ∧ inside = true ∧ insnOk (nget 0 c.hnd.store c.hnd.pc.toNat) = true ∧ c.hnd.failing.contains c.hnd.pc.toNat = true) ∧
    (let s : State := (bad ++ [modCore (hs (encI 0x10 1 2 3) []) 0 lpa]).getD 1 State.reset; let n : Nat := 0; let c := getCore s n; let inside := inRanges c.hnd.loaded c.hnd.pc.toNat; ((c.hnd.run = false ∨ c.hnd.wait ≠ .none ∨ (inside = true ∧ insnOk (nget 0 c.hnd.store c.hnd.pc.toNat) = true ∧ c.hnd.failing.contains c.hnd.pc.toNat = false)))) := by
  refine ⟨?_, ?_, ?_, ?_, ?_, ?_, ?_⟩ <;> decide +kernel
/-- Clause 0 of HandlerScalarResults. -/
theorem test_HandlerScalarResults_0 : let s : State := sA.getD 0 State.reset; let n : Nat := 0; let rd : Nat := 1; let ra : Nat := 2; let rb : Nat := 3; let c := getCore s n; let a := rv c ra; let b := rv c rb; let k := b.toNat % 32; let p : Nat × Word := ((([(0, a + b), (1, a - b), (2, a &&& b), (3, a ||| b), (4, a ^^^ b), (5, a <<< k), (6, a >>> k), (7, a.sshiftRight k), (8, if a.slt b then 1 else 0), (9, if a.ult b then 1 else 0), (10, a * b), (11, if a.slt b then a else b), (12, if a.slt b then b else a)]))).getD 0 (0, 0); (p ∈ [(0, a + b), (1, a - b), (2, a &&& b), (3, a ||| b), (4, a ^^^ b), (5, a <<< k), (6, a >>> k), (7, a.sshiftRight k), (8, if a.slt b then 1 else 0), (9, if a.ult b then 1 else 0), (10, a * b), (11, if a.slt b then a else b), (12, if a.slt b then b else a)]) ∧ Issues s n (encR 0 rd ra rb p.1) := by unfold Issues; decide +kernel
end Scalar

namespace Dispatching
def idle (ms : List QMsg) (c : Core) : Core := openQ { withQ c with hnd := { c.hnd with run := false, table := [(2, BitVec.ofNat 64 (2^63 + 3 * 2^32 + 5)), (3, BitVec.ofNat 64 (2^63 + 1 * 2^61 + 6)), (4, BitVec.ofNat 64 (2^63 + 2 * 2^61 + 7)), (5, BitVec.ofNat 64 (2^62))] }, q := { (withQ c).q with msgs := ms } }
def msgs : List QMsg := [{ queue := 1, slot := 8, kind := 0, chain := { sender := 77, s4 := 3, isReq := true } }, { queue := 3, slot := 16, kind := 1, round := 1 }, { queue := 0, slot := 4, kind := 2, hidx := 4, arg := 99, chain := { host := some 3 } }, { queue := 0, slot := 4, kind := 2, hidx := 5, chain := { host := some 3 } }, { queue := 4, slot := 20, kind := 0, notice := true }, { queue := 1, slot := 9, kind := 0, chain := { s4 := 2, entry := qEntry 1 } }]
def sD : List State := msgs.map (fun m => mod (idle [m, { queue := 2, slot := 12 }]) (hs 0 [(9, 4)])) ++ msgs.map (fun m => mod (idle [m]) (hst { hcore 0 [(9,4)] with ldm := (List.range 64).map fun i => (0x2C200 + i, BitVec.ofNat 8 (i + 2)) }))
def full (k : Nat) (c : Core) : Core := { openQ (withQ c) with q := { (openQ (withQ c)).q with msgs := (List.range k).map fun i => { queue := 0, slot := 4 + i, kind := 2 } } }
def sE : List State := [hs (encR 0x11 0 0 0 0) [], mod withQ (hs (BitVec.ofNat 32 (0x11 * 2^26 + 5)) []), mod (fun c => { withQ c with hnd := { c.hnd with cur := msgs.headD {} } }) (hs (encR 0x11 0 0 0 0) []), mod (fun c => { openQ (withQ c) with hnd := { c.hnd with fValid := true, cur := msgs.getD 5 {} } }) (hs (encR 0x11 0 0 0 0) [])] ++ (List.range 6).map (fun k => mod (full k) (hs (encI 0x12 1 2 4) [(2, 8)])) ++ (List.range 6).map (fun k => mod (fun c => let d := full k c; { d with hnd := { d.hnd with cur := { queue := 0, slot := 5, kind := 2, chain := { yielded := true } } } }) (hs (encI 0x12 1 2 4) [(2, 8)])) ++ [hs (encI 0x12 1 2 4) []]
/-- Clauses 0, 1, 3 of HandlerRunsToCompletion. -/
theorem test_HandlerRunsToCompletion_0 :
    (let s : State := (sD ++ sE).getD 2 State.reset; let n : Nat := 0; let c := getCore s n; let m : QMsg := (c.q.msgs).headD {}; let rest : List QMsg := (c.q.msgs).tail; let idx := entryOf c m; let e := nget 0 c.hnd.table idx; c.hnd.run = false ∧ c.hnd.en = true ∧ dispatchHeld c = false ∧ (c.q.msgs = m :: rest) ∧ bit e 63 = true ∧ fld e 62 61 = m.kind) ∧
    (let s : State := (sD ++ sE).getD 0 State.reset; let n : Nat := 0; let c := getCore s n; let m : QMsg := (c.q.msgs).headD {}; let rest : List QMsg := (c.q.msgs).tail; let idx := entryOf c m; let e := nget 0 c.hnd.table idx; c.hnd.run = false ∧ c.hnd.en = true ∧ dispatchHeld c = false ∧ (c.q.msgs = m :: rest) ∧ (¬(bit e 63 = true ∧ fld e 62 61 = m.kind))) ∧
    (let s : State := (sD ++ sE).getD 12 State.reset; let n : Nat := 0; let c := getCore s n; c.hnd.run = true) := by
  refine ⟨?_, ?_, ?_⟩ <;> decide +kernel
end Dispatching

namespace Sending
def descs : List Word := (List.range 10).flatMap (fun k => [BitVec.ofNat 32 k, BitVec.ofNat 32 (k + 64 * 2^10), BitVec.ofNat 32 (k + 3 * 2^20 + 200 * 2^10)]) ++ [BitVec.ofNat 32 (7 * 2^20 + 512 * 2^10), BitVec.ofNat 32 (0xFF * 2^20 + 512 * 2^10), BitVec.ofNat 32 (0 + 600 * 2^10), 12]
def sS : List State := descs.flatMap fun d => [0x100, 0x3FFF0].map fun a => mod withQ (hs (encR 0x30 1 2 3 0x40) [(2, a), (3, d)])
def sR : List State := descs.flatMap fun d => [0x100, 0x3FFF0, 0xFFFFFFF0].flatMap fun a => [cur true none false, cur true none true, cur false (some 4) false, cur false none false].map fun f => mod f (hs (encR 0x30 1 2 3 0x41) [(2, a), (3, d)])
def sT : List State := (List.range 11).flatMap fun k => [0,1,2].map fun f => mod withQ (hs (encR 0x31 1 2 3 f) [(2, BitVec.ofNat 32 k), (3, 0x123456)])
def sW : List State := [mod (fun c => { withQ c with hnd := { c.hnd with wait := .credit 1 4 } }) (hs 0 [])]
def sN : List State := [0x100, 0x102, 0x3FFFE, 0x3FFFC, 0xFFFFFFFC].flatMap fun a => [0, 0x80030201, 1].flatMap fun b => [0,1].map fun f => hs (encR 0x32 1 2 3 f) [(2, a), (3, b)]
def sQ : List State := (List.range 9).map fun i => hs (encI 0x34 1 2 i) []
def sM : List State := [0,1].map fun f => hs (encR 0x35 1 2 3 f) [(2, 0x13), (3, 77)]
def sC : List State := [0x100, 0x3FFF8, 0x3FF80].flatMap fun b => [0, 0x21].map fun a => mod (fun c => ldmSet (ldmSet c 0x100 16 (0x14 + 28 * 0 + 8 * 2^19)) 0x3FF80 16 (500 * 2^19)) (hs (encR 0x33 1 2 3 0) [(2, a), (3, b)])
def sX : List State := [mod (fun c => { withQ c with hnd := { c.hnd with wait := .waitne 2 0x100 5 true } }) (hs 0 [])]
/-- Clause 7 of HandlerSendsMessages. -/
theorem test_HandlerSendsMessages_7 : let s : State := (sS ++ sR ++ sT ++ sW).getD 509 State.reset; let n : Nat := 0; let c := getCore s n; let j : Nat := 1; let e : Nat := 4; c.hnd.wait = .credit j e := by decide +kernel
/-- Clause 3 of HandlerWaitsAndQueries. -/
theorem test_HandlerWaitsAndQueries_3 : let s : State := (sN ++ sQ ++ sM ++ sC ++ sX).getD 47 State.reset; let n : Nat := 0; let c := getCore s n; let r : Nat := 2; let x : Nat := 256; let o : Word := 5; c.hnd.wait = .waitne r x o true := by decide +kernel
end Sending

namespace HotSwap
def small : State := { row0 with remap := [(0, [0,1,2,3])] }
def hS : List State := do
  let o ← [true, false]
  let lo ← [true, false]
  let uv ← [true, false]
  let pm ← [true, false]
  let seat ← [7, 3]
  let pf ← [true, false]
  [{ small with boot := if o then .ready else .off, pwr := { small.pwr with output := o, limitOff := lo, lockUv := uv, pmOff := pm, seated := seat, pfail := pf, status := 5 } }]
/-- Clauses 0, 1, 2, 3, 4, 5, 6, 7, 8, 9, 10, 11, 12, 13, 14, 15 of HotSwapTurnsTheOutput. -/
theorem test_HotSwapTurnsTheOutput :
    (let s : State := hS.getD 0 State.reset; let p := s.pwr; let off (t : State) : Prop := t.pwr.output = false ∧ t.boot = .off ∧ t.cores = [] ∧ t.shards = []; (s.boot = .off ∨ p.pfail = true)) ∧
    (let s : State := hS.getD 1 State.reset; let p := s.pwr; let off (t : State) : Prop := t.pwr.output = false ∧ t.boot = .off ∧ t.cores = [] ∧ t.shards = []; s.boot ≠ .off ∧ p.pfail = false) ∧
    (let s : State := hS.getD 0 State.reset; let p := s.pwr; p.output = true) ∧
    (let s : State := hS.getD 44 State.reset; let p := s.pwr; p.limitOff = true ∧ p.output = false ∧ (mayTurnOn { p with limitOff := false } = true)) ∧
    (let s : State := hS.getD 0 State.reset; let p := s.pwr; p.limitOff = true ∧ p.output = true) ∧
    (let s : State := hS.getD 0 State.reset; let p := s.pwr; p.limitOff = true ∧ (mayTurnOn { p with limitOff := false } = false)) ∧
    (let s : State := hS.getD 60 State.reset; let p := s.pwr; p.output = false ∧ (mayTurnOn { p with seated := 7 } = true)) ∧
    (let s : State := hS.getD 32 State.reset; let p := s.pwr; p.output = false ∧ (mayTurnOn { p with seated := 7 } = false)) ∧
    (let s : State := hS.getD 0 State.reset; let c : Nat := 3; 3 ≤ c) ∧
    (let s : State := hS.getD 0 State.reset; let c : Nat := 0; c < 3) ∧
    (let s : State := hS.getD 0 State.reset; let code : Nat := 0; code ≠ 1 ∧ code ≠ 3 ∧ code ≠ 0x79 ∧ code ≠ 0x88 ∧ code ≠ 0x89 ∧ code ≠ 0x8D ∧ code ≠ 0x97) ∧
    (let s : State := hS.getD 0 State.reset; let code : Nat := 136; (code ∈ [0x88, 0x89, 0x8D, 0x97])) ∧
    (let s : State := hS.getD 0 State.reset; let p := s.pwr; let data : Nat := 0; (p.limitOff = true ∨ (data ≠ 0 ∧ data ≠ 0x80))) ∧
    (let s : State := hS.getD 16 State.reset; let p := s.pwr; p.limitOff = false ∧ (p.output = true ∨ mayTurnOn { p with pmOff := false } = false)) ∧
    (let s : State := hS.getD 16 State.reset; let p := s.pwr; p.limitOff = false ∧ p.output = true) ∧
    (let s : State := hS.getD 56 State.reset; let p := s.pwr; p.limitOff = false ∧ p.output = false ∧ (mayTurnOn { p with pmOff := false } = true)) := by
  refine ⟨?_, ?_, ?_, ?_, ?_, ?_, ?_, ?_, ?_, ?_, ?_, ?_, ?_, ?_, ?_, ?_⟩ <;> decide +kernel
end HotSwap

namespace Learning
def ss : List State := (phs.flatMap fun p => (more (bc p)).map mk)
def modp (ctx gen : Nat) : Packet := mkPkt 7 0 0 1 0 0 (srcWord 0 2 0) 0x13 ctx gen 0x0A 99 3
def mps : List Packet := [modp 1 2, modp 1 3, modp 2 1, mkPkt 7 0 0 1 0 0 (srcWord 0 2 0) 0x3 1 2 0x0B 7 4]
def phz := ss ++ ss.map (fun s => modCore s 1 fun c => { c with arrived := mps }) ++ [modCore (mk (bc .waiting)) 1 fun c => { c with st := { c.st with wdogEn := false } }]
/-- A core with a learned row queued for eager evaluation. -/
def eagerCore : Core := { bc .integrate with
  syn := { index := [(6, mkDesc (fmt := 0) (lrn := 1))] }, nrn := { groups := [(0, 2 ^ 42)] }
  lrn := { eagerLen := 1 }, ldm := [(0x3C00C, 2), (0x3E300, 6)] }
/-- Clauses 0, 1, 2, 3, 4, 5, 6, 7, 8, 9, 10, 11, 12 of LearningWatchdogAndModulator. -/
theorem test_LearningWatchdogAndModulator :
    (let s : State := phz.getD 0 State.reset; let n : Nat := 1; let c := getCore s n; let idle : Prop := c.lrn.eagerNow = none ∧ c.lrn.eagerLen = 0; (idle ∨ c.st.phase = .learn)) ∧
    (let s : State := phz.getD 8 State.reset; let n : Nat := 1; let c := getCore s n; let v := envOf s n; let idle : Prop := c.lrn.eagerNow = none ∧ c.lrn.eagerLen = 0; (¬idle) ∧ c.st.phase ≠ .learn ∧ learnMay v c = false) ∧
    (let s : State := phz.getD 9 State.reset; let n : Nat := 1; let c := getCore s n; let v := envOf s n; let idle : Prop := c.lrn.eagerNow = none ∧ c.lrn.eagerLen = 0; let i : Nat := 4; let hit : Bool := true; let k : Nat := 0; (¬idle) ∧ c.st.phase ≠ .learn ∧ learnMay v c = true ∧ (c.lrn.eagerNow = some (i, hit, k))) ∧
    (let s : State := phz.getD 7 State.reset; let n : Nat := 1; let c := getCore s n; let v := envOf s n; let idle : Prop := c.lrn.eagerNow = none ∧ c.lrn.eagerLen = 0; (¬idle) ∧ c.st.phase ≠ .learn ∧ learnMay v c = true ∧ c.lrn.eagerNow = none ∧ qQueued (sideOf c (eagerFront c)) = false) ∧
    (let s : State := phz.getD 7 State.reset; let n : Nat := 1; let c := getCore s n; let v := envOf s n; let idle : Prop := c.lrn.eagerNow = none ∧ c.lrn.eagerLen = 0; let u := eagerTake c; (¬idle) ∧ c.st.phase ≠ .learn ∧ learnMay v c = true ∧ c.lrn.eagerNow = none ∧ u.lrn.eagerNow = none) ∧
    (let s : State := mk eagerCore; let n : Nat := 1; let c := getCore s n; let v := envOf s n; let idle : Prop := c.lrn.eagerNow = none ∧ c.lrn.eagerLen = 0; let u := eagerTake c; (¬idle) ∧ c.st.phase ≠ .learn ∧ learnMay v c = true ∧ c.lrn.eagerNow = none ∧ u.lrn.eagerNow = some (6, false, 0)) ∧
    (let s : State := phz.getD 0 State.reset; let n : Nat := 1; let c := getCore s n; c.st.wdogEn = true ∧ wdogCounts c = true) ∧
    (let s : State := phz.getD 10 State.reset; let n : Nat := 1; let c := getCore s n; (c.st.wdogEn = false ∨ wdogCounts c = false)) ∧
    (let s : State := phz.getD 0 State.reset; let pkt : Packet := mps.getD 0 { head := 0 }; ofShard s pkt = true) ∧
    (let s : State := phz.getD 0 State.reset; let pkt : Packet := mps.getD 1 { head := 0 }; ofShard s pkt = false) ∧
    (let s : State := phz.getD 0 State.reset; let n : Nat := 1; let pkt : Packet := mps.getD 0 { head := 0 }; let c := getCore s n; portTurn s n pkt = true ∧ c.bound = true ∧ c.ctx = pctx pkt ∧ c.gen.toNat = pgen pkt) ∧
    (let s : State := phz.getD 0 State.reset; let n : Nat := 1; let pkt : Packet := mps.getD 1 { head := 0 }; let c := getCore s n; portTurn s n pkt = true ∧ (c.bound = false ∨ c.ctx ≠ pctx pkt ∨ c.gen.toNat ≠ pgen pkt)) ∧
    (let s : State := phz.getD 77 State.reset; let n : Nat := 1; let pkt : Packet := mps.getD 1 { head := 0 }; portTurn s n pkt = false) := by
  refine ⟨?_, ?_, ?_, ?_, ?_, ?_, ?_, ?_, ?_, ?_, ?_, ?_, ?_⟩ <;> decide +kernel
end Learning

namespace Levels
def pS : List State := do
  let pl ← [0, 3]
  let st ← [PowerState.s0, .s1]
  let ch ← [true, false]
  let cap ← [480, 250]
  let run ← [true, false]
  [{ withCmds small pc with mgmt := { small.mgmt with running := run }, pwr := { small.pwr with pl := pl, state := st, changing := ch, capW := cap, plReq := 2, plCmds := [1,2], plTherm := pl } }]
/-- Clauses 0, 1, 2, 3, 4, 5, 6, 7, 8 of LevelsFollowRequestsAndLimits. -/
theorem test_LevelsFollowRequestsAndLimits :
    (let s : State := pS.getD 0 State.reset; let h : Nat := 1; let f : Fetched := (s.hif.fetched).getD 0 (cmd 0 0); MayRun s h 0x49 f ∧ (mw f.manifest 0 / 2 ^ 6 % 2 = 0 ∨ powerBusy s = true)) ∧
    (let s : State := pS.getD 6 State.reset; let h : Nat := 1; let f : Fetched := (s.hif.fetched).getD 0 (cmd 0 0); let pl := BitVec.ofNat 2 (mw f.manifest 0 / 2 ^ 4); MayRun s h 0x49 f ∧ (mw f.manifest 0 / 2 ^ 6 % 2 = 1) ∧ powerBusy s = false ∧ s.pwr.state = .s0 ∧ s.pwr.capW.toNat < ratedMax pl.toNat) ∧
    (let s : State := pS.getD 4 State.reset; let h : Nat := 1; let f : Fetched := (s.hif.fetched).getD 0 (cmd 0 0); let pl := BitVec.ofNat 2 (mw f.manifest 0 / 2 ^ 4); let p := { s.pwr with plReq := pl }; MayRun s h 0x49 f ∧ (mw f.manifest 0 / 2 ^ 6 % 2 = 1) ∧ powerBusy s = false ∧ s.pwr.state = .s0 ∧ ratedMax pl.toNat ≤ s.pwr.capW.toNat ∧ wantedPl p = s.pwr.pl) ∧
    (let s : State := pS.getD 4 State.reset; let h : Nat := 2; let f : Fetched := (s.hif.fetched).getD 1 (cmd 0 0); let pl := BitVec.ofNat 2 (mw f.manifest 0 / 2 ^ 4); let p := { s.pwr with plReq := pl }; MayRun s h 0x49 f ∧ (mw f.manifest 0 / 2 ^ 6 % 2 = 1) ∧ powerBusy s = false ∧ s.pwr.state = .s0 ∧ ratedMax pl.toNat ≤ s.pwr.capW.toNat ∧ wantedPl p ≠ s.pwr.pl) ∧
    (let s : State := pS.getD 12 State.reset; let h : Nat := 1; let f : Fetched := (s.hif.fetched).getD 0 (cmd 0 0); MayRun s h 0x49 f ∧ (mw f.manifest 0 / 2 ^ 6 % 2 = 1) ∧ powerBusy s = false ∧ (s.pwr.state = .s1 ∨ s.pwr.state = .s2 ∨ s.pwr.state = .s3)) ∧
    (let s : State := pS.getD 4 State.reset; s.pwr.changing = false) ∧
    (let s : State := pS.getD 0 State.reset; s.pwr.changing = true) ∧
    (let s : State := pS.getD 1 State.reset; hartRuns s 3 = false) ∧
    (let s : State := pS.getD 0 State.reset; hartRuns s 3 = true) := by
  refine ⟨?_, ?_, ?_, ?_, ?_, ?_, ?_, ?_, ?_⟩ <;> (try unfold MayRun) <;> decide +kernel
end Levels

namespace LifeCycle
def lk (s : State) : State := withCmds s [cmd 1 (man 0x42), { cmd 2 (man 0x42) with origin := .sdio }]
def lcS : List State := (do
  let lc ← [0,1,2,3,4,5]
  let rq ← [SecRequest.none, .token, .transition 4, .transition 2, .transition 5]
  let jt ← [JtagIns.bypass, .extest, .idcode]
  let bo ← [Boot.ready, .off]
  [lk { small with nv := { small.nv with lcState := BitVec.ofNat 3 lc, identity := true, keep := [(0, { writing := true, marker := 1 })] }, boot := bo, sec := { small.sec with request := rq, jtag := jt, level := 1, haltedHarts := [0] } }]) ++
  [lk { small with glb := { small.glb with locked := true } }, lk { small with sec := { small.sec with recovery := true } }, lk { small with fab := { small.fab with cmd := { small.fab.cmd with a := 0xFFFFFFFF } } }]
/-- Clauses 0, 1, 2, 3, 4, 5, 6, 7, 8, 9, 10, 11, 12 of LifeCycleTamperAndLock. -/
theorem test_LifeCycleTamperAndLock :
    (let s : State := lcS.getD 0 State.reset; ((∀ t, s.sec.request ≠ .transition t))) ∧
    (let s : State := lcS.getD 12 State.reset; let t : BitVec 3 := 4; s.sec.request = .transition t) ∧
    (let s : State := lcS.getD 0 State.reset; let p : Bool := false; let g : Bool := false; let k : Bool := false; (s.boot = .off ∨ (p = false ∧ g = false ∧ k = false))) ∧
    (let s : State := lcS.getD 0 State.reset; let p : Bool := true; let g : Bool := true; let k : Bool := true; s.boot ≠ .off ∧ (p = true ∨ g = true ∨ k = true)) ∧
    (let s : State := lcS.getD 1 State.reset; s.boot = .off) ∧
    (let s : State := lcS.getD 2 State.reset; s.sec.jtag = .extest) ∧
    (let s : State := lcS.getD 0 State.reset; s.sec.jtag ≠ .extest) ∧
    (let s : State := lcS.getD 1 State.reset; let i : JtagIns := JtagIns.bypass; (s.boot = .off ∨ jtagAccepts s i = false)) ∧
    (let s : State := lcS.getD 0 State.reset; s.boot ≠ .off ∧ s.sec.jtag ≠ .extest) ∧
    (let s : State := lcS.getD 0 State.reset; s.boot ≠ .off ∧ jtagAccepts s .extest = true ∧ s.sec.jtag ≠ .extest) ∧
    (let s : State := lcS.getD 2 State.reset; let i : JtagIns := JtagIns.bypass; s.boot ≠ .off ∧ jtagAccepts s i = true ∧ i ≠ .extest ∧ s.sec.jtag = .extest) ∧
    (let s : State := lcS.getD 0 State.reset; let i : JtagIns := JtagIns.bypass; s.boot ≠ .off ∧ jtagAccepts s i = true ∧ i ≠ .extest ∧ i ≠ .idcode ∧ s.sec.jtag ≠ .extest) ∧
    (let s : State := lcS.getD 0 State.reset; let h : Nat := 1; let f : Fetched := (s.hif.fetched).getD 0 (cmd 0 0); MayRun s h 0x42 f) := by
  refine ⟨?_, ?_, ?_, ?_, ?_, ?_, ?_, ?_, ?_, ?_, ?_, ?_, ?_⟩ <;> (try unfold MayRun) <;> decide +kernel
end LifeCycle

namespace Members
/-- Clauses 0, 1, 2, 3, 4, 5, 6, 7, 8, 9, 10, 11, 12, 13, 14, 15, 16, 17, 18, 19, 20, 21, 22 of MembersPrepareCommitAndApply. -/
theorem test_MembersPrepareCommitAndApply :
    (let s : State := (mS ++ [{ base with fab := { base.fab with cvy := { base.fab.cvy with a := 0, b := 0 } } }]).getD 0 State.reset; let n : Nat := 0; let tag : Nat := 3; let x : MemberConvoy := ((findShare s (.core n) tag).getD ({ tag := 0, ctx := 0 })); let m := Member.core n; let turn : Nat → Bool := fun sub => (cvyPkt s m sub tag).all (portTurn s n); findShare s (.core n) tag = some x ∧ turn 0x01 = true ∧ (x.prepared = true ∨ x.filling = true)) ∧
    (let s : State := (mS ++ [{ base with fab := { base.fab with cvy := { base.fab.cvy with a := 0, b := 0 } } }]).getD 0 State.reset; let n : Nat := 0; let tag : Nat := 2; let x : MemberConvoy := ((findShare s (.core n) tag).getD ({ tag := 0, ctx := 0 })); let m := Member.core n; let turn : Nat → Bool := fun sub => (cvyPkt s m sub tag).all (portTurn s n); let r : BitVec 8 := 6; findShare s (.core n) tag = some x ∧ turn 0x01 = true ∧ x.prepared = false ∧ x.filling = false ∧ x.failed = some r) ∧
    (let s : State := (mS ++ [{ base with fab := { base.fab with cvy := { base.fab.cvy with a := 0, b := 0 } } }]).getD 0 State.reset; let n : Nat := 1; let tag : Nat := 1; let x : MemberConvoy := ((findShare s (.core n) tag).getD ({ tag := 0, ctx := 0 })); let m := Member.core n; let c := getCore s n; let first := firstStep c; let stopped : Bool := (getShard s x.ctx).state == .stopped; let turn : Nat → Bool := fun sub => (cvyPkt s m sub tag).all (portTurn s n); let sc : Option Word := some 0; let named := if (getShard s x.ctx).state = .stopped then none else sc; let tooLate : Bool := match named with | some w => stepLt w first || (w - c.st.step).toNat ≥ 2 ^ 30 | none => false; findShare s (.core n) tag = some x ∧ turn 0x01 = true ∧ x.prepared = false ∧ x.filling = false ∧ x.failed = none ∧ tooLate = true) ∧
    (let s : State := (mS ++ [{ base with fab := { base.fab with cvy := { base.fab.cvy with a := 0, b := 0 } } }]).getD 0 State.reset; let n : Nat := 0; let tag : Nat := 1; let x : MemberConvoy := ((findShare s (.core n) tag).getD ({ tag := 0, ctx := 0 })); let m := Member.core n; let c := getCore s n; let first := firstStep c; let stopped : Bool := (getShard s x.ctx).state == .stopped; let turn : Nat → Bool := fun sub => (cvyPkt s m sub tag).all (portTurn s n); let sc : Option Word := some 0; let named := if (getShard s x.ctx).state = .stopped then none else sc; let tooLate : Bool := match named with | some w => stepLt w first || (w - c.st.step).toNat ≥ 2 ^ 30 | none => false; findShare s (.core n) tag = some x ∧ turn 0x01 = true ∧ x.prepared = false ∧ x.filling = false ∧ x.failed = none ∧ tooLate = false) ∧
    (let s : State := (mS ++ [{ base with fab := { base.fab with cvy := { base.fab.cvy with a := 0, b := 0 } } }]).getD 0 State.reset; let n : Nat := 0; let tag : Nat := 1; let x : MemberConvoy := ((findShare s (.core n) tag).getD ({ tag := 0, ctx := 0 })); let c := getCore s n; findShare s (.core n) tag = some x ∧ (x.filling = false ∨ fillTurn c = false)) ∧
    (let s : State := (mS ++ [{ base with fab := { base.fab with cvy := { base.fab.cvy with a := 0, b := 0 } } }]).getD 0 State.reset; let n : Nat := 0; let tag : Nat := 4; let x : MemberConvoy := ((findShare s (.core n) tag).getD ({ tag := 0, ctx := 0 })); let c := getCore s n; findShare s (.core n) tag = some x ∧ x.filling = true ∧ fillTurn c = true) ∧
    (let s : State := (mS ++ [{ base with fab := { base.fab with cvy := { base.fab.cvy with a := 0, b := 0 } } }]).getD 0 State.reset; let n : Nat := 1; let tag : Nat := 3; let x : MemberConvoy := ((findShare s (.core n) tag).getD ({ tag := 0, ctx := 0 })); let m := Member.core n; let stopped : Bool := (getShard s x.ctx).state == .stopped; let turn : Nat → Bool := fun sub => (cvyPkt s m sub tag).all (portTurn s n); findShare s (.core n) tag = some x ∧ turn 0x04 = true ∧ x.prepared = true ∧ x.commit = none ∧ stopped = false) ∧
    (let s : State := (mS ++ [{ base with fab := { base.fab with cvy := { base.fab.cvy with a := 0, b := 0 } } }]).getD 0 State.reset; let n : Nat := 0; let tag : Nat := 3; let x : MemberConvoy := ((findShare s (.core n) tag).getD ({ tag := 0, ctx := 0 })); let m := Member.core n; let stopped : Bool := (getShard s x.ctx).state == .stopped; let turn : Nat → Bool := fun sub => (cvyPkt s m sub tag).all (portTurn s n); findShare s (.core n) tag = some x ∧ turn 0x04 = true ∧ x.prepared = true ∧ x.commit = none ∧ stopped = true) ∧
    (let s : State := (mS ++ [{ base with fab := { base.fab with cvy := { base.fab.cvy with a := 0, b := 0 } } }]).getD 0 State.reset; let n : Nat := 0; let tag : Nat := 1; let x : MemberConvoy := ((findShare s (.core n) tag).getD ({ tag := 0, ctx := 0 })); let m := Member.core n; let turn : Nat → Bool := fun sub => (cvyPkt s m sub tag).all (portTurn s n); findShare s (.core n) tag = some x ∧ turn 0x04 = true ∧ (x.prepared = false ∨ x.commit.isSome = true)) ∧
    (let s : State := (mS ++ [{ base with fab := { base.fab with cvy := { base.fab.cvy with a := 0, b := 0 } } }]).getD 0 State.reset; let n : Nat := 0; let tag : Nat := 5; let x : MemberConvoy := ((findShare s (.core n) tag).getD ({ tag := 0, ctx := 0 })); let m := Member.core n; let turn : Nat → Bool := fun sub => (cvyPkt s m sub tag).all (portTurn s n); findShare s (.core n) tag = some x ∧ turn 0x05 = true ∧ x.commit.isSome = true) ∧
    (let s : State := (mS ++ [{ base with fab := { base.fab with cvy := { base.fab.cvy with a := 0, b := 0 } } }]).getD 0 State.reset; let n : Nat := 0; let tag : Nat := 1; let x : MemberConvoy := ((findShare s (.core n) tag).getD ({ tag := 0, ctx := 0 })); let m := Member.core n; let turn : Nat → Bool := fun sub => (cvyPkt s m sub tag).all (portTurn s n); findShare s (.core n) tag = some x ∧ turn 0x05 = true ∧ x.commit = none) ∧
    (let s : State := (mS ++ [{ base with fab := { base.fab with cvy := { base.fab.cvy with a := 0, b := 0 } } }]).getD 2 State.reset; let n : Nat := 1; let tag : Nat := 1; let x : MemberConvoy := ((findShare s (.core n) tag).getD ({ tag := 0, ctx := 0 })); let m := Member.core n; let turn : Nat → Bool := fun sub => (cvyPkt s m sub tag).all (portTurn s n); findShare s (.core n) tag = some x ∧ turn 0x01 = false) ∧
    (let s : State := (mS ++ [{ base with fab := { base.fab with cvy := { base.fab.cvy with a := 0, b := 0 } } }]).getD 1 State.reset; let n : Nat := 1; let tag : Nat := 3; let x : MemberConvoy := ((findShare s (.core n) tag).getD ({ tag := 0, ctx := 0 })); let m := Member.core n; let turn : Nat → Bool := fun sub => (cvyPkt s m sub tag).all (portTurn s n); findShare s (.core n) tag = some x ∧ turn 0x04 = false) ∧
    (let s : State := (mS ++ [{ base with fab := { base.fab with cvy := { base.fab.cvy with a := 0, b := 0 } } }]).getD 1 State.reset; let n : Nat := 1; let tag : Nat := 3; let x : MemberConvoy := ((findShare s (.core n) tag).getD ({ tag := 0, ctx := 0 })); let m := Member.core n; let turn : Nat → Bool := fun sub => (cvyPkt s m sub tag).all (portTurn s n); findShare s (.core n) tag = some x ∧ turn 0x05 = false) ∧
    (let s : State := (mS ++ [{ base with fab := { base.fab with cvy := { base.fab.cvy with a := 0, b := 0 } } }]).getD 0 State.reset; let n : Nat := 0; let tag : Nat := 1; let x : MemberConvoy := ((findShare s (.core n) tag).getD ({ tag := 0, ctx := 0 })); let m := Member.core n; findShare s (.core n) tag = some x ∧ nextApply s m = none) ∧
    (let s : State := (mS ++ [{ base with fab := { base.fab with cvy := { base.fab.cvy with a := 0, b := 0 } } }]).getD 0 State.reset; let n : Nat := 1; let tag : Nat := 1; let x : MemberConvoy := ((findShare s (.core n) tag).getD ({ tag := 0, ctx := 0 })); let m := Member.core n; let y : MemberConvoy := ((nextApply s m).getD ({ tag := 0, ctx := 0 })); findShare s (.core n) tag = some x ∧ nextApply s m = some y) ∧
    (let s : State := (mS ++ [{ base with fab := { base.fab with cvy := { base.fab.cvy with a := 0, b := 0 } } }]).getD 0 State.reset; let n : Nat := 0; let tag : Nat := 3; let x : MemberConvoy := ((findShare s (.core n) tag).getD ({ tag := 0, ctx := 0 })); findShare s (.core n) tag = some x ∧ x.prepared = true ∧ x.commit = none ∧ pathLost s (homeOf tag) = false) ∧
    (let s : State := (mS ++ [{ base with fab := { base.fab with cvy := { base.fab.cvy with a := 0, b := 0 } } }]).getD 0 State.reset; let n : Nat := 0; let tag : Nat := 130; let x : MemberConvoy := ((findShare s (.core n) tag).getD ({ tag := 0, ctx := 0 })); findShare s (.core n) tag = some x ∧ x.prepared = true ∧ x.commit = none ∧ pathLost s (homeOf tag) = true) ∧
    (let s : State := (mS ++ [{ base with fab := { base.fab with cvy := { base.fab.cvy with a := 0, b := 0 } } }]).getD 0 State.reset; let n : Nat := 0; let tag : Nat := 1; let x : MemberConvoy := ((findShare s (.core n) tag).getD ({ tag := 0, ctx := 0 })); findShare s (.core n) tag = some x ∧ (x.prepared = false ∨ x.commit.isSome = true)) ∧
    (let s : State := (mS ++ [{ base with fab := { base.fab with cvy := { base.fab.cvy with a := 0, b := 0 } } }]).getD 0 State.reset; let n : Nat := 0; let tag : Nat := 99; let m := Member.core n; findShare s (.core n) tag = none ∧ (cvyPkt s m 0x01 tag).all (portTurn s n) = true) ∧
    (let s : State := (mS ++ [{ base with fab := { base.fab with cvy := { base.fab.cvy with a := 0, b := 0 } } }]).getD 0 State.reset; let n : Nat := 0; let tag : Nat := 99; let m := Member.core n; findShare s (.core n) tag = none ∧ (cvyPkt s m 0x04 tag).all (portTurn s n) = true) ∧
    (let s : State := (mS ++ [{ base with fab := { base.fab with cvy := { base.fab.cvy with a := 0, b := 0 } } }]).getD 0 State.reset; let n : Nat := 0; let tag : Nat := 99; let m := Member.core n; findShare s (.core n) tag = none ∧ (cvyPkt s m 0x05 tag).all (portTurn s n) = true) ∧
    (let s : State := (mS ++ [{ base with fab := { base.fab with cvy := { base.fab.cvy with a := 0, b := 0 } } }]).getD 7 State.reset; hubMay s.pwr.pl.toNat s.fab.cvy 5 = false) := by
  refine ⟨?_, ?_, ?_, ?_, ?_, ?_, ?_, ?_, ?_, ?_, ?_, ?_, ?_, ?_, ?_, ?_, ?_, ?_, ?_, ?_, ?_, ?_, ?_⟩ <;> decide +kernel
end Members

namespace Stopped
def recsIn : List ActionRecord := [okRec 1 3, recd 0x07 1 0 1 0 [0,0,0,0] 0 3 1, recd 0x12 0x3FF 0 1 0 [] 0 3 0, okRec 9 3, recd 0x07 1 0 1 0 [0,0,0,0] 1 3 0, recd 0x07 1 0 1 0 [] 0 3 0]
/-- Clauses 23, 24 of MembersPrepareCommitAndApply. -/
theorem test_MembersPrepareCommitAndApply_23 :
    (let s : State := mS.getD 0 State.reset; let mid : Nat := 5; let r : ActionRecord := recsIn.getD 0 { header := 0 }; let may := mid = 6 ∨ mid = 0xA ∨ mid = 0xB; hubMay s.pwr.pl.toNat s.fab.cvy 5 = true ∧ (¬may ∨ aTdev r ≠ devNo s)) ∧
    (let s : State := mS.getD 0 State.reset; let mid : Nat := 6; let r : ActionRecord := recsIn.getD 0 { header := 0 }; let v := unitCycles s 5 1; let ctx := ctxOfRecord v r; let may := mid = 6 ∨ mid = 0xA ∨ mid = 0xB; hubMay s.pwr.pl.toNat s.fab.cvy 5 = true ∧ may ∧ aTdev r = devNo s ∧ homeOf (aTag r) = devNo s ∧ (aTcore r = 0x3FF ∨ boundTo s ctx (aTcore r) = true)) := by
  refine ⟨?_, ?_⟩ <;> decide +kernel
end Stopped

namespace Messages
def kept (c : Core) (m : Nat) : Core := { c with q := { c.q with msgs := (List.range m).map fun i => { queue := 1, slot := 8 + i, kind := 0, chain := { entry := qEntry 1, isReq := true } } } }
def cr (sub q : Nat) (cgen pay : Nat := 0) (ctx : Nat := 1) (gen : Nat := 2) (core : Nat := 9) : Packet := mkPkt 7 0 0 1 0 0 (srcWord 0 core 0) (q * 256 + cgen) ctx gen sub pay 3
def nk (q cgen : Nat) (st ty : Nat) (mid : Nat := 0) (dest : Nat := 1) (ctx gen : Nat) (dropped : Nat := 0) : Packet := mkPkt 5 0 0 dest 0 0 (msgSrc false 0 9 0 mid) (q * 2 ^ 8 + cgen) ctx gen 0 (st * 2 ^ 24 + dropped * 2 ^ 23 + ty) 3
def ms : List Packet := [msg 4 1 1, msg 4 1 1 (len := 40), msg 4 1 1 (len := 40) (land := 31), msg 4 1 2, msg 4 1 1 (score := 8), msg 4 4 1 (chn := 0), msg 4 2 1 (reply := true), msg 4 2 1 (reply := true) (score := 9) (chn := 0), msg 4 9 1, msg 4 1 1 (gen := 3), msg 4 1 1 (ctx := 2), msg 8 3 1 (sub := 0), msg 8 3 1 (sub := 32), msg 8 3 2, msg 4 4 1 (mid := 0xE), msg 4 4 1 (mid := 1) (score := 0x3FF), cr 1 1 1, cr 1 5 3, cr 1 0 3, cr 1 1 9, cr 1 12 1, nk 0 3 0x34 4 0 1 1 2, nk 0 3 0x33 4 0 1 1 2, nk 3 3 0x32 8 0 1 1 2, nk 9 3 0x35 7 0 1 1 2, nk 4 3 0x35 7 0 1 1 2, nk 5 3 0x35 0 0 1 1 2 1, nk 0 3 0x34 4 8 0x3FF 1 2, nk 0 3 0x34 4 0 0x3FF 1 2, nk 3 3 0x34 4 1 0x3FF 1 2, nk 0 3 0x35 6 6 0x3FF 1 2, nk 0 3 0x35 6 3 0x3FF 1 2, nk 200 4 0x35 7 0 1 1 2]
def cores : List Core := [qc, kept qc 1, kept qc 4, setQState qc 1 2, { qc with q := { qc.q with draining := [(4, false), (1, true)] } }, { qc with hnd := { qc.hnd with wait := .credit 1 2, run := true } }, { qc with q := { qc.q with lists := [(3, [BitVec.ofNat 32 (9 * 2^13)])], listed := [(3, 1)] } }]
def qs : List Fetched := [cmd 1 (man 0x20 1 [0x0, 7] (tobj := 1) (tcore := 1)), cmd 2 (man 0x20 2 [0x0, 7] (tobj := 1) (tcore := 3)), cmd 3 (man 0x20 2 [0x1, 7] (tobj := 4) (tcore := 3))]
def mS : List State := cores.flatMap fun c => [{ withCmds row0 qs with cores := [(1, c), (3, { qc with ctx := 2, gen := 1 })] }, { withCmds row0 qs with cores := [(1, { c with arrived := ms.reverse }), (3, { bound := true, ctx := 2, gen := 1 })], fab := { row0.fab with hub := ms } }]
/-- Clauses 0, 1, 2, 3, 6, 7, 8, 9, 10, 11, 12, 14, 15 of MessagesLandOrAreRefused. -/
theorem test_MessagesLandOrAreRefused :
    (let s : State := mS.getD 1 State.reset; let n : Nat := 1; let pkt : Packet := ms.getD 0 { head := 0 }; portTurn s n pkt = false ∧ toHubNack pkt = false) ∧
    (let s : State := mS.getD 0 State.reset; let n : Nat := 1; let pkt : Packet := ms.getD 3 { head := 0 }; let u := portDone s n pkt; let c := getCore u n; let v := envOf u n; let st : Status := 50; portTurn s n pkt = true ∧ (customs v c pkt = some (st, false))) ∧
    (let s : State := mS.getD 0 State.reset; let n : Nat := 1; let pkt : Packet := ms.getD 2 { head := 0 }; let u := portDone s n pkt; let c := getCore u n; let v := envOf u n; let st : Status := 32; portTurn s n pkt = true ∧ (customs v c pkt = some (st, true))) ∧
    (let s : State := mS.getD 0 State.reset; let n : Nat := 1; let pkt : Packet := ms.getD 0 { head := 0 }; let u := portDone s n pkt; let c := getCore u n; let v := envOf u n; let k : Nat := 0; portTurn s n pkt = true ∧ customs v c pkt = none ∧ typ pkt ≠ 8 ∧ freeSlotOf c (mQueue pkt) = some k) ∧
    (let s : State := mS.getD 0 State.reset; let n : Nat := 1; let pkt : Packet := ms.getD 32 { head := 0 }; let u := portDone s n pkt; let c := getCore u n; let r := chan c (mQueue pkt); portTurn s n pkt = true ∧ (sameCtx c pkt = false ∨ chState r = 0 ∨ chPcgen r ≠ mCgen pkt) ∧ toHubNack pkt = false ∧ returnsEvent pkt = false ∧ closeBack c pkt = false) ∧
    (let s : State := mS.getD 0 State.reset; let n : Nat := 1; let pkt : Packet := ms.getD 21 { head := 0 }; portTurn s n pkt = true ∧ toHubNack pkt = false ∧ returnsEvent pkt = false) ∧
    (let s : State := mS.getD 0 State.reset; let n : Nat := 1; let pkt : Packet := ms.getD 0 { head := 0 }; portTurn s n pkt = true ∧ toHubNack pkt = false ∧ returnsEvent pkt = true) ∧
    (let s : State := mS.getD 0 State.reset; let pkt : Packet := ms.getD 27 { head := 0 }; toHubNack pkt = true ∧ fld pkt.head 67 64 = 8) ∧
    (let s : State := mS.getD 0 State.reset; let pkt : Packet := ms.getD 28 { head := 0 }; toHubNack pkt = true ∧ fld pkt.head 67 64 ≤ 1) ∧
    (let s : State := mS.getD 0 State.reset; let pkt : Packet := ms.getD 30 { head := 0 }; toHubNack pkt = true ∧ fld pkt.head 67 64 = 6) ∧
    (let s : State := mS.getD 0 State.reset; let pkt : Packet := ms.getD 31 { head := 0 }; toHubNack pkt = true ∧ 1 < fld pkt.head 67 64 ∧ fld pkt.head 67 64 ≠ 6 ∧ fld pkt.head 67 64 ≠ 8) ∧
    (let s : State := mS.getD 1 State.reset; let h : Nat := 2; let f : Fetched := (s.hif.fetched).getD 1 (cmd 0 0); let m := hostMsg s f; let open_ := kindOk (qEnt (getCore s (dcore m)) (mQueue m)) m; let stopped := (getShard s (mCtx f.manifest)).state = .stopped; MayRun s h 0x20 f ∧ txnBusy s h = false ∧ stopped ∧ open_ = false) ∧
    (let s : State := mS.getD 0 State.reset; let h : Nat := 1; let f : Fetched := (s.hif.fetched).getD 0 (cmd 0 0); let m := hostMsg s f; let open_ := kindOk (qEnt (getCore s (dcore m)) (mQueue m)) m; let stopped := (getShard s (mCtx f.manifest)).state = .stopped; MayRun s h 0x20 f ∧ txnBusy s h = false ∧ (¬stopped ∨ open_ = true)) := by
  refine ⟨?_, ?_, ?_, ?_, ?_, ?_, ?_, ?_, ?_, ?_, ?_, ?_, ?_⟩ <;> (try unfold MayRun) <;> decide +kernel
end Messages

namespace Tallies
def nk (q cgen st ty : Nat) : Packet := mkPkt 5 0 0 1 0 0 (msgSrc false 0 9 0) (q * 2 ^ 8 + cgen) 1 2 0 (st * 2 ^ 24 + ty) 3
def tc : Core := { qc with ldm := nset 0 (nset 0 qc.ldm (tallyList (qEnt qc 3)) (BitVec.ofNat 8 0)) 0 0, q := { qc.q with listed := [(3, 1)], lists := [] } }
def tcl : Core := ldmSet tc (tallyList (qEnt tc 3)) 4 (9 * 2 ^ 8 + 3)
def ms2 : List Packet := [msg 8 3 1 (sub := 0), nk 1 1 stLinkDown.toNat 7]
def mT : List State := [{ row0 with cores := [(1, tcl)] }, { row0 with cores := [(1, { tcl with arrived := [ms2.getD 0 {head:=0}] })] }, { row0 with cores := [(1, setQState qc 1 2)] }, { withCmds row0 [{ cmd 1 (man 0x20 1) with begun := true, taken := true }] with cores := [] }]
/-- Clauses 4, 5, 13 of MessagesLandOrAreRefused. -/
theorem test_MessagesLandOrAreRefused_4 :
    (let s : State := mT.getD 0 State.reset; let n : Nat := 1; let pkt : Packet := ms2.getD 0 { head := 0 }; let u := portDone s n pkt; let c := getCore u n; let v := envOf u n; portTurn s n pkt = true ∧ customs v c pkt = none ∧ typ pkt = 8) ∧
    (let s : State := mT.getD 2 State.reset; let n : Nat := 1; let pkt : Packet := ms2.getD 1 { head := 0 }; let u := portDone s n pkt; let c := getCore u n; let r := chan c (mQueue pkt); portTurn s n pkt = true ∧ (sameCtx c pkt = false ∨ chState r = 0 ∨ chPcgen r ≠ mCgen pkt) ∧ toHubNack pkt = false ∧ returnsEvent pkt = false ∧ closeBack c pkt = true) ∧
    (let s : State := mT.getD 3 State.reset; let h : Nat := 1; txnBusy s h = true) := by
  refine ⟨?_, ?_, ?_⟩ <;> decide +kernel
end Tallies

namespace Notices
def nt (sub ctx gen pay : Nat) (core : Nat := 1) : Packet := mkPkt 0xC 0 0 1 0 0 (srcWord 0 core 0) 7 ctx gen sub pay 5
def nts : List Packet := [nt 1 1 2 5, nt 1 0 3 9, nt 1 2 1 8, nt 1 1 3 5, nt 1 60 0 5, nt 1 1 2 6 9] ++ [{ nt 1 1 2 5 with flits := [1 + 0x0700 + 0x12340000] }, { nt 1 1 2 5 with flits := [60] }]
def nS : List State := let s := { row0 with fab := { row0.fab with hub := nts } }
  [s, { s with mgmt := { s.mgmt with restarting := true } }, { s with shards := s.shards.map fun p => (p.1, { p.2 with notices := [{ status := stTimeout, result := 5, payload := 1 }] }) }]
/-- Clauses 0, 1, 2, 3, 4, 5, 6 of NoticesReachTheirContexts. -/
theorem test_NoticesReachTheirContexts :
    (let s : State := nS.getD 1 State.reset; let waits := s.mgmt.restarting = true ∧ s.mgmt.notices.length < 256; waits) ∧
    (let s : State := nS.getD 0 State.reset; let pkt : Packet := nts.getD 0 { head := 0 }; let ctx := pctx pkt; let own := (getShard s ctx).state ≠ .free ∧ genOf s ctx = pgen pkt; let waits := s.mgmt.restarting = true ∧ s.mgmt.notices.length < 256; (¬waits) ∧ own) ∧
    (let s : State := nS.getD 0 State.reset; let pkt : Packet := nts.getD 3 { head := 0 }; let ctx := pctx pkt; let own := (getShard s ctx).state ≠ .free ∧ genOf s ctx = pgen pkt; let waits := s.mgmt.restarting = true ∧ s.mgmt.notices.length < 256; (¬waits) ∧ (¬own) ∧ genOf s ctx ≠ pgen pkt) ∧
    (let s : State := nS.getD 0 State.reset; let pkt : Packet := nts.getD 7 { head := 0 }; let waits := s.mgmt.restarting = true ∧ s.mgmt.notices.length < 256; let c := fld (resetFlit pkt) 7 0 % 64; (¬waits) ∧ (getShard s c).state = .free) ∧
    (let s : State := nS.getD 0 State.reset; let pkt : Packet := nts.getD 0 { head := 0 }; let waits := s.mgmt.restarting = true ∧ s.mgmt.notices.length < 256; let c := fld (resetFlit pkt) 7 0 % 64; (¬waits) ∧ (getShard s c).state ≠ .free) ∧
    (let s : State := nS.getD 0 State.reset; let k : Nat := 0; k < 64 ∧ ((getShard s k).notices = [])) ∧
    (let s : State := nS.getD 2 State.reset; let k : Nat := 0; let x : Notice := ((s.shards.flatMap fun p => p.2.notices)).getD 0 { status := 0, result := 0, payload := 0 }; k < 64 ∧ ((getShard s k).notices = [x]) ∧ s.mgmt.restarting = false ∧ cqRoom s (getShard s k).noticeCq.toNat 1 = true) := by
  refine ⟨?_, ?_, ?_, ?_, ?_, ?_, ?_⟩ <;> decide +kernel
end Notices

namespace Outrider
def ss : List State := (phs.flatMap fun p => (more (bc p)).map mk)
def dr (t : Nat) (burst cnt tag : Nat) (edge : Nat := 0) (kind : Nat := 0) (gen : Nat := 2) (cls : Nat := 1) (ue : List Nat := []) (flits : List (BitVec 256) := []): Packet := { mkPkt t 2 0 1 0 (edge * 16 + kind) (BitVec.ofNat 32 burst) tag 1 gen (cnt - 1) 0 cls 0xB flits with ue := ue }
def fl (n : Nat) : List (BitVec 256) := (List.range n).map fun i => BitVec.ofNat 256 (i + 5)
def drs : List Packet := [dr 0xA 300 3 1, dr 0xA 301 20 1 1, dr 0xB 300 2 1 (flits := fl 4), dr 0xB 300 2 7 (flits := fl 4), dr 0xB 300 2 7 (gen := 3) (flits := fl 4), dr 0xB 302 1 7 (flits := fl 2) (ue := [302]), dr 0xB 100 1 9 (kind := 3) (flits := fl 2) (cls := 5)]
def rd (s : State) : State := modCore s 1 fun c => { c with syn := { c.syn with reads := [{ tag := 7, what := .prefetch, edge := false, burst := 300, count := 3 }, { tag := 9, what := .pen, edge := false, burst := 100, count := 1 }] }, arrived := [drs.getD 3 { head := 0 }, drs.getD 4 { head := 0 }, drs.getD 5 { head := 0 }] }
def ts : State → State := fun s => { s with fab := { s.fab with lanes := drs, buf := [(bufKey 34 0 1, [{ pkt := dr 0 3 1 1 }]), (bufKey 34 4 2, [{ pkt := drs.getD 2 { head := 0 } }]), (bufKey 34 4 0, [{ pkt := mkPkt 7 0 0 1 0 0 0 0x3 1 2 0x0B 7 4 }])] } }
def oS := ss.map rd ++ ss.map ts ++ [{ ts (mk (bc .waiting)) with ddrDone := false }, { ts (mk (bc .waiting)) with pwr := { row0.pwr with pfail := true } }] ++ (ss.take 11).map fun s => ts { s with fab := { s.fab with off := [bufKey 34 4 2] } }
/-- Clauses 0, 1, 2, 3, 4, 5, 6, 7 of OutriderDepotAndWaystation. -/
theorem test_OutriderDepotAndWaystation :
    (let s : State := (oS.take 80).getD 77 State.reset; let pkt : Packet := drs.getD 2 { head := 0 }; (s.ddrDone = false ∨ ddrReady s pkt = false)) ∧
    (let s : State := (oS.take 80).getD 0 State.reset; let pkt : Packet := drs.getD 0 { head := 0 }; s.ddrDone = true ∧ ddrReady s pkt = true) ∧
    (let s : State := (oS.take 80).getD 0 State.reset; let n : Nat := 1; let pkt : Packet := drs.getD 0 { head := 0 }; portTurn s n pkt = false) ∧
    (let s : State := (oS.take 80).getD 77 State.reset; let n : Nat := 1; let pkt : Packet := drs.getD 4 { head := 0 }; let c := getCore s n; portTurn s n pkt = true ∧ (c.bound = false ∨ c.ctx ≠ pctx pkt ∨ c.gen.toNat ≠ pgen pkt)) ∧
    (let s : State := (oS.take 80).getD 0 State.reset; let n : Nat := 1; let pkt : Packet := drs.getD 3 { head := 0 }; let c := getCore s n; portTurn s n pkt = true ∧ c.bound = true ∧ c.ctx = pctx pkt ∧ c.gen.toNat = pgen pkt) ∧
    (let s : State := (oS.take 80).getD 0 State.reset; let tile : Nat := 34; let port : Nat := 0; let vc : Nat := 0; (nget [] s.fab.buf (bufKey tile port vc) = [])) ∧
    (let s : State := (oS.take 80).getD 77 State.reset; let pkt : Packet := drs.getD 0 { head := 0 }; let tile : Nat := 34; let port : Nat := 0; let vc : Nat := 1; let flips : List Nat := []; let f : Flight := ((List.take 1 (nget [] s.fab.buf (bufKey tile port vc)))).getD 0 { pkt := { head := 0 } }; let rest : List Flight := (nget [] s.fab.buf (bufKey tile port vc)).tail; let k := entriesOf f.pkt; (nget [] s.fab.buf (bufKey tile port vc) = f :: rest) ∧ uncorrectable flips k = false) ∧
    (let s : State := (oS.take 80).getD 77 State.reset; let pkt : Packet := drs.getD 0 { head := 0 }; let tile : Nat := 34; let port : Nat := 0; let vc : Nat := 1; let flips : List Nat := [3,4]; let f : Flight := ((List.take 1 (nget [] s.fab.buf (bufKey tile port vc)))).getD 0 { pkt := { head := 0 } }; let rest : List Flight := (nget [] s.fab.buf (bufKey tile port vc)).tail; let k := entriesOf f.pkt; (nget [] s.fab.buf (bufKey tile port vc) = f :: rest) ∧ uncorrectable flips k = true) := by
  refine ⟨?_, ?_, ?_, ?_, ?_, ?_, ?_, ?_⟩ <;> decide +kernel
end Outrider

namespace Pace
def tm : State := { row0 with tmr := [(2, { mode := .pace, en := true, pctx := 1, count := 4 }), (3, { mode := .pace, en := true, pctx := 2 })], shards := [(1, { state := .running, gen := 2, w := 4, paced := true, timer := some 2, pacedSet := true, p := 10, o := 1, t0 := 5, nextRel := 2, changes := [⟨5, 40, 7, 0⟩] }), (2, { state := .stopped, w := 3, paced := true, timer := some 3 }), (3, { state := .stopped, w := 3, paced := true })] }
def pcm (h ctx : Nat) (i : Nat) : Fetched := cmd h (man 0x11 ctx [i, 10, 0, 3, 0, 5, 0])
def d1 : List State := [withCmds tm [pcm 1 2 2, pcm 2 2 3, pcm 3 2 4, pcm 4 3 4, pcm 5 3 2], { tm with tmr := [(2, {mode := .pace, en := true, pctx := 1, tb := 26})]}, { tm with tmr := [(2, {mode := .pace, en := true, pctx := 1, tb := 600})]}]
/-- Clauses 0, 1, 2 of PaceSetAndRelease. -/
theorem test_PaceSetAndRelease :
    (let s : State := d1.getD 0 State.reset; let h : Nat := 1; let f : Fetched := (s.hif.fetched).getD 0 (cmd 0 0); let m := f.manifest; let ctx := mCtx m; let i := mw m 0 % 32; let taken := ((getTmr s i).mode = .pace ∧ (getTmr s i).pctx.toNat ≠ ctx) ∨ timerBound s i ctx = true; MayRun s h 0x11 f ∧ taken) ∧
    (let s : State := d1.getD 0 State.reset; let h : Nat := 2; let f : Fetched := (s.hif.fetched).getD 1 (cmd 0 0); let m := f.manifest; let ctx := mCtx m; let i := mw m 0 % 32; let taken := ((getTmr s i).mode = .pace ∧ (getTmr s i).pctx.toNat ≠ ctx) ∨ timerBound s i ctx = true; MayRun s h 0x11 f ∧ (¬taken) ∧ ((∀ j, (getShard s ctx).timer = some j → j = i))) ∧
    (let s : State := d1.getD 1 State.reset; let ctx : Nat := 1; let k : Nat := 2; nextRelease s ctx = some k) := by
  refine ⟨?_, ?_, ?_⟩ <;> (try unfold MayRun) <;> decide +kernel
end Pace

namespace Ports
def sts : List PortState := [.disabled, .detect, .trainEq, .align, .param, .active, .retrain, .lpi, .down, .miswired]
def po (st : PortState) : Port := { state := st, en := true, retry := [{ seq := 1, frame := mkFrame 0x1000 [], packets := [pk 0 1 0 0 5 1 2], replays := 8 }], tx := [(2, [pk 0 1 0 2 5 1 2]), (4, [pk 9 2 4 2 3 1 2, pk 9 2 16 2 3 1 2])], nextSeq := 5, lastGood := 7, rx := [(2, [pk 0 1 0 0 5 1 2, pk 0 1 0 0 6 1 2]), (4, [pk 9 2 4 0 3 1 2]), (0, [pk 7 0 0 0 3 4 1, pk 7 0 0 2 3 1 2])], retraining := st == .retrain || st == .align, laneUe := [(3, 4)], lanes := 0xFFFF }
def mk (x : Nat) (p : Nat) (po : Port) : State := { row0 with shape := shp x, ports := nset {} (List.range 6 |>.map fun q => (q, { state := .active, en := true })) p po }
def s1 : List State := (sts.flatMap fun st => [mk 0 0 (po st), mk 0 3 { po st with wakeEn := false }, mk 1 0 { po st with fe := true, en := false }]) ++ [mk 0 3 { po .lpi with wakeEn := false}] 
/-- Clauses 0, 1, 2, 3, 4, 5, 6, 7, 8, 9, 10, 11, 12, 13, 14, 15, 16, 17, 18 of PortStatesFollowTheTraining. -/
theorem test_PortStatesFollowTheTraining :
    (let s : State := s1.getD 3 State.reset; let p : Nat := 0; let x := getPort s p; p < 6 ∧ x.state = .detect) ∧
    (let s : State := s1.getD 0 State.reset; let p : Nat := 0; let x := getPort s p; p < 6 ∧ x.state ≠ .detect) ∧
    (let s : State := s1.getD 6 State.reset; let p : Nat := 0; let x := getPort s p; p < 6 ∧ x.state = .trainEq) ∧
    (let s : State := s1.getD 0 State.reset; let p : Nat := 0; let x := getPort s p; p < 6 ∧ x.state ≠ .trainEq) ∧
    (let s : State := s1.getD 9 State.reset; let p : Nat := 0; let x := getPort s p; p < 6 ∧ (x.state = .align ∨ x.state = .retrain)) ∧
    (let s : State := s1.getD 0 State.reset; let p : Nat := 0; let x := getPort s p; p < 6 ∧ x.state ≠ .align ∧ x.state ≠ .retrain) ∧
    (let s : State := s1.getD 12 State.reset; let p : Nat := 0; let x := getPort s p; p < 6 ∧ x.state = .param) ∧
    (let s : State := s1.getD 0 State.reset; let p : Nat := 0; let x := getPort s p; p < 6 ∧ x.state ≠ .param) ∧
    (let s : State := s1.getD 27 State.reset; let p : Nat := 0; let x := getPort s p; p < 6 ∧ x.state = .miswired) ∧
    (let s : State := s1.getD 0 State.reset; let p : Nat := 0; let x := getPort s p; p < 6 ∧ x.state ≠ .miswired) ∧
    (let s : State := s1.getD 9 State.reset; let p : Nat := 0; let x := getPort s p; p < 6 ∧ x.retraining = true ∧ runs x = true) ∧
    (let s : State := s1.getD 0 State.reset; let p : Nat := 0; let x := getPort s p; p < 6 ∧ x.retraining = false) ∧
    (let s : State := s1.getD 24 State.reset; let p : Nat := 0; let x := getPort s p; let ends (t : State) (st : PortState) : Prop := (getPort t p).state = st ∧ ∀ k, k ≠ p → getPort t k = getPort s k; let down (t : State) : Prop := ends t .down ∧ (getPort t p).retry = [] ∧ (getPort t p).tx = [] ∧ (getPort t p).nextSeq = 1; p < 6 ∧ x.en = true ∧ x.state = .down) ∧
    (let s : State := s1.getD 0 State.reset; let p : Nat := 0; let x := getPort s p; let ends (t : State) (st : PortState) : Prop := (getPort t p).state = st ∧ ∀ k, k ≠ p → getPort t k = getPort s k; let down (t : State) : Prop := ends t .down ∧ (getPort t p).retry = [] ∧ (getPort t p).tx = [] ∧ (getPort t p).nextSeq = 1; p < 6 ∧ (x.en = false ∨ x.state ≠ .down)) ∧
    (let s : State := s1.getD 0 State.reset; let p : Nat := 3; let x := getPort s p; p < 6 ∧ runs x = true) ∧
    (let s : State := s1.getD 0 State.reset; let p : Nat := 0; let x := getPort s p; p < 6 ∧ runs x = false) ∧
    (let s : State := s1.getD 21 State.reset; let p : Nat := 0; let x := getPort s p; let fromPeer : Bool := false; p < 6 ∧ x.state = .lpi ∧ (fromPeer = false ∨ x.wakeEn = false)) ∧
    (let s : State := s1.getD 21 State.reset; let p : Nat := 0; let x := getPort s p; p < 6 ∧ x.state = .lpi ∧ x.wakeEn = true) ∧
    (let s : State := s1.getD 0 State.reset; let p : Nat := 0; let x := getPort s p; p < 6 ∧ x.state ≠ .lpi) := by
  refine ⟨?_, ?_, ?_, ?_, ?_, ?_, ?_, ?_, ?_, ?_, ?_, ?_, ?_, ?_, ?_, ?_, ?_, ?_, ?_⟩ <;> decide +kernel
end Ports

namespace Registers
def fe (ls : List Line) : List Packet := [mkPkt 0xD 2 0 0 0 0 0 0 0 0 4 0 4 0xA (ls.flatMap fun l => [l.extractLsb' 0 256, l.extractLsb' 256 256])]
def rS : List State := do
  let b ← [Boot.ready, .off]
  let lk ← [true, false]
  let bz ← [true, false]
  [{ small with boot := b, glb := { small.glb with locked := lk }, sdio := { small.sdio with busy := bz, raddr := 0x100000 }, fab := { small.fab with ce := 5, ue := 6, badPkt := 7, absent := 8 }, sec := { small.sec with level := 2 } }]
/-- Clauses 0, 1, 2, 3, 4, 5, 6, 7, 8, 9, 10, 11, 12, 13, 14 of RegistersAreReadAndWritten. -/
theorem test_RegistersAreReadAndWritten :
    (let s : State := rS.getD 4 State.reset; s.boot = .off) ∧
    (let s : State := rS.getD 0 State.reset; let mid : Nat := 7; s.boot ≠ .off ∧ 4 < mid) ∧
    (let s : State := rS.getD 0 State.reset; let mid : Nat := 0; let a : Nat := 0; let n : Nat := 1; s.boot ≠ .off ∧ mid ≤ 4 ∧ a < bar2 ∧ 1 ≤ n ∧ n < 4 ∧ (a % 4 + n ≤ 4)) ∧
    (let s : State := rS.getD 0 State.reset; let mid : Nat := 0; let a : Nat := 1052672; s.boot ≠ .off ∧ mid ≤ 4 ∧ a < bar2 ∧ (a % 4 = 0) ∧ (is64 (a / 8 * 8) = true)) ∧
    (let s : State := rS.getD 0 State.reset; let mid : Nat := 0; let a : Nat := 0; s.boot ≠ .off ∧ mid ≤ 4 ∧ a < bar2 ∧ (a % 4 = 0) ∧ (is64 (a / 8 * 8) = false) ∧ (is64 ((a + 4) / 8 * 8) = false)) ∧
    (let s : State := rS.getD 0 State.reset; let mid : Nat := 0; let a : Nat := 0; let n : Nat := 1; s.boot ≠ .off ∧ mid ≤ 4 ∧ a < bar2 ∧ 1 ≤ n ∧ (a % 4 + n ≤ 4) ∧ (assigned s (a / 4 * 4) = true) ∧ (reaches s mid (a / 4 * 4) = true) ∧ blockOf a < 16) ∧
    (let s : State := rS.getD 0 State.reset; let mid : Nat := 0; let a : Nat := 16; let n : Nat := 1; s.boot ≠ .off ∧ mid ≤ 4 ∧ 1 ≤ n ∧ n ≤ 8 ∧ (a + n ≤ bar2) ∧ ((∀ w, a / 4 ≤ w → w ≤ (a + n - 1) / 4 → assigned s (4 * w) = false))) ∧
    (let s : State := rS.getD 0 State.reset; let core : Nat := 5; let off : Nat := 0; core < 1024 ∧ off < 0x4000 ∧ present s core = false) ∧
    (let s : State := rS.getD 0 State.reset; let mid : Nat := 0; let k : Nat := 0; s.boot ≠ .off ∧ mid < 4 ∧ k < 256 ∧ s.glb.locked = true) ∧
    (let s : State := rS.getD 2 State.reset; let mid : Nat := 0; let k : Nat := 0; s.boot ≠ .off ∧ mid < 4 ∧ k < 256 ∧ s.glb.locked = false) ∧
    (let s : State := rS.getD 0 State.reset; s.boot ≠ .off) ∧
    (let s : State := rS.getD 0 State.reset; s.boot ≠ .off ∧ (s.sdio.busy = true ∨ s.sdio.cmpl = true)) ∧
    (let s : State := rS.getD 1 State.reset; s.boot ≠ .off ∧ s.sdio.busy = false ∧ s.sdio.cmpl = false) ∧
    (let s : State := rS.getD 0 State.reset; let run : List Packet := fe [man 0x20 1]; let ls := bytesLines (flitBytes (run.flatMap fun p => p.flits)); let m := ls.headD 0; (ls ≠ []) ∧ mOp m ≠ 0x19) ∧
    (let s : State := rS.getD 0 State.reset; let run : List Packet := fe [man 0x19 0 [] (bales := 1) (timeout := 1), 5]; let ls := bytesLines (flitBytes (run.flatMap fun p => p.flits)); let m := ls.headD 0; let bs := (ls.drop 1).take (mBales m); (ls ≠ []) ∧ mOp m = 0x19 ∧ manifestCheck s m bs = none ∧ resetCheck s m = none) := by
  refine ⟨?_, ?_, ?_, ?_, ?_, ?_, ?_, ?_, ?_, ?_, ?_, ?_, ?_, ?_, ?_⟩ <;> decide +kernel
end Registers

namespace Resets
def small : State := { row0 with remap := [(0, [0,1,2,3])], shards := [(0, { state := .stopped, gen := 3, w := 4 })], ports := [(0, { en := true, state := .active })], tmr := [(0, { mode := .pace }), (1, {})] }
def rS : List State := do
  let b ← [Boot.off, .coldPending, .warmPending, .training, .ready, .stopped, .defective]
  let lc ← [0, 1, 3, 5]
  let ps ← [PowerState.s0, .s4]
  [{ small with boot := b, nv := { small.nv with lcState := lc, keep := [(0, { writing := true, marker := 1 })] }, pwr := { small.pwr with state := ps }, sec := { small.sec with jtag := if lc = 1 then .extest else .bypass }, glb := { small.glb with cause := 8 } }]
/-- Clauses 0, 1, 2 of ResetsBindTheMailboxes. -/
theorem test_ResetsBindTheMailboxes :
    (let s : State := rS.getD 10 State.reset; s.boot ≠ .off ∧ s.sec.jtag = .extest) ∧
    (let s : State := rS.getD 16 State.reset; s.boot ≠ .off ∧ s.boot ≠ .coldPending) ∧
    (let s : State := rS.getD 24 State.reset; s.boot ≠ .off ∧ s.boot ≠ .coldPending ∧ s.boot ≠ .warmPending) := by
  refine ⟨?_, ?_, ?_⟩ <;> decide +kernel
/-- Clauses 0, 1, 2, 3, 4, 5, 6, 7 of ResetsLeaveWhatTheyKeep. -/
theorem test_ResetsLeaveWhatTheyKeep :
    (let s : State := rS.getD 0 State.reset; s.boot = .off ∧ s.pwr.state ≠ .s4) ∧
    (let s : State := rS.getD 1 State.reset; (s.boot ≠ .off ∨ s.pwr.state = .s4)) ∧
    (let s : State := rS.getD 0 State.reset; s.boot = .off) ∧
    (let s : State := rS.getD 8 State.reset; s.boot ≠ .off) ∧
    (let s : State := rS.getD 0 State.reset; s.boot ≠ .training) ∧
    (let s : State := rS.getD 24 State.reset; s.boot = .training) ∧
    (let s : State := rS.getD 0 State.reset; (s.boot = .off ∨ s.boot = .coldPending)) ∧
    (let s : State := rS.getD 16 State.reset; s.boot ≠ .off ∧ s.boot ≠ .coldPending) := by
  refine ⟨?_, ?_, ?_, ?_, ?_, ?_, ?_, ?_⟩ <;> decide +kernel
end Resets

namespace Results
def rp (i w core sbase slots piece : Nat) (ctx gen : Nat) : Packet := mkPkt 9 2 0 0x3FF 0 0 (srcWord 0 core 0) w ctx gen 1 0 5 0x8 [BitVec.ofNat 256 (w + core * 2^32 + sbase * 2^42 + (slots - 1) * 2^55 + i * 2^65 + piece * 2^71 + 77 * 2^128), 5]
def rpk : List Packet := [rp 9 5 1 0 4 0 1 2, rp 9 5 1 0 5 0 1 2, rp 9 5 1 0 4 0 1 3, rp 9 2 1 0 4 0 1 2, rp 9 5 2 16 4 0 1 2, rp 8 5 1 0 4 0 1 2, mkPkt 7 0 0 0x3FF 0 0 (srcWord 0 1 0) 9 1 2 3 17 5, mkPkt 7 0 0 0x3FF 0 0 (srcWord 0 1 0) 9 1 3 3 17 5]
def rs9 (held : List Record) (again : List (Nat × Record)) (dest : Nat) (parts : List (Word × Nat × List (Nat × Nat × Int)) := []) : ResultStream := { state := .running, ctx := 1, desc := BitVec.ofNat 64 (rDesc 9 (dest := dest) (cq := 9)), ranges := [BitVec.ofNat 64 (gRange 1 0 4)], held := held, again := again, lateWin := [7], win := 4, lastDec := 3, first := 0, parts := parts }
def r3 (w : Word) : Record := ⟨w, 0, [1,2,3,4,5,6,7,8], false, false⟩
def pts : List (Word × Nat × List (Nat × Nat × Int)) := [(5, 0, [(1, 2, 3), (0,0,0), (5,5,-3), (0,0,0)])]
def ks : List ResultStream := [rs9 [r3 3] [] 0, rs9 [r3 3] [] 1, rs9 [] [(9, r3 2)] 1, rs9 [r3 3] [(9, r3 2), (11, r3 1)] 1 pts, rs9 [] [] 0 pts, { rs9 [] [] 1 with state := .opened }]
def kS : List State := ks.map fun k => { row0 with results := [(9, k)], fab := { row0.fab with hub := rpk } }
/-- Clauses 0, 1, 2, 3, 4, 5, 6, 7, 8 of ResultsAreGatheredAndMarked. -/
theorem test_ResultsAreGatheredAndMarked :
    (let s : State := kS.getD 0 State.reset; let pkt : Packet := rpk.getD 1 { head := 0 }; let f : BitVec 256 := pkt.flits.headD 0; let i := fld f 70 65; let st := getRes s i; let w : Word := BitVec.ofNat 32 (fld f 31 0); let n := fld f 64 55 + 1; let here := (List.range st.ranges.length).find? fun k => gCore (st.ranges.getD k 0) == fld f 41 32 && gSbase (st.ranges.getD k 0) == fld f 54 42 && gSlots (st.ranges.getD k 0) == n; let wanted := st.state = .running ∧ st.ctx = pctx pkt ∧ ofShard s pkt = true ∧ stepLe st.first w = true ∧ stepLt st.lastDec w = true; (here = none ∨ ¬wanted)) ∧
    (let s : State := kS.getD 0 State.reset; let pkt : Packet := rpk.getD 0 { head := 0 }; let f : BitVec 256 := pkt.flits.headD 0; let i := fld f 70 65; let st := getRes s i; let w : Word := BitVec.ofNat 32 (fld f 31 0); let n := fld f 64 55 + 1; let here := (List.range st.ranges.length).find? fun k => gCore (st.ranges.getD k 0) == fld f 41 32 && gSbase (st.ranges.getD k 0) == fld f 54 42 && gSlots (st.ranges.getD k 0) == n; let wanted := st.state = .running ∧ st.ctx = pctx pkt ∧ ofShard s pkt = true ∧ stepLe st.first w = true ∧ stepLt st.lastDec w = true; let k : Nat := 0; here = some k ∧ wanted) ∧
    (let s : State := kS.getD 0 State.reset; let pkt : Packet := rpk.getD 2 { head := 0 }; ofShard s pkt = false) ∧
    (let s : State := kS.getD 0 State.reset; let pkt : Packet := rpk.getD 0 { head := 0 }; ofShard s pkt = true ∧ (nwf (fun _ => ({} : ResultStream)) s.results = true)) ∧
    (let s : State := kS.getD 0 State.reset; (nwf (fun _ => ({} : ResultStream)) s.results = true)) ∧
    (let s : State := kS.getD 0 State.reset; let i : Nat := 9; let w : Nat := 0; let st := getRes s i; let wd : Word := BitVec.ofNat 32 w; windowVector st wd = none) ∧
    (let s : State := kS.getD 3 State.reset; let i : Nat := 9; let w : Nat := 5; let st := getRes s i; let wd : Word := BitVec.ofNat 32 w; let xs : List (Nat × Nat × Int) := (let st := getRes s i; let wd : Word := BitVec.ofNat 32 w; (windowVector st wd).getD []); st.state = .running ∧ windowVector st wd = some xs ∧ (st.ranges ≠ [])) ∧
    (let s : State := kS.getD 1 State.reset; let i : Nat := 9; let st := getRes s i; rDest (getRes s i).desc = 1 ∧ (st.again ≠ [] ∨ st.held ≠ [])) ∧
    (let s : State := kS.getD 2 State.reset; let i : Nat := 9; let st := getRes s i; let t : Nat := 9; let r : Record := (((st.again).map fun z => z.2)).getD 0 { window := 0, header := 0, values := [], loss := false, late := false }; rDest (getRes s i).desc = 1 ∧ (st.again = [(t, r)]) ∧ (st.held = []) ∧ partsFit s st.desc r = true) := by
  refine ⟨?_, ?_, ?_, ?_, ?_, ?_, ?_, ?_, ?_⟩ <;> decide +kernel
end Results

namespace Streams
def inS : List (Nat × Ingest) := [(7, { state := .opened, ctx := 1, desc := iDesc 7 (period := 5) (acore := 1), outlist := [BitVec.ofNat 64 (lEnt 1)] }), (8, { state := .running, ctx := 1, desc := iDesc 8 (period := 5) (acore := 1), outlist := [BitVec.ofNat 64 (lEnt 1), BitVec.ofNat 64 (lEnt 2)], window := 3, done := 3, startF := 1, notices := [(1, 4), (2, 4)] }), (9, { state := .running, ctx := 1, desc := iDesc 9 (period := 5) (acore := 1), held := [⟨3, [1]⟩] }), (10, { state := .idle, ctx := 1 }), (11, { state := .running, ctx := 1, desc := iDesc 11 (period := 5) (acore := 2) (grace := 3) (enc := 1) (level := 2), outlist := [BitVec.ofNat 64 (lEnt 2)], window := 1, done := 1, startF := 0xFFFFFFFF })]
def pushes : List Fetched := [bcmd 1 0x19 1 [] [BitVec.ofNat 512 (3 + 500 * 2^64 + 8 * 2^128)] 8, bcmd 2 0x19 1 [] [BitVec.ofNat 512 (3 + 5 * 2^64)] 7, bcmd 3 0x19 1 [] [BitVec.ofNat 512 3] 9, bcmd 4 0x19 1 [] [BitVec.ofNat 512 3] 10,  bcmd 5 0x19 1 [] [BitVec.ofNat 512 3, 5, 9] 11, bcmd 6 0x19 1 [] [BitVec.ofNat 512 3] 12, bcmd 7 0x19 1 [] [] 8]
def sP : State := { withCmds row0 pushes with ingest := inS, tmr := [(0, { en := true, tb := 55, src := 3, index := 8 }), (1, { src := 2, index := 1, tb := 3 })] }
def ntc (dev core ctx gen : Nat) (step : Nat) : Packet := mkPkt 7 0 0 0x3FF 0 0 (srcWord dev core 0) step ctx gen 1 step 5
def nts : List Packet := [ntc 0 1 1 2 9, ntc 0 2 1 2 9, ntc 0 2 1 3 9, ntc 1 2 1 2 9, ntc 0 1 1 2 2, ntc 0 9 1 2 7]
def so (h ctx stream : Nat) (d : BitVec 256) (es : List Nat) : Fetched := bcmd h 0x18 ctx [] (iPay d es) stream
def sos : List Fetched := [so 1 0 3 (iDesc 3 (period := 9)) [lEnt 0], so 2 0 4 (iDesc 3 (period := 9)) [lEnt 0], so 3 0 3 (iDesc 3 (period := 0)) [lEnt 0], so 4 0 3 (iDesc 3 (period := 5) (acore := 9)) [lEnt 0], so 5 1 5 (iDesc 5 (period := 5) (acore := 1)) [lEnt 1, lEnt 2], so 6 1 5 (iDesc 5 (outn := 2) (period := 5) (acore := 1)) [lEnt 1, lEnt 2], so 7 0 6 (iDesc 6 (period := 9) (enc := 3) (level := 2)) [lEnt 0], cmd 10 (man 0x1A 1 (tobj := 7)), cmd 11 (man 0x1A 1 (tobj := 8)), cmd 12 (man 0x1A 1 (tobj := 9)), cmd 13 (man 0x1A 1 (tobj := 10)), cmd 14 (man 0x1A 0 (tobj := 7)), bcmd 20 0x1B 0 [] (rPay (rDesc 2) [gRange 0 0 4]), bcmd 21 0x1B 0 [] (rPay (rDesc 2 (nr := 2)) [gRange 0 0 4, gRange 0 100 8]), bcmd 22 0x1B 1 [] (rPay (rDesc 2) [gRange 1 0 4]), bcmd 23 0x1B 1 [] (rPay (rDesc 2) [gRange 0 0 4]), bcmd 24 0x1B 1 [] (rPay (rDesc 2 (len := 0)) [gRange 1 0 4]), bcmd 25 0x1B 1 [] (rPay (rDesc 2) [gRange 1 0 125]), bcmd 26 0x1B 1 [] (rPay (rDesc 9) [gRange 1 0 5]), cmd 30 (man 0x1C 1 (tobj := 9)), cmd 31 (man 0x1C 1 (tobj := 2)), cmd 32 (man 0x1C 0 (tobj := 9))]
def sI : State := { withCmds row0 sos with ingest := inS, results := [(9, { state := .running, ctx := 1, desc := BitVec.ofNat 64 (rDesc 9), ranges := [BitVec.ofNat 64 (gRange 1 0 4)], held := [⟨3, 0, [1], false, false⟩], lateWin := [7], win := 4, lastDec := 3 })] }
/-- Clauses 0, 1, 2, 3, 4, 5, 6, 7 of RowsAreTakenAndWindowsComplete. -/
theorem test_RowsAreTakenAndWindowsComplete :
    (let s : State := sP; let h : Nat := 4; let f : Fetched := (s.hif.fetched).getD 3 (cmd 0 0); let i := mTobj f.manifest; let st := getIn s i; let may : Bool := st.ctx == mCtx f.manifest && st.closeAt.isNone && (st.state == .opened || st.state == .running); MayRun s h 0x19 f ∧ may = false) ∧
    (let s : State := sP; let h : Nat := 7; let f : Fetched := (s.hif.fetched).getD 6 (cmd 0 0); let i := mTobj f.manifest; let st := getIn s i; let rows := parsePush st.desc (getTmr s (iTimer st.desc)).tb (linesBytes f.bales); let may : Bool := st.ctx == mCtx f.manifest && st.closeAt.isNone && (st.state == .opened || st.state == .running); MayRun s h 0x19 f ∧ may = true ∧ rows = none) ∧
    (let s : State := sP; let h : Nat := 2; let f : Fetched := (s.hif.fetched).getD 1 (cmd 0 0); let i := mTobj f.manifest; let st := getIn s i; let rows := parsePush st.desc (getTmr s (iTimer st.desc)).tb (linesBytes f.bales); let may : Bool := st.ctx == mCtx f.manifest && st.closeAt.isNone && (st.state == .opened || st.state == .running); let rs : List Row := ((rows).getD []); MayRun s h 0x19 f ∧ may = true ∧ rows = some rs ∧ st.state = .opened) ∧
    (let s : State := sP; let h : Nat := 1; let f : Fetched := (s.hif.fetched).getD 0 (cmd 0 0); let i := mTobj f.manifest; let st := getIn s i; let rows := parsePush st.desc (getTmr s (iTimer st.desc)).tb (linesBytes f.bales); let may : Bool := st.ctx == mCtx f.manifest && st.closeAt.isNone && (st.state == .opened || st.state == .running); let rs : List Row := ((rows).getD []); MayRun s h 0x19 f ∧ may = true ∧ rows = some rs ∧ st.state = .running) ∧
    (let s : State := sP; let pkt : Packet := nts.getD 2 { head := 0 }; ((s.ingest.any fun q => hearsNotice s q.2 pkt) = false)) ∧
    (let s : State := sP; let pkt : Packet := nts.getD 0 { head := 0 }; let i : Nat := 8; (s.ingest.filter (fun q => hearsNotice s q.2 pkt) = [(i, getIn s i)])) ∧
    (let s : State := sP; let i : Nat := 11; let st := getIn s i; let may : Bool := (st.state == .running && iGrace st.desc != 0) || (st.state == .idle && (getShard s st.ctx).paced); let k : Word := 9; may = true ∧ graceWindow s st = some k) ∧
    (let s : State := sP; let i : Nat := 0; let st := getIn s i; let may : Bool := (st.state == .running && iGrace st.desc != 0) || (st.state == .idle && (getShard s st.ctx).paced); (may = false ∨ graceWindow s st = none)) := by
  refine ⟨?_, ?_, ?_, ?_, ?_, ?_, ?_, ?_⟩ <;> (try unfold MayRun) <;> decide +kernel
/-- Clauses 0, 1, 2, 3, 4, 5, 6, 7, 8, 9, 10, 11, 12 of StreamsOpenAndClose. -/
theorem test_StreamsOpenAndClose :
    (let s : State := sI; let h : Nat := 2; let f : Fetched := (s.hif.fetched).getD 1 (cmd 0 0); let m := f.manifest; let bs := linesBytes f.bales; let d := descOfBytes bs; MayRun s h 0x18 f ∧ iStream d ≠ mTobj m) ∧
    (let s : State := sI; let h : Nat := 1; let f : Fetched := (s.hif.fetched).getD 0 (cmd 0 0); let m := f.manifest; let ctx := mCtx m; let bs := linesBytes f.bales; let d := descOfBytes bs; let es := (wordsOfBytes bs 32 (iOutn d)).map fun w => w.toNat; let st : Status := 20; let reason : Nat := 8; MayRun s h 0x18 f ∧ iStream d = mTobj m ∧ (streamCheck s ctx d es = some (st, reason))) ∧
    (let s : State := { sI with ingest := [], convoys := (List.range 64).map fun i => { tag := i, ctx := 3 } }; let h : Nat := 1; let f : Fetched := (s.hif.fetched).getD 0 (cmd 0 0); let m := f.manifest; let ctx := mCtx m; let bs := linesBytes f.bales; let d := descOfBytes bs; let es := (wordsOfBytes bs 32 (iOutn d)).map fun w => w.toNat; MayRun s h 0x18 f ∧ iStream d = mTobj m ∧ streamCheck s ctx d es = none ∧ (getShard s ctx).state = .stopped) ∧
    (let s : State := { sI with ingest := [], convoys := (List.range 64).map fun i => { tag := i, ctx := 3 } }; let h : Nat := 5; let f : Fetched := (s.hif.fetched).getD 4 (cmd 0 0); let m := f.manifest; let ctx := mCtx m; let bs := linesBytes f.bales; let d := descOfBytes bs; let es := (wordsOfBytes bs 32 (iOutn d)).map fun w => w.toNat; MayRun s h 0x18 f ∧ iStream d = mTobj m ∧ streamCheck s ctx d es = none ∧ (getShard s ctx).state ≠ .stopped) ∧
    (let s : State := sI; let h : Nat := 13; let f : Fetched := (s.hif.fetched).getD 10 (cmd 0 0); let m := f.manifest; let ctx := mCtx m; let i := mTobj m; let st := getIn s i; MayRun s h 0x1A f ∧ (st.ctx ≠ ctx ∨ st.state = .closed ∨ st.state = .idle)) ∧
    (let s : State := sI; let h : Nat := 10; let f : Fetched := (s.hif.fetched).getD 7 (cmd 0 0); let m := f.manifest; let ctx := mCtx m; let i := mTobj m; let st := getIn s i; MayRun s h 0x1A f ∧ st.ctx = ctx ∧ st.state = .opened) ∧
    (let s : State := sI; let h : Nat := 11; let f : Fetched := (s.hif.fetched).getD 8 (cmd 0 0); let m := f.manifest; let ctx := mCtx m; let i := mTobj m; let st := getIn s i; MayRun s h 0x1A f ∧ st.ctx = ctx ∧ st.state = .running ∧ (st.held = [])) ∧
    (let s : State := sI; let h : Nat := 12; let f : Fetched := (s.hif.fetched).getD 9 (cmd 0 0); let m := f.manifest; let ctx := mCtx m; let i := mTobj m; let st := getIn s i; MayRun s h 0x1A f ∧ st.ctx = ctx ∧ st.state = .running ∧ (st.held ≠ [])) ∧
    (let s : State := sI; let h : Nat := 23; let f : Fetched := (s.hif.fetched).getD 15 (cmd 0 0); let m := f.manifest; let ctx := mCtx m; let u := started s h; let bs := linesBytes f.bales; let d : BitVec 64 := BitVec.ofNat 64 (ofBytes (bs.take 8)); let rs := wordsOfBytes bs 8 (rNrange d); let st : Status := 20; let reason : Nat := 8; MayRun s h 0x1B f ∧ (resultCheck u ctx d rs = some (st, reason))) ∧
    (let s : State := sI; let h : Nat := 20; let f : Fetched := (s.hif.fetched).getD 12 (cmd 0 0); let m := f.manifest; let ctx := mCtx m; let u := started s h; let bs := linesBytes f.bales; let d : BitVec 64 := BitVec.ofNat 64 (ofBytes (bs.take 8)); let rs := wordsOfBytes bs 8 (rNrange d); MayRun s h 0x1B f ∧ resultCheck u ctx d rs = none ∧ (getShard s ctx).state = .stopped) ∧
    (let s : State := sI; let h : Nat := 22; let f : Fetched := (s.hif.fetched).getD 14 (cmd 0 0); let m := f.manifest; let ctx := mCtx m; let u := started s h; let bs := linesBytes f.bales; let d : BitVec 64 := BitVec.ofNat 64 (ofBytes (bs.take 8)); let rs := wordsOfBytes bs 8 (rNrange d); MayRun s h 0x1B f ∧ resultCheck u ctx d rs = none ∧ (getShard s ctx).state ≠ .stopped) ∧
    (let s : State := sI; let h : Nat := 31; let f : Fetched := (s.hif.fetched).getD 20 (cmd 0 0); let m := f.manifest; let ctx := mCtx m; let i := mTobj m; let st := getRes s i; MayRun s h 0x1C f ∧ (st.state = .closed ∨ st.ctx ≠ ctx)) ∧
    (let s : State := sI; let h : Nat := 30; let f : Fetched := (s.hif.fetched).getD 19 (cmd 0 0); let m := f.manifest; let ctx := mCtx m; let i := mTobj m; let st := getRes s i; MayRun s h 0x1C f ∧ st.state ≠ .closed ∧ st.ctx = ctx) := by
  refine ⟨?_, ?_, ?_, ?_, ?_, ?_, ?_, ?_, ?_, ?_, ?_, ?_, ?_⟩ <;> (try unfold MayRun) <;> decide +kernel
end Streams

namespace Shards
def ty (taken : Bool) : List Fetched := [cmd 1 (man 0x10 0 [50, 0]) [] taken, cmd 2 (man 0x10 0 [50, 2]) [] taken, cmd 3 (man 0x10 1 [50, 0]), cmd 4 (man 0x10 1 [60, 2]), cmd 5 (man 0x10 5 [60, 1]), cmd 6 (man 0x0A 1), cmd 7 (man 0x0A 0)]
def sY : List State := [withCmds row0 (ty true), withCmds row0 (ty false), { withCmds row0 (ty true) with shards := [(1, { state := .running, gen := 2, waiters := [(4, 4)] }), (5, { state := .stopping, gen := 4, stopAt := some 3, stopCmd := some 5 })] },
  { withCmds row0 (ty true) with cores := [(4, { bound := true, ctx := 5, gen := 4, st := { phase := .waiting, step := 3 } })] }]
/-- Clauses 0, 1, 2, 3, 4, 5, 6, 7, 8, 9 of ShardsRunAndStop. -/
theorem test_ShardsRunAndStop :
    (let s : State := sY.getD 0 State.reset; let h : Nat := 5; let f : Fetched := (s.hif.fetched).getD 4 (cmd 0 0); let m := f.manifest; let ctx := mCtx m; let sh := getShard s ctx; MayRun s h 0x10 f ∧ sh.state = .stopping) ∧
    (let s : State := sY.getD 0 State.reset; let h : Nat := 3; let f : Fetched := (s.hif.fetched).getD 2 (cmd 0 0); let m := f.manifest; let ctx := mCtx m; let sh := getShard s ctx; MayRun s h 0x10 f ∧ sh.state = .running ∧ (mw m 1 / 2 % 2 = 0)) ∧
    (let s : State := sY.getD 0 State.reset; let h : Nat := 4; let f : Fetched := (s.hif.fetched).getD 3 (cmd 0 0); let m := f.manifest; let ctx := mCtx m; let sh := getShard s ctx; MayRun s h 0x10 f ∧ sh.state = .running ∧ (mw m 1 / 2 % 2 = 1)) ∧
    (let s : State := sY.getD 1 State.reset; let h : Nat := 1; let f : Fetched := (s.hif.fetched).getD 0 (cmd 0 0); let m := f.manifest; let ctx := mCtx m; let sh := getShard s ctx; MayRun s h 0x10 f ∧ sh.state = .stopped ∧ f.taken = false ∧ (mw m 1 / 2 % 2 = 0)) ∧
    (let s : State := sY.getD 1 State.reset; let h : Nat := 2; let f : Fetched := (s.hif.fetched).getD 1 (cmd 0 0); let m := f.manifest; let ctx := mCtx m; let sh := getShard s ctx; MayRun s h 0x10 f ∧ sh.state = .stopped ∧ f.taken = false ∧ (mw m 1 / 2 % 2 = 1)) ∧
    (let s : State := sY.getD 0 State.reset; let ctx : Nat := 0; let mid : Nat := 2; let n : Nat := 0; let l : Word := 3; (nwf (fun _ => ({} : Core)) s.cores = true) ∧ (n ∈ shardCores s ctx) ∧ limitAccepted s n mid l = true) ∧
    (let s : State := sY.getD 0 State.reset; let ctx : Nat := 0; let mid : Nat := 0; let n : Nat := 0; let l : Word := 3; (nwf (fun _ => ({} : Core)) s.cores = true) ∧ (n ∈ shardCores s ctx) ∧ limitAccepted s n mid l = false) ∧
    (let s : State := sY.getD 0 State.reset; let h : Nat := 6; let f : Fetched := (s.hif.fetched).getD 5 (cmd 0 0); MayRun s h 0x0A f ∧ (getShard s (mCtx f.manifest)).state = .running) ∧
    (let s : State := sY.getD 0 State.reset; let ctx : Nat := 5; let l : Word := 3; (getShard s ctx).stopAt = some l ∧ (getShard s ctx).state = .stopping ∧ allWaitAt s ctx l = true ∧ ((shardCores s ctx).all (fun n => !barred (getCore s n) l) = true)) ∧
    (let s : State := sY.getD 2 State.reset; let sh : Shard := getShard s 1; let w : Nat × Word := (4, 4); ((s.shards.find? fun q => q.2.waiters.any fun w => w.1 == 4) = some (1, sh)) ∧ ((sh.waiters.find? fun w => w.1 == 4) = some w) ∧ sh.state = .running ∧ allWaitAt s 1 w.2 = true) := by
  refine ⟨?_, ?_, ?_, ?_, ?_, ?_, ?_, ?_, ?_, ?_⟩ <;> (try unfold MayRun) <;> decide +kernel
end Shards

namespace Sleep
/-- Clauses 0, 1, 2, 4, 5, 6, 7, 8, 9, 10, 11 of SleepWakeAndBrownOut. -/
theorem test_SleepWakeAndBrownOut :
    (let s : State := ((pS.zipIdx.filter fun p => p.2 % 9 == 0).map (·.1)).getD 0 State.reset; let h : Nat := 1; let f : Fetched := (s.hif.fetched).getD 0 (cmd 0 0); let w := mw f.manifest 0; MayRun s h 0x49 f ∧ (w / 2 ^ 6 % 2 = 1 ∨ powerBusy s = true)) ∧
    (let s : State := ((pS.zipIdx.filter fun p => p.2 % 9 == 0).map (·.1)).getD 6 State.reset; let h : Nat := 10; let f : Fetched := (s.hif.fetched).getD 4 (cmd 0 0); let w := mw f.manifest 0; MayRun s h 0x49 f ∧ (w / 2 ^ 6 % 2 = 0) ∧ powerBusy s = false ∧ (stateOf (w % 8) = .s0)) ∧
    (let s : State := ((pS.zipIdx.filter fun p => p.2 % 9 == 0).map (·.1)).getD 6 State.reset; let h : Nat := 11; let f : Fetched := (s.hif.fetched).getD 5 (cmd 0 0); let w := mw f.manifest 0; let u := wokenFirst (started s h); MayRun s h 0x49 f ∧ (w / 2 ^ 6 % 2 = 0) ∧ powerBusy s = false ∧ (stateOf (w % 8) ≠ .s0) ∧ sleepBad u = true) ∧
    (let s : State := ((pS.zipIdx.filter fun p => p.2 % 9 == 0).map (·.1)).getD 0 State.reset; (s.pwr.target = none ∨ s.pwr.entryCmd = none)) ∧
    (let s : State := ((pS.zipIdx.filter fun p => p.2 % 9 == 0).map (·.1)).getD 2 State.reset; let st : PowerState := ((s.pwr.target).getD .s0); let h : Nat := 11; s.pwr.target = some st ∧ s.pwr.entryCmd = some h ∧ st ≠ .s0 ∧ (s.pwr.latched &&& wakeMask st = 0)) ∧
    (let s : State := ((pS.zipIdx.filter fun p => p.2 % 9 == 0).map (·.1)).getD 1 State.reset; let st : PowerState := ((s.pwr.target).getD .s0); let h : Nat := 11; s.pwr.target = some st ∧ s.pwr.entryCmd = some h ∧ st ≠ .s0 ∧ (s.pwr.latched &&& wakeMask st ≠ 0)) ∧
    (let s : State := ((pS.zipIdx.filter fun p => p.2 % 9 == 0).map (·.1)).getD 0 State.reset; let src : WakeSource := .trigger 3; sourceBit s src = none) ∧
    (let s : State := ((pS.zipIdx.filter fun p => p.2 % 9 == 0).map (·.1)).getD 0 State.reset; let src : WakeSource := .host; let b : Nat := 9; sourceBit s src = some b ∧ (s.pwr.state = .s0 ∨ s.pwr.state = .s4 ∨ s.pwr.target.isSome = true ∨ bit (wakeMask s.pwr.state) b = false)) ∧
    (let s : State := ((pS.zipIdx.filter fun p => p.2 % 9 == 0).map (·.1)).getD 6 State.reset; let src : WakeSource := .host; let b : Nat := 9; sourceBit s src = some b ∧ s.pwr.target = none ∧ bit (wakeMask s.pwr.state) b = true) ∧
    (let s : State := ((pS.zipIdx.filter fun p => p.2 % 9 == 0).map (·.1)).getD 0 State.reset; let rail : Nat := 4; (s.boot = .off ∨ s.pwr.armed = false ∨ 4 ≤ rail)) ∧
    (let s : State := ((pS.zipIdx.filter fun p => p.2 % 9 == 0).map (·.1)).getD 0 State.reset; let rail : Nat := 0; s.boot ≠ .off ∧ s.pwr.armed = true ∧ rail < 4) := by
  refine ⟨?_, ?_, ?_, ?_, ?_, ?_, ?_, ?_, ?_, ?_, ?_⟩ <;> (try unfold MayRun) <;> decide +kernel
end Sleep

namespace Wake
/-- Clause 3 of SleepWakeAndBrownOut. -/
theorem test_SleepWakeAndBrownOut_3 : let s : State := (pS.filter fun s => s.pwr.target.isNone).getD 4 State.reset; let h : Nat := 11; let f : Fetched := (s.hif.fetched).getD 5 (cmd 0 0); let w := mw f.manifest 0; let u := wokenFirst (started s h); MayRun s h 0x49 f ∧ (w / 2 ^ 6 % 2 = 0) ∧ powerBusy s = false ∧ (stateOf (w % 8) ≠ .s0) ∧ sleepBad u = false := by unfold MayRun; decide +kernel
end Wake

namespace Access
def wb (n : Nat) : List Line := [BitVec.ofNat 512 n]
def cms : List Fetched := [cmd 1 (man 0x38 0 [0, 0, 16] (tcore := 0)), cmd 2 (man 0x38 1 [2, 8190, 16] (tcore := 1)), cmd 3 (man 0x38 1 [5, 0x100, 16] (tcore := 1)), cmd 4 (man 0x38 1 [3, 4, 64] (tcore := 1)),
  cmd 5 (man 0x39 0 [0, 0, 16] (tcore := 0) (bales := 1)) (wb 0x1234000000000000FFFF), cmd 6 (man 0x39 1 [0, 0, 16] (tcore := 1) (bales := 1)) (wb 0x1234), cmd 7 (man 0x39 1 [2, 0, 64] (tcore := 1) (bales := 1)) (wb 0x1234),
  cmd 8 (man 0x39 0 [5, 0x100, 64] (tcore := 0) (bales := 1)) (wb 0x1234), cmd 9 (man 0x39 0 [2, 8190, 64] (tcore := 0) (bales := 1)) (wb 0x1234), cmd 10 (man 0x39 0 [4, 3, 16] (tcore := 0) (bales := 1)) (wb (2^90)),
  cmd 11 (man 0x39 0 [2, 0, 64] (tcore := 0) (bales := 1)) (wb (2^500 - 1)), cmd 12 (man 0x39 0 [0, 1, 8] (tcore := 0) (bales := 1)) (wb (2^64 - 1)),
  cmd 20 (man 0x3A 1 [0, 0, 32] (tcore := 1)), cmd 21 (man 0x3A 1 [8, 0x10, 32] (tcore := 1)), cmd 22 (man 0x3A 1 [2, 0, 16, 5]), cmd 23 (man 0x3A 1 [2, 0, 16, 77]), cmd 24 (man 0x3A 1 [0, 0x7F0, 32] (tcore := 1)), cmd 25 (man 0x3A 1 [1, 0, 32] (tobj := 3)), cmd 26 (man 0x3A 1 [9, 0, 32] (tobj := 3)), cmd 27 (man 0x3A 1 [3, 0, 64]), cmd 28 (man 0x3A 1 [4, 0, 128]), cmd 29 (man 0x3A 1 [5, 0, 8]), cmd 30 (man 0x3A 1 [5, 0x8000, 8])]
def sS : List State := [withCmds (mk (bc .waiting)) cms, withCmds (mk (bc .integrate)) cms, withCmds (mk (bc .notRunning)) cms].flatMap fun s =>
  let s0 := { s with cores := nset {} s.cores 0 { bc .notRunning with ctx := 0, gen := 3, cnt := [(0x300, 5)] } }
  [s0, { s0 with convoys := s.convoys, sec := { s.sec with report := List.replicate 20 (7 : Byte) } }, { s0 with cores := nset {} s0.cores 0 { bc .integrate with ctx := 0, gen := 3 } }]
/-- Clauses 0, 1, 2, 3, 4, 5, 6, 7, 8, 9, 10 of StateIsReadAndWrittenAtABoundary. -/
theorem test_StateIsReadAndWrittenAtABoundary :
    (let s : State := sS.getD 0 State.reset; let h : Nat := 2; let f : Fetched := (s.hif.fetched).getD 1 (cmd 0 0); let m := f.manifest; let sp := mw m 0; let a := spaceFirst sp (mw m 1); MayRun s h 0x38 f ∧ (spaceSize sp < a + mw m 2)) ∧
    (let s : State := sS.getD 2 State.reset; let h : Nat := 1; let f : Fetched := (s.hif.fetched).getD 0 (cmd 0 0); let m := f.manifest; let n := mTcore m; let sp := mw m 0; let a := spaceFirst sp (mw m 1); let c := getCore s n; MayRun s h 0x38 f ∧ (a + mw m 2 ≤ spaceSize sp) ∧ atBoundary c = false) ∧
    (let s : State := sS.getD 0 State.reset; let h : Nat := 1; let f : Fetched := (s.hif.fetched).getD 0 (cmd 0 0); let m := f.manifest; let n := mTcore m; let sp := mw m 0; let a := spaceFirst sp (mw m 1); let c := getCore s n; MayRun s h 0x38 f ∧ (a + mw m 2 ≤ spaceSize sp) ∧ atBoundary c = true) ∧
    (let s : State := sS.getD 0 State.reset; let h : Nat := 9; let f : Fetched := (s.hif.fetched).getD 8 (cmd 0 0); let m := f.manifest; let sp := mw m 0; let a := spaceFirst sp (mw m 1); MayRun s h 0x39 f ∧ (spaceSize sp < a + mw m 2)) ∧
    (let s : State := sS.getD 0 State.reset; let h : Nat := 7; let f : Fetched := (s.hif.fetched).getD 6 (cmd 0 0); let m := f.manifest; let sp := mw m 0; let a := spaceFirst sp (mw m 1); MayRun s h 0x39 f ∧ (a + mw m 2 ≤ spaceSize sp) ∧ (getShard s (mCtx m)).state ≠ .stopped ∧ sp ≠ 0) ∧
    (let s : State := sS.getD 2 State.reset; let h : Nat := 5; let f : Fetched := (s.hif.fetched).getD 4 (cmd 0 0); let m := f.manifest; let n := mTcore m; let sp := mw m 0; let a := spaceFirst sp (mw m 1); let c := getCore s n; MayRun s h 0x39 f ∧ (a + mw m 2 ≤ spaceSize sp) ∧ ((getShard s (mCtx m)).state = .stopped ∨ sp = 0) ∧ atBoundary c = false) ∧
    (let s : State := sS.getD 0 State.reset; let h : Nat := 5; let f : Fetched := (s.hif.fetched).getD 4 (cmd 0 0); let m := f.manifest; let n := mTcore m; let sp := mw m 0; let a := spaceFirst sp (mw m 1); let c := getCore s n; let u := started s h; let written := ((linesBytes f.bales).take (mw m 2)).zipIdx.foldl (fun c x => writeSpace c sp (a + x.2) x.1) c; let after := if sp = 4 then syncGset written else written; let unfit := spaceBad after sp a (mw m 2) || (sp != 1 && sp != 5 && hitsCompanion u (mCtx m) n after); MayRun s h 0x39 f ∧ (a + mw m 2 ≤ spaceSize sp) ∧ ((getShard s (mCtx m)).state = .stopped ∨ sp = 0) ∧ atBoundary c = true ∧ unfit = true) ∧
    (let s : State := sS.getD 0 State.reset; let h : Nat := 8; let f : Fetched := (s.hif.fetched).getD 7 (cmd 0 0); let m := f.manifest; let n := mTcore m; let sp := mw m 0; let a := spaceFirst sp (mw m 1); let c := getCore s n; let u := started s h; let written := ((linesBytes f.bales).take (mw m 2)).zipIdx.foldl (fun c x => writeSpace c sp (a + x.2) x.1) c; let after := if sp = 4 then syncGset written else written; let unfit := spaceBad after sp a (mw m 2) || (sp != 1 && sp != 5 && hitsCompanion u (mCtx m) n after); MayRun s h 0x39 f ∧ (a + mw m 2 ≤ spaceSize sp) ∧ ((getShard s (mCtx m)).state = .stopped ∨ sp = 0) ∧ atBoundary c = true ∧ unfit = false) ∧
    (let s : State := sS.getD 0 State.reset; let h : Nat := 22; let f : Fetched := (s.hif.fetched).getD 14 (cmd 0 0); let m := f.manifest; let src := mw m 0 % 8; let gone := src = 2 ∧ (findConvoy s (mw m 3 % 2 ^ 15)).isNone; MayRun s h 0x3A f ∧ gone) ∧
    (let s : State := sS.getD 0 State.reset; let h : Nat := 24; let f : Fetched := (s.hif.fetched).getD 16 (cmd 0 0); let m := f.manifest; let u := started s h; let src := mw m 0 % 8; let gone := src = 2 ∧ (findConvoy s (mw m 3 % 2 ^ 15)).isNone; MayRun s h 0x3A f ∧ (¬gone) ∧ (statsSize u src (mw m 1) < mw m 1 + mw m 2)) ∧
    (let s : State := sS.getD 0 State.reset; let h : Nat := 20; let f : Fetched := (s.hif.fetched).getD 12 (cmd 0 0); let m := f.manifest; let u := started s h; let src := mw m 0 % 8; let gone := src = 2 ∧ (findConvoy s (mw m 3 % 2 ^ 15)).isNone; MayRun s h 0x3A f ∧ (¬gone) ∧ (mw m 1 + mw m 2 ≤ statsSize u src (mw m 1))) := by
  refine ⟨?_, ?_, ?_, ?_, ?_, ?_, ?_, ?_, ?_, ?_, ?_⟩ <;> (try unfold MayRun) <;> decide +kernel
end Access

namespace Phases
def bc (ph : Phase) : Core := { bound := true, ctx := 1, gen := 2, st := { phase := ph, step := 4, runLimit := 100, c := 4, g := 8, cr := [(4, 1)], rg := [(5, 1)], inCount := 2, outCount := 1, dmax := 2, outEntries := 1, inEntries := 1, wdogEn := true, w := 4 }, nrn := { words := [(0, 0x123456789ABCDEF0), (3, 0xFF00FF0012345678)], accs := [(0, 100), (3, 0xFFFF00)], groups := [(0, 0x1234567890ABCDEF1234567890ABCDEF1234567890), (1, 77)], touch := [0, 3], loaded := [(0, 8)], lfsr := 0xACE1 }, syn := { index := [(0, mkDesc (fmt := 0) (len := 7) (score := 2) (delay := 1)), (4, mkDesc (fmt := 4) (len := 3) (score := 2) (sbase := 4) (lrn := 1)), (6, mkDesc (score := 9) (fmt := 0) (relay := 1) (addr := 64))], rows := [(0, 0x1234567890), (1, 0xFF)] }, hnd := { lfsr := 3 } }
def mk (c : Core) : State := { regioned row0 with cores := [(1, c), (2, { bound := true, ctx := 1, gen := 2, st := { phase := .waiting, step := 4 } })] }
def ss : List State := (phs.flatMap fun p => (more (bc p)).map mk)
def ss2 : List State := ss.map fun s => { withCmds s [cmd 4 (man 0x38 1 [0,0,8] (tcore := 1))] with shards := nset {} s.shards 1 { state := .running, gen := 2, w := 4, sections := 1, saving := some (3, 1, some 5) } }
/-- Clauses 0, 2, 3, 4, 5 of StepPacketsAreCounted. -/
theorem test_StepPacketsAreCounted :
    (let s : State := (ss ++ ss.map ar ++ ss.map (fun s => modCore s 1 fun c => { c with syn := { c.syn with pen := (List.range 9).map fun i => ⟨5, 6, .queued⟩ } })).getD 77 State.reset; let n : Nat := 1; let pkt : Packet := eps.getD 1 { head := 0 }; portTurn s n pkt = false) ∧
    (let n : Nat := 1; let pkt : Packet := eps.getD 6 { head := 0 }; let s : State := (ss ++ ss.map ar ++ ss.map (fun s => modCore s 1 fun c => { c with syn := { c.syn with pen := (List.range 9).map fun i => ⟨5, 6, .queued⟩ } })).getD 0 State.reset; let c := { getCore s n with arrived := (getCore s n).arrived.erase pkt }; portTurn s n pkt = true ∧ takesStep c pkt = false ∧ writesFull (getCore s n) = false) ∧
    (let n : Nat := 1; let pkt : Packet := eps.getD 0 { head := 0 }; let s : State := (ss ++ ss.map ar ++ ss.map (fun s => modCore s 1 fun c => { c with syn := { c.syn with pen := (List.range 9).map fun i => ⟨5, 6, .queued⟩ } })).getD 0 State.reset; let c := { getCore s n with arrived := (getCore s n).arrived.erase pkt }; let w : Word := BitVec.ofNat 32 (payload pkt); portTurn s n pkt = true ∧ takesStep c pkt = true ∧ stepLe w c.st.released = false) ∧
    (let n : Nat := 1; let pkt : Packet := eps.getD 0 { head := 0 }; let s : State := (ss ++ ss.map ar ++ ss.map (fun s => modCore s 1 fun c => { c with syn := { c.syn with pen := (List.range 9).map fun i => ⟨5, 6, .queued⟩ } })).getD 1 State.reset; let c := { getCore s n with arrived := (getCore s n).arrived.erase pkt }; let w : Word := BitVec.ofNat 32 (payload pkt); portTurn s n pkt = true ∧ takesStep c pkt = true ∧ stepLe w c.st.released = true) ∧
    (let n : Nat := 1; let pkt : Packet := eps.getD 0 { head := 0 }; let s : State := (ss ++ ss.map ar ++ ss.map (fun s => modCore s 1 fun c => { c with syn := { c.syn with pen := (List.range 9).map fun i => ⟨5, 6, .queued⟩ } })).getD 0 State.reset; let c := { getCore s n with arrived := (getCore s n).arrived.erase pkt }; portTurn s n pkt = true ∧ takesStep c pkt = true ∧ writesFull (getCore s n) = false ∧ (lookup c (srcDev pkt) (srcCore pkt) (srcNeuron pkt) = [])) := by
  refine ⟨?_, ?_, ?_, ?_, ?_⟩ <;> decide +kernel
/-- Clauses 0, 1, 2, 3, 4, 5, 6, 7, 8, 9, 10, 11, 12 of StepPhasesFollowInOrder. -/
theorem test_StepPhasesFollowInOrder :
    (let s : State := (ss ++ ss2).getD 0 State.reset; let n : Nat := 9; let c := getCore s n; (mayOpen c = false ∨ stateWaits s n = true)) ∧
    (let s : State := (ss ++ ss2).getD 0 State.reset; let n : Nat := 1; let c := getCore s n; mayOpen c = true ∧ stateWaits s n = false) ∧
    (let s : State := (ss ++ ss2).getD 11 State.reset; let n : Nat := 1; let c := getCore s n; mayEndIntegrate c = true) ∧
    (let s : State := (ss ++ ss2).getD 0 State.reset; let n : Nat := 1; let c := getCore s n; mayEndIntegrate c = false) ∧
    (let s : State := (ss ++ ss2).getD 22 State.reset; let n : Nat := 1; let c := getCore s n; mayFire c = true) ∧
    (let s : State := (ss ++ ss2).getD 0 State.reset; let n : Nat := 1; let c := getCore s n; mayFire c = false) ∧
    (let s : State := (ss ++ ss2).getD 33 State.reset; let n : Nat := 1; let c := getCore s n; c.st.phase = .fire) ∧
    (let s : State := (ss ++ ss2).getD 0 State.reset; let n : Nat := 1; let c := getCore s n; c.st.phase ≠ .fire) ∧
    (let s : State := (ss ++ ss2).getD 44 State.reset; let n : Nat := 1; let c := getCore s n; c.st.phase = .learn ∧ c.lrn.work = none) ∧
    (let s : State := (ss ++ ss2).getD 0 State.reset; let n : Nat := 1; let c := getCore s n; (c.st.phase ≠ .learn ∨ c.lrn.work ≠ none)) ∧
    (let s : State := (ss ++ ss2).getD 55 State.reset; let n : Nat := 1; let c := getCore s n; c.st.phase = .close ∧ (getShard s c.ctx).saving = none) ∧
    (let s : State := (ss ++ ss2).getD 132 State.reset; let n : Nat := 1; let c := getCore s n; let h : Nat := 3; let q : BitVec 16 := 1; let b : Option Word := ((match (getShard s c.ctx).saving with | some (_, _, z) => [z] | _ => [])).getD 0 none; c.st.phase = .close ∧ ((getShard s c.ctx).saving = some (h, q, b))) ∧
    (let s : State := (ss ++ ss2).getD 0 State.reset; let n : Nat := 1; let c := getCore s n; c.st.phase ≠ .close) := by
  refine ⟨?_, ?_, ?_, ?_, ?_, ?_, ?_, ?_, ?_, ?_, ?_, ?_, ?_⟩ <;> decide +kernel
theorem test_StepPacketsAreCounted_1 : ∃ s n, writesFull (getCore s n) = true :=
  ⟨{ row0 with cores := [(0, { syn := { pen := List.replicate (8 * (Config.writeQueue + 1)) ⟨5, 6, .queued⟩ } })] }, 0, by
    show writesFull { syn := { pen := List.replicate (8 * (Config.writeQueue + 1)) ⟨5, 6, .queued⟩ } } = true
    simp [writesFull, List.filter_replicate]⟩
end Phases

namespace Packets
def ss : List State := (phs.flatMap fun p => (more (bc p)).map mk)
/-- Clause 6 of StepPacketsAreCounted. -/
theorem test_StepPacketsAreCounted_6 : let n : Nat := 1; let pkt : Packet := eps.getD 0 { head := 0 }; let s : State := (ss ++ ss.map ar ++ ss.map (fun s => modCore s 1 fun c => { c with syn := { c.syn with pen := (List.range 9).map fun i => ⟨5, 6, .queued⟩ } })).getD 0 State.reset; let c := { getCore s n with arrived := (getCore s n).arrived.erase pkt }; portTurn s n pkt = true ∧ takesStep c pkt = true ∧ writesFull (getCore s n) = false ∧ (lookup c (srcDev pkt) (srcCore pkt) (srcNeuron pkt) ≠ []) := by decide +kernel
end Packets

namespace Updates
def rec_ (s : State) : State := { s with sec := { s.sec with recovery := true }, glb := { s.glb with log := [(1, { valid := true }), (2, { valid := true })] } }
def lo (s : State) : State := { s with sec := { s.sec with level := 0 } }
/-- Clauses 0, 1, 2, 3, 4, 5, 8, 9, 10, 11, 12 of UpdateAttestAndLogs. -/
theorem test_UpdateAttestAndLogs :
    (let s : State := (uS.take 8 ++ (uS.map rec_).take 20 ++ (uS.take 4).map (lo ∘ rec_)).getD 6 State.reset; let h : Nat := 1; let f : Fetched := (s.hif.fetched).getD 0 (cmd 0 0); MayRun s h 0x40 f ∧ s.glb.locked = true ∧ s.sec.recovery = false) ∧
    (let s : State := (uS.take 8 ++ (uS.map rec_).take 20 ++ (uS.take 4).map (lo ∘ rec_)).getD 0 State.reset; let h : Nat := 3; let f : Fetched := (s.hif.fetched).getD 2 (cmd 0 0); let off := mw f.manifest 1; let bytes := linesBytes f.bales; MayRun s h 0x40 f ∧ (s.glb.locked = false ∨ s.sec.recovery = true) ∧ (off ≠ s.sec.updateAt.getD 0 ∨ 2 ^ 23 < off + bytes.length)) ∧
    (let s : State := (uS.take 8 ++ (uS.map rec_).take 20 ++ (uS.take 4).map (lo ∘ rec_)).getD 0 State.reset; let h : Nat := 1; let f : Fetched := (s.hif.fetched).getD 0 (cmd 0 0); let off := mw f.manifest 1; let bytes := linesBytes f.bales; MayRun s h 0x40 f ∧ (s.glb.locked = false ∨ s.sec.recovery = true) ∧ off = s.sec.updateAt.getD 0 ∧ (off + bytes.length ≤ 2 ^ 23)) ∧
    (let s : State := (uS.take 8 ++ (uS.map rec_).take 20 ++ (uS.take 4).map (lo ∘ rec_)).getD 0 State.reset; let h : Nat := 5; let f : Fetched := (s.hif.fetched).getD 4 (cmd 0 0); let served := (s.nv.lcState = 2 ∨ s.nv.lcState = 3 ∨ s.sec.recovery = true) ∧ s.sec.pufFail = false; MayRun s h 0x41 f ∧ (¬served)) ∧
    (let s : State := (uS.take 8 ++ (uS.map rec_).take 20 ++ (uS.take 4).map (lo ∘ rec_)).getD 8 State.reset; let h : Nat := 5; let f : Fetched := (s.hif.fetched).getD 4 (cmd 0 0); let served := (s.nv.lcState = 2 ∨ s.nv.lcState = 3 ∨ s.sec.recovery = true) ∧ s.sec.pufFail = false; MayRun s h 0x41 f ∧ served) ∧
    (let s : State := (uS.take 8 ++ (uS.map rec_).take 20 ++ (uS.take 4).map (lo ∘ rec_)).getD 0 State.reset; let mid : Nat := 0; let v : Word := 0xc3000001; let may : Bool := mid == 4 && s.nv.lcState == 4 && reaches s mid (bstAddr 0x14) && fld v 31 24 == 0xC3; may = false) ∧
    (let s : State := (uS.take 8 ++ (uS.map rec_).take 20 ++ (uS.take 4).map (lo ∘ rec_)).getD 28 State.reset; let mid : Nat := 4; reaches s mid 0x1404 = false) ∧
    (let s : State := (uS.take 8 ++ (uS.map rec_).take 20 ++ (uS.take 4).map (lo ∘ rec_)).getD 0 State.reset; let mid : Nat := 0; let v : Word := 0xc3000000; reaches s mid 0x1404 = true ∧ bit v 0 = false) ∧
    (let s : State := (uS.take 8 ++ (uS.map rec_).take 20 ++ (uS.take 4).map (lo ∘ rec_)).getD 0 State.reset; let mid : Nat := 0; let v : Word := 0xc3000001; reaches s mid 0x1404 = true ∧ bit v 0 = true) ∧
    (let s : State := (uS.take 8 ++ (uS.map rec_).take 20 ++ (uS.take 4).map (lo ∘ rec_)).getD 0 State.reset; let a : Packet := np 0x25; let b : Packet := np 0x26; subtype a = 0x25 ∧ subtype b = 0x26) ∧
    (let s : State := (uS.take 8 ++ (uS.map rec_).take 20 ++ (uS.take 4).map (lo ∘ rec_)).getD 0 State.reset; let a : Packet := np 0x25; let b : Packet := np 0x25; (subtype a ≠ 0x25 ∨ subtype b ≠ 0x26)) := by
  refine ⟨?_, ?_, ?_, ?_, ?_, ?_, ?_, ?_, ?_, ?_, ?_⟩ <;> (try unfold MayRun) <;> decide +kernel
end Updates

namespace Reports
/-- Clauses 6, 7 of UpdateAttestAndLogs. -/
theorem test_UpdateAttestAndLogs_6 :
    (let s : State := (uS.drop 48).getD 0 State.reset; let mid : Nat := 4; let v : Word := 0xc3000001; let may : Bool := mid == 4 && s.nv.lcState == 4 && reaches s mid (bstAddr 0x14) && fld v 31 24 == 0xC3; may = true ∧ bit v 0 = true) ∧
    (let s : State := (uS.drop 48).getD 0 State.reset; let mid : Nat := 4; let v : Word := 0xc3000000; let may : Bool := mid == 4 && s.nv.lcState == 4 && reaches s mid (bstAddr 0x14) && fld v 31 24 == 0xC3; may = true ∧ bit v 0 = false) := by
  refine ⟨?_, ?_⟩ <;> decide +kernel
end Reports

namespace Keep
def saved (s : State) : State := -- run a save on ctx 0 and ctx 1
  let s1 := match exec (.weightSave 50) s with | .next t => t | _ => s
  match exec (.weightSaveDone 0) s1 with | .next t => t | _ => s1
def step1 (c : Nat) (s : State) : State := match exec (.weightSave c) s with | .next t => t | _ => s
def kS : List State := [mkk .waiting, mkk .integrate].flatMap fun s => [s, saved s, saved1 s, saved1 (saved1 s), step1 1 s, step1 2 s, step1 8 s, { s with shards := nset {} s.shards 0 { state := .stopped, gen := 3, w := 4, restoring := some (5, 1, none) } }]
/-- Clauses 0, 1, 2, 5, 6, 7, 9, 10 of WeightKeepSavesAndRestores. -/
theorem test_WeightKeepSavesAndRestores :
    (let s : State := kS.getD 0 State.reset; let h : Nat := 3; let f : Fetched := (s.hif.fetched).getD 2 (cmd 0 0); let m := f.manifest; MayRun s h 0x30 f ∧ keepMay s m = false) ∧
    (let s : State := kS.getD 0 State.reset; let h : Nat := 1; let f : Fetched := (s.hif.fetched).getD 0 (cmd 0 0); let m := f.manifest; MayRun s h 0x30 f ∧ keepMay s m = true) ∧
    (let s : State := kS.getD 0 State.reset; let h : Nat := 5; let f : Fetched := (s.hif.fetched).getD 4 (cmd 0 0); let m := f.manifest; let ctx := mCtx m; MayRun s h 0x31 f ∧ (keepMay s m = false ∨ keepCommon s ctx = none)) ∧
    (let s : State := kS.getD 0 State.reset; let ctx : Nat := 0; (getShard s ctx).saving = none) ∧
    (let s : State := kS.getD 0 State.reset; let ctx : Nat := 0; (getShard s ctx).restoring = none) ∧
    (let s : State := kS.getD 6 State.reset; let ctx : Nat := 1; let h : Nat := 8; let q : BitVec 16 := 1; let b : Option Word := ((match (getShard s ctx).saving with | some (_, _, z) => [z] | _ => [])).getD 0 none; keepReady s ctx b = false ∧ ((getShard s ctx).saving = some (h, q, b))) ∧
    (let s : State := kS.getD 4 State.reset; let ctx : Nat := 0; let h : Nat := 1; let q : BitVec 16 := 1; let b : Option Word := ((match (getShard s ctx).saving with | some (_, _, z) => [z] | _ => [])).getD 0 none; keepReady s ctx b = true ∧ ((getShard s ctx).saving = some (h, q, b))) ∧
    (let s : State := kS.getD 7 State.reset; let ctx : Nat := 0; let h : Nat := 5; let q : BitVec 16 := 1; let b : Option Word := ((match (getShard s ctx).restoring with | some (_, _, z) => [z] | _ => [])).getD 0 none; keepReady s ctx b = true ∧ ((getShard s ctx).restoring = some (h, q, b))) := by
  refine ⟨?_, ?_, ?_, ?_, ?_, ?_, ?_, ?_⟩ <;> (try unfold MayRun) <;> decide +kernel
theorem low_append {n m : Nat} (a : BitVec n) (b : BitVec m) : (a ++ b).extractLsb' 0 m = b := by
  simp [BitVec.extractLsb'_append_eq_right]
theorem fld_append {n m : Nat} (a : BitVec n) (b : BitVec m) (hi lo : Nat) (h : hi < m) (hl : lo ≤ hi) : fld (a ++ b) hi lo = fld b hi lo := by
  unfold fld
  have e : ∀ x : Nat, x / 2 ^ lo % 2 ^ (hi + 1 - lo) = x % 2 ^ m / 2 ^ lo % 2 ^ (hi + 1 - lo) := by
    intro x
    apply Nat.eq_of_testBit_eq
    intro i
    simp only [Nat.testBit_mod_two_pow, Nat.testBit_div_two_pow]
    by_cases hi' : i < hi + 1 - lo <;> simp [hi'] <;> omega
  rw [e, e b.toNat]
  congr 2
  have := congrArg BitVec.toNat (low_append a b)
  simpa [BitVec.extractLsb'_toNat] using this
theorem high_append {n m : Nat} (a : BitVec n) (b : BitVec m) : (a ++ b).extractLsb' m n = a := by
  ext i hi
  simp [BitVec.getLsbD_append, hi]
theorem tag_marker (t : BitVec 128) (low : BitVec 384) : (t ++ low).extractLsb' 384 128 = t := high_append t low
def base : State := kS.getD 0 State.reset
def image1 : List Line := [1, 2]
def low (lay : BitVec 128) (ctx : Nat) : BitVec 384 := lay ++ BitVec.ofNat 256 (2 ^ 48 + ctx * 2 ^ 42 + 2 * 2 ^ 29 + 1)
def kslot (lay : BitVec 128) (ctx : Nat) : KeepSlot := { image := image1, marker := Config.keepTag 0 image1 (low lay ctx) ++ low lay ctx }
def kept (lay : BitVec 128) (ctx : Nat) : State := { base with nv := { base.nv with keep := [(0, kslot lay ctx)] } }
theorem committed (lay ctx) : keepCommitted (kept lay ctx) (kslot lay ctx) = true := by
  have e : keepOpen 0 (kslot lay ctx) = image1 := rfl
  have b0 : bit (kslot lay ctx).marker 0 = true := by
    have : fld (kslot lay ctx).marker 0 0 = 1 := by
      rw [kslot, fld_append _ _ _ _ (by omega) (by omega), low, fld_append _ _ _ _ (by omega) (by omega), fld, BitVec.toNat_ofNat]
      omega
    simpa [bit, fld, BitVec.getLsbD, Nat.testBit_zero] using this
  unfold keepCommitted
  rw [b0]
  show (!base.sec.pufFail && true && ((kslot lay ctx).marker.extractLsb' 384 128 == Config.keepTag 0 (keepOpen 0 (kslot lay ctx)) ((kslot lay ctx).marker.extractLsb' 0 384))) = true
  rw [e]
  simp only [kslot, tag_marker, low_append]
  simp
  rfl
theorem field (lay ctx hi lo) (h : hi < 256) (hl : lo ≤ hi) : fld (kslot lay ctx).marker hi lo = fld (BitVec.ofNat 256 (2 ^ 48 + ctx * 2 ^ 42 + 2 * 2 ^ 29 + 1)) hi lo := by
  rw [kslot, fld_append _ _ _ _ (by omega) hl, low, fld_append _ _ _ _ h hl]
theorem slots (lay ctx) : keepSlot (kept lay ctx) 0 0 = kslot lay ctx ∧ keepSlot (kept lay ctx) 0 1 = {} := ⟨rfl, rfl⟩
theorem cores0 (lay ctx) : keepCores (kept lay ctx) 0 = [0] := rfl
theorem seqs (lay) (ctx) (h : ctx < 64) : keepSeqs (kept lay ctx) 0 = [1] := by
  unfold keepSeqs
  rw [show ([0, 1] : List Nat).filter (fun k => keepCommitted (kept lay ctx) (keepSlot (kept lay ctx) 0 k)) = [0] by
    have e0 : keepCommitted (kept lay ctx) (keepSlot (kept lay ctx) 0 0) = true := committed lay ctx
    have e1 : keepCommitted (kept lay ctx) (keepSlot (kept lay ctx) 0 1) = false := by
      rw [(slots lay ctx).2]; simp [keepCommitted, bit]
    simp [e0, e1]]
  have : fld (kslot lay ctx).marker 63 48 = 1 := by
    rw [field lay ctx 63 48 (by omega) (by omega), fld, BitVec.toNat_ofNat]; omega
  simp [(slots lay ctx).1, this]
theorem common (lay ctx) (h : ctx < 64) : keepCommon (kept lay ctx) 0 = some 1 := by
  unfold keepCommon; rw [cores0]; simp [seqs lay ctx h]
theorem slot1 (lay ctx) (h : ctx < 64) : slotWith (kept lay ctx) 0 1 = some 0 := by
  unfold slotWith
  have e0 : keepCommitted (kept lay ctx) (keepSlot (kept lay ctx) 0 0) = true := committed lay ctx
  have e1 : fld (keepSlot (kept lay ctx) 0 0).marker 63 48 = 1 := by
    rw [(slots lay ctx).1, field lay ctx 63 48 (by omega) (by omega), fld, BitVec.toNat_ofNat]; omega
  simp [e0, e1]
theorem fits (lay ctx) (h : ctx < 64) : keepFits (kept lay ctx) 0 0 1 = (ctx == 0 && lay == keepLayout base 0 0) := by
  unfold keepFits
  rw [slot1 lay ctx h]
  have a1 : fld (kslot lay ctx).marker 47 42 = ctx := by
    rw [field lay ctx _ _ (by omega) (by omega), fld, BitVec.toNat_ofNat]; omega
  have a2 : fld (kslot lay ctx).marker 41 29 = 2 := by
    rw [field lay ctx _ _ (by omega) (by omega), fld, BitVec.toNat_ofNat]; omega
  have a3 : (kslot lay ctx).marker.extractLsb' 256 128 = lay := by
    ext i hi
    simp only [kslot, low, BitVec.getElem_extractLsb', BitVec.getLsbD_append]
    simp [show 256 + i < 384 by omega, hi]
  have a4 : (keepImage (kept lay ctx) 0 0).length = 2 := by rfl
  have a5 : keepLayout (kept lay ctx) 0 0 = keepLayout base 0 0 := rfl
  simp only [(slots lay ctx).1, a1, a2, a3, a4, a5]
  simp
theorem may_w_3 : MayRun (kept 0 9) 5 0x31 ((kept 0 9).hif.fetched.getD 4 (cmd 0 0)) ∧ keepMay (kept 0 9) ((kept 0 9).hif.fetched.getD 4 (cmd 0 0)).manifest = true ∧ mCtx ((kept 0 9).hif.fetched.getD 4 (cmd 0 0)).manifest = 0 := by
  unfold MayRun
  decide +kernel
theorem test_WeightKeepSavesAndRestores_3 : let s : State := kept 0 9; let h : Nat := 5; let f : Fetched := (s.hif.fetched).getD 4 (cmd 0 0); let m := f.manifest; let ctx := mCtx m; let q : Nat := 1; MayRun s h 0x31 f ∧ keepMay s m = true ∧ keepCommon s ctx = some q ∧ (((keepCores s ctx).all fun n => keepFits s ctx n q) = false) := by
  have w := may_w_3
  intro s h f m ctx q
  have hc : ctx = 0 := w.2.2
  refine ⟨w.1, w.2.1, hc ▸ common _ _ (by omega), ?_⟩
  rw [hc, show keepCores s 0 = [0] from cores0 _ _]
  have e : keepFits s 0 0 1 = false := by rw [show keepFits s 0 0 1 = _ from fits 0 9 (by omega)]; simp
  simp [q, e]
theorem may_w_4 : MayRun (kept (keepLayout base 0 0) 0) 5 0x31 ((kept (keepLayout base 0 0) 0).hif.fetched.getD 4 (cmd 0 0)) ∧ keepMay (kept (keepLayout base 0 0) 0) ((kept (keepLayout base 0 0) 0).hif.fetched.getD 4 (cmd 0 0)).manifest = true ∧ mCtx ((kept (keepLayout base 0 0) 0).hif.fetched.getD 4 (cmd 0 0)).manifest = 0 := by
  unfold MayRun
  decide +kernel
theorem test_WeightKeepSavesAndRestores_4 : let s : State := kept (keepLayout base 0 0) 0; let h : Nat := 5; let f : Fetched := (s.hif.fetched).getD 4 (cmd 0 0); let m := f.manifest; let ctx := mCtx m; let q : Nat := 1; MayRun s h 0x31 f ∧ keepMay s m = true ∧ keepCommon s ctx = some q ∧ (((keepCores s ctx).all fun n => keepFits s ctx n q) = true) := by
  have w := may_w_4
  intro s h f m ctx q
  have hc : ctx = 0 := w.2.2
  refine ⟨w.1, w.2.1, hc ▸ common _ _ (by omega), ?_⟩
  rw [hc, show keepCores s 0 = [0] from cores0 _ _]
  have e : keepFits s 0 0 1 = true := by rw [show keepFits s 0 0 1 = _ from fits _ 0 (by omega)]; simp
  simp [q, e]
end Keep

namespace Restores
def step5 (c : Nat) (s : State) : State := match exec (.weightRestore c) s with | .next t => t | _ => s
def kS2 : List State := let s := mkk .waiting; [step5 6 (modCore (saved1 s) 1 fun c => { c with syn := { c.syn with index := c.syn.index.tail } }), { saved1 s with shards := nset {} (saved1 s).shards 1 { state := .running, gen := 2, w := 4, sections := 1, restoring := some (6, 1, some 9) } }] ++ [let u := saved1 s; { u with nv := { u.nv with keep := u.nv.keep.map fun q => (q.1, { q.2 with marker := setFld q.2.marker 47 42 9 }) } }]
/-- Clause 8 of WeightKeepSavesAndRestores. -/
theorem test_WeightKeepSavesAndRestores_8 : let s : State := kS2.getD 1 State.reset; let ctx : Nat := 1; let h : Nat := 6; let q : BitVec 16 := 1; let b : Option Word := ((match (getShard s ctx).restoring with | some (_, _, z) => [z] | _ => [])).getD 0 none; keepReady s ctx b = false ∧ ((getShard s ctx).restoring = some (h, q, b)) := by decide +kernel
end Restores

namespace Steps
theorem test_StepRunsTheFrontCommand_0 : ∃ (s : State) (c : Instr) (rest : List Instr), s.pending = c :: rest := ⟨{ row0 with pending := [.cqCoalesceTimer 0, .lcTransitionDone false] }, _, _, rfl⟩
theorem test_StepRunsTheFrontCommand_1 : ∃ s : State, s.pending = [] := ⟨row0, rfl⟩
/-- A device in DEVELOP with GO_PRODUCTION under way and its end at the front of the queue. -/
def moving : State := { row0 with
  nv := { row0.nv with lcState := 2 }, sec := { row0.sec with request := .transition 3 }, pending := [.lcTransitionDone false]
  cores := [(0, { bound := true, ldm := [(0x100, 7)] })] }
theorem test_LifeCycleMovesOnlyAsAllowed_0 : ∃ s t : State, LifeCycleLegal s ∧ step s = .next t ∧ t.nv.lcState ≠ s.nv.lcState :=
  ⟨moving, _, ⟨by decide, fun t h => by
    have e : t = 3 := by injection h with h; exact h.symm
    subst e; right; decide⟩, rfl, by decide +kernel⟩
theorem test_CoresStayCanonical_0 : ∃ s t : State, CoresCanonical s ∧ step s = .next t :=
  ⟨moving, _, by unfold CoresCanonical; decide +kernel, rfl⟩
/-- Core 0 about to issue a scalar load or store at the address in s2. -/
def ls (op : Nat) (a : Word) : State := hs (encI op 1 2 0) [(2, a)]
theorem test_HandlerScalarMemory_loads : ∀ p ∈ [(0x14, 4), (0x16, 2), (0x18, 1)], Issues (ls p.1 0x100) 0 (encI p.1 1 2 0) ∧
    (rv (getCore (ls p.1 0x100) 0) 2 + BitVec.ofNat 32 0).toNat % p.2 = 0 ∧ (rv (getCore (ls p.1 0x100) 0) 2 + BitVec.ofNat 32 0).toNat + p.2 ≤ 0x40000 := by
  unfold Issues; decide +kernel
theorem test_HandlerScalarMemory_faults : ∀ p ∈ [(0x14, 4), (0x16, 2), (0x18, 1), (0x15, 4), (0x17, 2), (0x19, 1)], Issues (ls p.1 0x3FFFF) 0 (encI p.1 1 2 0) ∧ Issues (ls p.1 0x40000) 0 (encI p.1 1 2 0) := by
  unfold Issues; decide +kernel
theorem test_HandlerScalarMemory_stores : ∀ p ∈ [(0x15, 4), (0x17, 2), (0x19, 1)], Issues (ls p.1 0x100) 0 (encI p.1 1 2 0) ∧
    (rv (getCore (ls p.1 0x100) 0) 2 + BitVec.ofNat 32 0).toNat % p.2 = 0 ∧ mayWrite (getCore (ls p.1 0x100) 0) 0x100 p.2 = true := by
  unfold Issues; decide +kernel
theorem test_FusesAndLedgerOnlyGrow_0 : ∃ s t : State, step s = .next t := ⟨moving, _, rfl⟩
end Steps

end Sys2Proof.Tests
end

section
/-! SUPPORT. The handler unit's registers and fetch: the order of instructions with a loop, jumps, LOOP inside a body, and what the
fetch at PC answers; the obligation HandlerRegistersAndFetch is assembled from these and from the laws of the handler unit. -/

namespace Sys2Proof.Machine

/-! ### The order of instructions (R274) -/

/-- At the last instruction of a body with iterations left the loop goes back; past the last one it ends. -/
theorem nextPc_eq (h : HandlerState) : nextPc h = match h.loopState with
    | some (a, b, k) =>
        if h.pc.toNat = b ∧ 1 < k then { h with pc := BitVec.ofNat 13 a, loopState := some (a, b, k - 1) }
        else { h with pc := h.pc + 1, loopState := if h.pc.toNat = b then none else h.loopState }
    | none => { h with pc := h.pc + 1 } := by
  unfold nextPc
  cases hl : h.loopState with
  | none => rfl
  | some l =>
    obtain ⟨a, b, k⟩ := l
    by_cases hb : h.pc.toNat = b
    · by_cases hk : 1 < k <;> simp [hb, hk]
    · simp [hb, ← hl]

/-- A jump keeps the loop only where its target lies in the body. -/
theorem jumpTo_eq (s : State) (n : Nat) (c : Core) (pc : BitVec 13) : jumpTo s n c pc = fetchAt (setCore s n { c with
    hnd := { c.hnd with pc := pc, loopState := c.hnd.loopState.filter fun l => decide (l.1 ≤ pc.toNat ∧ pc.toNat ≤ l.2.1) } }) n := by
  unfold jumpTo
  cases c.hnd.loopState with
  | none => rfl
  | some l =>
    obtain ⟨a, b, k⟩ := l
    simp [Option.filter]

/-- A LOOP issued inside a loop body is a fault of code 2. -/
theorem exec_loop_in_body (s : State) (n rd ra imm : Nat) (hi : Issues s n (encI 0x10 rd ra imm))
    (hl : (getCore s n).hnd.loopState.isSome = true) : exec (.loop n rd ra imm) s = .next (faultAt s n 2 0) := by
  have he : exec (.loop n rd ra imm) s = execLoop n rd ra imm s := rfl
  rw [he, execLoop, issue_runs s n _ _ hi]
  simp [hl]

/-! ### The fetch at PC (R267) -/

/-- A PC outside the loaded instructions is found before the word there is looked at. -/
theorem fetchFault_outside (c : Core) (hin : inRanges c.hnd.loaded c.hnd.pc.toNat = false) : fetchFault c = some 4 := by
  simp [fetchFault, hin]

/-- Where PC lies in the loaded instructions, a reserved word comes before an ECC error, and without either nothing is wrong. -/
theorem fetchFault_inside (c : Core) (hin : inRanges c.hnd.loaded c.hnd.pc.toNat = true) :
    fetchFault c = if insnOk (nget 0 c.hnd.store c.hnd.pc.toNat) = false then some 2
      else if c.hnd.failing.contains c.hnd.pc.toNat = true then some 6 else none := by
  simp only [fetchFault, hin, Bool.not_true, Bool.false_eq_true, if_false, Bool.not_eq_true']

/-- The fetch of a running handler that does not wait faults with the code that it finds, or leaves the state. -/
theorem fetchAt_running (s : State) (n : Nat) (hr : (getCore s n).hnd.run = true) (hw : (getCore s n).hnd.wait = .none) :
    fetchAt s n = (fetchFault (getCore s n)).elim s fun k => faultAt s n k (getCore s n).hnd.pc.toNat := by
  simp only [fetchAt, hr, hw]
  cases fetchFault (getCore s n) <;> rfl

/-- A handler that does not run, or waits, fetches nothing. -/
theorem fetchAt_idle (s : State) (n : Nat) (h : (getCore s n).hnd.run = false ∨ (getCore s n).hnd.wait ≠ .none) :
    fetchAt s n = s := by
  refine if_pos ?_
  rcases h with hr | hw
  · simp [hr]
  · simp [hw]

/-- Settles O15, by the laws of the register files and lanes, the order of instructions and the cases of the fetch. -/
theorem handlerRegistersAndFetch : Obligations.HandlerRegistersAndFetch := by
  refine ⟨rv_wr, vv_wv, av_wa, lane_mkVec, ?_, fun s n c hw => advanceTo_eq s n c [] hw, nextPc_eq, jumpTo_eq,
    exec_loop_in_body, ?_⟩
  · intro f i hi hlo hhi
    rw [accLane_mkAcc f i hi, signed_wrap16 _ hlo hhi]
  · intro s n c inside
    refine ⟨fun hr hw hin => ?_, fun hr hw hin hok => ?_, fun hr hw hin hok hecc => ?_, fun h => ?_⟩
    · rw [fetchAt_running s n hr hw, fetchFault_outside c hin]; rfl
    · rw [fetchAt_running s n hr hw, fetchFault_inside c hin, if_pos hok]; rfl
    · rw [fetchAt_running s n hr hw, fetchFault_inside c hin, if_neg (ne_false_of_eq_true hok), if_pos hecc]; rfl
    · by_cases hidle : c.hnd.run = false ∨ c.hnd.wait ≠ .none
      · exact fetchAt_idle s n hidle
      · obtain ⟨hr, hw⟩ := not_or.1 hidle
        obtain ⟨hin, hok, hecc⟩ := (or_assoc.2 h).resolve_left hidle
        rw [fetchAt_running s n (Bool.eq_true_of_not_eq_false hr) (not_not.1 hw), fetchFault_inside c hin,
          if_neg (ne_false_of_eq_true hok), if_neg (ne_true_of_eq_false hecc)]
        rfl

end Sys2Proof.Machine
end

section
/-! SUPPORT. The mailboxes across resets: the two reset states hold the bindings of R475, and no step of a start sequence touches a
mailbox; the obligation ResetsBindTheMailboxes is assembled from these, one fact per reset command. -/

namespace Sys2Proof.Machine

variable (s : State)

/-! ### The start sequences keep the mailboxes (R540, R542, R448) -/

/-- An entry is kept in the ledger or, when the ledger is full, spares a core (R546, R548): no mailbox changes. -/
@[simp] theorem appendEntry_mbx (e : BitVec 128) : (appendEntry s e).mbx = s.mbx := by
  unfold appendEntry; split <;> rfl

@[simp] theorem fixRows_mbx (tile array source : Nat) (rows : List Nat) : (fixRows s tile array source rows).mbx = s.mbx := by
  induction rows generalizing s with
  | nil => rfl
  | cons r rows ih => rw [fixRows, ih, appendEntry_mbx]

@[simp] theorem repairTile_mbx (source tile : Nat) (fs : List TestFailure) : (repairTile s source tile fs).mbx = s.mbx := by
  unfold repairTile
  dsimp only
  split
  · rfl
  · split
    · exact appendEntry_mbx ..
    · split
      · exact appendEntry_mbx ..
      · exact foldl_keeps State.mbx _ (fun s _ => fixRows_mbx s ..) _ s

@[simp] theorem repairAll_mbx (source : Nat) (fs : List TestFailure) : (repairAll s source fs).mbx = s.mbx :=
  foldl_keeps State.mbx _ (fun s _ => repairTile_mbx s ..) _ s

@[simp] theorem reconcile_mbx : (reconcile s).mbx = s.mbx := rfl

@[simp] theorem loadFirmware_mbx : (loadFirmware s).mbx = s.mbx := by
  unfold loadFirmware; split <;> rfl

@[simp] theorem bootRom_mbx : (bootRom s).mbx = s.mbx := by
  unfold bootRom
  split
  · rfl
  · exact loadFirmware_mbx _

@[simp] theorem mapAndMeasure_mbx : (mapAndMeasure s).mbx = s.mbx := rfl

@[simp] theorem bookReach_mbx : (bookReach s).mbx = s.mbx := by
  unfold bookReach; split <;> rfl

@[simp] theorem burnFuses_mbx : (burnFuses s).mbx = s.mbx := by
  unfold burnFuses; dsimp only; split <;> rfl

@[simp] theorem becomeReady_mbx : (becomeReady s).mbx = s.mbx := by simp [becomeReady]

/-- The cold sequence, wherever it stops, leaves the mailboxes as the reset set them. -/
theorem coldSequence_mbx (refclk : Bool) (fs : List TestFailure) : (coldSequence s refclk fs).mbx = s.mbx := by
  unfold coldSequence
  dsimp only
  split
  · simp
  · split <;> simp

/-- The warm sequence, wherever it stops, leaves the mailboxes as the reset set them. -/
theorem warmSequence_mbx (refclk : Bool) : (warmSequence s refclk).mbx = s.mbx := by
  unfold warmSequence
  dsimp only
  split
  · simp
  · split <;> simp

/-! ### The reset states and the reset commands (R475; R448, R449) -/

@[simp] theorem coldState_mbx (cause : Nat) : (coldState s cause).mbx = resetBindings := rfl
@[simp] theorem warmState_mbx (cause : Nat) : (warmState s cause).mbx = resetBindings := rfl

variable {s}

theorem exec_perst_mbx (hb : s.boot ≠ .off) : ∃ t, exec .perst s = .next t ∧ t.mbx = resetBindings := by
  have he : exec .perst s = execPerst s := rfl
  exact ⟨coldState s 6, by simp [he, execPerst, hb], rfl⟩

theorem exec_refclkLoss_mbx (hb : s.boot ≠ .off) : ∃ t, exec .refclkLoss s = .next t ∧ t.mbx = resetBindings :=
  ⟨_, if_neg hb, rfl⟩

theorem exec_tamperTrip_pll_mbx (hb : s.boot ≠ .off) :
    ∃ t, exec (.tamperTrip true false false) s = .next t ∧ t.mbx = resetBindings :=
  ⟨_, if_neg (by simp [hb]), rfl⟩

theorem exec_extestExit_mbx (hj : s.sec.jtag = .extest) : ∃ t, exec .extestExit s = .next t ∧ t.mbx = resetBindings :=
  ⟨_, if_pos hj, rfl⟩

/-- A cold reset that no earlier reset has begun starts from the cold reset state. -/
theorem exec_coldReset_mbx (hb : s.boot ≠ .off) (hc : s.boot ≠ .coldPending) (ref : Bool) (fs : List TestFailure) :
    ∃ t, exec (.coldReset ref fs) s = .next t ∧ t.mbx = resetBindings := by
  refine ⟨_, if_neg hb, ?_⟩
  rw [if_neg hc, coldSequence_mbx, coldState_mbx]

/-- A warm reset that no earlier reset has begun starts from the warm reset state. -/
theorem exec_warmReset_mbx (hb : s.boot ≠ .off) (hc : s.boot ≠ .coldPending) (hw : s.boot ≠ .warmPending) (c : WarmCause)
    (ref : Bool) : ∃ t, exec (.warmReset c ref) s = .next t ∧ t.mbx = resetBindings := by
  refine ⟨warmSequence (warmState s (warmBit c)) ref, ?_, by rw [warmSequence_mbx, warmState_mbx]⟩
  have he : exec (.warmReset c ref) s = execWarmReset c ref s := rfl
  rw [he, execWarmReset]
  split
  · contradiction
  · contradiction
  · contradiction
  · rfl

/-- Settles O60: each reset command leaves the mailboxes at `resetBindings`, and that map is the table of R475 entry by entry. -/
theorem resetsBindTheMailboxes : Obligations.ResetsBindTheMailboxes := by
  intro s hb binds
  have binds_of_mbx : ∀ t : State, t.mbx = resetBindings → binds t := by
    intro t ht
    have hget : ∀ n, getMbx t n = nget {} resetBindings n := fun n => by rw [getMbx, ht]
    simp only [binds, hget]
    decide
  have binds_of : ∀ c, (∃ t, exec c s = .next t ∧ t.mbx = resetBindings) → ∃ t, exec c s = .next t ∧ binds t :=
    fun c ⟨t, he, ht⟩ => ⟨t, he, binds_of_mbx t ht⟩
  exact ⟨binds_of _ (exec_perst_mbx hb), binds_of _ (exec_refclkLoss_mbx hb), binds_of _ (exec_tamperTrip_pll_mbx hb),
    fun hj => binds_of _ (exec_extestExit_mbx hj), fun hc ref fs => binds_of _ (exec_coldReset_mbx hb hc ref fs),
    fun hc hw c ref => binds_of _ (exec_warmReset_mbx hb hc hw c ref)⟩

end Sys2Proof.Machine
end

section
/-! SUPPORT. The ledger and a register write over parts of words: a module in RMA whose front command clears LEDGER_CLEAR and
reports to the customs log in one step; it refutes the obligation FusesAndLedgerOnlyGrow. -/

namespace Sys2Proof.Machine

/-- A module in RMA with one ledger entry, its debug port open, and an 8-byte write across the word LEDGER_CLEAR in the queue. -/
def rmaWithLedger : State :=
  { State.reset with
    nv := { lcState := 4, ledgerA := [1] }, boot := .ready, sec := { State.reset.sec with level := 2 }
    pending := [.registerWrite 4 (bstAddr 0x12) 8 0xC30000010000] }

/-- The unaligned write holds the whole word of LEDGER_CLEAR and a part of each of its neighbours. -/
theorem step_rmaWithLedger :
    step rmaWithLedger = .next (busWrite { rmaWithLedger with pending := [] } 4 (bstAddr 0x12) 8 0xC30000010000) := rfl

/-- The whole word clears the ledger. -/
theorem busWrite_rmaWithLedger_ledgerA :
    (busWrite { rmaWithLedger with pending := [] } 4 (bstAddr 0x12) 8 0xC30000010000).nv.ledgerA = [] := by decide

/-- Each part of a word is reported to the customs log. -/
theorem busWrite_rmaWithLedger_hub :
    (busWrite { rmaWithLedger with pending := [] } 4 (bstAddr 0x12) 8 0xC30000010000).fab.hub.length = 4 := by decide

/-- Refutes O56: a register write that is not aligned to a word can cover LEDGER_CLEAR whole and two other words in part; the ledger
is then cleared in RMA and the two parts are reported, so the ledger is not all that changes. -/
theorem not_fusesAndLedgerOnlyGrow : ¬ Obligations.FusesAndLedgerOnlyGrow := by
  intro h
  obtain ⟨-, -, -, -, -, ⟨hA, -⟩ | ⟨-, ht⟩⟩ := h _ _ step_rmaWithLedger
  · have hmem := hA 1 (by decide)
    rw [busWrite_rmaWithLedger_ledgerA] at hmem
    exact absurd hmem List.not_mem_nil
  · have hlen := busWrite_rmaWithLedger_hub
    rw [ht] at hlen
    exact absurd hlen (by decide)

end Sys2Proof.Machine
end

section
/-! SUPPORT. The front of the queue and the reset states of the three parts; the obligations StepRunsTheFrontCommand and
ResetMeetsTheInvariants. -/

namespace Sys2Proof.Machine

/-- Settles O1: a step is `exec` of the command taken from the front of the queue. -/
theorem stepRunsTheFrontCommand : Obligations.StepRunsTheFrontCommand := by
  refine ⟨fun s c rest h => ?_, fun s h => ?_⟩
  · rw [step, h]
  · rw [step, h]

/-- A part ships in one of the six states of R513, and with no transition asked for. -/
theorem lifeCycleLegal_reset (p : Part) : LifeCycleLegal p.reset := by
  refine ⟨?_, fun t ht => ?_⟩
  · cases p <;> decide
  · have hnone : p.reset.sec.request = .none := rfl
    rw [hnone] at ht
    cases ht

/-- Settles O59: the parts differ in their non-volatile state alone, which is legal for each, and hold no core. -/
theorem resetMeetsTheInvariants : Obligations.ResetMeetsTheInvariants := by
  refine ⟨rfl, rfl, rfl, rfl, fun p => ?_⟩
  have hcores : CoresCanonical p.reset := fun _ h => absurd h List.not_mem_nil
  have hpart : p.reset.nv.part = p := rfl
  exact ⟨hpart, lifeCycleLegal_reset p, hcores, rfl, rfl, rfl, rfl, rfl, rfl, rfl, rfl, rfl, rfl, rfl, rfl, rfl, rfl, rfl, rfl, rfl,
    rfl, rfl, rfl⟩

end Sys2Proof.Machine
end

section
/-! SUPPORT. The rules for what every command keeps: the queue of the commands that wait, and the canonical form of the cores. The
model's functions follow, one lemma each, in the order of the model; the lemmas of a function cite those of the functions it calls. -/

namespace Sys2Proof.Machine

variable {s₀ s t : State}

/-- `t` has the queue of `s`, and canonical cores if `s` has them. -/
structure Kept (s t : State) : Prop where
  pending : t.pending = s.pending
  cores : CoresCanonical s → CoresCanonical t

/-- The core `c` is canonical if those of `s` are. -/
structure CoreFrom (s : State) (c : Core) : Prop where
  canonical : CoresCanonical s → nwf (fun _ => (0 : Byte)) c.ldm = true ∧ nget 0 c.hnd.sc 0 = 0

/-- The core that an effect leaves. -/
structure EffFrom (s : State) (e : Eff) : Prop where
  core : CoreFrom s e.core

/-- The core that the work on a row leaves. -/
structure RowFrom (s : State) (w : RowWork) : Prop where
  core : CoreFrom s w.core

/-- The core beside another result. -/
structure CoreFst {β : Type} (s : State) (x : Core × β) : Prop where
  fst : CoreFrom s x.1

/-- The next state before another result. -/
structure KeptFst {β : Type} (s : State) (x : State × β) : Prop where
  fst : Kept s x.1

/-- The next state behind another result. -/
structure KeptSnd {α : Type} (s : State) (x : α × State) : Prop where
  snd : Kept s x.2

/-- The outcome is a next state, which keeps what `s` holds. -/
def Answers (s : State) (o : Host.Outcome State Fault Refusal) : Prop := ∃ t, o = .next t ∧ Kept s t

/-- The state that the look at the head of a buffer leaves. -/
def Ahead.state : Ahead → State
  | .gone s => s
  | .ready s _ => s

/-! ### The rules -/

theorem Kept.refl (s : State) : Kept s s := ⟨rfl, id⟩

/-- A change of neither the queue nor the cores. -/
theorem Kept.of_eq (h : Kept s₀ s) (hp : t.pending = s.pending) (hc : t.cores = s.cores) : Kept s₀ t :=
  ⟨hp.trans h.pending, fun h₀ p hm => h.cores h₀ p (hc ▸ hm)⟩

/-- A state without cores. -/
theorem Kept.of_no_core (h : Kept s₀ s) (hp : t.pending = s.pending) (hc : t.cores = []) : Kept s₀ t :=
  ⟨hp.trans h.pending, fun _ p hm => absurd (hc ▸ hm) List.not_mem_nil⟩

/-- A change of every core that leaves its local data memory and its scalar registers. -/
theorem Kept.map_cores {f : Nat × Core → Nat × Core} (h : Kept s₀ s) (hp : t.pending = s.pending) (hc : t.cores = s.cores.map f)
    (hf : ∀ q, (f q).2.ldm = q.2.ldm ∧ (f q).2.hnd.sc = q.2.hnd.sc) : Kept s₀ t := by
  refine ⟨hp.trans h.pending, fun h₀ p hm => ?_⟩
  obtain ⟨q, hq, rfl⟩ := List.mem_map.1 (hc ▸ hm)
  rw [(hf q).1, (hf q).2]
  exact h.cores h₀ q hq

/-- A change of neither the local data memory nor the scalar registers. -/
theorem CoreFrom.of_eq {c d : Core} (h : CoreFrom s₀ c) (hl : d.ldm = c.ldm) (hs : d.hnd.sc = c.hnd.sc) : CoreFrom s₀ d :=
  ⟨by rw [hl, hs]; exact h.canonical⟩

/-- An update of other parts than the queue and the cores. -/
theorem Kept.fields {nv remap glb hif sdio mgmt mbx tmr pwr sec bst fab shape ports dep ingest results convoys hubCvy shards boot
    ddrDone asked free rdata} (h : Kept s₀ s) : Kept s₀ ⟨nv, remap, glb, hif, sdio, mgmt, mbx, tmr, pwr, sec, bst, fab, shape, ports,
      dep, ingest, results, convoys, hubCvy, shards, s.cores, boot, ddrDone, asked, free, rdata, s.pending⟩ :=
  ⟨h.pending, h.cores⟩

/-- An update of other parts than the local data memory and the handler unit. -/
theorem CoreFrom.fields {c : Core} {bound ctx gen st nrn syn lrn q cvy cnt ports watch arrived} (h : CoreFrom s₀ c) :
    CoreFrom s₀ ⟨bound, ctx, gen, st, nrn, syn, lrn, c.hnd, q, cvy, c.ldm, cnt, ports, watch, arrived⟩ := ⟨h.canonical⟩

/-- An update of other parts than the local data memory and the scalar registers. -/
theorem CoreFrom.hndFields {c : Core} {bound ctx gen st nrn syn lrn q cvy cnt ports watch arrived v acc pc lfsr loopState run wait
    hidx cur store loaded claimed table deflim en tidx asat rqclamp fValid fCode fHidx fPc fSrc failing flight} (h : CoreFrom s₀ c) :
    CoreFrom s₀ ⟨bound, ctx, gen, st, nrn, syn, lrn, ⟨c.hnd.sc, v, acc, pc, lfsr, loopState, run, wait, hidx, cur, store, loaded,
      claimed, table, deflim, en, tidx, asat, rqclamp, fValid, fCode, fHidx, fPc, fSrc, failing, flight⟩, q, cvy, c.ldm, cnt, ports,
      watch, arrived⟩ := ⟨h.canonical⟩

/-- A handler unit that idles keeps its scalar registers. -/
theorem CoreFrom.idle {c : Core} {bound ctx gen st nrn syn lrn q cvy cnt ports watch arrived} (h : CoreFrom s₀ c) :
    CoreFrom s₀ ⟨bound, ctx, gen, st, nrn, syn, lrn, Machine.idle c.hnd, q, cvy, c.ldm, cnt, ports, watch, arrived⟩ := ⟨h.canonical⟩

theorem EffFrom.of {c : Core} {out : List Packet} (h : CoreFrom s₀ c) : EffFrom s₀ ⟨c, out⟩ := ⟨h⟩
theorem RowFrom.of {c : Core} {ls : List Line} {l : Word} {z : Bool} (h : CoreFrom s₀ c) : RowFrom s₀ ⟨c, ls, l, z⟩ := ⟨h⟩
theorem CoreFst.of {β : Type} {c : Core} {x : β} (h : CoreFrom s₀ c) : CoreFst s₀ (c, x) := ⟨h⟩
theorem KeptFst.of {β : Type} {x : β} (h : Kept s₀ s) : KeptFst s₀ (s, x) := ⟨h⟩
theorem KeptSnd.of {α : Type} {x : α} (h : Kept s₀ s) : KeptSnd s₀ (x, s) := ⟨h⟩

theorem Kept.ite {c : Prop} [Decidable c] {a b : State} (ha : Kept s₀ a) (hb : Kept s₀ b) : Kept s₀ (if c then a else b) := by
  split <;> assumption

theorem CoreFrom.ite {c : Prop} [Decidable c] {a b : Core} (ha : CoreFrom s₀ a) (hb : CoreFrom s₀ b) : CoreFrom s₀ (if c then a else b) := by
  split <;> assumption

theorem EffFrom.ite {c : Prop} [Decidable c] {a b : Eff} (ha : EffFrom s₀ a) (hb : EffFrom s₀ b) : EffFrom s₀ (if c then a else b) := by
  split <;> assumption

theorem RowFrom.ite {c : Prop} [Decidable c] {a b : RowWork} (ha : RowFrom s₀ a) (hb : RowFrom s₀ b) : RowFrom s₀ (if c then a else b) := by
  split <;> assumption

theorem CoreFst.ite {β : Type} {c : Prop} [Decidable c] {a b : Core × β} (ha : CoreFst s₀ a) (hb : CoreFst s₀ b) :
    CoreFst s₀ (if c then a else b) := by split <;> assumption

theorem KeptFst.ite {β : Type} {c : Prop} [Decidable c] {a b : State × β} (ha : KeptFst s₀ a) (hb : KeptFst s₀ b) :
    KeptFst s₀ (if c then a else b) := by split <;> assumption

theorem KeptSnd.ite {β : Type} {c : Prop} [Decidable c] {a b : β × State} (ha : KeptSnd s₀ a) (hb : KeptSnd s₀ b) :
    KeptSnd s₀ (if c then a else b) := by split <;> assumption

theorem Answers.ite {c : Prop} [Decidable c] {a b : Host.Outcome State Fault Refusal} (ha : Answers s₀ a) (hb : Answers s₀ b) :
    Answers s₀ (if c then a else b) := by split <;> assumption

variable {α : Type} {l : List α}

theorem Kept.foldl {f : State → α → State} (hf : ∀ t x, Kept s₀ t → Kept s₀ (f t x)) (hs : Kept s₀ s) : Kept s₀ (l.foldl f s) :=
  foldl_inv (Kept s₀) f hf l s hs

theorem CoreFrom.foldl {f : Core → α → Core} {c : Core} (hf : ∀ d x, CoreFrom s₀ d → CoreFrom s₀ (f d x)) (hc : CoreFrom s₀ c) :
    CoreFrom s₀ (l.foldl f c) := foldl_inv (CoreFrom s₀) f hf l c hc

theorem EffFrom.foldl {f : Eff → α → Eff} {e : Eff} (hf : ∀ e x, EffFrom s₀ e → EffFrom s₀ (f e x)) (he : EffFrom s₀ e) :
    EffFrom s₀ (l.foldl f e) := foldl_inv (EffFrom s₀) f hf l e he

theorem RowFrom.foldl {f : RowWork → α → RowWork} {w : RowWork} (hf : ∀ w x, RowFrom s₀ w → RowFrom s₀ (f w x))
    (hw : RowFrom s₀ w) : RowFrom s₀ (l.foldl f w) := foldl_inv (RowFrom s₀) f hf l w hw

theorem CoreFst.foldl {β : Type} {f : Core × β → α → Core × β} {y : Core × β} (hf : ∀ y x, CoreFst s₀ y → CoreFst s₀ (f y x))
    (hy : CoreFst s₀ y) : CoreFst s₀ (l.foldl f y) := foldl_inv (CoreFst s₀) f hf l y hy

/-! ### Scalar registers and local data memory -/

@[simp] theorem nextPc_sc (h : HandlerState) : (nextPc h).sc = h.sc := by
  rw [nextPc.eq_def]
  split
  · split
    · split <;> rfl
    · rfl
  · rfl

/-- A write of a scalar register leaves s0 at 0. -/
theorem setS_zero (h : HandlerState) (r : Nat) (v : Word) (h0 : nget 0 h.sc 0 = 0) : nget 0 (setS h r v).sc 0 = 0 := by
  unfold setS
  split
  · exact h0
  · rename_i hr
    rw [nget_nset, if_neg (Ne.symm hr)]
    exact h0

/-- A dispatch sets the registers from s1 on. -/
theorem dispatchRegs_zero (c : Core) (m : QMsg) (e : BitVec 64) : nget 0 (dispatchRegs c m e) 0 = 0 := by
  unfold dispatchRegs
  rw [nget_nsetList, if_neg (by decide), nget_nsetList, if_neg (by decide)]
  rfl

/-! ### The sidecar at a start -/

theorem nwf_iff {α : Type} [DecidableEq α] (d : Nat → α) (m : NMap α) :
    nwf d m = true ↔ (m.map Prod.fst).Pairwise (· < ·) ∧ ∀ p ∈ m, p.2 ≠ d p.1 := by simp [nwf]

/-- Two canonical maps make one if the keys of the first lie below those of the second. -/
theorem nwf_append {α : Type} [DecidableEq α] (d : Nat → α) {m n : NMap α} (k : Nat) (hm : nwf d m = true) (hn : nwf d n = true)
    (hmk : ∀ p ∈ m, p.1 < k) (hnk : ∀ p ∈ n, k ≤ p.1) : nwf d (m ++ n) = true := by
  rw [nwf_iff] at *
  refine ⟨?_, fun p hp => (List.mem_append.1 hp).elim (hm.2 p) (hn.2 p)⟩
  rw [List.map_append, List.pairwise_append]
  refine ⟨hm.1, hn.1, ?_⟩
  simp only [List.mem_map, forall_exists_index, and_imp, forall_apply_eq_imp_iff₂]
  exact fun p hp q hq => lt_of_lt_of_le (hmk p hp) (hnk q hq)

/-- The sidecar bytes of neuron `i` at a start. -/
def startSideCells (c : Core) (i : Nat) : List Host.Cell :=
  if ldmGet c (sideAddr i) 1 % 2 = 1 then [(sideAddr i, (1 : Byte)), (sideAddr i + 1, (0xFF : Byte))]
  else [(sideAddr i + 1, (0xFF : Byte))]

theorem startSidecar_eq (c : Core) : startSidecar c = (c.ldm.filter fun p => p.1 < 0x3C000) ++
    (List.range 0x1000).flatMap (startSideCells c) ++ c.ldm.filter fun p => 0x3E000 ≤ p.1 := rfl

theorem nwf_startSideCells (c : Core) (i : Nat) : nwf (fun _ => (0 : Byte)) (startSideCells c i) = true ∧
    ∀ p ∈ startSideCells c i, sideAddr i ≤ p.1 ∧ p.1 < sideAddr (i + 1) := by
  rw [nwf_iff, sideAddr, sideAddr, startSideCells, sideAddr]
  split <;> simp <;> omega

/-- The sidecar of the first `n` neurons is canonical and lies in its own part of local data memory. -/
theorem nwf_startSideCells_range (c : Core) (n : Nat) :
    nwf (fun _ => (0 : Byte)) ((List.range n).flatMap (startSideCells c)) = true ∧
      ∀ p ∈ (List.range n).flatMap (startSideCells c), 0x3C000 ≤ p.1 ∧ p.1 < sideAddr n := by
  induction n with
  | zero => exact ⟨nwf_nil _, fun _ h => absurd h List.not_mem_nil⟩
  | succ n ih =>
    obtain ⟨hw, hk⟩ := nwf_startSideCells c n
    have hs : sideAddr n = 0x3C000 + 2 * n := rfl
    have hs1 : sideAddr (n + 1) = 0x3C000 + 2 * (n + 1) := rfl
    rw [List.range_succ, List.flatMap_append, List.flatMap_singleton]
    refine ⟨nwf_append _ (sideAddr n) ih.1 hw (fun p hp => (ih.2 p hp).2) fun p hp => (hk p hp).1, fun p hp => ?_⟩
    rcases List.mem_append.1 hp with hp | hp
    · have := ih.2 p hp; omega
    · have := hk p hp; omega

theorem nwf_startSidecar (c : Core) (h : nwf (fun _ => (0 : Byte)) c.ldm = true) :
    nwf (fun _ => (0 : Byte)) (startSidecar c) = true := by
  obtain ⟨hw, hk⟩ := nwf_startSideCells_range c 0x1000
  have hs : sideAddr 0x1000 = 0x3E000 := rfl
  rw [startSidecar_eq]
  refine nwf_append _ 0x3E000 (nwf_append _ 0x3C000 (nwf_filter _ _ _ h) hw ?_ fun p hp => (hk p hp).1) (nwf_filter _ _ _ h) ?_ ?_
  · intro p hp
    exact of_decide_eq_true (List.mem_filter.1 hp).2
  · intro p hp
    rcases List.mem_append.1 hp with hp | hp
    · have := of_decide_eq_true (List.mem_filter.1 hp).2; omega
    · have := (hk p hp).2; omega
  · intro p hp
    exact of_decide_eq_true (List.mem_filter.1 hp).2

end Sys2Proof.Machine
end

section
/-! SUPPORT. What the functions of Ops keep. -/

namespace Sys2Proof.Machine

variable {s₀ s t : State}

theorem ldmSet_kept {c : Core} {a n v : Nat} (hc : CoreFrom s₀ c) : CoreFrom s₀ (ldmSet c a n v) :=
  ⟨fun h₀ => ⟨nwf_ldmSet _ _ _ _ (hc.canonical h₀).1, (hc.canonical h₀).2⟩⟩

theorem ldmPutByte_kept {c : Core} {a : Nat} {b : Byte} (hc : CoreFrom s₀ c) : CoreFrom s₀ (ldmPutByte c a b) :=
  ⟨fun h₀ => ⟨nwf_nset _ _ _ _ (hc.canonical h₀).1, (hc.canonical h₀).2⟩⟩

theorem ldmPut_kept {c : Core} {a n v : Nat} (hc : CoreFrom s₀ c) : CoreFrom s₀ (ldmPut c a n v) := by
  unfold ldmPut
  exact CoreFrom.foldl (fun _ _ h1 => ldmPutByte_kept h1) hc

/-- The word that a handler waited for goes to a scalar register, but never to s0. -/
theorem wakeWord_kept {c : Core} (hc : CoreFrom s₀ c) : CoreFrom s₀ (wakeWord c) := by
  unfold wakeWord
  split
  · dsimp only
    split
    · exact hc
    · exact ⟨fun h₀ => ⟨(hc.canonical h₀).1, ((nextPc_sc _).symm ▸ setS_zero _ _ _ (hc.canonical h₀).2 :)⟩⟩
  · exact hc

/-- The cores of a state that keeps what another holds are canonical where those were. -/
theorem getCore_kept {n : Nat} (hs : Kept s₀ s) : CoreFrom s₀ (getCore s n) := by
  refine ⟨fun h₀ => ?_⟩
  rcases nget_mem ({} : Core) s.cores n with hn | hn
  · rw [getCore, hn]; exact ⟨rfl, rfl⟩
  · exact hs.cores h₀ _ hn

theorem setCore_kept {n : Nat} {c : Core} (hs : Kept s₀ s) (hc : CoreFrom s₀ c) : Kept s₀ (setCore s n c) := by
  refine ⟨hs.pending, fun h₀ p hp => ?_⟩
  rcases mem_nset _ _ _ _ _ hp with rfl | hp
  · exact hc.canonical h₀
  · exact hs.cores h₀ p hp

theorem modCore_kept {n : Nat} {f : Core → Core} (hs : Kept s₀ s) (hf : ∀ x0, CoreFrom s₀ x0 → CoreFrom s₀ (f x0)) :
    Kept s₀ (modCore s n f) := by
  unfold modCore
  exact setCore_kept hs (hf _ (getCore_kept hs))

theorem setShard_kept {c : Nat} {x : Shard} (hs : Kept s₀ s) : Kept s₀ (setShard s c x) := by
  unfold setShard
  exact Kept.fields hs

theorem modShard_kept {c : Nat} {f : Shard → Shard} (hs : Kept s₀ s) : Kept s₀ (modShard s c f) := by
  unfold modShard
  exact setShard_kept hs

theorem setPort_kept {p : Nat} {x : Port} (hs : Kept s₀ s) : Kept s₀ (setPort s p x) := by
  unfold setPort
  exact Kept.fields hs

theorem modPort_kept {p : Nat} {f : Port → Port} (hs : Kept s₀ s) : Kept s₀ (modPort s p f) := by
  unfold modPort
  exact setPort_kept hs

theorem setSq_kept {n : Nat} {x : SqRegs} (hs : Kept s₀ s) : Kept s₀ (setSq s n x) := by
  unfold setSq
  exact Kept.fields hs

theorem setCq_kept {n : Nat} {x : CqRegs} (hs : Kept s₀ s) : Kept s₀ (setCq s n x) := by
  unfold setCq
  exact Kept.fields hs

theorem setIn_kept {n : Nat} {x : Ingest} (hs : Kept s₀ s) : Kept s₀ (setIn s n x) := by
  unfold setIn
  exact Kept.fields hs

theorem setRes_kept {n : Nat} {x : ResultStream} (hs : Kept s₀ s) : Kept s₀ (setRes s n x) := by
  unfold setRes
  exact Kept.fields hs

theorem setTmr_kept {n : Nat} {x : Timer} (hs : Kept s₀ s) : Kept s₀ (setTmr s n x) := by
  unfold setTmr
  exact Kept.fields hs

theorem setMbx_kept {n : Nat} {x : Mailbox} (hs : Kept s₀ s) : Kept s₀ (setMbx s n x) := by
  unfold setMbx
  exact Kept.fields hs

theorem cntHi_kept {c : Core} {off k : Nat} (hc : CoreFrom s₀ c) : CoreFrom s₀ (cntHi c off k) := by
  unfold cntHi
  exact CoreFrom.fields hc

theorem cntLo_kept {c : Core} {off k : Nat} (hc : CoreFrom s₀ c) : CoreFrom s₀ (cntLo c off k) := by
  unfold cntLo
  exact CoreFrom.fields hc

theorem cntSet_kept {c : Core} {off : Nat} {v : Word} (hc : CoreFrom s₀ c) : CoreFrom s₀ (cntSet c off v) := by
  unfold cntSet
  exact CoreFrom.fields hc

theorem modShardCores_kept {ctx : Nat} {f : Nat → Core → Core} (hs : Kept s₀ s)
    (hf : ∀ x0 x1, CoreFrom s₀ x1 → CoreFrom s₀ (f x0 x1)) : Kept s₀ (modShardCores s ctx f) := by
  unfold modShardCores
  exact Kept.foldl (fun _ _ h1 => modCore_kept h1 (fun _ h2 => hf _ _ h2)) hs

theorem setTileGate_kept {core g : Nat} {x : Gate} (hs : Kept s₀ s) : Kept s₀ (setTileGate s core g x) := by
  unfold setTileGate
  exact Kept.fields hs

theorem chargePorts_kept {c : Core} {k dp mem : Nat} (hc : CoreFrom s₀ c) : CoreFrom s₀ (chargePorts c k dp mem) := by
  unfold chargePorts
  exact CoreFrom.fields hc

theorem holdMem_kept {c : Core} (hc : CoreFrom s₀ c) : CoreFrom s₀ (holdMem c) := by
  unfold holdMem
  exact CoreFrom.fields hc

theorem holdDp_kept {c : Core} (hc : CoreFrom s₀ c) : CoreFrom s₀ (holdDp c) := by
  unfold holdDp
  exact CoreFrom.fields hc

theorem coreSend_kept {core : Nat} {p : Packet} (hs : Kept s₀ s) : Kept s₀ (coreSend s core p) := by
  unfold coreSend
  split
  · exact hs
  · exact Kept.fields hs

theorem coreSendAll_kept {core : Nat} {ps : List Packet} (hs : Kept s₀ s) : Kept s₀ (coreSendAll s core ps) := by
  unfold coreSendAll
  exact Kept.foldl (fun _ _ h1 => coreSend_kept h1) hs

theorem hubSend_kept {p : Packet} (hs : Kept s₀ s) : Kept s₀ (hubSend s p) := by
  unfold hubSend
  exact Kept.fields hs

theorem hubSendAll_kept {ps : List Packet} (hs : Kept s₀ s) : Kept s₀ (hubSendAll s ps) := by
  unfold hubSendAll
  exact Kept.foldl (fun _ _ h1 => hubSend_kept h1) hs

theorem ctrlNotice_kept {core sub st pay cls : Nat} (hs : Kept s₀ s) : Kept s₀ (ctrlNotice s core sub st pay cls) := by
  unfold ctrlNotice
  exact coreSend_kept hs

theorem clogBar_kept {mid addr : Nat} {status : Status} (hs : Kept s₀ s) : Kept s₀ (clogBar s mid addr status) := by
  unfold clogBar
  exact Kept.fields hs

theorem clogTile_kept {core mid sdev score : Nat} {status : Status} {addr : Nat} (hs : Kept s₀ s) :
    Kept s₀ (clogTile s core mid sdev score status addr) := by
  unfold clogTile
  exact coreSendAll_kept hs

theorem violTile_kept {core mid sdev score : Nat} {status : Status} {addr : Nat} (hs : Kept s₀ s) :
    Kept s₀ (violTile s core mid sdev score status addr) := by
  unfold violTile
  exact clogTile_kept (modCore_kept hs (fun _ h1 => cntLo_kept h1))

theorem cqWriteOne_kept {n : Nat} {e : BitVec 256} (hs : Kept s₀ s) : Kept s₀ (cqWriteOne s n e) := by
  unfold cqWriteOne
  exact Kept.fields (setCq_kept hs)

theorem cqSignal_kept {n k : Nat} (hs : Kept s₀ s) : Kept s₀ (cqSignal s n k) := by
  unfold cqSignal
  dsimp only
  split
  · exact Kept.fields (setCq_kept hs)
  · exact setCq_kept hs

theorem cqWrite_kept {n : Nat} {es : List (BitVec 256)} (hs : Kept s₀ s) : Kept s₀ (cqWrite s n es) := by
  unfold cqWrite
  exact cqSignal_kept (Kept.foldl (fun _ _ h1 => cqWriteOne_kept h1) hs)

theorem cqPost_kept {n : Nat} {es : List (BitVec 256)} (hs : Kept s₀ s) : Kept s₀ (cqPost s n es) := by
  unfold cqPost
  split
  · exact cqWrite_kept hs
  · exact setCq_kept hs

theorem modCmd_kept {h : Nat} {f : Fetched → Fetched} (hs : Kept s₀ s) : Kept s₀ (modCmd s h f) := by
  unfold modCmd
  exact Kept.fields hs

theorem dropCmd_kept {h : Nat} (hs : Kept s₀ s) : Kept s₀ (dropCmd s h) := by
  unfold dropCmd
  exact Kept.fields hs

theorem feReply_kept {port : Nat} {es : List (BitVec 256)} (hs : Kept s₀ s) : Kept s₀ (feReply s port es) := by
  unfold feReply
  exact hubSendAll_kept hs

theorem answer_kept {f : Fetched} {st : Status} {result : Nat} {pays : List (BitVec 128)} (hs : Kept s₀ s) :
    Kept s₀ (answer s f st result pays) := by
  unfold answer
  split
  · exact cqPost_kept hs
  · exact Kept.fields hs
  · exact feReply_kept hs

theorem complete_kept {h : Nat} {st : Status} {result : Nat} {pays : List (BitVec 128)} (hs : Kept s₀ s) :
    Kept s₀ (complete s h st result pays) := by
  unfold complete
  split
  · exact hs
  · split
    · exact dropCmd_kept hs
    · exact answer_kept (dropCmd_kept hs)

theorem begun_kept {h : Nat} (hs : Kept s₀ s) : Kept s₀ (begun s h) := by
  unfold begun
  exact Kept.fields (modCmd_kept hs)

theorem notice_kept {ctx : Nat} {x : Notice} (hs : Kept s₀ s) : Kept s₀ (notice s ctx x) := by
  unfold notice
  dsimp only
  split
  · exact setShard_kept hs
  · exact cqWrite_kept (setShard_kept hs)

theorem wakeFires_kept {b : Nat} (hs : Kept s₀ s) : Kept s₀ (wakeFires s b) := by
  unfold wakeFires
  exact Kept.fields hs

theorem hubTake_kept {p : Packet} (hs : Kept s₀ s) : Kept s₀ (hubTake s p) := by
  unfold hubTake
  exact Kept.fields hs

theorem hubDone_kept {p : Packet} (hs : Kept s₀ s) : Kept s₀ (hubDone s p) := by
  unfold hubDone
  exact Kept.fields hs

theorem portDone_kept {core : Nat} {p : Packet} (hs : Kept s₀ s) : Kept s₀ (portDone s core p) := by
  unfold portDone
  exact modCore_kept hs (fun _ h1 => CoreFrom.fields h1)

theorem fromPort_kept {core : Nat} {p : Packet} {f : State → State} (hs : Kept s₀ s) (hf : ∀ x0, Kept s₀ x0 → Kept s₀ (f x0)) :
    Kept s₀ (fromPort s core p f) := by
  unfold fromPort
  split
  · exact hf _ (portDone_kept hs)
  · exact hs

end Sys2Proof.Machine
end

section
/-! SUPPORT. What the functions of Hif keep. -/

namespace Sys2Proof.Machine

variable {s₀ s t : State}

theorem accept_kept {o : Origin} {m : Line} {bales : List Line} {extra : Option Status} (hs : Kept s₀ s) :
    Kept s₀ (accept s o m bales extra) := by
  unfold accept
  dsimp only
  split
  · exact answer_kept (Kept.fields hs)
  · exact Kept.fields hs

theorem sqBell_kept {s0 : State} {n : Nat} {value : Word} (hs0 : Kept s₀ s0) : Kept s₀ (sqBell s0 n value) := by
  unfold sqBell
  dsimp only
  split
  · exact hs0
  · split
    · exact clogBar_kept (setSq_kept (wakeFires_kept hs0))
    · exact setSq_kept (wakeFires_kept hs0)

theorem execSqDoorbell_kept {n : Nat} {value : Word} (hs : Kept s₀ s) : Answers s₀ (execSqDoorbell n value s) :=
  ⟨_, rfl, sqBell_kept hs⟩

theorem chargeFetch_kept {slots : Nat} (hs : Kept s₀ s) : Kept s₀ (chargeFetch s slots) := by
  unfold chargeFetch
  exact Kept.fields hs

theorem execCommandFetch_kept {slots : List Line} (hs : Kept s₀ s) : Answers s₀ (execCommandFetch slots s) := by
  unfold execCommandFetch
  split
  · split
    · dsimp only
      split
      · exact ⟨_, rfl, answer_kept (setSq_kept (Kept.fields hs))⟩
      · split
        · exact ⟨_, rfl, Kept.fields hs⟩
        · split
          · exact ⟨_, rfl, Kept.fields hs⟩
          · exact ⟨_, rfl, accept_kept (chargeFetch_kept (setSq_kept (Kept.fields hs)))⟩
    · exact ⟨_, rfl, hs⟩
  · exact ⟨_, rfl, hs⟩

theorem execCompletionHoldRelease_kept {cq : Nat} (hs : Kept s₀ s) : Answers s₀ (execCompletionHoldRelease cq s) := by
  unfold execCompletionHoldRelease
  dsimp only
  split
  · exact ⟨_, rfl, hs⟩
  · split
    · exact ⟨_, rfl, cqWrite_kept (setCq_kept hs)⟩
    · exact ⟨_, rfl, hs⟩

theorem execCqCoalesceTimer_kept {cq : Nat} (hs : Kept s₀ s) : Answers s₀ (execCqCoalesceTimer cq s) := by
  unfold execCqCoalesceTimer
  dsimp only
  split
  · exact ⟨_, rfl, hs⟩
  · exact ⟨_, rfl, Kept.fields (setCq_kept hs)⟩

theorem execMgmtCommandTake_kept {hart waitedUs : Nat} (hs : Kept s₀ s) : Answers s₀ (execMgmtCommandTake hart waitedUs s) := by
  unfold execMgmtCommandTake
  split
  · split
    · exact ⟨_, rfl, hs⟩
    · exact ⟨_, rfl, Kept.fields (modCmd_kept hs)⟩
  · exact ⟨_, rfl, hs⟩

theorem execMgpBusyTimer_kept (hs : Kept s₀ s) : Answers s₀ (execMgpBusyTimer s) := by
  unfold execMgpBusyTimer
  split
  · exact ⟨_, rfl, hs⟩
  · exact ⟨_, rfl, Kept.fields hs⟩

theorem withCmd_kept {h op : Nat} {k : State → Fetched → State} (hs : Kept s₀ s)
    (hk : ∀ x0 x1, Kept s₀ x0 → Kept s₀ (k x0 x1)) : Kept s₀ (withCmd s h op k) := by
  unfold withCmd
  split
  · exact hs
  · split
    · exact complete_kept hs
    · exact hk _ _ (modCmd_kept hs)

theorem execNop_kept {h : Nat} (hs : Kept s₀ s) : Answers s₀ (execNop h s) :=
  ⟨_, rfl, withCmd_kept hs (fun _ _ h1 => complete_kept h1)⟩

theorem sdioGo_kept {len : Nat} (hs : Kept s₀ s) : Kept s₀ (sdioGo s len) := by
  unfold sdioGo
  dsimp only
  split
  · exact hs
  · split
    · exact Kept.fields (wakeFires_kept (Kept.fields hs))
    · exact accept_kept (Kept.fields (wakeFires_kept (Kept.fields hs)))

theorem execSdioGo_kept {len : Nat} (hs : Kept s₀ s) : Answers s₀ (execSdioGo len s) := ⟨_, rfl, sdioGo_kept hs⟩

theorem execFrontEndCommand_kept {port : Nat} {run : List Packet} (hs : Kept s₀ s) :
    Answers s₀ (execFrontEndCommand port run s) := by
  unfold execFrontEndCommand
  dsimp only
  split
  · exact ⟨_, rfl, Kept.foldl (fun _ _ h1 => hubDone_kept h1) hs⟩
  · exact ⟨_, rfl, accept_kept (Kept.foldl (fun _ _ h1 => hubDone_kept h1) hs)⟩

end Sys2Proof.Machine
end

section
/-! SUPPORT. What the functions of Synapse keep. -/

namespace Sys2Proof.Machine

variable {s₀ s t : State}

theorem applyEff_kept {n : Nat} {e : Eff} (hs : Kept s₀ s) (he : EffFrom s₀ e) : Kept s₀ (applyEff s n e) := by
  unfold applyEff
  exact coreSendAll_kept (setCore_kept hs (wakeWord_kept he.core))

theorem setDesc_kept {c : Core} {i : Nat} {d : BitVec 128} (hc : CoreFrom s₀ c) : CoreFrom s₀ (setDesc c i d) := by
  unfold setDesc
  exact CoreFrom.fields hc

theorem syncGset_kept {c : Core} (hc : CoreFrom s₀ c) : CoreFrom s₀ (syncGset c) := by
  unfold syncGset
  exact ldmSet_kept hc

theorem addTerm_kept {lrn late : Bool} {c : Core} {t : Nat} {x : Int} (hc : CoreFrom s₀ c) :
    CoreFrom s₀ (addTerm lrn late c t x) := by
  unfold addTerm
  dsimp only
  split
  · exact cntHi_kept (CoreFrom.fields hc)
  · exact CoreFrom.fields hc

theorem addCycle_kept {d : BitVec 128} {k : Nat} {late : Bool} {c : Core} {es : List Applied} (hc : CoreFrom s₀ c) :
    CoreFrom s₀ (addCycle d k late c es) := by
  unfold addCycle
  dsimp only
  split
  · exact cntLo_kept (CoreFrom.foldl (fun _ _ h1 => addTerm_kept h1) hc)
  · exact CoreFrom.foldl (fun _ _ h1 => addTerm_kept h1) hc

theorem addRow_kept {d : BitVec 128} {ls : List Line} {i k : Nat} {late : Bool} {c : Core} (hc : CoreFrom s₀ c) :
    CoreFrom s₀ (addRow d ls i k late c) := by
  unfold addRow
  exact CoreFrom.foldl (fun _ _ h1 => addCycle_kept h1) hc

theorem addHits_kept {c : Core} {didx k : Nat} (hc : CoreFrom s₀ c) : CoreFrom s₀ (addHits c didx k) := by
  unfold addHits
  exact ldmSet_kept hc

theorem integrateWith_kept {v : Env} {c : Core} {e : BitVec 64} {u : Word} {ls : List Line} (hc : CoreFrom s₀ c) :
    EffFrom s₀ (integrateWith v c e u ls) := by
  unfold integrateWith
  dsimp only
  split
  · exact EffFrom.of (cntLo_kept hc)
  · split
    · exact EffFrom.of hc
    · refine EffFrom.of ?_
      split
      · exact addHits_kept (addRow_kept (chargePorts_kept hc))
      · exact addRow_kept (chargePorts_kept hc)

theorem issueRead_kept {v : Env} {c : Core} {what : ReadFor} {edge : Bool} {kind burst n cls : Nat} {room : List Nat}
    (hc : CoreFrom s₀ c) : EffFrom s₀ (issueRead v c what edge kind burst n cls room) := by
  unfold issueRead
  exact EffFrom.of (CoreFrom.fields hc)

theorem bufPut_kept {c : Core} {room : List Nat} {ls : List Line} (hc : CoreFrom s₀ c) : CoreFrom s₀ (bufPut c room ls) := by
  unfold bufPut
  exact CoreFrom.foldl (fun _ _ h1 => ldmSet_kept h1) hc

theorem demandRead_kept {v : Env} {c : Core} {r : RingEnt} (hc : CoreFrom s₀ c) : EffFrom s₀ (demandRead v c r) := by
  unfold demandRead
  exact issueRead_kept (cntHi_kept (CoreFrom.fields hc))

theorem integrateEnt_kept {v : Env} {c : Core} {r : RingEnt} {u : Word} (hc : CoreFrom s₀ c) :
    EffFrom s₀ (integrateEnt v c r u) := by
  unfold integrateEnt
  dsimp only
  split
  · exact integrateWith_kept hc
  · split
    · exact integrateWith_kept hc
    · exact EffFrom.of hc
    · exact demandRead_kept hc

theorem integrateAll_kept {v : Env} {u : Word} {e : Eff} {rs : List RingEnt} (he : EffFrom s₀ e) :
    EffFrom s₀ (integrateAll v u e rs) := by
  unfold integrateAll
  exact EffFrom.foldl (fun _ _ h1 => EffFrom.of ((integrateEnt_kept h1.core).core)) he

theorem lose_kept {v : Env} {c : Core} {due : Word} {n : Nat} (hc : CoreFrom s₀ c) : EffFrom s₀ (lose v c due n) := by
  unfold lose
  split
  · exact EffFrom.of hc
  · dsimp only
    split
    · exact EffFrom.of (cntLo_kept hc)
    · exact EffFrom.of (cntSet_kept (cntSet_kept (cntLo_kept hc)))

theorem toPen_kept {v : Env} {c : Core} {e : BitVec 64} {due : Word} (hc : CoreFrom s₀ c) : EffFrom s₀ (toPen v c e due) := by
  unfold toPen
  split
  · exact lose_kept hc
  · exact EffFrom.of (CoreFrom.fields hc)

theorem toRing_kept {c : Core} {e : BitVec 64} {due : Word} (hc : CoreFrom s₀ c) : CoreFrom s₀ (toRing c e due) := by
  unfold toRing
  exact CoreFrom.fields hc

theorem ringOrPen_kept {v : Env} {c : Core} {e : BitVec 64} {due : Word} (hc : CoreFrom s₀ c) :
    EffFrom s₀ (ringOrPen v c e due) := by
  unfold ringOrPen
  split
  · exact toPen_kept (cntHi_kept hc)
  · exact EffFrom.of (toRing_kept hc)

theorem integrateNow_kept {v : Env} {c : Core} {e : BitVec 64} {due : Word} (hc : CoreFrom s₀ c) :
    EffFrom s₀ (integrateNow v c e due) := by
  unfold integrateNow
  exact integrateEnt_kept (CoreFrom.fields hc)

theorem placeMatch_kept {v : Env} {t : Word} {mult src : Nat} {c : Core} {didx : Nat} (hc : CoreFrom s₀ c) :
    EffFrom s₀ (placeMatch v t mult src c didx) := by
  unfold placeMatch
  dsimp only
  split
  · split
    · split
      · exact integrateNow_kept (cntHi_kept hc)
      · exact ringOrPen_kept (cntHi_kept hc)
    · exact EffFrom.of (cntLo_kept hc)
  · split
    · exact integrateNow_kept hc
    · split
      · exact toPen_kept (cntLo_kept hc)
      · exact ringOrPen_kept hc

theorem acceptEvent_kept {v : Env} {c : Core} {p : Packet} (hc : CoreFrom s₀ c) : EffFrom s₀ (acceptEvent v c p) := by
  unfold acceptEvent
  dsimp only
  split
  · exact EffFrom.of (cntHi_kept hc)
  · exact EffFrom.foldl (fun _ _ h1 => EffFrom.of ((placeMatch_kept h1.core).core)) (EffFrom.of hc)

theorem stepPacket_kept {core : Nat} {pkt : Packet} {f : Env → Core → Eff} (hs : Kept s₀ s)
    (hf : ∀ x0 x1, CoreFrom s₀ x1 → EffFrom s₀ (f x0 x1)) : Kept s₀ (stepPacket s core pkt f) := by
  unfold stepPacket
  refine fromPort_kept hs ?_
  intro _ h1
  dsimp only
  split
  · exact applyEff_kept h1 (hf _ _ (getCore_kept h1))
  · exact h1

theorem execEvent_kept {core : Nat} {pkt : Packet} (hs : Kept s₀ s) : Answers s₀ (execEvent core pkt s) := by
  unfold execEvent
  split
  · exact ⟨_, rfl, hs⟩
  · exact ⟨_, rfl, stepPacket_kept hs (fun _ _ h1 => acceptEvent_kept h1)⟩

theorem prefetch_kept {v : Env} {c : Core} (hc : CoreFrom s₀ c) : EffFrom s₀ (prefetch v c) := by
  unfold prefetch
  split
  · exact EffFrom.of hc
  · dsimp only
    split
    · exact EffFrom.of (CoreFrom.fields hc)
    · split
      · exact EffFrom.of hc
      · split
        · exact EffFrom.of hc
        · exact issueRead_kept (CoreFrom.fields hc)

theorem spillLine_kept {v : Env} {c : Core} (hc : CoreFrom s₀ c) : EffFrom s₀ (spillLine v c) := by
  unfold spillLine
  split
  · exact EffFrom.of hc
  · split
    · exact EffFrom.of hc
    · exact EffFrom.of (CoreFrom.fields hc)

theorem penToRing_kept {c : Core} {p : PenEnt} (hc : CoreFrom s₀ c) : CoreFrom s₀ (penToRing c p) := by
  unfold penToRing
  exact toRing_kept (CoreFrom.fields hc)

theorem penReturn_kept {v : Env} {c : Core} (hc : CoreFrom s₀ c) : EffFrom s₀ (penReturn v c) := by
  unfold penReturn
  split
  · exact EffFrom.of hc
  · dsimp only
    split
    · exact EffFrom.of hc
    · split
      · exact lose_kept (CoreFrom.fields hc)
      · split
        · exact issueRead_kept (CoreFrom.fields hc)
        · split
          · split
            · exact EffFrom.of hc
            · exact toPen_kept (penToRing_kept (CoreFrom.fields hc))
          · exact EffFrom.of (penToRing_kept hc)

theorem penData_kept {v : Env} {c : Core} {tag : Nat} {bad : Bool} (hc : CoreFrom s₀ c) : EffFrom s₀ (penData v c tag bad) := by
  unfold penData
  dsimp only
  split
  · exact EffFrom.foldl (fun _ _ h1 => EffFrom.of ((lose_kept h1.core).core)) (EffFrom.of (CoreFrom.fields hc))
  · exact EffFrom.of (CoreFrom.fields hc)

theorem fetched_kept {r : DepotRead} {c : Core} (hc : CoreFrom s₀ c) : CoreFrom s₀ (fetched r c) := by
  unfold fetched
  split
  · exact hc
  · dsimp only
    exact CoreFrom.fields (bufPut_kept hc)

theorem readDone_kept {v : Env} {c : Core} {r : DepotRead} (hc : CoreFrom s₀ c) : EffFrom s₀ (readDone v c r) := by
  unfold readDone
  dsimp only
  split
  · exact EffFrom.of (fetched_kept (CoreFrom.fields hc))
  · split
    · exact EffFrom.of (CoreFrom.fields hc)
    · split
      · exact EffFrom.of (CoreFrom.fields (CoreFrom.fields hc))
      · exact integrateWith_kept (CoreFrom.fields (CoreFrom.fields hc))
  · exact penData_kept (CoreFrom.fields hc)
  · exact EffFrom.of hc
  · exact EffFrom.of (bufPut_kept hc)

theorem takeData_kept {v : Env} {c : Core} {p : Packet} {badBursts : List Nat} (hc : CoreFrom s₀ c) :
    EffFrom s₀ (takeData v c p badBursts) := by
  unfold takeData
  split
  · exact EffFrom.of hc
  · dsimp only
    split
    · refine EffFrom.of ?_
      refine EffFrom.core ?_
      refine readDone_kept ?_
      split
      · exact CoreFrom.fields hc
      · exact cntLo_kept (CoreFrom.fields hc)
    · refine EffFrom.of ?_
      split
      · exact CoreFrom.fields hc
      · exact cntLo_kept (CoreFrom.fields hc)

end Sys2Proof.Machine
end

section
/-! SUPPORT. What the functions of Queues keep. -/

namespace Sys2Proof.Machine

variable {s₀ s t : State}

theorem setQSt_kept {c : Core} {q : Nat} {w : BitVec 64} (hc : CoreFrom s₀ c) : CoreFrom s₀ (setQSt c q w) := by
  unfold setQSt
  exact ldmSet_kept hc

theorem setQState_kept {c : Core} {q st : Nat} (hc : CoreFrom s₀ c) : CoreFrom s₀ (setQState c q st) := by
  unfold setQState
  exact setQSt_kept hc

theorem arrive_kept {c : Core} {q arrived pending : Nat} (hc : CoreFrom s₀ c) : CoreFrom s₀ (arrive c q arrived pending) := by
  unfold arrive
  exact setQSt_kept hc

theorem depart_kept {c : Core} {q done : Nat} (hc : CoreFrom s₀ c) : CoreFrom s₀ (depart c q done) := by
  unfold depart
  exact setQSt_kept hc

theorem syncKind_kept {c : Core} {q : Nat} (hc : CoreFrom s₀ c) : CoreFrom s₀ (syncKind c q) := by
  unfold syncKind
  exact setQSt_kept hc

theorem openQueue_kept {c : Core} {q bump : Nat} (hc : CoreFrom s₀ c) : CoreFrom s₀ (openQueue c q bump) := by
  unfold openQueue
  exact setQSt_kept (syncKind_kept (CoreFrom.fields hc))

theorem setChan_kept {c : Core} {n : Nat} {r : BitVec 128} {last : Option Status} {changes nacks : Nat} (hc : CoreFrom s₀ c) :
    CoreFrom s₀ (setChan c n r last changes nacks) := by
  unfold setChan
  exact ldmSet_kept (CoreFrom.fields hc)

theorem giveCredit_kept {c : Core} {n : Nat} (hc : CoreFrom s₀ c) : CoreFrom s₀ (giveCredit c n) := by
  unfold giveCredit
  exact setChan_kept hc

theorem matchFreed_kept {c : Core} {n : Nat} (hc : CoreFrom s₀ c) : CoreFrom s₀ (matchFreed c n) := by
  unfold matchFreed
  exact setChan_kept hc

theorem replySlotFreed_kept {c : Core} {q : Nat} (hc : CoreFrom s₀ c) : CoreFrom s₀ (replySlotFreed c q) := by
  unfold replySlotFreed
  split
  · exact hc
  · exact matchFreed_kept (setChan_kept hc)

theorem freeReply_kept {c : Core} {n : Nat} (hc : CoreFrom s₀ c) : CoreFrom s₀ (freeReply c n) := by
  unfold freeReply
  split
  · exact setQState_kept hc
  · exact hc

theorem settle_kept {c : Core} (hc : CoreFrom s₀ c) : CoreFrom s₀ (settle c) := by
  unfold settle
  refine CoreFrom.foldl ?_ hc
  intro _ _ h1
  split
  · refine CoreFrom.fields ?_
    split
    · exact setChan_kept (freeReply_kept h1)
    · exact freeReply_kept h1
  · exact h1

theorem releaseChan_kept {c : Core} {n : Nat} {free : Bool} (hc : CoreFrom s₀ c) : CoreFrom s₀ (releaseChan c n free) := by
  unfold releaseChan
  exact settle_kept (CoreFrom.fields hc)

theorem wakeCredit_kept {c : Core} {n : Nat} (hc : CoreFrom s₀ c) : CoreFrom s₀ (wakeCredit c n) := by
  unfold wakeCredit
  split
  · split
    · exact CoreFrom.hndFields hc
    · exact hc
  · exact hc

theorem setTallyTook_kept {c : Core} {q r : Nat} {l : List Word} (hc : CoreFrom s₀ c) : CoreFrom s₀ (setTallyTook c q r l) := by
  unfold setTallyTook
  exact CoreFrom.fields hc

theorem tallyAdd_kept {n a : Nat} {x : Int} {c : Core} (hc : CoreFrom s₀ c) : CoreFst s₀ (tallyAdd n a x c) := by
  unfold tallyAdd
  exact CoreFst.of (ldmSet_kept hc)

theorem tallySum_kept {c : Core} {e : BitVec 128} {r : Nat} {p : Packet} (hc : CoreFrom s₀ c) :
    CoreFst s₀ (tallySum c e r p) := by
  unfold tallySum
  dsimp only
  split
  · exact tallyAdd_kept hc
  · exact tallyAdd_kept hc
  · exact CoreFst.foldl (fun _ _ h1 => CoreFst.of ((tallyAdd_kept h1.fst).fst)) (CoreFst.of hc)

theorem tallyComplete_kept {c : Core} {q r : Nat} (hc : CoreFrom s₀ c) : CoreFrom s₀ (tallyComplete c q r) := by
  unfold tallyComplete
  exact arrive_kept (CoreFrom.fields (ldmSet_kept hc))

theorem takeTally_kept {c : Core} {p : Packet} (hc : CoreFrom s₀ c) : CoreFrom s₀ (takeTally c p) := by
  unfold takeTally
  dsimp only
  exact CoreFrom.ite (tallyComplete_kept (setTallyTook_kept (cntHi_kept (CoreFrom.ite (cntHi_kept (setQSt_kept ((tallySum_kept
      hc).fst))) ((tallySum_kept hc).fst))))) (setTallyTook_kept (cntHi_kept (CoreFrom.ite (cntHi_kept (setQSt_kept
      ((tallySum_kept hc).fst))) ((tallySum_kept hc).fst))))

theorem clearRound_kept {c : Core} {q r : Nat} (hc : CoreFrom s₀ c) : CoreFrom s₀ (clearRound c q r) := by
  unfold clearRound
  exact setTallyTook_kept (setQSt_kept (CoreFrom.foldl (fun _ _ h1 => ldmSet_kept h1) hc))

theorem releaseRound_kept {v : Env} {c : Core} {q r : Nat} (hc : CoreFrom s₀ c) : EffFrom s₀ (releaseRound v c q r) := by
  unfold releaseRound
  split
  · exact EffFrom.of hc
  · exact EffFrom.of (clearRound_kept hc)

theorem dropCompletions_kept {c : Core} {q : Nat} (hc : CoreFrom s₀ c) : CoreFrom s₀ (dropCompletions c q) := by
  have h1 := CoreFrom.foldl (l := List.range (c.q.msgs.filter fun m => m.kind == 1 && m.queue == q).length)
    (f := fun c _ => depart c q 0) (fun _ _ h => depart_kept h) hc
  refine h1.of_eq rfl ?_
  dsimp only [dropCompletions]
  split <;> rfl

theorem discardRounds_kept {v : Env} {c : Core} {q : Nat} (hc : CoreFrom s₀ c) : EffFrom s₀ (discardRounds v c q) := by
  unfold discardRounds
  exact EffFrom.of (dropCompletions_kept (clearRound_kept (clearRound_kept hc)))

theorem landMsg_kept {c : Core} {p : Packet} {k : Nat} (hc : CoreFrom s₀ c) : CoreFrom s₀ (landMsg c p k) := by
  unfold landMsg
  refine cntHi_kept ?_
  refine arrive_kept ?_
  refine CoreFrom.fields ?_
  refine ldmSet_kept ?_
  split
  · exact hc
  · exact ldmSet_kept hc

theorem countDrop_kept {c : Core} {st : Status} {logged : Bool} (hc : CoreFrom s₀ c) : CoreFrom s₀ (countDrop c st logged) := by
  unfold countDrop
  dsimp only
  split
  · refine cntLo_kept ?_
    split
    · exact cntLo_kept (cntLo_kept hc)
    · exact cntLo_kept hc
  · split
    · exact cntLo_kept (cntLo_kept hc)
    · exact cntLo_kept hc

theorem takeMessage_kept {core : Nat} {p : Packet} (hs : Kept s₀ s) : Kept s₀ (takeMessage s core p) := by
  unfold takeMessage
  refine fromPort_kept hs ?_
  intro _ h1
  dsimp only
  split
  · split
    · exact clogTile_kept (applyEff_kept h1 (EffFrom.of (countDrop_kept (getCore_kept h1))))
    · exact applyEff_kept h1 (EffFrom.of (countDrop_kept (getCore_kept h1)))
  · split
    · exact applyEff_kept h1 (EffFrom.of (takeTally_kept (getCore_kept h1)))
    · exact applyEff_kept h1 (EffFrom.of (landMsg_kept (getCore_kept h1)))

theorem execMsg_kept {core : Nat} {pkt : Packet} (hs : Kept s₀ s) : Answers s₀ (execMsg core pkt s) :=
  ⟨_, rfl, takeMessage_kept hs⟩

theorem execTally_kept {core : Nat} {pkt : Packet} (hs : Kept s₀ s) : Answers s₀ (execTally core pkt s) :=
  ⟨_, rfl, takeMessage_kept hs⟩

theorem openStart_kept {v : Env} {c : Core} {report dev core cls rcls : Nat} {notice : Bool} {hidx : Nat} (hc : CoreFrom s₀ c) :
    EffFrom s₀ (openStart v c report dev core cls rcls notice hidx) := by
  unfold openStart
  split
  · exact EffFrom.of (setChan_kept (openQueue_kept (CoreFrom.fields hc)))
  · exact EffFrom.of (setChan_kept hc)

theorem takeOpen_kept {v : Env} {c : Core} {p : Packet} (hc : CoreFrom s₀ c) : EffFrom s₀ (takeOpen v c p) := by
  refine EffFrom.ite (EffFrom.of hc) ?_
  split
  · have h1 : ∀ {q e}, CoreFrom s₀ (openQueue { c with q := { c.q with table := nset 0 c.q.table q e } } q 1) :=
      openQueue_kept (CoreFrom.fields hc)
    refine EffFrom.ite ?_ (EffFrom.of h1)
    split
    · exact EffFrom.of h1
    · exact EffFrom.of (arrive_kept (CoreFrom.fields (ldmSet_kept h1)))
  · split
    · exact EffFrom.of hc
    · exact EffFrom.of (ldmSet_kept (CoreFrom.fields hc))

theorem chanStep_kept {core : Nat} {pkt : Packet} {f : Env → Core → Eff} (hs : Kept s₀ s)
    (hf : ∀ x0 x1, CoreFrom s₀ x1 → EffFrom s₀ (f x0 x1)) : Kept s₀ (chanStep s core pkt f) := by
  unfold chanStep
  exact fromPort_kept hs (fun _ h1 => applyEff_kept h1 (hf _ _ (getCore_kept h1)))

theorem execOpenChannel_kept {core : Nat} {pkt : Packet} (hs : Kept s₀ s) : Answers s₀ (execOpenChannel core pkt s) :=
  ⟨_, rfl, chanStep_kept hs (fun _ _ h1 => takeOpen_kept h1)⟩

theorem unmatched_kept {c : Core} (hc : CoreFrom s₀ c) : CoreFrom s₀ (unmatched c) := by
  unfold unmatched
  exact cntHi_kept hc

theorem takeOpenAck_kept {v : Env} {c : Core} {p : Packet} (hc : CoreFrom s₀ c) : EffFrom s₀ (takeOpenAck v c p) := by
  unfold takeOpenAck
  dsimp only
  split
  · exact EffFrom.of hc
  · split
    · exact EffFrom.of (setChan_kept hc)
    · exact EffFrom.of (wakeCredit_kept (setChan_kept hc))

theorem execOpenAck_kept {core : Nat} {pkt : Packet} (hs : Kept s₀ s) : Answers s₀ (execOpenAck core pkt s) :=
  ⟨_, rfl, chanStep_kept hs (fun _ _ h1 => takeOpenAck_kept h1)⟩

theorem takeCreditOf_kept {c : Core} {p : Packet} (hc : CoreFrom s₀ c) : CoreFrom s₀ (takeCreditOf c p) := by
  unfold takeCreditOf
  dsimp only
  split
  · exact unmatched_kept hc
  · refine wakeCredit_kept ?_
    split
    · exact giveCredit_kept hc
    · exact giveCredit_kept (setChan_kept hc)
    · exact setChan_kept hc

theorem execQcredit_kept {core : Nat} {pkt : Packet} (hs : Kept s₀ s) : Answers s₀ (execQcredit core pkt s) :=
  ⟨_, rfl, chanStep_kept hs (fun _ _ h1 => EffFrom.of (takeCreditOf_kept h1))⟩

theorem nackChan_kept {c : Core} {p : Packet} (hc : CoreFrom s₀ c) : CoreFrom s₀ (nackChan c p) := by
  unfold nackChan
  dsimp only
  split
  · split
    · exact setQState_kept hc
    · exact unmatched_kept hc
  · split
    · exact wakeCredit_kept (freeReply_kept (setChan_kept hc))
    · split
      · exact releaseChan_kept (setChan_kept hc)
      · split
        · exact wakeCredit_kept (setChan_kept hc)
        · split
          · exact wakeCredit_kept (setChan_kept hc)
          · split
            · exact wakeCredit_kept (setChan_kept hc)
            · exact setChan_kept hc

theorem nackHost_kept {p : Packet} (hs : Kept s₀ s) : Kept s₀ (nackHost s p) := by
  unfold nackHost
  split
  · exact hs
  · exact complete_kept hs

theorem nackReadout_kept {p : Packet} (hs : Kept s₀ s) : Kept s₀ (nackReadout s p) := by
  unfold nackReadout
  exact Kept.fields hs

theorem closeStart_kept {v : Env} {c : Core} {n : Nat} (hc : CoreFrom s₀ c) : EffFrom s₀ (closeStart v c n) := by
  unfold closeStart
  dsimp only
  split
  · exact EffFrom.of (wakeCredit_kept (setChan_kept hc))
  · split
    · exact EffFrom.of (setChan_kept hc)
    · exact EffFrom.of (wakeCredit_kept (setChan_kept hc))
  · exact EffFrom.of (releaseChan_kept hc)
  · exact EffFrom.of (releaseChan_kept hc)
  · exact EffFrom.of hc

theorem takeClose_kept {v : Env} {c : Core} {p : Packet} (hc : CoreFrom s₀ c) : EffFrom s₀ (takeClose v c p) := by
  unfold takeClose
  dsimp only
  split
  · exact EffFrom.of hc
  · split
    · split
      · split
        · exact EffFrom.of (CoreFrom.fields hc)
        · exact EffFrom.of (setQState_kept hc)
      · exact EffFrom.of (setQState_kept (CoreFrom.fields hc))
    · split
      · split
        · exact EffFrom.of (releaseChan_kept hc)
        · exact EffFrom.of (wakeCredit_kept (releaseChan_kept (setChan_kept hc)))
      · split
        · split <;> exact EffFrom.of hc
        · exact EffFrom.of hc

theorem execCloseChannel_kept {core : Nat} {pkt : Packet} (hs : Kept s₀ s) : Answers s₀ (execCloseChannel core pkt s) :=
  ⟨_, rfl, chanStep_kept hs (fun _ _ h1 => takeClose_kept h1)⟩

theorem takeCloseAck_kept {c : Core} {p : Packet} (hc : CoreFrom s₀ c) : CoreFrom s₀ (takeCloseAck c p) := by
  unfold takeCloseAck
  dsimp only
  split
  · exact hc
  · split
    · exact setQState_kept hc
    · split
      · exact releaseChan_kept hc
      · exact hc

theorem execCloseAck_kept {core : Nat} {pkt : Packet} (hs : Kept s₀ s) : Answers s₀ (execCloseAck core pkt s) :=
  ⟨_, rfl, chanStep_kept hs (fun _ _ h1 => EffFrom.of (takeCloseAck_kept h1))⟩

theorem drainDone_kept {v : Env} {c : Core} {q : Nat} (hc : CoreFrom s₀ c) : EffFrom s₀ (drainDone v c q) := by
  unfold drainDone
  dsimp only
  split
  · exact EffFrom.of hc
  · split
    · exact EffFrom.of (setQState_kept (CoreFrom.fields hc))
    · split
      · exact EffFrom.of (CoreFrom.fields hc)
      · exact EffFrom.of hc

theorem execCloseDrainDone_kept {core q : Nat} (hs : Kept s₀ s) : Answers s₀ (execCloseDrainDone core q s) :=
  ⟨_, rfl, applyEff_kept hs (drainDone_kept (getCore_kept hs))⟩

theorem declarePeer_kept {dev a n : Nat} {r rq : BitVec 128} {rqcgen : Nat} {b : Core} (hb : CoreFrom s₀ b) :
    CoreFrom s₀ (declarePeer dev a n r rq rqcgen b) := by
  unfold declarePeer
  dsimp only
  split
  · exact openQueue_kept (CoreFrom.fields hb)
  · exact hb

theorem openDeclared_kept {dev a n : Nat} {r : BitVec 128} (hs : Kept s₀ s) : Kept s₀ (openDeclared dev s a n r) := by
  unfold openDeclared
  refine modCore_kept ?_ (fun _ h1 => setChan_kept h1)
  split
  · refine modCore_kept ?_ (fun _ h1 => declarePeer_kept h1)
    refine setCore_kept hs ?_
    split
    · exact openQueue_kept (CoreFrom.fields (getCore_kept hs))
    · exact getCore_kept hs
  · refine setCore_kept hs ?_
    split
    · exact openQueue_kept (CoreFrom.fields (getCore_kept hs))
    · exact getCore_kept hs

theorem startQueues_kept {c : Core} (hc : CoreFrom s₀ c) : CoreFrom s₀ (startQueues c) := by
  unfold startQueues
  refine CoreFrom.foldl ?_ hc
  intro _ _ h1
  dsimp only
  split
  · exact syncKind_kept h1
  · split
    · exact openQueue_kept (syncKind_kept h1)
    · exact openQueue_kept (syncKind_kept h1)
    · exact CoreFrom.foldl (fun _ _ h2 => ldmSet_kept h2) (CoreFrom.fields (clearRound_kept (clearRound_kept (openQueue_kept
          (syncKind_kept h1)))))
    · exact syncKind_kept h1

theorem startShardQueues_kept {ctx : Nat} (hs : Kept s₀ s) : Kept s₀ (startShardQueues s ctx) := by
  unfold startShardQueues
  exact modShardCores_kept (Kept.foldl (fun _ _ h1 => Kept.foldl (fun _ _ h2 => openDeclared_kept h2) h1) (modShardCores_kept
      hs (fun _ _ h1 => startQueues_kept h1))) (fun _ _ h1 => wakeWord_kept h1)

theorem resetQueues_kept {c : Core} (hc : CoreFrom s₀ c) : CoreFrom s₀ (resetQueues c) :=
  ⟨fun h₀ => ⟨nwf_filter _ _ _ (hc.canonical h₀).1, (hc.canonical h₀).2⟩⟩

theorem execQueueSend_kept {h : Nat} (hs : Kept s₀ s) : Answers s₀ (execQueueSend h s) := by
  unfold execQueueSend
  split
  · exact ⟨_, rfl, hs⟩
  · refine ⟨_, rfl, ?_⟩
    refine withCmd_kept hs ?_
    intro _ _ h1
    dsimp only
    split
    · exact complete_kept h1
    · exact hubSend_kept (begun_kept h1)

end Sys2Proof.Machine
end

section
/-! SUPPORT. What the functions of Neuron keep. -/

namespace Sys2Proof.Machine

variable {s₀ s t : State}

theorem setWord_kept {c : Core} {n : Nat} {w : BitVec 64} (hc : CoreFrom s₀ c) : CoreFrom s₀ (setWord c n w) := by
  unfold setWord
  exact CoreFrom.fields hc

theorem requantWord_kept {c : Core} {n : Nat} {x : Int} (hc : CoreFrom s₀ c) : CoreFrom s₀ (requantWord c n x) := by
  unfold requantWord
  dsimp only
  split
  · refine cntLo_kept ?_
    split
    · exact cntHi_kept (setWord_kept (CoreFrom.fields hc))
    · exact setWord_kept (CoreFrom.fields hc)
  · split
    · exact cntHi_kept (setWord_kept (CoreFrom.fields hc))
    · exact setWord_kept (CoreFrom.fields hc)

theorem evaluate_kept {c : Core} {n : Nat} {s : Word} (hc : CoreFrom s₀ c) : CoreFst s₀ (evaluate c n s) := by
  unfold evaluate
  dsimp only
  refine CoreFst.of ?_
  split
  · refine cntHi_kept ?_
    split
    · exact cntLo_kept (CoreFrom.fields (setWord_kept hc))
    · exact CoreFrom.fields (setWord_kept hc)
  · split
    · exact cntLo_kept (CoreFrom.fields (setWord_kept hc))
    · exact CoreFrom.fields (setWord_kept hc)

theorem evaluateAll_kept {s : Word} {c : Core} {ns : List Nat} (hc : CoreFrom s₀ c) : CoreFst s₀ (evaluateAll s c ns) := by
  induction ns generalizing c with
  | nil => exact .of hc
  | cons n ns ih => exact .of (ih (evaluate_kept hc).fst).fst

theorem refresh_kept {s : Word} {c : Core} {n : Nat} (hc : CoreFrom s₀ c) : CoreFrom s₀ (refresh s c n) := by
  unfold refresh
  dsimp only
  exact requantWord_kept (setWord_kept (CoreFrom.fields hc))

theorem sweep_kept {c : Core} {s : Word} (hc : CoreFrom s₀ c) : CoreFrom s₀ (sweep c s) := by
  unfold sweep
  exact CoreFrom.foldl (fun _ _ h1 => refresh_kept h1) hc

theorem closeNeurons_kept {c : Core} (hc : CoreFrom s₀ c) : CoreFrom s₀ (closeNeurons c) := by
  unfold closeNeurons
  exact CoreFrom.fields (CoreFrom.foldl (fun _ _ h1 => CoreFrom.fields (requantWord_kept h1)) hc)

end Sys2Proof.Machine
end

section
/-! SUPPORT. What the functions of Learning keep. -/

namespace Sys2Proof.Machine

variable {s₀ s t : State}

theorem setSide_kept {c : Core} {i : Nat} {q : BitVec 16} (hc : CoreFrom s₀ c) : CoreFrom s₀ (setSide c i q) := by
  unfold setSide
  exact ldmSet_kept hc

theorem sideFlag_kept {c : Core} {i b : Nat} {x : Bool} (hc : CoreFrom s₀ c) : CoreFrom s₀ (sideFlag c i b x) := by
  unfold sideFlag
  exact setSide_kept hc

theorem backPop_kept {c : Core} (hc : CoreFrom s₀ c) : CoreFrom s₀ (backPop c) := by
  unfold backPop
  exact CoreFrom.fields hc

theorem backPush_kept {c : Core} {i : Nat} (hc : CoreFrom s₀ c) : CoreFrom s₀ (backPush c i) := by
  unfold backPush
  split
  · exact cntLo_kept hc
  · exact cntHi_kept (sideFlag_kept (CoreFrom.fields (ldmSet_kept hc)))

theorem eagerPush_kept {c : Core} {i : Nat} {hit : Bool} (hc : CoreFrom s₀ c) : CoreFrom s₀ (eagerPush c i hit) := by
  unfold eagerPush
  split
  · exact cntLo_kept hc
  · exact sideFlag_kept (CoreFrom.fields (ldmSet_kept hc))

theorem createEntry_kept {d : BitVec 128} {g : BitVec 1024} {w : RowWork} {n : Nat} {y : Int} (hw : RowFrom s₀ w) :
    RowFrom s₀ (createEntry d g w n y) := by
  unfold createEntry
  split
  · exact hw
  · dsimp only
    split
    · exact RowFrom.of (cntHi_kept hw.core)
    · exact RowFrom.of hw.core

theorem updateElem_kept {d : BitVec 128} {w : RowWork} {n : Nat} {y : Int} (hw : RowFrom s₀ w) :
    RowFrom s₀ (updateElem d w n y) := by
  unfold updateElem
  refine RowFrom.of ?_
  split
  · exact cntHi_kept hw.core
  · exact hw.core

theorem evalElem_kept {d : BitVec 128} {g : BitVec 1024} {hit : Bool} {w : RowWork} {n : Nat} (hw : RowFrom s₀ w) :
    RowFrom s₀ (evalElem d g hit w n) := by
  unfold evalElem
  dsimp only
  split
  · refine createEntry_kept ?_
    refine RowFrom.of ?_
    split
    · exact cntLo_kept hw.core
    · exact hw.core
  · refine RowFrom.ite ?_ ?_
    · refine RowFrom.of ?_
      split
      · exact cntLo_kept hw.core
      · exact hw.core
    · refine updateElem_kept ?_
      refine RowFrom.of ?_
      split
      · exact cntLo_kept hw.core
      · exact hw.core

theorem evalRow_kept {d : BitVec 128} {g : BitVec 1024} {hit : Bool} {w : RowWork} (hw : RowFrom s₀ w) :
    RowFrom s₀ (evalRow d g hit w) := by
  unfold evalRow
  exact RowFrom.foldl (fun _ _ h1 => evalElem_kept h1) hw

theorem pruneRow_kept {i : Nat} {g : BitVec 1024} {w : RowWork} (hw : RowFrom s₀ w) : RowFrom s₀ (pruneRow i g w) := by
  unfold pruneRow
  dsimp only
  split
  · exact hw
  · split
    · exact RowFrom.of (sideFlag_kept (setDesc_kept hw.core))
    · split
      · exact RowFrom.of (setDesc_kept hw.core)
      · split
        · exact RowFrom.of (cntLo_kept (setDesc_kept hw.core))
        · exact RowFrom.of (setDesc_kept hw.core)

theorem chargeLearn_kept {c : Core} {n : Nat} (hc : CoreFrom s₀ c) : CoreFrom s₀ (chargeLearn c n) := by
  unfold chargeLearn
  exact chargePorts_kept hc

theorem storeRow_kept {c : Core} {d : BitVec 128} {old new : List Line} {deferred : Bool} (hc : CoreFrom s₀ c) :
    CoreFrom s₀ (storeRow c d old new deferred) := by
  unfold storeRow
  exact CoreFrom.fields hc

theorem deferredRow_kept {c : Core} {r : LearnRow} {ls0 : List Line} (hc : CoreFrom s₀ c) :
    CoreFrom s₀ (deferredRow c r ls0) := by
  unfold deferredRow
  dsimp only
  exact CoreFrom.ite (CoreFrom.ite ((RowFrom.ite (pruneRow_kept (RowFrom.of (CoreFrom.ite (sideFlag_kept ((RowFrom.ite
      (evalRow_kept (RowFrom.of (chargeLearn_kept hc))) (RowFrom.of (chargeLearn_kept hc))).core)) ((RowFrom.ite (evalRow_kept
      (RowFrom.of (chargeLearn_kept hc))) (RowFrom.of (chargeLearn_kept hc))).core)))) (RowFrom.of (CoreFrom.ite (sideFlag_kept
      ((RowFrom.ite (evalRow_kept (RowFrom.of (chargeLearn_kept hc))) (RowFrom.of (chargeLearn_kept hc))).core)) ((RowFrom.ite
      (evalRow_kept (RowFrom.of (chargeLearn_kept hc))) (RowFrom.of (chargeLearn_kept hc))).core)))).core) (CoreFrom.fields
      ((RowFrom.ite (pruneRow_kept (RowFrom.of (CoreFrom.ite (sideFlag_kept ((RowFrom.ite (evalRow_kept (RowFrom.of
      (chargeLearn_kept hc))) (RowFrom.of (chargeLearn_kept hc))).core)) ((RowFrom.ite (evalRow_kept (RowFrom.of
      (chargeLearn_kept hc))) (RowFrom.of (chargeLearn_kept hc))).core)))) (RowFrom.of (CoreFrom.ite (sideFlag_kept
      ((RowFrom.ite (evalRow_kept (RowFrom.of (chargeLearn_kept hc))) (RowFrom.of (chargeLearn_kept hc))).core)) ((RowFrom.ite
      (evalRow_kept (RowFrom.of (chargeLearn_kept hc))) (RowFrom.of (chargeLearn_kept hc))).core)))).core))) (storeRow_kept
      ((RowFrom.ite (pruneRow_kept (RowFrom.of (CoreFrom.ite (sideFlag_kept ((RowFrom.ite (evalRow_kept (RowFrom.of
      (chargeLearn_kept hc))) (RowFrom.of (chargeLearn_kept hc))).core)) ((RowFrom.ite (evalRow_kept (RowFrom.of
      (chargeLearn_kept hc))) (RowFrom.of (chargeLearn_kept hc))).core)))) (RowFrom.of (CoreFrom.ite (sideFlag_kept
      ((RowFrom.ite (evalRow_kept (RowFrom.of (chargeLearn_kept hc))) (RowFrom.of (chargeLearn_kept hc))).core)) ((RowFrom.ite
      (evalRow_kept (RowFrom.of (chargeLearn_kept hc))) (RowFrom.of (chargeLearn_kept hc))).core)))).core))

theorem setWork_kept {c : Core} {w : Option LearnWork} (hc : CoreFrom s₀ c) : CoreFrom s₀ (setWork c w) := by
  unfold setWork
  exact CoreFrom.fields hc

theorem learnRow_kept {c : Core} {w : LearnWork} {i : Nat} {hit eval prune : Bool} (hc : CoreFrom s₀ c) :
    CoreFrom s₀ (learnRow c w i hit eval prune) := by
  unfold learnRow
  dsimp only
  split
  · exact setWork_kept hc
  · split
    · refine setWork_kept ?_
      split
      · exact CoreFrom.fields hc
      · exact hc
    · refine setWork_kept ?_
      refine deferredRow_kept ?_
      split
      · exact CoreFrom.fields hc
      · exact hc

theorem issueLearned_kept {v : Env} {c : Core} {w : LearnWork} {r : LearnRow} (hc : CoreFrom s₀ c) :
    EffFrom s₀ (issueLearned v c w r) := by
  unfold issueLearned
  dsimp only
  split
  · exact EffFrom.of hc
  · exact EffFrom.of (setWork_kept ((issueRead_kept hc).core))

theorem learnArrived_kept {c d : Core} {w : LearnWork} (hc : CoreFrom s₀ c) (h : learnArrived c w = some d) :
    CoreFrom s₀ d := by
  unfold learnArrived at h
  split at h
  · cases h
  · split at h
    · cases h
    · split at h
      · cases h
      · obtain rfl := Option.some.inj h
        refine setWork_kept ?_
        split
        · exact hc.of_eq rfl rfl
        · exact deferredRow_kept (hc.of_eq rfl rfl)

theorem backlogItem_kept {c : Core} {w : LearnWork} {s : Word} (hc : CoreFrom s₀ c) : CoreFrom s₀ (backlogItem c w s) := by
  unfold backlogItem
  dsimp only
  split
  · exact setWork_kept (backPop_kept hc)
  · split
    · exact setWork_kept (chargeLearn_kept hc)
    · exact learnRow_kept (sideFlag_kept (sideFlag_kept (setSide_kept (setDesc_kept (CoreFrom.fields (backPop_kept hc))))))

theorem passItem_kept {c : Core} {w : LearnWork} {s : Word} {i : Nat} (hc : CoreFrom s₀ c) : CoreFrom s₀ (passItem c w s i) :=
    by
  unfold passItem
  dsimp only
  exact CoreFrom.ite (setWork_kept (sideFlag_kept hc)) (CoreFrom.ite (setWork_kept (sideFlag_kept hc)) (CoreFrom.ite
      (learnRow_kept (eagerPush_kept (sideFlag_kept (setSide_kept (setDesc_kept (CoreFrom.fields hc)))))) (CoreFrom.ite
      (CoreFrom.ite (learnRow_kept (sideFlag_kept (setSide_kept (setDesc_kept (CoreFrom.fields hc))))) (learnRow_kept
      (backPush_kept (sideFlag_kept (setSide_kept (setDesc_kept (CoreFrom.fields hc))))))) (learnRow_kept (sideFlag_kept
      (setSide_kept (setDesc_kept (CoreFrom.fields hc))))))))

theorem learnItem_kept {c : Core} {w : LearnWork} {s : Word} (hc : CoreFrom s₀ c) : CoreFrom s₀ (learnItem c w s) := by
  unfold learnItem
  split
  · exact setWork_kept (chargeLearn_kept (sweep_kept hc))
  · split
    · split
      · exact setWork_kept (chargeLearn_kept hc)
      · exact backlogItem_kept hc
    · split
      · split
        · exact setWork_kept hc
        · exact hc
      · exact passItem_kept hc

theorem learnGo_kept {v : Env} {s : Word} {n : Nat} {e : Eff} (he : EffFrom s₀ e) : EffFrom s₀ (learnGo v s n e) := by
  induction n generalizing e with
  | zero => exact he
  | succ n ih =>
    unfold learnGo
    split
    · exact he
    · split
      · rename_i hx
        have hd := learnArrived_kept he.core hx
        split
        · exact ih (.of hd)
        · exact .of (holdMem_kept he.core)
      · split
        · dsimp only
          split
          · exact he
          · exact ih (.of (issueLearned_kept he.core).core)
        · dsimp only
          split
          · exact he
          · split
            · exact ih (.of (learnItem_kept he.core))
            · exact .of (holdMem_kept he.core)

theorem learnBegin_kept {v : Env} {c : Core} {s : Word} (hc : CoreFrom s₀ c) : EffFrom s₀ (learnBegin v c s) := by
  unfold learnBegin
  exact learnGo_kept (EffFrom.of (setWork_kept (CoreFrom.fields hc)))

theorem learnResume_kept {v : Env} {c : Core} (hc : CoreFrom s₀ c) : EffFrom s₀ (learnResume v c) := by
  unfold learnResume
  exact learnGo_kept (EffFrom.of hc)

theorem outriderWork_kept {core : Nat} {f : Env → Core → Eff} (hs : Kept s₀ s)
    (hf : ∀ x0 x1, CoreFrom s₀ x1 → EffFrom s₀ (f x0 x1)) : Kept s₀ (outriderWork s core f) := by
  unfold outriderWork
  exact applyEff_kept hs (EffFrom.of ((learnResume_kept ((hf _ _ (getCore_kept hs)).core)).core))

theorem execOutriderPrefetch_kept {core : Nat} (hs : Kept s₀ s) : Answers s₀ (execOutriderPrefetch core s) :=
  ⟨_, rfl, outriderWork_kept hs (fun _ _ h1 => prefetch_kept h1)⟩

theorem execPenSpillWrite_kept {core : Nat} (hs : Kept s₀ s) : Answers s₀ (execPenSpillWrite core s) :=
  ⟨_, rfl, outriderWork_kept hs (fun _ _ h1 => spillLine_kept h1)⟩

theorem execPenReturn_kept {core : Nat} (hs : Kept s₀ s) : Answers s₀ (execPenReturn core s) :=
  ⟨_, rfl, outriderWork_kept hs (fun _ _ h1 => penReturn_kept h1)⟩

theorem execDdata_kept {core : Nat} {pkt : Packet} (hs : Kept s₀ s) : Answers s₀ (execDdata core pkt s) := by
  unfold execDdata
  refine ⟨_, rfl, ?_⟩
  refine fromPort_kept hs ?_
  intro _ h1
  dsimp only
  split
  · exact applyEff_kept h1 (EffFrom.of ((learnResume_kept ((takeData_kept (getCore_kept h1)).core)).core))
  · exact h1

theorem freshCopy_kept {c0 c : Core} {r : RingEnt} (hc : CoreFrom s₀ c) : CoreFrom s₀ (freshCopy c0 c r) := by
  unfold freshCopy
  split
  · exact bufPut_kept hc
  · exact hc

theorem commitLearn_kept {v : Env} {c : Core} (hc : CoreFrom s₀ c) : EffFrom s₀ (commitLearn v c) := by
  unfold commitLearn
  exact EffFrom.of (CoreFrom.fields (CoreFrom.foldl (fun _ _ h1 => freshCopy_kept h1) (chargeLearn_kept hc)))

theorem eagerTake_kept {c : Core} (hc : CoreFrom s₀ c) : CoreFrom s₀ (eagerTake c) := by
  unfold eagerTake
  dsimp only
  split
  · exact CoreFrom.fields hc
  · split
    · exact CoreFrom.fields (sideFlag_kept (CoreFrom.fields hc))
    · exact sideFlag_kept (CoreFrom.fields hc)

theorem eagerLine_kept {c : Core} {i : Nat} {hit : Bool} {k : Nat} (hc : CoreFrom s₀ c) : CoreFrom s₀ (eagerLine c i hit k) :=
    by
  unfold eagerLine
  dsimp only
  exact CoreFrom.ite (CoreFrom.fields hc) (storeRow_kept (CoreFrom.fields (CoreFrom.ite (sideFlag_kept ((RowFrom.foldl (fun _ _
      h1 => evalElem_kept h1) (RowFrom.of (chargeLearn_kept hc))).core)) ((RowFrom.foldl (fun _ _ h1 => evalElem_kept h1)
      (RowFrom.of (chargeLearn_kept hc))).core))))

theorem eagerStep_kept {v : Env} {c : Core} (hc : CoreFrom s₀ c) : CoreFrom s₀ (eagerStep v c) := by
  unfold eagerStep
  split
  · exact hc
  · split
    · exact holdMem_kept hc
    · dsimp only
      split
      · split
        · exact eagerTake_kept hc
        · exact hc
      · refine eagerLine_kept ?_
        split
        · exact eagerTake_kept hc
        · exact hc

theorem execEagerEvaluate_kept {core : Nat} (hs : Kept s₀ s) : Answers s₀ (execEagerEvaluate core s) :=
  ⟨_, rfl, setCore_kept hs (eagerStep_kept (getCore_kept hs))⟩

theorem discardLearn_kept {c : Core} (hc : CoreFrom s₀ c) : CoreFrom s₀ (discardLearn c) := by
  unfold discardLearn
  exact CoreFrom.fields hc

theorem modWriteCore_kept {c : Core} {now : Bool} {value : Nat} {step : Word} (hc : CoreFrom s₀ c) :
    CoreFrom s₀ (modWriteCore c now value step) := by
  unfold modWriteCore
  dsimp only
  split
  · exact ldmSet_kept hc
  · exact ldmSet_kept (ldmSet_kept hc)

theorem modBoundary_kept {c : Core} {s : Word} (hc : CoreFrom s₀ c) : CoreFrom s₀ (modBoundary c s) := by
  unfold modBoundary
  dsimp only
  split
  · split
    · exact cntLo_kept (ldmSet_kept hc)
    · exact ldmSet_kept hc
  · exact hc

theorem execModDeliver_kept {core : Nat} {pkt : Packet} (hs : Kept s₀ s) : Answers s₀ (execModDeliver core pkt s) := by
  unfold execModDeliver
  refine ⟨_, rfl, ?_⟩
  refine fromPort_kept hs ?_
  intro _ h1
  dsimp only
  split
  · exact setCore_kept h1 (modWriteCore_kept (getCore_kept h1))
  · exact h1

end Sys2Proof.Machine
end

section
/-! SUPPORT. What the functions of StepTime keep. -/

namespace Sys2Proof.Machine

variable {s₀ s t : State}

theorem advance_kept {n : Nat} {c : Core} (hc : CoreFrom s₀ c) : CoreFrom s₀ (advance n c) := by
  induction n generalizing c with
  | zero => exact hc
  | succ n ih =>
    unfold advance
    dsimp only
    split
    · exact ih (hc.of_eq rfl rfl)
    · exact hc

theorem countRearguard_kept {c : Core} {t : Word} (hc : CoreFrom s₀ c) : CoreFrom s₀ (countRearguard c t) := by
  unfold countRearguard
  exact advance_kept (CoreFrom.fields hc)

theorem updHalt_kept {c : Core} (hc : CoreFrom s₀ c) : CoreFrom s₀ (updHalt c) := by
  unfold updHalt
  split
  · dsimp only
    split
    · exact CoreFrom.fields hc
    · exact cntHi_kept (CoreFrom.fields hc)
  · exact CoreFrom.fields hc

theorem openStep_kept {v : Env} {c : Core} (hc : CoreFrom s₀ c) : EffFrom s₀ (openStep v c) := by
  unfold openStep
  refine integrateAll_kept ?_
  refine EffFrom.of ?_
  refine CoreFrom.fields ?_
  refine modBoundary_kept ?_
  refine CoreFrom.fields ?_
  split
  · exact cntLo_kept hc
  · exact hc

theorem execIntegrateBegin_kept {core : Nat} (hs : Kept s₀ s) : Answers s₀ (execIntegrateBegin core s) := by
  unfold execIntegrateBegin
  dsimp only
  split
  · exact ⟨_, rfl, applyEff_kept hs (openStep_kept (getCore_kept hs))⟩
  · exact ⟨_, rfl, setCore_kept hs (updHalt_kept (getCore_kept hs))⟩

theorem setPhase_kept {c : Core} {p : Phase} (hc : CoreFrom s₀ c) : CoreFrom s₀ (setPhase c p) := by
  unfold setPhase
  exact CoreFrom.fields hc

theorem execIntegrateEnd_kept {core : Nat} (hs : Kept s₀ s) : Answers s₀ (execIntegrateEnd core s) := by
  unfold execIntegrateEnd
  dsimp only
  split
  · exact ⟨_, rfl, setCore_kept hs (setPhase_kept (getCore_kept hs))⟩
  · exact ⟨_, rfl, hs⟩

theorem execRearguard_kept {core : Nat} {pkt : Packet} (hs : Kept s₀ s) : Answers s₀ (execRearguard core pkt s) :=
  ⟨_, rfl, stepPacket_kept hs (fun _ _ h1 => EffFrom.of (updHalt_kept (countRearguard_kept h1)))⟩

theorem countCredit_kept {c : Core} {t : Word} (hc : CoreFrom s₀ c) : CoreFrom s₀ (countCredit c t) := by
  unfold countCredit
  exact CoreFrom.fields hc

theorem execCredit_kept {core : Nat} {pkt : Packet} (hs : Kept s₀ s) : Answers s₀ (execCredit core pkt s) :=
  ⟨_, rfl, stepPacket_kept hs (fun _ _ h1 => EffFrom.of (countCredit_kept h1))⟩

theorem takeRelease_kept {v : Env} {c : Core} {t : Word} (hc : CoreFrom s₀ c) : EffFrom s₀ (takeRelease v c t) := by
  unfold takeRelease
  split
  · exact EffFrom.of hc
  · exact EffFrom.of (updHalt_kept (cntHi_kept (CoreFrom.fields hc)))

theorem execRelease_kept {core : Nat} {pkt : Packet} (hs : Kept s₀ s) : Answers s₀ (execRelease core pkt s) :=
  ⟨_, rfl, stepPacket_kept hs (fun _ _ h1 => takeRelease_kept h1)⟩

theorem noteFire_kept {v : Env} {s : Word} {n k : Nat} {c : Core} {r : ReadRange} (hc : CoreFrom s₀ c) :
    CoreFrom s₀ (noteFire v s n k c r) := by
  unfold noteFire
  dsimp only
  split
  · exact ldmSet_kept hc
  · exact hc

theorem clearRange_kept {c : Core} {r : ReadRange} (hc : CoreFrom s₀ c) : CoreFrom s₀ (clearRange c r) := by
  unfold clearRange
  exact CoreFrom.foldl (fun _ _ h1 => ldmSet_kept h1) hc

theorem fireStep_kept {v : Env} {c : Core} (hc : CoreFrom s₀ c) : EffFrom s₀ (fireStep v c) := by
  unfold fireStep
  dsimp only
  exact EffFrom.of (CoreFrom.foldl (fun _ _ h1 => CoreFrom.foldl (fun _ _ h2 => noteFire_kept h2) h1) ((evaluateAll_kept
      (CoreFrom.fields hc)).fst))

theorem execFireBegin_kept {core : Nat} (hs : Kept s₀ s) : Answers s₀ (execFireBegin core s) := by
  unfold execFireBegin
  dsimp only
  split
  · exact ⟨_, rfl, applyEff_kept hs (fireStep_kept (getCore_kept hs))⟩
  · exact ⟨_, rfl, hs⟩

theorem endFire_kept {v : Env} {c : Core} (hc : CoreFrom s₀ c) : EffFrom s₀ (endFire v c) := by
  unfold endFire
  exact EffFrom.of ((learnBegin_kept hc).core)

theorem execFireEnd_kept {core : Nat} (hs : Kept s₀ s) : Answers s₀ (execFireEnd core s) := by
  unfold execFireEnd
  dsimp only
  split
  · exact ⟨_, rfl, applyEff_kept hs (endFire_kept (getCore_kept hs))⟩
  · exact ⟨_, rfl, hs⟩

theorem execLearnEnd_kept {core : Nat} (hs : Kept s₀ s) : Answers s₀ (execLearnEnd core s) := by
  unfold execLearnEnd
  dsimp only
  split
  · exact ⟨_, rfl, setCore_kept hs (closeNeurons_kept (setPhase_kept (getCore_kept hs)))⟩
  · exact ⟨_, rfl, hs⟩

theorem endClose_kept {v : Env} {c : Core} (hc : CoreFrom s₀ c) : EffFrom s₀ (endClose v c) := by
  unfold endClose
  exact EffFrom.of (updHalt_kept (advance_kept (CoreFrom.fields (CoreFrom.foldl (fun _ _ h1 => clearRange_kept h1)
      ((commitLearn_kept hc).core)))))

theorem execStepWatchdogExpire_kept {core : Nat} (hs : Kept s₀ s) : Answers s₀ (execStepWatchdogExpire core s) := by
  unfold execStepWatchdogExpire
  dsimp only
  split
  · exact ⟨_, rfl, applyEff_kept hs (EffFrom.of (CoreFrom.fields (getCore_kept hs)))⟩
  · exact ⟨_, rfl, hs⟩

end Sys2Proof.Machine
end

section
/-! SUPPORT. What the functions of TileRegs keep. -/

namespace Sys2Proof.Machine

variable {s₀ s t : State}

theorem gateWrite_kept {core g : Nat} {isB : Bool} {v : Word} (hs : Kept s₀ s) : Kept s₀ (gateWrite s core g isB v) := by
  unfold gateWrite
  split
  · exact hs
  · exact setTileGate_kept hs

theorem clearHeld_kept {core g : Nat} (hs : Kept s₀ s) : Kept s₀ (clearHeld s core g) := by
  unfold clearHeld
  split
  · exact modCore_kept hs (fun _ h1 => CoreFrom.fields h1)
  · exact modCore_kept hs (fun _ h1 => CoreFrom.fields h1)
  · exact setTileGate_kept hs

theorem stepWrite_kept {c : Core} {off : Nat} {v : Word} (hc : CoreFrom s₀ c) : CoreFrom s₀ (stepWrite c off v) := by
  unfold stepWrite
  split
  · exact updHalt_kept (CoreFrom.fields hc)
  · exact CoreFrom.fields hc
  · exact CoreFrom.fields hc
  · exact CoreFrom.fields hc
  · exact CoreFrom.fields hc
  · exact CoreFrom.fields hc
  · exact CoreFrom.fields hc
  · exact hc

/-- No register of the handler unit's window is a scalar register. -/
theorem handlerWrite_kept {c : Core} {off : Nat} {v : Word} (hc : CoreFrom s₀ c) : CoreFrom s₀ (handlerWrite c off v) := by
  refine hc.of_eq rfl ?_
  dsimp only [handlerWrite]
  split <;> rfl

theorem queueWrite_kept {c : Core} {off : Nat} {v : Word} (hc : CoreFrom s₀ c) : CoreFrom s₀ (queueWrite c off v) := by
  unfold queueWrite
  dsimp only
  split
  · exact CoreFrom.fields hc
  · split
    · exact CoreFrom.fields hc
    · split
      · exact syncKind_kept (CoreFrom.fields hc)
      · split
        · exact CoreFrom.fields hc
        · split
          · exact setChan_kept hc
          · exact hc

theorem countWrite_kept {c : Core} {off : Nat} {v : Word} (hc : CoreFrom s₀ c) : CoreFrom s₀ (countWrite c off v) := by
  unfold countWrite
  split
  · exact cntSet_kept hc
  · exact hc

theorem tileWrite_kept {core off : Nat} {v : Word} (hs : Kept s₀ s) : Kept s₀ (tileWrite s core off v) := by
  unfold tileWrite
  split
  · split
    · exact gateWrite_kept hs
    · exact hs
  · refine modCore_kept hs ?_
    intro _ h1
    split
    · exact stepWrite_kept h1
    · split
      · exact handlerWrite_kept h1
      · split
        · exact queueWrite_kept h1
        · split
          · exact countWrite_kept h1
          · exact h1

theorem tileReadClear_kept {core off : Nat} (hs : Kept s₀ s) : Kept s₀ (tileReadClear s core off) := by
  unfold tileReadClear
  split
  · exact hs
  · split
    · exact clearHeld_kept hs
    · split
      · exact modCore_kept hs (fun _ h1 => cntSet_kept h1)
      · exact hs

end Sys2Proof.Machine
end

section
/-! SUPPORT. What the functions of Depot keep. -/

namespace Sys2Proof.Machine

variable {s₀ s t : State}

theorem regionWrite_kept {ctx : Nat} {edge : Bool} {off : Nat} {bs : List Byte} (hs : Kept s₀ s) :
    Kept s₀ (regionWrite s ctx edge off bs) := by
  unfold regionWrite
  split
  · exact hs
  · exact Kept.fields hs

theorem depotServe_kept {p : Packet} (hs : Kept s₀ s) : Kept s₀ (depotServe s p) := by
  unfold depotServe
  dsimp only
  split
  · exact hs
  · split
    · exact Kept.fields hs
    · split
      · exact hs
      · exact Kept.foldl (fun _ _ h1 => Kept.fields h1) hs

theorem setDdrGate_kept {ch : Nat} {g : Gate} (hs : Kept s₀ s) : Kept s₀ (setDdrGate s ch g) := by
  unfold setDdrGate
  exact Kept.fields hs

theorem chargeBursts_kept {edge : Bool} {bursts : List Nat} {k : Nat} (hs : Kept s₀ s) :
    Kept s₀ (chargeBursts s edge bursts k) := by
  unfold chargeBursts
  exact Kept.foldl (fun _ _ h1 => setDdrGate_kept h1) hs

theorem chargeRegion_kept {ctx : Nat} {edge : Bool} {off n k : Nat} (hs : Kept s₀ s) :
    Kept s₀ (chargeRegion s ctx edge off n k) := by
  unfold chargeRegion
  exact chargeBursts_kept hs

theorem failBursts_kept {p : Packet} {failing : List Nat} (hs : Kept s₀ s) : Kept s₀ (failBursts s p failing) := by
  unfold failBursts
  exact Kept.fields hs

theorem execDreq_kept {request : DepotRequest} (hs : Kept s₀ s) : Answers s₀ (execDreq request s) := by
  unfold execDreq
  dsimp only
  split
  · exact ⟨_, rfl, depotServe_kept (failBursts_kept (chargeBursts_kept (Kept.fields hs)))⟩
  · exact ⟨_, rfl, hs⟩

end Sys2Proof.Machine
end

section
/-! SUPPORT. What the functions of Fabric keep. -/

namespace Sys2Proof.Machine

variable {s₀ s t : State}

theorem returnPkt_kept {tile : Nat} {p : Packet} {st : Status} (hs : Kept s₀ s) : Kept s₀ (returnPkt s tile p st) := by
  unfold returnPkt
  split
  · exact hs
  · dsimp only
    exact Kept.fields hs

theorem unreserve_kept {p : Packet} (hs : Kept s₀ s) : Kept s₀ (unreserve s p) := by
  unfold unreserve
  split
  · exact hs
  · split
    · exact hs
    · exact modPort_kept hs

theorem lostAbsent_kept {tile : Nat} {p : Packet} (hs : Kept s₀ s) : Kept s₀ (lostAbsent s tile p) := by
  unfold lostAbsent
  exact returnPkt_kept (Kept.fields hs)

/-- What the head of a buffer is, is found without a change but of the fabric and the ports. -/
theorem lookAhead_kept {tile port : Nat} {f : Flight} (hs : Kept s₀ s) : Kept s₀ (lookAhead s tile port f).state := by
  unfold lookAhead
  split
  · exact unreserve_kept hs
  · split
    · split
      · split <;> exact hs
      · exact hs
    · split
      · exact hs.of_eq rfl rfl
      · split
        · exact hs
        · exact lostAbsent_kept hs
        · dsimp only
          split
          · show Kept s₀ (if _ then _ else _)
            split
            · exact lostAbsent_kept hs
            · exact hs
          · show Kept s₀ (if _ then _ else _)
            split
            · exact lostAbsent_kept hs
            · exact hs

theorem setWayGate_kept {tile g : Nat} {x : Gate} (hs : Kept s₀ s) : Kept s₀ (setWayGate s tile g x) := by
  unfold setWayGate
  exact Kept.fields hs

theorem charge_kept {tile out : Nat} {p : Packet} (hs : Kept s₀ s) : Kept s₀ (charge s tile out p) := by
  unfold charge
  exact setWayGate_kept hs

theorem portEnter_kept {tile q : Nat} {p : Packet} (hs : Kept s₀ s) : Kept s₀ (portEnter s tile q p) := by
  unfold portEnter
  dsimp only
  split
  · exact returnPkt_kept (setPort_kept hs)
  · exact setPort_kept hs

theorem takeOut_kept {tile out : Nat} {p : Packet} (hs : Kept s₀ s) : Kept s₀ (takeOut s tile out p) := by
  unfold takeOut
  split
  · split
    · exact hs
    · dsimp only
      split <;> exact Kept.fields (modCore_kept hs (fun _ h1 => CoreFrom.fields h1))
  · exact Kept.fields hs
  · split
    · exact hubTake_kept hs
    · exact portEnter_kept hs

theorem moveOut_kept {tile out : Nat} {fs : List Flight} (hs : Kept s₀ s) : Kept s₀ (moveOut s tile out fs) := by
  unfold moveOut
  dsimp only
  split
  · exact Kept.fields (Kept.fields hs)
  · exact Kept.foldl (fun _ _ h1 => takeOut_kept h1) (Kept.fields hs)

theorem putBuf_kept {tile port vc : Nat} {fs : List Flight} (hs : Kept s₀ s) : Kept s₀ (putBuf s tile port vc fs) := by
  unfold putBuf
  exact Kept.fields hs

theorem tryOut_kept {tile port vc out : Nat} (hs : Kept s₀ s) : Kept s₀ (tryOut tile port vc s out) := by
  unfold tryOut
  dsimp only
  split
  · exact hs
  · split
    · exact hs
    · split
      · exact setWayGate_kept hs
      · exact moveOut_kept (charge_kept (putBuf_kept hs))

theorem forward_kept {tile port vc : Nat} (hs : Kept s₀ s) : Kept s₀ (forward s tile port vc) := by
  have tryAll : ∀ t, Kept s₀ t → Kept s₀ ((List.range 7).foldl (tryOut tile port vc) t) :=
    fun _ ht => Kept.foldl (fun _ _ h => tryOut_kept h) ht
  unfold forward
  split
  · rename_i f _ _
    have h1 := lookAhead_kept (tile := tile) (port := port) (f := f) hs
    split
    · rename_i heq
      rw [heq] at h1
      exact putBuf_kept h1
    · rename_i heq
      rw [heq] at h1
      exact tryAll _ (putBuf_kept h1)
  · exact tryAll _ hs

theorem slotLost_kept {tile port vc : Nat} (hs : Kept s₀ s) : Kept s₀ (slotLost s tile port vc) := by
  unfold slotLost
  split
  · exact hs
  · exact Kept.fields (putBuf_kept (Kept.foldl (fun _ _ h1 => unreserve_kept h1) hs))

theorem execWaystationForward_kept {tile port vc : Nat} {flips : List Nat} (hs : Kept s₀ s) :
    Answers s₀ (execWaystationForward tile port vc flips s) := by
  unfold execWaystationForward
  split
  · exact ⟨_, rfl, hs⟩
  · refine ⟨_, rfl, ?_⟩
    split
    · exact slotLost_kept (Kept.fields hs)
    · exact forward_kept (Kept.fields hs)

theorem turnCore_kept {n : Nat} (hs : Kept s₀ s) : Kept s₀ (turnCore s n) := by
  unfold turnCore
  exact applyEff_kept hs (learnResume_kept (CoreFrom.fields (getCore_kept hs)))

theorem turnWindow_kept (hs : Kept s₀ s) : Kept s₀ (turnWindow s) := by
  unfold turnWindow
  exact Kept.foldl (fun _ _ h1 => turnCore_kept h1) (Kept.fields hs)

theorem execTollWindowBoundary_kept (hs : Kept s₀ s) : Answers s₀ (execTollWindowBoundary s) :=
  ⟨_, rfl, turnWindow_kept hs⟩

theorem regRsp_kept {core : Nat} {p : Packet} {discarded : Bool} {v : Word} (hs : Kept s₀ s) :
    Kept s₀ (regRsp s core p discarded v) := by
  unfold regRsp
  exact coreSend_kept hs

theorem tileWriteBy_kept {core mid off : Nat} {v : Word} (hs : Kept s₀ s) : Kept s₀ (tileWriteBy s core mid off v) := by
  unfold tileWriteBy
  split
  · exact violTile_kept hs
  · split
    · exact modCore_kept hs (fun _ h1 => CoreFrom.fields h1)
    · exact tileWrite_kept hs

theorem execRegWr_kept {core : Nat} {pkt : Packet} (hs : Kept s₀ s) : Answers s₀ (execRegWr core pkt s) :=
  ⟨_, rfl, regRsp_kept (tileWriteBy_kept (portDone_kept hs))⟩

theorem tileReadBy_kept {core mid off : Nat} (hs : Kept s₀ s) : KeptSnd s₀ (tileReadBy s core mid off) := by
  unfold tileReadBy
  split
  · exact KeptSnd.of (violTile_kept hs)
  · exact KeptSnd.of (tileReadClear_kept hs)

theorem execRegRd_kept {core : Nat} {pkt : Packet} (hs : Kept s₀ s) : Answers s₀ (execRegRd core pkt s) :=
  ⟨_, rfl, regRsp_kept (tileReadBy_kept (portDone_kept hs)).snd⟩

theorem execRegRsp_kept {pkt : Packet} (hs : Kept s₀ s) : Answers s₀ (execRegRsp pkt s) := by
  unfold execRegRsp
  dsimp only
  split
  · exact ⟨_, rfl, hubDone_kept hs⟩
  · exact ⟨_, rfl, Kept.fields (hubDone_kept hs)⟩

end Sys2Proof.Machine
end

section
/-! SUPPORT. What the functions of Records keep. -/

namespace Sys2Proof.Machine

variable {s₀ s t : State}

theorem applyReg_kept {core : Nat} {r : ActionRecord} (hs : Kept s₀ s) : Kept s₀ (applyReg s core r) := by
  unfold applyReg
  split
  · exact tileWrite_kept hs
  · exact modCore_kept hs (fun _ h1 => ldmPut_kept h1)

theorem applyGroup_kept {c : Core} {r : ActionRecord} (hc : CoreFrom s₀ c) : CoreFrom s₀ (applyGroup c r) := by
  unfold applyGroup
  exact CoreFrom.fields hc

theorem applyDesc_kept {c : Core} {sc : Option Word} {r : ActionRecord} (hc : CoreFrom s₀ c) :
    CoreFrom s₀ (applyDesc c sc r) := by
  unfold applyDesc
  dsimp only
  split
  · exact ldmSet_kept (CoreFrom.fields (setDesc_kept hc))
  · exact CoreFrom.fields (setDesc_kept hc)

theorem applyLines_kept {c : Core} {r : ActionRecord} (hc : CoreFrom s₀ c) : CoreFrom s₀ (applyLines c r) := by
  unfold applyLines
  exact CoreFrom.fields hc

theorem applyFill_kept {core : Nat} {r : ActionRecord} (hs : Kept s₀ s) : Kept s₀ (applyFill s core r) := by
  unfold applyFill
  exact modCore_kept (chargeRegion_kept hs) (fun _ h1 => CoreFrom.fields h1)

theorem applyCode_kept {c : Core} {r : ActionRecord} (hc : CoreFrom s₀ c) : CoreFrom s₀ (applyCode c r) := by
  unfold applyCode
  exact CoreFrom.hndFields hc

theorem applyTally_kept {v : Env} {c : Core} {r : ActionRecord} {rs : List ActionRecord} (hc : CoreFrom s₀ c) :
    EffFrom s₀ (applyTally v c r rs) := by
  unfold applyTally
  exact EffFrom.of (CoreFrom.foldl (fun _ _ h1 => ldmSet_kept h1) (clearRound_kept (clearRound_kept (CoreFrom.fields
      ((discardRounds_kept hc).core)))))

theorem setInList_kept {c : Core} {es : List Nat} (hc : CoreFrom s₀ c) : CoreFrom s₀ (setInList c es) := by
  unfold setInList
  exact CoreFrom.fields (CoreFrom.foldl (fun _ _ h1 => ldmSet_kept h1) hc)

theorem applyIngest_kept {c : Core} {r : ActionRecord} (hc : CoreFrom s₀ c) : CoreFrom s₀ (applyIngest c r) := by
  unfold applyIngest
  dsimp only
  split <;> exact CoreFrom.fields (setInList_kept hc)

theorem applyState_kept {c : Core} {r : ActionRecord} (hc : CoreFrom s₀ c) : CoreFrom s₀ (applyState c r) := by
  unfold applyState
  exact CoreFrom.foldl (fun _ _ h1 => setWord_kept h1) hc

theorem applyList_kept {c : Core} {r : ActionRecord} (hc : CoreFrom s₀ c) : CoreFrom s₀ (applyList c r) := by
  unfold applyList
  dsimp only
  split <;> exact CoreFrom.fields (CoreFrom.foldl (fun _ _ h1 => ldmPut_kept h1) hc)

theorem applyDcopy_kept {ctx : Nat} {r : ActionRecord} (hs : Kept s₀ s) : Kept s₀ (applyDcopy s ctx r) := by
  unfold applyDcopy
  exact regionWrite_kept (chargeRegion_kept (chargeRegion_kept hs))

theorem applyChan_kept {v : Env} {c : Core} {r : ActionRecord} (hc : CoreFrom s₀ c) : EffFrom s₀ (applyChan v c r) := by
  unfold applyChan
  split
  · exact openStart_kept hc
  · exact closeStart_kept hc

theorem applyRec_kept {core : Nat} {sc : Option Word} {all : List ActionRecord} {r : ActionRecord} (hs : Kept s₀ s) :
    Kept s₀ (applyRec s core sc all r) := by
  unfold applyRec
  dsimp only
  split
  · exact setCore_kept hs (applyGroup_kept (getCore_kept hs))
  · exact setCore_kept hs (applyDesc_kept (getCore_kept hs))
  · exact setCore_kept hs (applyLines_kept (getCore_kept hs))
  · exact setCore_kept hs (ldmSet_kept (getCore_kept hs))
  · exact setCore_kept hs (CoreFrom.hndFields (getCore_kept hs))
  · exact setCore_kept hs (applyCode_kept (getCore_kept hs))
  · exact applyReg_kept hs
  · exact setCore_kept hs (syncKind_kept (CoreFrom.fields (getCore_kept hs)))
  · exact applyEff_kept hs (applyChan_kept (getCore_kept hs))
  · exact applyEff_kept hs (applyChan_kept (getCore_kept hs))
  · split
    · exact applyEff_kept hs (applyTally_kept (getCore_kept hs))
    · exact hs
  · exact setCore_kept hs (applyIngest_kept (getCore_kept hs))
  · exact setCore_kept hs (applyState_kept (getCore_kept hs))
  · exact hs

theorem applyRecs_kept {core : Nat} {sc : Option Word} {rs : List ActionRecord} (hs : Kept s₀ s) :
    Kept s₀ (applyRecs s core sc rs) := by
  unfold applyRecs
  dsimp only
  split
  · exact modCore_kept (Kept.foldl (fun _ _ h1 => applyRec_kept h1) hs) (fun _ h1 => syncGset_kept h1)
  · exact Kept.foldl (fun _ _ h1 => applyRec_kept h1) hs

end Sys2Proof.Machine
end

section
/-! SUPPORT. What the functions of Loader keep. -/

namespace Sys2Proof.Machine

variable {s₀ s t : State}

theorem loadData_kept {f : Fetched} (hs : Kept s₀ s) : Kept s₀ (loadData s f) := by
  unfold loadData
  dsimp only
  split
  · exact complete_kept hs
  · exact complete_kept (regionWrite_kept (chargeRegion_kept hs))

theorem execLoadSectionData_kept {h : Nat} (hs : Kept s₀ s) : Answers s₀ (execLoadSectionData h s) := by
  unfold execLoadSectionData
  refine ⟨_, rfl, ?_⟩
  refine withCmd_kept hs ?_
  intro _ _ h1
  split
  · exact loadData_kept h1
  · exact h1

theorem bindCore_kept {ctx n : Nat} (hs : Kept s₀ s) : Kept s₀ (bindCore s ctx n) := by
  unfold bindCore
  refine modCore_kept hs ?_
  intro _ h1
  split
  · exact h1
  · exact CoreFrom.fields h1

theorem noteSlots_kept {c : Core} {r : ActionRecord} (hc : CoreFrom s₀ c) : CoreFrom s₀ (noteSlots c r) := by
  unfold noteSlots
  exact CoreFrom.fields hc

theorem applySection_kept {ctx : Nat} {all : List ActionRecord} {r : ActionRecord} (hs : Kept s₀ s) :
    Kept s₀ (applySection ctx all s r) := by
  unfold applySection
  dsimp only
  split
  · exact applyFill_kept hs
  · exact modCore_kept (applyRec_kept hs) (fun _ h1 => CoreFrom.hndFields h1)
  · exact modCore_kept hs (fun _ h1 => noteSlots_kept (applyState_kept h1))
  · exact modCore_kept hs (fun _ h1 => noteSlots_kept (applyState_kept h1))
  · exact modCore_kept hs (fun _ h1 => applyList_kept h1)
  · exact applyDcopy_kept hs
  · exact modCore_kept hs (fun _ h1 => CoreFrom.fields h1)
  · exact applyRec_kept hs

theorem setConts_kept {c : Core} (hc : CoreFrom s₀ c) : CoreFrom s₀ (setConts c) := by
  unfold setConts
  exact CoreFrom.foldl (fun _ _ h1 => CoreFrom.foldl (fun _ _ h2 => setDesc_kept (setDesc_kept h2)) h1) hc

theorem derive_kept {shape : Word} {c : Core} (hc : CoreFrom s₀ c) : CoreFrom s₀ (derive shape c) := by
  unfold derive
  exact CoreFrom.fields (syncGset_kept (setConts_kept hc))

theorem loadAll_kept {ctx : Nat} {rs : List ActionRecord} (hs : Kept s₀ s) : Kept s₀ (loadAll s ctx rs) := by
  unfold loadAll
  exact Kept.foldl (fun _ _ h1 => modCore_kept h1 (fun _ h2 => derive_kept h2)) (Kept.foldl (fun _ _ h1 => applySection_kept
      h1) (Kept.foldl (fun _ _ h1 => bindCore_kept h1) hs))

theorem undoSection_kept {old : State} {rs : List ActionRecord} (hs : Kept s₀ s) : Kept s₀ (undoSection old s rs) := by
  unfold undoSection
  refine Kept.foldl ?_ ?_
  · intro _ _ h1
    refine modCore_kept h1 ?_
    intro _ h2
    dsimp only
    split <;> exact CoreFrom.hndFields h2
  · refine Kept.foldl ?_ hs
    intro _ _ h1
    split
    · exact modCore_kept h1 (fun _ h2 => setDesc_kept h2)
    · exact h1

theorem refuseSection_kept {h reason core index : Nat} (hs : Kept s₀ s) : Kept s₀ (refuseSection s h reason core index) := by
  unfold refuseSection
  exact complete_kept hs

theorem loadCommit_kept {f : Fetched} (hs : Kept s₀ s) : Kept s₀ (loadCommit s f) := by
  unfold loadCommit
  dsimp only
  split
  · exact complete_kept hs
  · split
    · exact complete_kept hs
    · split
      · exact refuseSection_kept (chargeRegion_kept hs)
      · split
        · exact refuseSection_kept (chargeRegion_kept hs)
        · split
          · exact complete_kept (undoSection_kept (loadAll_kept (chargeRegion_kept hs)))
          · exact complete_kept (modShard_kept (loadAll_kept (chargeRegion_kept hs)))

theorem execLoadSectionCommit_kept {h : Nat} (hs : Kept s₀ s) : Answers s₀ (execLoadSectionCommit h s) := by
  unfold execLoadSectionCommit
  refine ⟨_, rfl, ?_⟩
  refine withCmd_kept hs ?_
  intro _ _ h1
  split
  · exact loadCommit_kept h1
  · exact h1

end Sys2Proof.Machine
end

section
/-! SUPPORT. What the functions of Timers keep. -/

namespace Sys2Proof.Machine

variable {s₀ s t : State}

theorem tmrWriteCtl_kept {mid i : Nat} {v : Word} (hs : Kept s₀ s) : Kept s₀ (tmrWriteCtl s mid i v) := by
  unfold tmrWriteCtl
  dsimp only
  split
  · exact clogBar_kept hs
  · exact setTmr_kept hs

theorem execTimerCtlWrite_kept {mid i : Nat} {value : Word} (hs : Kept s₀ s) : Answers s₀ (execTimerCtlWrite mid i value s) :=
    by
  unfold execTimerCtlWrite
  split
  · exact ⟨_, rfl, tmrWriteCtl_kept hs⟩
  · exact ⟨_, rfl, hs⟩

theorem execTimerReloadNow_kept {mid i : Nat} (hs : Kept s₀ s) : Answers s₀ (execTimerReloadNow mid i s) := by
  unfold execTimerReloadNow
  dsimp only
  split
  · split
    · exact ⟨_, rfl, clogBar_kept hs⟩
    · exact ⟨_, rfl, setTmr_kept hs⟩
  · exact ⟨_, rfl, hs⟩

theorem execTimerReloadWrite_kept {mid i : Nat} {value : Word} (hs : Kept s₀ s) :
    Answers s₀ (execTimerReloadWrite mid i value s) := by
  unfold execTimerReloadWrite
  dsimp only
  split
  · split
    · exact ⟨_, rfl, clogBar_kept hs⟩
    · exact ⟨_, rfl, setTmr_kept hs⟩
  · exact ⟨_, rfl, hs⟩

theorem execTimerCompareWrite_kept {mid i k : Nat} {value : Word} (hs : Kept s₀ s) :
    Answers s₀ (execTimerCompareWrite mid i k value s) := by
  unfold execTimerCompareWrite
  dsimp only
  split
  · split
    · exact ⟨_, rfl, clogBar_kept hs⟩
    · exact ⟨_, rfl, setTmr_kept hs⟩
  · exact ⟨_, rfl, hs⟩

theorem execTimerTbRead_kept {i : Nat} (hs : Kept s₀ s) : Answers s₀ (execTimerTbRead i s) := by
  unfold execTimerTbRead
  dsimp only
  split
  · exact ⟨_, rfl, hs⟩
  · exact ⟨_, rfl, Kept.fields (setTmr_kept hs)⟩

theorem execTimerCaploRead_kept {i : Nat} (hs : Kept s₀ s) : Answers s₀ (execTimerCaploRead i s) := by
  unfold execTimerCaploRead
  dsimp only
  split
  · exact ⟨_, rfl, hs⟩
  · exact ⟨_, rfl, Kept.fields (setTmr_kept hs)⟩

theorem execTimerTick_kept {i : Nat} (hs : Kept s₀ s) : Answers s₀ (execTimerTick i s) := by
  unfold execTimerTick
  dsimp only
  split
  · exact Answers.ite ⟨_, rfl, wakeFires_kept (Kept.ite (Kept.fields (setTmr_kept hs)) (setTmr_kept hs))⟩ ⟨_, rfl, Kept.ite
        (Kept.fields (setTmr_kept hs)) (setTmr_kept hs)⟩
  · exact ⟨_, rfl, hs⟩

theorem execTimerLinkAction_kept {i : Nat} (hs : Kept s₀ s) : Answers s₀ (execTimerLinkAction i s) := by
  unfold execTimerLinkAction
  dsimp only
  split
  · split
    · exact ⟨_, rfl, setTmr_kept hs⟩
    · exact ⟨_, rfl, setTmr_kept (setTmr_kept hs)⟩
  · exact ⟨_, rfl, hs⟩

theorem captureWhere_kept {p : Timer → Bool} (hs : Kept s₀ s) : Kept s₀ (captureWhere s p) := by
  unfold captureWhere
  exact Kept.foldl (fun _ _ h1 => setTmr_kept h1) hs

theorem syncWatch_kept {ns : List Nat} (hs : Kept s₀ s) : Kept s₀ (syncWatch s ns) := by
  unfold syncWatch
  refine Kept.foldl ?_ hs
  intro _ _ h1
  split
  · exact modCore_kept h1 (fun _ h2 => CoreFrom.fields h2)
  · exact h1

theorem execTriggerCapture_kept {pin : Nat} {rising : Bool} (hs : Kept s₀ s) : Answers s₀ (execTriggerCapture pin rising s) :=
    by
  unfold execTriggerCapture
  dsimp only
  split
  · exact ⟨_, rfl, wakeFires_kept (captureWhere_kept hs)⟩
  · exact ⟨_, rfl, captureWhere_kept hs⟩

end Sys2Proof.Machine
end

section
/-! SUPPORT. What the functions of Pace keep. -/

namespace Sys2Proof.Machine

variable {s₀ s t : State}

theorem sendRelease_kept {ctx step : Nat} (hs : Kept s₀ s) : Kept s₀ (sendRelease s ctx step) := by
  unfold sendRelease
  exact hubSendAll_kept (modShard_kept hs)

theorem execPaceRelease_kept {ctx : Nat} (hs : Kept s₀ s) : Answers s₀ (execPaceRelease ctx s) := by
  unfold execPaceRelease
  split
  · exact ⟨_, rfl, hs⟩
  · exact ⟨_, rfl, sendRelease_kept hs⟩

theorem freeTimer_kept {i : Nat} (hs : Kept s₀ s) : Kept s₀ (freeTimer s i) := by
  unfold freeTimer
  exact syncWatch_kept (setTmr_kept hs)

theorem setPace_kept {ctx i : Nat} {p o t0 : BitVec 64} (hs : Kept s₀ s) : Kept s₀ (setPace s ctx i p o t0) := by
  unfold setPace
  refine modShard_kept ?_
  refine setTmr_kept ?_
  split
  · split
    · exact hs
    · exact freeTimer_kept hs
  · exact hs

theorem execPaceSet_kept {h : Nat} (hs : Kept s₀ s) : Answers s₀ (execPaceSet h s) := by
  unfold execPaceSet
  refine ⟨_, rfl, ?_⟩
  refine withCmd_kept hs ?_
  intro _ _ h1
  dsimp only
  exact Kept.ite (complete_kept h1) (Kept.ite (complete_kept h1) (complete_kept (setPace_kept h1)))

end Sys2Proof.Machine
end

section
/-! SUPPORT. What the functions of Streams keep. -/

namespace Sys2Proof.Machine

variable {s₀ s t : State}

theorem putWork_kept {i : Nat} {x : InWork} (hs : Kept s₀ s) : Kept s₀ (putWork s i x) := by
  unfold putWork
  exact hubSendAll_kept (setIn_kept hs)

theorem placeHeld_kept {i : Nat} (hs : Kept s₀ s) : Kept s₀ (placeHeld s i) := by
  unfold placeHeld
  exact putWork_kept hs

theorem placeAllHeld_kept {ctx : Nat} (hs : Kept s₀ s) : Kept s₀ (placeAllHeld s ctx) := by
  unfold placeAllHeld
  exact Kept.foldl (fun _ _ h1 => placeHeld_kept h1) hs

theorem startStreams_kept {ctx : Nat} (hs : Kept s₀ s) : Kept s₀ (startStreams s ctx) := by
  unfold startStreams
  exact Kept.foldl (fun _ _ h1 => putWork_kept (setIn_kept h1)) hs

theorem stopStreams_kept {ctx : Nat} (hs : Kept s₀ s) : Kept s₀ (stopStreams s ctx) := by
  unfold stopStreams
  refine Kept.foldl ?_ hs
  intro _ _ h1
  dsimp only
  split
  · exact setIn_kept h1
  · exact setIn_kept h1
  · exact h1

theorem resetStreams_kept {ctx : Nat} (hs : Kept s₀ s) : Kept s₀ (resetStreams s ctx) := by
  unfold resetStreams
  exact Kept.foldl (fun _ _ h1 => setIn_kept h1) hs

theorem openStream_kept {ctx : Nat} {d : BitVec 256} {es : List Nat} {first : Option Word} (hs : Kept s₀ s) :
    Kept s₀ (openStream s ctx d es first) := by
  unfold openStream
  dsimp only
  split <;> exact setIn_kept hs

theorem closeStream_kept {ctx i : Nat} {sc : Option Word} (hs : Kept s₀ s) : Kept s₀ (closeStream s ctx i sc) := by
  unfold closeStream
  dsimp only
  split
  · exact hs
  · split
    · exact putWork_kept hs
    · exact putWork_kept hs
    · exact setIn_kept hs

theorem pushDone_kept {h acc late : Nat} (hs : Kept s₀ s) : Kept s₀ (pushDone s h acc late) := by
  unfold pushDone
  exact complete_kept hs

theorem execStreamPush_kept {h : Nat} (hs : Kept s₀ s) : Answers s₀ (execStreamPush h s) := by
  unfold execStreamPush
  refine ⟨_, rfl, ?_⟩
  refine withCmd_kept hs ?_
  intro _ _ h1
  dsimp only
  split
  · exact complete_kept (captureWhere_kept h1)
  · split
    · exact complete_kept (captureWhere_kept h1)
    · split
      · exact pushDone_kept (setIn_kept (captureWhere_kept h1))
      · exact pushDone_kept (putWork_kept (captureWhere_kept h1))

theorem execStreamClose_kept {h : Nat} (hs : Kept s₀ s) : Answers s₀ (execStreamClose h s) := by
  unfold execStreamClose
  refine ⟨_, rfl, ?_⟩
  refine withCmd_kept hs ?_
  intro _ _ h1
  dsimp only
  split
  · exact complete_kept h1
  · split
    · exact complete_kept (setIn_kept h1)
    · split
      · exact complete_kept (putWork_kept h1)
      · exact hs
    · exact complete_kept h1

theorem execStepNotice_kept {pkt : Packet} (hs : Kept s₀ s) : Answers s₀ (execStepNotice pkt s) := by
  unfold execStepNotice
  refine ⟨_, rfl, ?_⟩
  refine Kept.foldl (fun _ _ h1 => putWork_kept h1) ?_
  split
  · exact captureWhere_kept (hubDone_kept hs)
  · exact hubDone_kept hs

theorem execIngestGraceExpire_kept {stream : Nat} (hs : Kept s₀ s) : Answers s₀ (execIngestGraceExpire stream s) := by
  unfold execIngestGraceExpire
  dsimp only
  split
  · split
    · exact ⟨_, rfl, hs⟩
    · exact ⟨_, rfl, putWork_kept hs⟩
  · exact ⟨_, rfl, hs⟩

end Sys2Proof.Machine
end

section
/-! SUPPORT. What the functions of Readout keep. -/

namespace Sys2Proof.Machine

variable {s₀ s t : State}

theorem moveRecs_kept {old new : Core} (hnew : CoreFrom s₀ new) : CoreFrom s₀ (moveRecs old new) := by
  unfold moveRecs
  exact CoreFrom.foldl (fun _ _ h1 => CoreFrom.foldl (fun _ _ h2 => ldmSet_kept h2) h1) hnew

theorem packMap_kept {c : Core} (hc : CoreFrom s₀ c) : CoreFrom s₀ (packMap c) := by
  refine (CoreFst.foldl (fun _ _ h => ?_) (CoreFst.of hc)).fst
  dsimp only
  split
  · exact .of (ldmSet_kept h.fst)
  · exact h

theorem putRange_kept {rs : Nat} {c : Core} {r : BitVec 64} {i p : Nat} (hc : CoreFrom s₀ c) :
    CoreFrom s₀ (putRange rs c r i p) := by
  unfold putRange
  exact ldmSet_kept hc

theorem addRange_kept {rs : Nat} {c d : Core} {g : BitVec 64} (hc : CoreFrom s₀ c) (h : addRange rs c g = some d) :
    CoreFrom s₀ d := by
  unfold addRange at h
  dsimp only at h
  split at h
  · cases h
  · split at h
    · obtain rfl := Option.some.inj h
      exact putRange_kept hc
    · obtain ⟨p, -, rfl⟩ := Option.map_eq_some_iff.1 h
      exact putRange_kept (packMap_kept hc)

theorem addMaps_kept {rs : Nat} {l : List (BitVec 64)} {t : State} (hs : Kept s₀ s) (h : addMaps rs s l = some t) :
    Kept s₀ t := by
  induction l generalizing s with
  | nil => cases h; exact hs
  | cons g l ih =>
    unfold addMaps at h
    split at h
    · cases h
    · rename_i hc
      exact ih (setCore_kept hs (addRange_kept (getCore_kept hs) hc)) h

theorem addRanges_kept {rs : Nat} {l : List (BitVec 64)} {t : State} (hs : Kept s₀ s) (h : addRanges rs s l = some t) :
    Kept s₀ t := by
  obtain ⟨u, hu, rfl⟩ := Option.map_eq_some_iff.1 h
  exact Kept.foldl (fun _ _ h1 => setCore_kept h1 (moveRecs_kept (getCore_kept h1))) (addMaps_kept hs hu)

theorem dropRange_kept {rs : Nat} {c : Core} (hc : CoreFrom s₀ c) : CoreFrom s₀ (dropRange rs c) := by
  unfold dropRange
  refine CoreFrom.foldl ?_ hc
  intro _ _ h1
  dsimp only
  split
  · exact ldmSet_kept h1
  · exact h1

theorem clearRanges_kept {rs : Nat} {c : Core} (hc : CoreFrom s₀ c) : CoreFrom s₀ (clearRanges rs c) := by
  unfold clearRanges
  exact CoreFrom.foldl (fun _ _ h1 => clearRange_kept h1) hc

theorem openEngine_kept {s1 : State} {ctx : Nat} {d : BitVec 64} {rs : List (BitVec 64)} {first : Option Word}
    (hs1 : Kept s₀ s1) : Kept s₀ (openEngine s1 ctx d rs first) := by
  unfold openEngine
  exact setRes_kept hs1

theorem openResult_kept {ctx : Nat} {d : BitVec 64} {rs : List (BitVec 64)} (hs : Kept s₀ s) :
    Kept s₀ (openResult s ctx d rs) := by
  refine openEngine_kept ?_
  cases h : addRanges (rStream d) s rs with
  | none => exact hs
  | some t => exact addRanges_kept hs h

theorem closeEngine_kept {i : Nat} (hs : Kept s₀ s) : Kept s₀ (closeEngine s i) := by
  unfold closeEngine
  exact setRes_kept hs

theorem closeResult_kept {i : Nat} (hs : Kept s₀ s) : Kept s₀ (closeResult s i) := by
  unfold closeResult
  exact closeEngine_kept (Kept.foldl (fun _ _ h1 => modCore_kept h1 (fun _ h2 => dropRange_kept h2)) hs)

theorem startResults_kept {ctx : Nat} (hs : Kept s₀ s) : Kept s₀ (startResults s ctx) := by
  unfold startResults
  exact Kept.foldl (fun _ _ h1 => setRes_kept (Kept.foldl (fun _ _ h2 => modCore_kept h2 (fun _ h3 => clearRanges_kept h3))
      h1)) hs

theorem stopResults_kept {ctx : Nat} (hs : Kept s₀ s) : Kept s₀ (stopResults s ctx) := by
  unfold stopResults
  exact Kept.foldl (fun _ _ h1 => setRes_kept h1) hs

theorem resetResults_kept {ctx : Nat} (hs : Kept s₀ s) : Kept s₀ (resetResults s ctx) := by
  unfold resetResults
  refine Kept.foldl ?_ hs
  intro _ _ h1
  refine setRes_kept ?_
  split
  · exact h1
  · exact closeResult_kept h1

theorem execResultClose_kept {h : Nat} (hs : Kept s₀ s) : Answers s₀ (execResultClose h s) := by
  unfold execResultClose
  refine ⟨_, rfl, ?_⟩
  refine withCmd_kept hs ?_
  intro _ _ h1
  dsimp only
  split
  · exact complete_kept h1
  · exact complete_kept (closeResult_kept h1)

theorem deliverOne_kept {i us : Nat} (hs : Kept s₀ s) : Kept s₀ (deliverOne s i us) := by
  unfold deliverOne
  dsimp only
  split
  · exact hs
  · split
    · split
      · exact cqWrite_kept (setRes_kept hs)
      · exact hs
    · split
      · exact hubSendAll_kept (setRes_kept hs)
      · exact hs

theorem deliverHeld_kept {n i us : Nat} (hs : Kept s₀ s) : Kept s₀ (deliverHeld n s i us) := by
  induction n generalizing s with
  | zero => exact hs
  | succ n ih => exact ih (deliverOne_kept hs)

theorem execReadoutPacket_kept {pkt : Packet} (hs : Kept s₀ s) : Answers s₀ (execReadoutPacket pkt s) := by
  unfold execReadoutPacket
  dsimp only
  split
  · exact ⟨_, rfl, hubDone_kept hs⟩
  · split
    · exact ⟨_, rfl, setRes_kept (hubDone_kept hs)⟩
    · exact ⟨_, rfl, hubDone_kept hs⟩

theorem execLateNotice_kept {pkt : Packet} (hs : Kept s₀ s) : Answers s₀ (execLateNotice pkt s) := by
  unfold execLateNotice
  dsimp only
  split
  · refine ⟨_, rfl, ?_⟩
    refine Kept.foldl ?_ (hubDone_kept hs)
    intro _ _ h1
    split
    · exact setRes_kept h1
    · exact h1
  · exact ⟨_, rfl, hubDone_kept hs⟩

theorem markLosses_kept {ctx : Nat} {step : Word} (hs : Kept s₀ s) : Kept s₀ (markLosses s ctx step) := by
  unfold markLosses
  refine Kept.foldl ?_ hs
  intro _ _ h1
  dsimp only
  split
  · exact h1
  · split
    · exact setRes_kept h1
    · split
      · exact setRes_kept h1
      · split <;> exact setRes_kept h1

theorem execResultLossMark_kept {ctx : Nat} {step : Word} (hs : Kept s₀ s) : Answers s₀ (execResultLossMark ctx step s) :=
  ⟨_, rfl, markLosses_kept hs⟩

theorem execReadoutHoldExpire_kept {stream window latencyUs : Nat} (hs : Kept s₀ s) :
    Answers s₀ (execReadoutHoldExpire stream window latencyUs s) := by
  unfold execReadoutHoldExpire
  dsimp only
  split
  · split
    · exact ⟨_, rfl, hs⟩
    · exact ⟨_, rfl, deliverHeld_kept (setRes_kept hs)⟩
  · exact ⟨_, rfl, hs⟩

theorem retryOne_kept {i : Nat} (hs : Kept s₀ s) : Kept s₀ (retryOne s i) := by
  unfold retryOne
  dsimp only
  split
  · exact hs
  · split
    · exact hubSendAll_kept (setRes_kept hs)
    · exact hs

theorem retryAll_kept {n i : Nat} (hs : Kept s₀ s) : Kept s₀ (retryAll n s i) := by
  induction n generalizing s with
  | zero => exact hs
  | succ n ih => exact ih (retryOne_kept hs)

theorem execReadoutPeerRetry_kept {stream : Nat} (hs : Kept s₀ s) : Answers s₀ (execReadoutPeerRetry stream s) := by
  unfold execReadoutPeerRetry
  dsimp only
  split
  · exact ⟨_, rfl, deliverHeld_kept (retryAll_kept (Kept.fields hs))⟩
  · exact ⟨_, rfl, hs⟩

theorem flushNotices_kept {ctx : Nat} (hs : Kept s₀ s) : Kept s₀ (flushNotices s ctx) := by
  unfold flushNotices
  exact Kept.foldl (fun _ _ h1 => notice_kept h1) (setShard_kept hs)

theorem ringRoom_kept {n : Nat} (hs : Kept s₀ s) : Kept s₀ (ringRoom s n) := by
  unfold ringRoom
  exact Kept.foldl (fun _ _ h1 => flushNotices_kept h1) (Kept.foldl (fun _ _ h1 => deliverHeld_kept (Kept.fields h1)) hs)

theorem cqBell_kept {n : Nat} {value : Word} (hs : Kept s₀ s) : Kept s₀ (cqBell s n value) := by
  unfold cqBell
  dsimp only
  split
  · exact hs
  · split
    · exact clogBar_kept (setCq_kept hs)
    · exact ringRoom_kept (setCq_kept hs)

theorem execCqDoorbell_kept {n : Nat} {value : Word} (hs : Kept s₀ s) : Answers s₀ (execCqDoorbell n value s) :=
  ⟨_, rfl, cqBell_kept hs⟩

end Sys2Proof.Machine
end

section
/-! SUPPORT. What the functions of Convoy keep. -/

namespace Sys2Proof.Machine

variable {s₀ s t : State}

theorem setCvy_kept {m : Member} {l : List MemberConvoy} (hs : Kept s₀ s) : Kept s₀ (setCvy s m l) := by
  unfold setCvy
  split
  · exact modCore_kept hs (fun _ h1 => CoreFrom.fields h1)
  · exact Kept.fields hs

theorem modShare_kept {m : Member} {tag : Nat} {f : MemberConvoy → MemberConvoy} (hs : Kept s₀ s) :
    Kept s₀ (modShare s m tag f) := by
  unfold modShare
  exact setCvy_kept hs

theorem modConvoy_kept {tag : Nat} {f : Convoy → Convoy} (hs : Kept s₀ s) : Kept s₀ (modConvoy s tag f) := by
  unfold modConvoy
  exact Kept.fields hs

theorem dropConvoy_kept {tag : Nat} (hs : Kept s₀ s) : Kept s₀ (dropConvoy s tag) := by
  unfold dropConvoy
  exact Kept.fields hs

theorem addMember_kept {tag dev : Nat} {m : Member} (hs : Kept s₀ s) : Kept s₀ (addMember s tag dev m) := by
  unfold addMember
  exact modConvoy_kept hs

theorem unitCycles_kept {k n : Nat} (hs : Kept s₀ s) : Kept s₀ (unitCycles s k n) := by
  unfold unitCycles
  exact Kept.fields hs

theorem unitTurn_kept {k : Nat} {f : State → State} (hs : Kept s₀ s) (hf : ∀ x0, Kept s₀ x0 → Kept s₀ (f x0)) :
    Kept s₀ (unitTurn s k f) := by
  unfold unitTurn
  split
  · exact hf _ (unitCycles_kept hs)
  · exact hs

theorem memberSend_kept {m : Member} {ctx dev sub tag pay : Nat} (hs : Kept s₀ s) :
    Kept s₀ (memberSend s m ctx dev sub tag pay) := by
  unfold memberSend
  split
  · exact coreSend_kept hs
  · dsimp only
    split
    · exact hubTake_kept hs
    · exact hubSend_kept hs

theorem fanOut_kept {ctx sub st pay : Nat} (hs : Kept s₀ s) : Kept s₀ (fanOut s ctx sub st pay) := by
  unfold fanOut
  exact hubSendAll_kept (unitCycles_kept hs)

theorem toMembers_kept {c : Convoy} {sub st pay : Nat} (hs : Kept s₀ s) : Kept s₀ (toMembers s c sub st pay) := by
  unfold toMembers
  refine hubSendAll_kept ?_
  split
  · refine hubTake_kept ?_
    split
    · exact fanOut_kept hs
    · exact hs
  · split
    · exact fanOut_kept hs
    · exact hs

theorem takeCvy_kept {m : Member} {sub tag : Nat} (hs : Kept s₀ s) : Kept s₀ (takeCvy s m sub tag) := by
  unfold takeCvy
  split
  · exact portDone_kept hs
  · exact hubDone_kept hs
  · exact hs

theorem fromUnit_kept {m : Member} {sub tag : Nat} {f : State → State} (hs : Kept s₀ s)
    (hf : ∀ x0, Kept s₀ x0 → Kept s₀ (f x0)) : Kept s₀ (fromUnit s m sub tag f) := by
  unfold fromUnit
  split
  · split
    · exact hf _ (takeCvy_kept hs)
    · exact hs
  · exact hf _ (takeCvy_kept hs)

theorem joinShare_kept {m : Member} {ctx tag : Nat} (hs : Kept s₀ s) : Kept s₀ (joinShare s m ctx tag) := by
  unfold joinShare
  split
  · exact hs
  · exact setCvy_kept hs

theorem stageAt_kept {m : Member} {ctx tag : Nat} {own : Bool} {r : ActionRecord} (hs : Kept s₀ s) :
    KeptFst s₀ (stageAt s m ctx tag own r) := by
  unfold stageAt
  dsimp only
  split
  · exact KeptFst.of (modShare_kept (joinShare_kept hs))
  · split
    · exact KeptFst.of (memberSend_kept (modShare_kept (joinShare_kept hs)))
    · exact KeptFst.of (modShare_kept (joinShare_kept hs))

theorem stageMaps_kept {ctx tag : Nat} {r : ActionRecord} (hs : Kept s₀ s) : Kept s₀ (stageMaps s ctx tag r) := by
  unfold stageMaps
  split
  · exact hs
  · refine Kept.foldl ?_ hs
    intro _ _ h1
    dsimp only
    split
    · exact h1
    · exact Kept.foldl (fun _ _ h2 => (stageAt_kept h2).fst) (addMember_kept h1)

theorem stageHere_kept {ctx tag : Nat} {own : Bool} {r : ActionRecord} (hs : Kept s₀ s) :
    KeptFst s₀ (stageHere s ctx tag own r) := by
  have h1 : KeptFst s₀ (stageAt (addMember s tag (devNo s) (memberOf r)) (memberOf r) ctx tag own r) :=
    stageAt_kept (addMember_kept hs)
  unfold stageHere
  dsimp only
  split
  · exact KeptFst.of (stageMaps_kept h1.fst)
  · exact KeptFst.of h1.fst

theorem stageFar_kept {ctx tag : Nat} {r : ActionRecord} (hs : Kept s₀ s) : KeptFst s₀ (stageFar s ctx tag r) := by
  unfold stageFar
  exact KeptFst.of (hubSendAll_kept (modConvoy_kept (addMember_kept hs)))

theorem stageOne_kept {ctx tag : Nat} {own : Bool} {r : ActionRecord} (hs : Kept s₀ s) :
    KeptFst s₀ (stageOne s ctx tag own r) := by
  unfold stageOne
  split
  · exact KeptFst.of hs
  · split
    · exact stageFar_kept hs
    · split
      · exact KeptFst.of (modConvoy_kept hs)
      · exact stageHere_kept hs

theorem stageAll_kept {ctx tag : Nat} {own : Bool} {rs : List ActionRecord} (hs : Kept s₀ s) :
    KeptFst s₀ (stageAll ctx tag own s rs) := by
  induction rs generalizing s with
  | nil => exact .of hs
  | cons r rs ih =>
    unfold stageAll
    split
    · rename_i heq
      have h1 := stageOne_kept (ctx := ctx) (tag := tag) (own := own) (r := r) hs
      rw [heq] at h1
      exact ih h1.fst
    · rename_i heq
      have h1 := stageOne_kept (ctx := ctx) (tag := tag) (own := own) (r := r) hs
      rw [heq] at h1
      exact .of h1.fst

theorem answerCmd_kept {c : Option Nat} {st : Status} {result pay : Nat} (hs : Kept s₀ s) :
    Kept s₀ (answerCmd s c st result pay) := by
  unfold answerCmd
  split
  · exact hs
  · exact complete_kept hs

theorem endConvoy_kept {tag : Nat} (hs : Kept s₀ s) : Kept s₀ (endConvoy s tag) := by
  unfold endConvoy
  split
  · exact hs
  · dsimp only
    split
    · exact hs
    · split
      · exact hubSend_kept (dropConvoy_kept hs)
      · split
        · exact answerCmd_kept (answerCmd_kept (dropConvoy_kept hs))
        · exact dropConvoy_kept hs
        · exact hs

theorem decideAbort_kept {c : Convoy} {st : Status} {result reason : Nat} (hs : Kept s₀ s) :
    Kept s₀ (decideAbort s c st result reason) := by
  unfold decideAbort
  exact endConvoy_kept (answerCmd_kept (answerCmd_kept (toMembers_kept (modConvoy_kept hs))))

theorem loseDevice_kept {tags : List Nat} {dev : Nat} {st : Status} (hs : Kept s₀ s) : Kept s₀ (loseDevice s tags dev st) := by
  unfold loseDevice
  refine Kept.foldl ?_ hs
  intro _ _ h1
  split
  · exact h1
  · dsimp only
    split
    · exact h1
    · split
      · exact decideAbort_kept (modConvoy_kept h1)
      · exact endConvoy_kept (answerCmd_kept (modConvoy_kept (modConvoy_kept h1)))

theorem loseFar_kept {c : Convoy} (hs : Kept s₀ s) : Kept s₀ (loseFar s c) := by
  unfold loseFar
  exact Kept.foldl (fun _ _ h1 => loseDevice_kept h1) hs

theorem decideCommit_kept {c : Convoy} (hs : Kept s₀ s) : Kept s₀ (decideCommit s c) := by
  unfold decideCommit
  exact endConvoy_kept (loseFar_kept (toMembers_kept (modConvoy_kept hs)))

theorem allReady_kept {tag : Nat} (hs : Kept s₀ s) : Kept s₀ (allReady s tag) := by
  unfold allReady
  split
  · exact hs
  · split
    · exact hs
    · dsimp only
      split
      · exact decideCommit_kept (answerCmd_kept (modConvoy_kept hs))
      · exact answerCmd_kept (modConvoy_kept hs)

theorem relayReady_kept {tag : Nat} (hs : Kept s₀ s) : Kept s₀ (relayReady s tag) := by
  unfold relayReady
  split
  · exact hs
  · split
    · exact hubSendAll_kept (modConvoy_kept hs)
    · exact hs

theorem takeAnswer_kept {tag dev : Nat} {m : Member} {a : Answer} (hs : Kept s₀ s) : Kept s₀ (takeAnswer s tag dev m a) := by
  unfold takeAnswer
  split
  · exact hs
  · dsimp only
    refine Kept.ite hs ?_
    refine Kept.ite ?_ ?_
    · split
      · exact Kept.ite (endConvoy_kept (modConvoy_kept hs)) (Kept.ite (modConvoy_kept hs) hs)
      · exact hs
    · split
      · exact Kept.ite (hubSend_kept (modConvoy_kept hs)) (decideAbort_kept (modConvoy_kept hs))
      · exact Kept.ite (relayReady_kept (modConvoy_kept hs)) (allReady_kept (modConvoy_kept hs))

theorem takeAck_kept {tag dev : Nat} {m : Member} (hs : Kept s₀ s) : Kept s₀ (takeAck s tag dev m) := by
  unfold takeAck
  exact endConvoy_kept (modConvoy_kept hs)

theorem sendAnswer_kept {m : Member} {ctx tag : Nat} {a : Answer} (hs : Kept s₀ s) : Kept s₀ (sendAnswer s m ctx tag a) := by
  unfold sendAnswer
  split
  · exact takeAnswer_kept hs
  · split <;> exact memberSend_kept hs

theorem sendAck_kept {m : Member} {ctx tag : Nat} (hs : Kept s₀ s) : Kept s₀ (sendAck s m ctx tag) := by
  unfold sendAck
  split
  · exact takeAck_kept hs
  · exact memberSend_kept hs

theorem spoilFills_kept {m : Member} {tag : Nat} {rs : List ActionRecord} (hs : Kept s₀ s) : Kept s₀ (spoilFills s m tag rs) :=
    by
  unfold spoilFills
  split
  · exact hs
  · exact Kept.foldl (fun _ _ h1 => modCore_kept (Kept.fields h1) (fun _ h2 => CoreFrom.fields h2)) hs

theorem discardShare_kept {m : Member} {tag : Nat} {late : Bool} (hs : Kept s₀ s) : Kept s₀ (discardShare s m tag late) := by
  unfold discardShare
  split
  · exact hs
  · dsimp only
    split
    · refine modCore_kept ?_ ?_
      · refine setCvy_kept ?_
        split
        · exact spoilFills_kept hs
        · exact hs
      · intro _ h1
        refine updHalt_kept ?_
        split <;> exact cntLo_kept h1
    · refine placeAllHeld_kept ?_
      refine setCvy_kept ?_
      split
      · exact spoilFills_kept hs
      · exact hs

theorem endPrepare_kept {m : Member} {tag : Nat} (hs : Kept s₀ s) : Kept s₀ (endPrepare s m tag) := by
  unfold endPrepare
  split
  · exact hs
  · dsimp only
    split
    · exact sendAnswer_kept (discardShare_kept hs)
    · exact sendAnswer_kept (modShare_kept hs)

theorem memberPrepare_kept {m : Member} {tag : Nat} {sc : Option Word} (hs : Kept s₀ s) : Kept s₀ (memberPrepare s m tag sc) :=
    by
  unfold memberPrepare
  split
  · exact hs
  · refine Kept.ite hs ?_
    split
    · exact sendAnswer_kept (discardShare_kept hs)
    · dsimp only
      exact Kept.ite (sendAnswer_kept (discardShare_kept hs)) (Kept.ite (modShare_kept hs) (endPrepare_kept (modShare_kept hs)))

theorem applyHubRec_kept {ctx : Nat} {sc : Option Word} {r : ActionRecord} (hs : Kept s₀ s) :
    Kept s₀ (applyHubRec s ctx sc r) := by
  unfold applyHubRec
  split
  · exact openStream_kept hs
  · exact openEngine_kept hs
  · exact closeEngine_kept hs
  · exact hs

theorem applyPace_kept {ctx : Nat} {sc : Option Word} {r : ActionRecord} (hs : Kept s₀ s) : Kept s₀ (applyPace s ctx sc r) := by
  unfold applyPace
  exact modShard_kept hs

theorem applyAtCommit_kept {ctx : Nat} {sc : Option Word} {r : ActionRecord} (hs : Kept s₀ s) :
    Kept s₀ (applyAtCommit s ctx sc r) := by
  unfold applyAtCommit
  split
  · exact applyPace_kept hs
  · exact closeStream_kept hs
  · exact hs

theorem applyShare_kept {m : Member} {x : MemberConvoy} (hs : Kept s₀ s) : Kept s₀ (applyShare s m x) := by
  unfold applyShare
  dsimp only
  split
  · exact Kept.foldl (fun _ _ h1 => applyHubRec_kept h1) (setCvy_kept hs)
  · refine modCore_kept (applyRecs_kept (setCvy_kept hs)) ?_
    intro _ h1
    refine wakeWord_kept ?_
    refine updHalt_kept ?_
    refine advance_kept ?_
    refine cntHi_kept ?_
    split
    · exact h1
    · exact moveRecs_kept h1

theorem memberCommit_kept {m : Member} {tag : Nat} {sc0 : Word} (hs : Kept s₀ s) : Kept s₀ (memberCommit s m tag sc0) := by
  unfold memberCommit
  split
  · exact hs
  · refine Kept.ite hs ?_
    refine sendAck_kept ?_
    refine Kept.ite ?_ ?_
    · split
      · exact placeAllHeld_kept (Kept.foldl (fun _ _ h1 => applyAtCommit_kept h1) (modShare_kept hs))
      · exact modCore_kept (modShare_kept hs) (fun _ h1 => updHalt_kept h1)
    · refine applyShare_kept ?_
      split
      · exact placeAllHeld_kept (Kept.foldl (fun _ _ h1 => applyAtCommit_kept h1) (modShare_kept hs))
      · exact modCore_kept (modShare_kept hs) (fun _ h1 => updHalt_kept h1)

theorem memberAbort_kept {m : Member} {tag : Nat} {late : Bool} (hs : Kept s₀ s) : Kept s₀ (memberAbort s m tag late) := by
  unfold memberAbort
  split
  · exact hs
  · split
    · exact hs
    · exact sendAck_kept (discardShare_kept hs)

theorem relayFor_kept {ctx tag : Nat} {sc : Option Word} (hs : Kept s₀ s) : Kept s₀ (relayFor s ctx tag sc) := by
  unfold relayFor
  split
  · exact hs
  · exact Kept.fields hs

theorem relaySays_kept {c : Convoy} {sub : Nat} (hs : Kept s₀ s) : Kept s₀ (relaySays s c sub) := by
  unfold relaySays
  split
  · split
    · exact hubSend_kept (dropConvoy_kept hs)
    · exact hs
  · split
    · exact hubSend_kept (modConvoy_kept hs)
    · exact relayReady_kept hs

theorem relayOn_kept {tag sub st pay : Nat} {f : Convoy → Convoy} (hs : Kept s₀ s) : Kept s₀ (relayOn s tag sub st pay f) := by
  unfold relayOn
  split
  · exact hs
  · dsimp only
    split
    · exact modConvoy_kept (relayFor_kept hs)
    · exact relaySays_kept (toMembers_kept (modConvoy_kept (relayFor_kept hs)))

theorem refuseRoom_kept {ctx tag : Nat} {r : ActionRecord} (hs : Kept s₀ s) : Kept s₀ (refuseRoom s ctx tag r) := by
  unfold refuseRoom
  exact modShare_kept (joinShare_kept hs)

theorem stageRecord_kept {ctx tag : Nat} {r : ActionRecord} {sc : Option Word} (hs : Kept s₀ s) :
    Kept s₀ (stageRecord s ctx tag r sc) := by
  unfold stageRecord
  dsimp only
  split
  · split
    · exact modConvoy_kept (relayFor_kept hs)
    · exact hubSend_kept (modConvoy_kept (relayFor_kept hs))
  · split
    · exact refuseRoom_kept (relayFor_kept hs)
    · exact (stageHere_kept (relayFor_kept hs)).fst

theorem execConvoyRecordStage_kept {mid : Nat} {record : ActionRecord} (hs : Kept s₀ s) :
    Answers s₀ (execConvoyRecordStage mid record s) := by
  unfold execConvoyRecordStage
  refine ⟨_, rfl, ?_⟩
  refine unitTurn_kept hs ?_
  intro _ h1
  dsimp only
  split
  · exact Kept.foldl (fun _ _ h2 => hubDone_kept h2) h1
  · exact stageRecord_kept (Kept.foldl (fun _ _ h2 => hubDone_kept h2) h1)

theorem execPrepareReceive_kept {m : Member} {tag : Nat} {sc : Option Word} (hs : Kept s₀ s) :
    Answers s₀ (execPrepareReceive m tag sc s) := by
  unfold execPrepareReceive
  refine ⟨_, rfl, ?_⟩
  refine fromUnit_kept hs ?_
  intro _ h1
  refine memberPrepare_kept ?_
  split
  · exact relayOn_kept h1
  · exact h1

theorem execConvoyFillDone_kept {m : Member} {tag : Nat} (hs : Kept s₀ s) : Answers s₀ (execConvoyFillDone m tag s) := by
  unfold execConvoyFillDone
  split
  · split
    · refine ⟨_, rfl, ?_⟩
      refine endPrepare_kept ?_
      refine Kept.foldl ?_ hs
      intro _ _ h1
      split
      · exact h1
      · exact applyFill_kept h1
    · exact ⟨_, rfl, hs⟩
  · exact ⟨_, rfl, hs⟩

theorem execCommitReceive_kept {m : Member} {tag : Nat} {sc : Word} (hs : Kept s₀ s) :
    Answers s₀ (execCommitReceive m tag sc s) := by
  unfold execCommitReceive
  refine ⟨_, rfl, ?_⟩
  refine fromUnit_kept hs ?_
  intro _ h1
  refine memberCommit_kept ?_
  split
  · exact relayOn_kept h1
  · exact h1

theorem execAbortReceive_kept {m : Member} {tag : Nat} (hs : Kept s₀ s) : Answers s₀ (execAbortReceive m tag s) := by
  unfold execAbortReceive
  refine ⟨_, rfl, ?_⟩
  refine fromUnit_kept hs ?_
  intro _ h1
  refine memberAbort_kept ?_
  split
  · exact relayOn_kept h1
  · exact h1

theorem execConvoyApply_kept {m : Member} (hs : Kept s₀ s) : Answers s₀ (execConvoyApply m s) := by
  unfold execConvoyApply
  split
  · exact ⟨_, rfl, hs⟩
  · exact ⟨_, rfl, applyShare_kept hs⟩

theorem orphan_kept {m : Member} {tag : Nat} (hs : Kept s₀ s) : Kept s₀ (orphan s m tag) := by
  unfold orphan
  split
  · exact ctrlNotice_kept (modCore_kept hs (fun _ h1 => cntSet_kept h1))
  · exact hubTake_kept hs

theorem execConvoyMemberTimer_kept {m : Member} {tag : Nat} (hs : Kept s₀ s) : Answers s₀ (execConvoyMemberTimer m tag s) := by
  unfold execConvoyMemberTimer
  split
  · exact ⟨_, rfl, hs⟩
  · split
    · split
      · exact ⟨_, rfl, orphan_kept hs⟩
      · exact ⟨_, rfl, memberSend_kept hs⟩
    · exact ⟨_, rfl, hs⟩

theorem execConvoyBegin_kept {h : Nat} (hs : Kept s₀ s) : Answers s₀ (execConvoyBegin h s) := by
  unfold execConvoyBegin
  refine ⟨_, rfl, ?_⟩
  refine withCmd_kept hs ?_
  intro _ _ h1
  dsimp only
  split
  · exact complete_kept h1
  · exact complete_kept (Kept.fields h1)

theorem execConvoyStage_kept {h : Nat} (hs : Kept s₀ s) : Answers s₀ (execConvoyStage h s) := by
  unfold execConvoyStage
  refine ⟨_, rfl, ?_⟩
  refine withCmd_kept hs ?_
  intro _ _ h1
  split
  · exact complete_kept h1
  · split
    · exact complete_kept h1
    · split
      · exact complete_kept h1
      · dsimp only
        exact complete_kept ((stageAll_kept (unitCycles_kept h1)).fst)

theorem prepare_kept {c : Convoy} (hs : Kept s₀ s) : Kept s₀ (prepare s c) := by
  unfold prepare
  split
  · exact decideAbort_kept hs
  · exact decideAbort_kept hs
  · exact allReady_kept (loseFar_kept (toMembers_kept (modConvoy_kept hs)))

theorem execConvoyPrepare_kept {h : Nat} (hs : Kept s₀ s) : Answers s₀ (execConvoyPrepare h s) := by
  unfold execConvoyPrepare
  refine ⟨_, rfl, ?_⟩
  refine withCmd_kept hs ?_
  intro _ _ h1
  split
  · exact complete_kept h1
  · split
    · exact complete_kept h1
    · exact prepare_kept (modConvoy_kept (begun_kept h1))

theorem execConvoyCommit_kept {h : Nat} (hs : Kept s₀ s) : Answers s₀ (execConvoyCommit h s) := by
  unfold execConvoyCommit
  refine ⟨_, rfl, ?_⟩
  refine withCmd_kept hs ?_
  intro _ _ h1
  split
  · exact complete_kept h1
  · split
    · exact complete_kept h1
    · exact decideCommit_kept (modConvoy_kept (begun_kept h1))

theorem execConvoyAbort_kept {h : Nat} (hs : Kept s₀ s) : Answers s₀ (execConvoyAbort h s) := by
  unfold execConvoyAbort
  refine ⟨_, rfl, ?_⟩
  refine withCmd_kept hs ?_
  intro _ _ h1
  split
  · exact complete_kept h1
  · split
    · exact decideAbort_kept (complete_kept h1)
    · exact complete_kept h1

theorem execConvoyAnswer_kept {tag dev : Nat} {m : Member} {answer : Answer} (hs : Kept s₀ s) :
    Answers s₀ (execConvoyAnswer tag dev m answer s) :=
  ⟨_, rfl, unitTurn_kept hs (fun _ h1 => takeAnswer_kept (takeCvy_kept h1))⟩

theorem execConvoyAck_kept {tag dev : Nat} {m : Member} (hs : Kept s₀ s) : Answers s₀ (execConvoyAck tag dev m s) :=
  ⟨_, rfl, unitTurn_kept hs (fun _ h1 => takeAck_kept (takeCvy_kept h1))⟩

theorem toMember_kept {ctx dev : Nat} {m : Member} {sub st pay : Nat} (hs : Kept s₀ s) :
    Kept s₀ (toMember s ctx dev m sub st pay) := by
  unfold toMember
  split
  · exact hubSend_kept hs
  · dsimp only
    split
    · exact hubTake_kept hs
    · exact hubSend_kept hs

theorem joinLate_kept {c : Convoy} {dev core : Nat} (hs : Kept s₀ s) : Kept s₀ (joinLate s c dev core) := by
  unfold joinLate
  exact toMember_kept (modConvoy_kept (addMember_kept hs))

theorem execJoin_kept {tag dev core : Nat} (hs : Kept s₀ s) : Answers s₀ (execJoin tag dev core s) := by
  unfold execJoin
  refine ⟨_, rfl, ?_⟩
  refine unitTurn_kept hs ?_
  intro _ h1
  dsimp only
  split
  · exact toMember_kept (takeCvy_kept h1)
  · split
    · exact toMember_kept (takeCvy_kept h1)
    · split
      · exact addMember_kept (takeCvy_kept h1)
      · exact joinLate_kept (takeCvy_kept h1)
      · exact toMember_kept (takeCvy_kept h1)

theorem execQuery_kept {tag dev : Nat} {m : Member} (hs : Kept s₀ s) : Answers s₀ (execQuery tag dev m s) := by
  unfold execQuery
  refine ⟨_, rfl, ?_⟩
  refine unitTurn_kept hs ?_
  intro _ h1
  dsimp only
  split
  · exact toMember_kept (takeCvy_kept h1)
  · split <;> exact toMember_kept (takeCvy_kept h1)

theorem execConflict_kept {tag first : Nat} (hs : Kept s₀ s) : Answers s₀ (execConflict tag first s) := by
  unfold execConflict
  refine ⟨_, rfl, ?_⟩
  refine unitTurn_kept hs ?_
  intro _ h1
  dsimp only
  split
  · exact takeCvy_kept h1
  · split
    · exact decideAbort_kept (takeCvy_kept h1)
    · exact takeCvy_kept h1

theorem execConvoyCoordinatorTimeout_kept {tag : Nat} (hs : Kept s₀ s) : Answers s₀ (execConvoyCoordinatorTimeout tag s) := by
  unfold execConvoyCoordinatorTimeout
  split
  · exact ⟨_, rfl, hs⟩
  · split
    · exact ⟨_, rfl, decideAbort_kept hs⟩
    · exact ⟨_, rfl, hs⟩

theorem resetConvoys_kept {ctx : Nat} (hs : Kept s₀ s) : Kept s₀ (resetConvoys s ctx) := by
  unfold resetConvoys
  refine Kept.fields ?_
  refine modShardCores_kept ?_ (fun _ _ h1 => CoreFrom.fields h1)
  refine Kept.foldl (fun _ _ h1 => Kept.foldl (fun _ _ h2 => discardShare_kept h2) h1) ?_
  refine Kept.foldl ?_ hs
  intro _ _ h1
  split
  · exact h1
  · refine dropConvoy_kept ?_
    split
    · exact answerCmd_kept (answerCmd_kept (answerCmd_kept h1))
    · exact hubSendAll_kept (answerCmd_kept (answerCmd_kept (answerCmd_kept h1)))

theorem nackUnit_kept {p : Packet} (hs : Kept s₀ s) : Kept s₀ (nackUnit s p) := by
  unfold nackUnit
  dsimp only
  split
  · exact hs
  · split
    · exact hs
    · split
      · exact loseDevice_kept hs
      · exact hs

theorem execNack_kept {core : Nat} {pkt : Packet} (hs : Kept s₀ s) : Answers s₀ (execNack core pkt s) := by
  unfold execNack
  split
  · dsimp only
    split
    · exact ⟨_, rfl, nackReadout_kept (hubDone_kept hs)⟩
    · split
      · exact ⟨_, rfl, nackHost_kept (hubDone_kept hs)⟩
      · split
        · exact ⟨_, rfl, nackUnit_kept (hubDone_kept hs)⟩
        · exact ⟨_, rfl, hubDone_kept hs⟩
  · refine ⟨_, rfl, ?_⟩
    refine chanStep_kept hs ?_
    intro _ _ h1
    refine EffFrom.of ?_
    split
    · split
      · exact cntHi_kept h1
      · exact h1
    · exact nackChan_kept h1

theorem ownConvoy_kept {f : Fetched} {result : Nat} {recs : Nat → List ActionRecord} (hs : Kept s₀ s) :
    Kept s₀ (ownConvoy s f result recs) := by
  unfold ownConvoy
  split
  · exact complete_kept hs
  · split
    · exact complete_kept hs
    · dsimp only
      split
      · exact (stageAll_kept (Kept.fields (begun_kept hs))).fst
      · exact prepare_kept ((stageAll_kept (Kept.fields (begun_kept hs))).fst)
      · exact decideAbort_kept ((stageAll_kept (Kept.fields (begun_kept hs))).fst)

theorem execStreamOpen_kept {h : Nat} (hs : Kept s₀ s) : Answers s₀ (execStreamOpen h s) := by
  unfold execStreamOpen
  refine ⟨_, rfl, ?_⟩
  refine withCmd_kept hs ?_
  intro _ _ h1
  dsimp only
  split
  · exact complete_kept h1
  · split
    · exact complete_kept h1
    · split
      · exact complete_kept (openStream_kept h1)
      · exact ownConvoy_kept h1

theorem execResultOpen_kept {h : Nat} (hs : Kept s₀ s) : Answers s₀ (execResultOpen h s) := by
  unfold execResultOpen
  refine ⟨_, rfl, ?_⟩
  refine withCmd_kept hs ?_
  intro _ _ h1
  dsimp only
  split
  · exact complete_kept h1
  · split
    · exact complete_kept (openResult_kept h1)
    · exact ownConvoy_kept h1

theorem execLoadSectionCompact_kept {h : Nat} (hs : Kept s₀ s) : Answers s₀ (execLoadSectionCompact h s) := by
  unfold execLoadSectionCompact
  refine ⟨_, rfl, ?_⟩
  refine withCmd_kept hs ?_
  intro _ _ h1
  dsimp only
  split
  · exact h1
  · split
    · exact complete_kept h1
    · exact ownConvoy_kept h1

end Sys2Proof.Machine
end

section
/-! SUPPORT. What the functions of Handler keep. -/

namespace Sys2Proof.Machine

variable {s₀ s t : State}

/-- A write of a scalar register leaves s0. -/
theorem wr_kept {c : Core} {r : Nat} {v : Word} (hc : CoreFrom s₀ c) : CoreFrom s₀ (wr c r v) :=
  ⟨fun h₀ => ⟨(hc.canonical h₀).1, setS_zero _ _ _ (hc.canonical h₀).2⟩⟩

theorem wv_kept {c : Core} {r : Nat} {v : BitVec 512} (hc : CoreFrom s₀ c) : CoreFrom s₀ (wv c r v) := by
  unfold wv
  exact CoreFrom.hndFields hc

theorem wa_kept {c : Core} {r : Nat} {v : BitVec 2048} (hc : CoreFrom s₀ c) : CoreFrom s₀ (wa c r v) := by
  unfold wa
  exact CoreFrom.hndFields hc

theorem leaveSlot_kept {v : Env} {c : Core} {m : QMsg} {done : Nat} {yields : Bool} (hc : CoreFrom s₀ c) :
    EffFrom s₀ (leaveSlot v c m done yields) := by
  unfold leaveSlot
  dsimp only
  split
  · exact releaseRound_kept (depart_kept hc)
  · split
    · exact EffFrom.of (depart_kept hc)
    · split
      · split <;> exact EffFrom.of (depart_kept hc)
      · split
        · exact EffFrom.of (depart_kept hc)
        · split
          · exact EffFrom.of (replySlotFreed_kept (depart_kept hc))
          · exact EffFrom.of (depart_kept hc)

theorem chainOver_kept {core : Nat} {ch : Chain} {err : Option Status} {fault : Option (Nat × Nat)} (hs : Kept s₀ s) :
    Kept s₀ (chainOver s core ch err fault) := by
  unfold chainOver
  dsimp only
  split
  · split
    · exact hs
    · split <;> exact complete_kept hs
  · split
    · exact hs
    · split
      · split
        · exact coreSend_kept hs
        · exact hs
      · exact coreSend_kept hs

theorem finish_kept {core : Nat} {c : Core} {yields : Bool} {err : Option Status} {fault : Option (Nat × Nat)}
    (hs : Kept s₀ s) (hc : CoreFrom s₀ c) : Kept s₀ (finish s core c yields err fault) := by
  unfold finish
  dsimp only
  split
  · exact applyEff_kept hs (EffFrom.of (settle_kept ((leaveSlot_kept (CoreFrom.idle hc)).core)))
  · exact chainOver_kept (applyEff_kept hs (EffFrom.of (settle_kept ((leaveSlot_kept (CoreFrom.idle hc)).core))))

theorem dropVrqs_kept {n : Nat} {c : Core} (hc : CoreFrom s₀ c) : CoreFrom s₀ (dropVrqs n c) := by
  unfold dropVrqs
  refine CoreFrom.hndFields ?_
  refine CoreFrom.foldl ?_ hc
  intro _ _ h1
  split
  · exact wv_kept h1
  · exact h1

theorem faultReport_kept {core code addr pc : Nat} (hs : Kept s₀ s) : Kept s₀ (faultReport s core code addr pc) := by
  unfold faultReport
  split
  · exact violTile_kept hs
  · split
    · exact coreSend_kept hs
    · exact hs

theorem faultAt_kept {core code addr : Nat} (hs : Kept s₀ s) : Kept s₀ (faultAt s core code addr) := by
  unfold faultAt
  dsimp only
  refine faultReport_kept (finish_kept (hs.of_eq rfl rfl) (cntLo_kept ((dropVrqs_kept (getCore_kept hs)).of_eq rfl ?_)))
  split <;> rfl

theorem fetchAt_kept {core : Nat} (hs : Kept s₀ s) : Kept s₀ (fetchAt s core) := by
  unfold fetchAt
  dsimp only
  split
  · exact hs
  · split
    · exact hs
    · exact faultAt_kept hs

theorem advanceTo_kept {core : Nat} {c : Core} {out : List Packet} (hs : Kept s₀ s) (hc : CoreFrom s₀ c) :
    Kept s₀ (advanceTo s core c out) :=
  fetchAt_kept (applyEff_kept hs (.of (hc.of_eq rfl (nextPc_sc c.hnd))))

theorem jumpTo_kept {core : Nat} {c : Core} {pc : BitVec 13} (hs : Kept s₀ s) (hc : CoreFrom s₀ c) :
    Kept s₀ (jumpTo s core c pc) := by
  unfold jumpTo
  exact fetchAt_kept (setCore_kept hs (CoreFrom.hndFields hc))

theorem ageFlight_kept {n : Nat} {used : List Nat} {c : Core} (hc : CoreFrom s₀ c) : CoreFrom s₀ (ageFlight n used c) := by
  unfold ageFlight
  exact CoreFrom.hndFields hc

theorem issued_kept {core : Nat} {w : Word} (hs : Kept s₀ s) : CoreFrom s₀ (issued s core w) := by
  unfold issued
  exact ageFlight_kept (getCore_kept hs)

theorem issue_kept {core : Nat} {w : Word} {k : Core → State} (hs : Kept s₀ s) (hk : ∀ x0, CoreFrom s₀ x0 → Kept s₀ (k x0)) :
    Kept s₀ (issue s core w k) := by
  unfold issue
  dsimp only
  split
  · exact hs
  · split
    · exact faultAt_kept hs
    · split
      · exact hk _ (issued_kept hs)
      · exact hs

theorem dpWait_kept {c : Core} (hc : CoreFrom s₀ c) : CoreFrom s₀ (dpWait c) := by
  unfold dpWait
  exact cntSet_kept hc

theorem onPorts_kept {core : Nat} {dp mem : Bool} {c : Core} {k : Core → State} (hs : Kept s₀ s) (hc : CoreFrom s₀ c)
    (hk : ∀ x0, CoreFrom s₀ x0 → Kept s₀ (k x0)) : Kept s₀ (onPorts s core dp mem c k) := by
  unfold onPorts
  split
  · exact setCore_kept hs (dpWait_kept (holdDp_kept hc))
  · split
    · exact setCore_kept hs (dpWait_kept (holdMem_kept hc))
    · exact hk _ (chargePorts_kept hc)

/-- The registers at a dispatch start with s1. -/
theorem startHandler_kept {c : Core} {m : QMsg} {idx : Nat} {e : BitVec 64} {failing : List Nat} (hc : CoreFrom s₀ c) :
    CoreFrom s₀ (startHandler c m idx e failing) :=
  ⟨fun h₀ => ⟨(hc.canonical h₀).1, dispatchRegs_zero c m e⟩⟩

theorem execHandlerDispatch_kept {start : HandlerRun} (hs : Kept s₀ s) : Answers s₀ (execHandlerDispatch start s) := by
  unfold execHandlerDispatch
  dsimp only
  split
  · exact ⟨_, rfl, hs⟩
  · split
    · exact ⟨_, rfl, hs⟩
    · split
      · exact ⟨_, rfl, fetchAt_kept (setCore_kept hs (startHandler_kept (CoreFrom.fields (getCore_kept hs))))⟩
      · exact ⟨_, rfl, chainOver_kept (applyEff_kept hs (EffFrom.of (settle_kept ((leaveSlot_kept (cntHi_kept (CoreFrom.fields
            (getCore_kept hs)))).core))))⟩

theorem execHandlerCycleLimit_kept {core : Nat} (hs : Kept s₀ s) : Answers s₀ (execHandlerCycleLimit core s) := by
  unfold execHandlerCycleLimit
  split
  · exact ⟨_, rfl, faultAt_kept hs⟩
  · exact ⟨_, rfl, hs⟩

theorem scalarRow_kept {core : Nat} {w : Word} {rd : Nat} {f : Core → Word} (hs : Kept s₀ s) :
    Kept s₀ (scalarRow s core w rd f) := by
  unfold scalarRow
  exact issue_kept hs (fun _ h1 => advanceTo_kept hs (wr_kept h1))

theorem execAlu_kept {core rd ra rb func : Nat} (hs : Kept s₀ s) : Answers s₀ (execAlu core rd ra rb func s) :=
  ⟨_, rfl, scalarRow_kept hs⟩

theorem execAddi_kept {core rd ra imm : Nat} (hs : Kept s₀ s) : Answers s₀ (execAddi core rd ra imm s) :=
  ⟨_, rfl, scalarRow_kept hs⟩

theorem execAndi_kept {core rd ra imm : Nat} (hs : Kept s₀ s) : Answers s₀ (execAndi core rd ra imm s) :=
  ⟨_, rfl, scalarRow_kept hs⟩

theorem execOri_kept {core rd ra imm : Nat} (hs : Kept s₀ s) : Answers s₀ (execOri core rd ra imm s) :=
  ⟨_, rfl, scalarRow_kept hs⟩

theorem execXori_kept {core rd ra imm : Nat} (hs : Kept s₀ s) : Answers s₀ (execXori core rd ra imm s) :=
  ⟨_, rfl, scalarRow_kept hs⟩

theorem execLui_kept {core rd ra imm : Nat} (hs : Kept s₀ s) : Answers s₀ (execLui core rd ra imm s) :=
  ⟨_, rfl, scalarRow_kept hs⟩

theorem execSlti_kept {core rd ra imm : Nat} (hs : Kept s₀ s) : Answers s₀ (execSlti core rd ra imm s) :=
  ⟨_, rfl, scalarRow_kept hs⟩

theorem execShi_kept {core rd ra imm : Nat} (hs : Kept s₀ s) : Answers s₀ (execShi core rd ra imm s) :=
  ⟨_, rfl, scalarRow_kept hs⟩

theorem branchRow_kept {core op ra rb off : Nat} {f : Word → Word → Bool} (hs : Kept s₀ s) :
    Kept s₀ (branchRow s core op ra rb off f) := by
  unfold branchRow
  refine issue_kept hs ?_
  intro _ h1
  split
  · exact jumpTo_kept hs h1
  · exact advanceTo_kept hs h1

theorem execBeq_kept {core ra rb off : Nat} (hs : Kept s₀ s) : Answers s₀ (execBeq core ra rb off s) :=
  ⟨_, rfl, branchRow_kept hs⟩

theorem execBne_kept {core ra rb off : Nat} (hs : Kept s₀ s) : Answers s₀ (execBne core ra rb off s) :=
  ⟨_, rfl, branchRow_kept hs⟩

theorem execBlt_kept {core ra rb off : Nat} (hs : Kept s₀ s) : Answers s₀ (execBlt core ra rb off s) :=
  ⟨_, rfl, branchRow_kept hs⟩

theorem execBge_kept {core ra rb off : Nat} (hs : Kept s₀ s) : Answers s₀ (execBge core ra rb off s) :=
  ⟨_, rfl, branchRow_kept hs⟩

theorem execBltu_kept {core ra rb off : Nat} (hs : Kept s₀ s) : Answers s₀ (execBltu core ra rb off s) :=
  ⟨_, rfl, branchRow_kept hs⟩

theorem execBgeu_kept {core ra rb off : Nat} (hs : Kept s₀ s) : Answers s₀ (execBgeu core ra rb off s) :=
  ⟨_, rfl, branchRow_kept hs⟩

theorem execJal_kept {core rd off : Nat} (hs : Kept s₀ s) : Answers s₀ (execJal core rd off s) :=
  ⟨_, rfl, issue_kept hs (fun _ h1 => jumpTo_kept hs (wr_kept h1))⟩

theorem execJr_kept {core rd ra rb func : Nat} (hs : Kept s₀ s) : Answers s₀ (execJr core rd ra rb func s) :=
  ⟨_, rfl, issue_kept hs (fun _ h1 => jumpTo_kept hs h1)⟩

theorem execLoop_kept {core rd ra imm : Nat} (hs : Kept s₀ s) : Answers s₀ (execLoop core rd ra imm s) := by
  unfold execLoop
  refine ⟨_, rfl, ?_⟩
  refine issue_kept hs ?_
  intro _ h1
  dsimp only
  split
  · exact faultAt_kept hs
  · split
    · exact jumpTo_kept hs h1
    · exact fetchAt_kept (setCore_kept hs (CoreFrom.hndFields h1))

theorem execEndHandler_kept {core rest : Nat} (hs : Kept s₀ s) : Answers s₀ (execEndHandler core rest s) :=
  ⟨_, rfl, issue_kept hs (fun _ h1 => finish_kept hs h1)⟩

theorem execYieldTo_kept {core rd ra imm : Nat} (hs : Kept s₀ s) : Answers s₀ (execYieldTo core rd ra imm s) := by
  unfold execYieldTo
  refine ⟨_, rfl, ?_⟩
  refine issue_kept hs ?_
  intro _ h1
  dsimp only
  split
  · exact faultAt_kept hs
  · exact modCore_kept (finish_kept hs h1) (fun _ h2 => arrive_kept (CoreFrom.fields (CoreFrom.foldl (fun _ _ h3 => ldmSet_kept
        h3) h2)))

theorem loadRow_kept {core op rd ra imm n : Nat} (hs : Kept s₀ s) : Kept s₀ (loadRow s core op rd ra imm n) := by
  unfold loadRow
  refine issue_kept hs ?_
  intro _ h1
  dsimp only
  split
  · exact advanceTo_kept hs (wr_kept h1)
  · exact faultAt_kept hs

theorem stRow_kept {core op rd ra imm n : Nat} (hs : Kept s₀ s) : Kept s₀ (stRow s core op rd ra imm n) := by
  unfold stRow
  refine issue_kept hs ?_
  intro _ h1
  dsimp only
  split
  · exact advanceTo_kept hs (ldmSet_kept h1)
  · exact faultAt_kept hs

theorem execLdw_kept {core rd ra imm : Nat} (hs : Kept s₀ s) : Answers s₀ (execLdw core rd ra imm s) :=
  ⟨_, rfl, loadRow_kept hs⟩

theorem execStw_kept {core rd ra imm : Nat} (hs : Kept s₀ s) : Answers s₀ (execStw core rd ra imm s) :=
  ⟨_, rfl, stRow_kept hs⟩

theorem execLdh_kept {core rd ra imm : Nat} (hs : Kept s₀ s) : Answers s₀ (execLdh core rd ra imm s) :=
  ⟨_, rfl, loadRow_kept hs⟩

theorem execSth_kept {core rd ra imm : Nat} (hs : Kept s₀ s) : Answers s₀ (execSth core rd ra imm s) :=
  ⟨_, rfl, stRow_kept hs⟩

theorem execLdb_kept {core rd ra imm : Nat} (hs : Kept s₀ s) : Answers s₀ (execLdb core rd ra imm s) :=
  ⟨_, rfl, loadRow_kept hs⟩

theorem execStb_kept {core rd ra imm : Nat} (hs : Kept s₀ s) : Answers s₀ (execStb core rd ra imm s) :=
  ⟨_, rfl, stRow_kept hs⟩

theorem withLine_kept {core : Nat} {c : Core} {a : Nat} {k : Line → State} (hs : Kept s₀ s) (hk : ∀ x0, Kept s₀ (k x0)) :
    Kept s₀ (withLine s core c a k) := by
  unfold withLine
  split
  · exact faultAt_kept hs
  · split
    · exact hs
    · exact hk _

theorem execVld_kept {core rd ra imm : Nat} (hs : Kept s₀ s) : Answers s₀ (execVld core rd ra imm s) := by
  unfold execVld
  refine ⟨_, rfl, ?_⟩
  refine issue_kept hs ?_
  intro _ h1
  refine withLine_kept hs ?_
  intro _
  split
  · exact onPorts_kept hs h1 (fun _ h3 => advanceTo_kept hs (wv_kept h3))
  · exact advanceTo_kept hs (wv_kept h1)

theorem execVst_kept {core rd ra imm : Nat} (hs : Kept s₀ s) : Answers s₀ (execVst core rd ra imm s) := by
  unfold execVst
  refine ⟨_, rfl, ?_⟩
  refine issue_kept hs ?_
  intro _ h1
  dsimp only
  split
  · exact advanceTo_kept hs (ldmSet_kept h1)
  · exact faultAt_kept hs

theorem execAccld_kept {core rd ra imm : Nat} (hs : Kept s₀ s) : Answers s₀ (execAccld core rd ra imm s) := by
  unfold execAccld
  refine ⟨_, rfl, ?_⟩
  refine issue_kept hs ?_
  intro _ h1
  dsimp only
  split
  · exact advanceTo_kept hs (wa_kept h1)
  · exact faultAt_kept hs

theorem execAccst_kept {core rd ra imm : Nat} (hs : Kept s₀ s) : Answers s₀ (execAccst core rd ra imm s) := by
  unfold execAccst
  refine ⟨_, rfl, ?_⟩
  refine issue_kept hs ?_
  intro _ h1
  dsimp only
  split
  · exact advanceTo_kept hs (ldmSet_kept h1)
  · exact faultAt_kept hs

theorem putAcc_kept {c : Core} {d : Nat} {f : Nat → Int} (hc : CoreFrom s₀ c) : CoreFrom s₀ (putAcc c d f) := by
  unfold putAcc
  dsimp only
  split
  · exact CoreFrom.hndFields (wa_kept hc)
  · exact wa_kept hc

theorem putMac_kept {c : Core} {d : Nat} {f : Nat → Int} (hc : CoreFrom s₀ c) : CoreFrom s₀ (putMac c d f) := by
  unfold putMac
  dsimp only
  split
  · exact cntHi_kept (putAcc_kept hc)
  · exact putAcc_kept hc

theorem execVmac_kept {core d va vb za zb n clr neg : Nat} (hs : Kept s₀ s) :
    Answers s₀ (execVmac core d va vb za zb n clr neg s) :=
  ⟨_, rfl, issue_kept hs (fun _ h1 => onPorts_kept hs h1 (fun _ h2 => advanceTo_kept hs (putMac_kept h2)))⟩

theorem execVmacb_kept {core d va vb za zb n clr neg : Nat} (hs : Kept s₀ s) :
    Answers s₀ (execVmacb core d va vb za zb n clr neg s) :=
  ⟨_, rfl, issue_kept hs (fun _ h1 => onPorts_kept hs h1 (fun _ h2 => advanceTo_kept hs (putMac_kept h2)))⟩

theorem execVmacm_kept {core d ra vb rn za zb inc clr : Nat} (hs : Kept s₀ s) :
    Answers s₀ (execVmacm core d ra vb rn za zb inc clr s) :=
  ⟨_, rfl, issue_kept hs (fun _ h1 => withLine_kept hs (fun _ => onPorts_kept hs h1 (fun _ h3 => advanceTo_kept hs
      (CoreFrom.ite (wr_kept (CoreFrom.ite (wr_kept (putMac_kept h3)) (putMac_kept h3))) (CoreFrom.ite (wr_kept (putMac_kept
      h3)) (putMac_kept h3))))))⟩

theorem execVdot_kept {core rd va vb za zb rest : Nat} (hs : Kept s₀ s) : Answers s₀ (execVdot core rd va vb za zb rest s) :=
  ⟨_, rfl, issue_kept hs (fun _ h1 => onPorts_kept hs h1 (fun _ h2 => advanceTo_kept hs (wr_kept h2)))⟩

theorem execAccop_kept {core rd ra rb func : Nat} (hs : Kept s₀ s) : Answers s₀ (execAccop core rd ra rb func s) := by
  unfold execAccop
  refine ⟨_, rfl, ?_⟩
  refine issue_kept hs ?_
  intro _ h1
  refine advanceTo_kept hs ?_
  split
  · exact putAcc_kept h1
  · exact wa_kept h1
  · exact wa_kept h1

theorem execVrq_kept {core rd ra rb func : Nat} (hs : Kept s₀ s) : Answers s₀ (execVrq core rd ra rb func s) := by
  unfold execVrq
  refine ⟨_, rfl, ?_⟩
  refine issue_kept hs ?_
  intro _ h1
  refine advanceTo_kept hs ?_
  split
  · exact CoreFrom.hndFields (wv_kept h1)
  · exact cntLo_kept (CoreFrom.hndFields (wv_kept h1))

theorem execVfun_kept {core d va vb za zb n clr neg : Nat} (hs : Kept s₀ s) :
    Answers s₀ (execVfun core d va vb za zb n clr neg s) :=
  ⟨_, rfl, issue_kept hs (fun _ h1 => advanceTo_kept hs (wv_kept h1))⟩

theorem execVperm_kept {core d va vb za zb n clr neg : Nat} (hs : Kept s₀ s) :
    Answers s₀ (execVperm core d va vb za zb n clr neg s) :=
  ⟨_, rfl, issue_kept hs (fun _ h1 => advanceTo_kept hs (wv_kept h1))⟩

theorem execVselm_kept {core d va vb za zb n clr neg : Nat} (hs : Kept s₀ s) :
    Answers s₀ (execVselm core d va vb za zb n clr neg s) :=
  ⟨_, rfl, issue_kept hs (fun _ h1 => advanceTo_kept hs (wv_kept h1))⟩

theorem execVsplat_kept {core rd ra imm : Nat} (hs : Kept s₀ s) : Answers s₀ (execVsplat core rd ra imm s) :=
  ⟨_, rfl, issue_kept hs (fun _ h1 => advanceTo_kept hs (wv_kept h1))⟩

theorem execVext_kept {core rd ra imm : Nat} (hs : Kept s₀ s) : Answers s₀ (execVext core rd ra imm s) :=
  ⟨_, rfl, scalarRow_kept hs⟩

theorem execVins_kept {core rd ra imm : Nat} (hs : Kept s₀ s) : Answers s₀ (execVins core rd ra imm s) :=
  ⟨_, rfl, issue_kept hs (fun _ h1 => advanceTo_kept hs (wv_kept h1))⟩

theorem modChain_kept {c : Core} {f : Chain → Chain} (hc : CoreFrom s₀ c) : CoreFrom s₀ (modChain c f) := by
  unfold modChain
  exact CoreFrom.hndFields hc

theorem sendReply_kept {core : Nat} {c : Core} {rd : Nat} {a : Word} {land len hidx : Nat} (hs : Kept s₀ s)
    (hc : CoreFrom s₀ c) : Kept s₀ (sendReply s core c rd a land len hidx) := by
  unfold sendReply
  dsimp only
  split
  · exact faultAt_kept hs
  · split
    · split
      · exact faultAt_kept hs
      · exact advanceTo_kept hs (modChain_kept (wr_kept hc))
    · split
      · exact faultAt_kept hs
      · exact advanceTo_kept hs (modChain_kept (modChain_kept (wr_kept hc)))

theorem sendOn_kept {core : Nat} {c : Core} {rd n : Nat} {p : Packet} (hs : Kept s₀ s) (hc : CoreFrom s₀ c) :
    Kept s₀ (sendOn s core c rd n p) := by
  unfold sendOn
  dsimp only
  split
  · exact advanceTo_kept hs (wr_kept hc)
  · exact setCore_kept hs (CoreFrom.hndFields hc)
  · exact advanceTo_kept hs (wr_kept (setChan_kept hc))

theorem execSend_kept {core rd ra rb func : Nat} (hs : Kept s₀ s) : Answers s₀ (execSend core rd ra rb func s) := by
  unfold execSend
  refine ⟨_, rfl, ?_⟩
  refine issue_kept hs ?_
  intro _ h1
  dsimp only
  split
  · exact sendReply_kept hs h1
  · split
    · exact faultAt_kept hs
    · exact sendOn_kept hs h1

theorem execTallyc_kept {core rd ra rb func : Nat} (hs : Kept s₀ s) : Answers s₀ (execTallyc core rd ra rb func s) := by
  unfold execTallyc
  refine ⟨_, rfl, ?_⟩
  refine issue_kept hs ?_
  intro _ h1
  dsimp only
  split
  · exact faultAt_kept hs
  · exact sendOn_kept hs h1

theorem execSendWaitExpire_kept {core : Nat} (hs : Kept s₀ s) : Answers s₀ (execSendWaitExpire core s) := by
  unfold execSendWaitExpire
  dsimp only
  split
  · exact ⟨_, rfl, advanceTo_kept hs (wr_kept (CoreFrom.hndFields (cntHi_kept (setChan_kept (getCore_kept hs)))))⟩
  · exact ⟨_, rfl, hs⟩

theorem execWaitne_kept {core rd ra rb func : Nat} (hs : Kept s₀ s) : Answers s₀ (execWaitne core rd ra rb func s) := by
  unfold execWaitne
  refine ⟨_, rfl, ?_⟩
  refine issue_kept hs ?_
  intro _ h1
  dsimp only
  split
  · exact faultAt_kept hs
  · split
    · exact advanceTo_kept hs (wr_kept h1)
    · exact setCore_kept hs (CoreFrom.hndFields h1)

theorem execWaitneTimeout_kept {core : Nat} (hs : Kept s₀ s) : Answers s₀ (execWaitneTimeout core s) := by
  unfold execWaitneTimeout
  dsimp only
  split
  · exact ⟨_, rfl, advanceTo_kept hs (wr_kept (CoreFrom.hndFields (getCore_kept hs)))⟩
  · exact ⟨_, rfl, hs⟩

theorem cstgAt_kept {core tag : Nat} {r : ActionRecord} (hs : Kept s₀ s) : KeptFst s₀ (cstgAt s core tag r) := by
  unfold cstgAt
  dsimp only
  split
  · exact KeptFst.of hs
  · refine KeptFst.of ?_
    split
    · exact memberSend_kept ((stageAt_kept hs).fst)
    · exact (stageAt_kept hs).fst

theorem execCstg_kept {core rd ra rb func : Nat} (hs : Kept s₀ s) : Answers s₀ (execCstg core rd ra rb func s) := by
  unfold execCstg
  refine ⟨_, rfl, ?_⟩
  refine issue_kept hs ?_
  intro _ h1
  dsimp only
  split
  · exact faultAt_kept hs
  · exact advanceTo_kept ((cstgAt_kept hs).fst) (wr_kept (getCore_kept ((cstgAt_kept hs).fst)))

theorem execQry_kept {core rd ra imm : Nat} (hs : Kept s₀ s) : Answers s₀ (execQry core rd ra imm s) := by
  unfold execQry
  refine ⟨_, rfl, ?_⟩
  refine issue_kept hs ?_
  intro _ h1
  refine advanceTo_kept ?_ (wr_kept h1)
  split
  · exact Kept.fields hs
  · exact hs

theorem execModw_kept {core rd ra rb func : Nat} (hs : Kept s₀ s) : Answers s₀ (execModw core rd ra rb func s) :=
  ⟨_, rfl, issue_kept hs (fun _ h1 => advanceTo_kept hs h1)⟩

theorem deliverMod_kept {ctx : Nat} {now : Bool} {value step : Nat} (hs : Kept s₀ s) :
    Kept s₀ (deliverMod s ctx now value step) := by
  unfold deliverMod
  exact hubSendAll_kept hs

theorem execModWrite_kept {pkt : Packet} (hs : Kept s₀ s) : Answers s₀ (execModWrite pkt s) := by
  unfold execModWrite
  dsimp only
  split
  · exact ⟨_, rfl, deliverMod_kept (hubDone_kept hs)⟩
  · exact ⟨_, rfl, hubDone_kept hs⟩

end Sys2Proof.Machine
end

section
/-! SUPPORT. What the functions of Context keep. -/

namespace Sys2Proof.Machine

variable {s₀ s t : State}

theorem setRegion_kept {ctx : Nat} {edge : Bool} {size base : Nat} (hs : Kept s₀ s) :
    Kept s₀ (setRegion s ctx edge size base) := by
  unfold setRegion
  exact Kept.fields hs

theorem createContext_kept {f : Fetched} (hs : Kept s₀ s) : Kept s₀ (createContext s f) := by
  unfold createContext
  dsimp only
  split
  · exact complete_kept hs
  · split
    · exact complete_kept (setShard_kept (Kept.fields (setRegion_kept (setRegion_kept hs))))
    · exact complete_kept hs

theorem execContextCreate_kept {h : Nat} (hs : Kept s₀ s) : Answers s₀ (execContextCreate h s) :=
  ⟨_, rfl, withCmd_kept hs (fun _ _ h1 => createContext_kept h1)⟩

theorem zeroCore_kept {c : Core} : CoreFrom s₀ (zeroCore c) := ⟨fun _ => ⟨rfl, rfl⟩⟩

theorem closeStreams_kept {ctx : Nat} (hs : Kept s₀ s) : Kept s₀ (closeStreams s ctx) := by
  unfold closeStreams
  refine Kept.foldl ?_ (Kept.foldl (fun _ _ h1 => setIn_kept h1) hs)
  intro _ _ h1
  split
  · exact h1
  · exact closeResult_kept h1

theorem freePace_kept {ctx : Nat} (hs : Kept s₀ s) : Kept s₀ (freePace s ctx) := by
  unfold freePace
  split
  · exact freeTimer_kept hs
  · exact hs

theorem destroyShard_kept {ctx : Nat} (hs : Kept s₀ s) : Kept s₀ (destroyShard s ctx) := by
  unfold destroyShard
  exact setShard_kept (Kept.fields (setRegion_kept (setRegion_kept (modShardCores_kept (freePace_kept (closeStreams_kept hs))
      (fun _ _ _ => zeroCore_kept)))))

theorem execContextDestroy_kept {h : Nat} (hs : Kept s₀ s) : Answers s₀ (execContextDestroy h s) :=
  ⟨_, rfl, withCmd_kept hs (fun _ _ h1 => complete_kept (destroyShard_kept h1))⟩

theorem removeWork_kept {gen : BitVec 4} {c : Core} (hc : CoreFrom s₀ c) : CoreFrom s₀ (removeWork gen c) :=
  (resetQueues_kept (discardLearn_kept hc)).of_eq rfl rfl

/-- The packets of an old generation leave the buffers; those of a core leave the list of arrived packets. -/
theorem purge_kept {ctx : Nat} (hs : Kept s₀ s) : Kept s₀ (purge s ctx) := by
  refine Kept.map_cores (Kept.foldl (fun _ _ h => ?_) hs) rfl rfl fun _ => ⟨rfl, rfl⟩
  dsimp only
  split
  · exact h
  · exact (Kept.foldl (fun _ _ h1 => unreserve_kept h1) h).of_eq rfl rfl

theorem endCommands_kept {ctx : Nat} (hs : Kept s₀ s) : Kept s₀ (endCommands s ctx) := by
  unfold endCommands
  exact Kept.foldl (fun _ _ h1 => complete_kept h1) hs

theorem resetNotices_kept {ctx : Nat} {devs : List Nat} (hs : Kept s₀ s) : Kept s₀ (resetNotices s ctx devs) := by
  unfold resetNotices
  exact hubSendAll_kept hs

theorem stopKeep_kept {ctx : Nat} (hs : Kept s₀ s) : Kept s₀ (stopKeep s ctx) := by
  unfold stopKeep
  exact Kept.foldl (fun _ _ h1 => Kept.foldl (fun _ _ h2 => Kept.fields h2) h1) hs

theorem resetShard_kept {ctx : Nat} {state : ShardState} (hs : Kept s₀ s) : Kept s₀ (resetShard s ctx state) := by
  unfold resetShard
  exact resetNotices_kept (purge_kept (modShardCores_kept (resetResults_kept (resetStreams_kept (stopKeep_kept
      (resetConvoys_kept (modShard_kept (endCommands_kept hs)))))) (fun _ _ h1 => removeWork_kept h1)))

theorem startReset_kept {ctx : Nat} {cmds : List Nat} (hs : Kept s₀ s) : Kept s₀ (startReset s ctx cmds) := by
  unfold startReset
  exact modShard_kept (resetShard_kept hs)

theorem execContextReset_kept {h : Nat} (hs : Kept s₀ s) : Answers s₀ (execContextReset h s) := by
  unfold execContextReset
  refine ⟨_, rfl, ?_⟩
  refine withCmd_kept hs ?_
  intro _ _ h1
  dsimp only
  split
  · exact modShard_kept (begun_kept h1)
  · exact startReset_kept (begun_kept h1)

theorem execContextResetDrainDone_kept {ctx : Nat} (hs : Kept s₀ s) : Answers s₀ (execContextResetDrainDone ctx s) := by
  unfold execContextResetDrainDone
  dsimp only
  split
  · exact ⟨_, rfl, hs⟩
  · exact ⟨_, rfl, Kept.foldl (fun _ _ h1 => complete_kept h1) (setShard_kept (purge_kept hs))⟩

theorem startCore_kept {sh : Shard} {dev n : Nat} {c : Core} (hc : CoreFrom s₀ c) : CoreFrom s₀ (startCore sh dev n c) :=
  ⟨fun h₀ => ⟨nwf_startSidecar c (hc.canonical h₀).1, (hc.canonical h₀).2⟩⟩

theorem startShard_kept {ctx : Nat} {seed : Word} (hs : Kept s₀ s) : Kept s₀ (startShard s ctx seed) := by
  unfold startShard
  dsimp only
  split
  · exact sendRelease_kept (startResults_kept (startStreams_kept (startShardQueues_kept (modShardCores_kept (modShard_kept hs)
        (fun _ _ h1 => startCore_kept h1)))))
  · exact startResults_kept (startStreams_kept (startShardQueues_kept (modShardCores_kept (modShard_kept hs) (fun _ _ h1 =>
        startCore_kept h1))))

theorem execStart_kept {h : Nat} (hs : Kept s₀ s) : Answers s₀ (execStart h s) := by
  unfold execStart
  refine ⟨_, rfl, ?_⟩
  refine withCmd_kept hs ?_
  intro _ _ h1
  dsimp only
  split
  · exact complete_kept h1
  · exact complete_kept (startShard_kept h1)

theorem writeLimit_kept {ctx mid : Nat} {limit : Word} {free : Bool} (hs : Kept s₀ s) :
    Kept s₀ (writeLimit s ctx mid limit free) := by
  unfold writeLimit
  refine modShardCores_kept hs ?_
  intro _ _ h1
  split
  · exact updHalt_kept (CoreFrom.fields h1)
  · exact h1

theorem execStepRun_kept {h : Nat} (hs : Kept s₀ s) : Answers s₀ (execStepRun h s) := by
  unfold execStepRun
  refine ⟨_, rfl, ?_⟩
  refine withCmd_kept hs ?_
  intro _ _ h1
  dsimp only
  split
  · exact h1
  · split
    · refine modShard_kept ?_
      refine begun_kept ?_
      refine writeLimit_kept ?_
      split
      · exact setShard_kept h1
      · exact h1
    · refine complete_kept ?_
      refine writeLimit_kept ?_
      split
      · exact setShard_kept h1
      · exact h1

theorem execStepRunWaitDone_kept {h : Nat} (hs : Kept s₀ s) : Answers s₀ (execStepRunWaitDone h s) := by
  unfold execStepRunWaitDone
  split
  · exact ⟨_, rfl, hs⟩
  · split
    · exact ⟨_, rfl, hs⟩
    · split
      · exact ⟨_, rfl, complete_kept (setShard_kept hs)⟩
      · exact ⟨_, rfl, hs⟩

theorem execStop_kept {h : Nat} (hs : Kept s₀ s) : Answers s₀ (execStop h s) := by
  unfold execStop
  refine ⟨_, rfl, ?_⟩
  refine withCmd_kept hs ?_
  intro _ _ h1
  dsimp only
  split
  · exact complete_kept h1
  · exact modShard_kept (writeLimit_kept (begun_kept h1))

theorem stopQueues_kept {c : Core} (hc : CoreFrom s₀ c) : CoreFrom s₀ (stopQueues c) := by
  unfold stopQueues
  refine CoreFrom.foldl ?_ hc
  intro _ _ h1
  split
  · exact setQState_kept h1
  · exact h1

theorem closeChannels_kept {n : Nat} (hs : Kept s₀ s) : Kept s₀ (closeChannels s n) := by
  unfold closeChannels
  exact Kept.foldl (fun _ _ h1 => applyEff_kept h1 (closeStart_kept (getCore_kept h1))) hs

theorem stopShard_kept {ctx : Nat} {l : Word} (hs : Kept s₀ s) : Kept s₀ (stopShard s ctx l) := by
  unfold stopShard
  dsimp only
  split
  · exact complete_kept (Kept.foldl (fun _ _ h1 => complete_kept h1) (modShard_kept (modShardCores_kept (Kept.foldl (fun _ _ h1
        => closeChannels_kept h1) (stopResults_kept (stopStreams_kept hs))) (fun _ _ h1 => wakeWord_kept (stopQueues_kept
        (discardLearn_kept h1))))))
  · exact Kept.foldl (fun _ _ h1 => complete_kept h1) (modShard_kept (modShardCores_kept (Kept.foldl (fun _ _ h1 =>
        closeChannels_kept h1) (stopResults_kept (stopStreams_kept hs))) (fun _ _ h1 => wakeWord_kept (stopQueues_kept
        (discardLearn_kept h1)))))

theorem execStopDone_kept {ctx : Nat} (hs : Kept s₀ s) : Answers s₀ (execStopDone ctx s) := by
  unfold execStopDone
  dsimp only
  split
  · exact ⟨_, rfl, hs⟩
  · split
    · exact ⟨_, rfl, stopShard_kept hs⟩
    · exact ⟨_, rfl, hs⟩

theorem execModulatorSet_kept {h : Nat} (hs : Kept s₀ s) : Answers s₀ (execModulatorSet h s) :=
  ⟨_, rfl, withCmd_kept hs (fun _ _ h1 => complete_kept (deliverMod_kept h1))⟩

theorem execStateRead_kept {h : Nat} (hs : Kept s₀ s) : Answers s₀ (execStateRead h s) := by
  unfold execStateRead
  refine ⟨_, rfl, ?_⟩
  refine withCmd_kept hs ?_
  intro _ _ h1
  dsimp only
  split
  · exact complete_kept h1
  · split
    · exact h1
    · exact complete_kept h1

theorem writeSpace_kept {c : Core} {sp a : Nat} {b : Byte} (hc : CoreFrom s₀ c) : CoreFrom s₀ (writeSpace c sp a b) := by
  unfold writeSpace
  split
  · exact setWord_kept hc
  · exact CoreFrom.fields hc
  · exact CoreFrom.fields hc
  · exact CoreFrom.fields hc
  · exact setDesc_kept hc
  · exact ldmPutByte_kept hc

theorem execStateWrite_kept {h : Nat} (hs : Kept s₀ s) : Answers s₀ (execStateWrite h s) := by
  unfold execStateWrite
  refine ⟨_, rfl, ?_⟩
  refine withCmd_kept hs ?_
  intro _ _ h1
  dsimp only
  split
  · exact complete_kept h1
  · split
    · exact complete_kept h1
    · split
      · exact h1
      · refine Kept.ite (complete_kept h1) ?_
        refine complete_kept ?_
        refine setCore_kept h1 ?_
        refine wakeWord_kept ?_
        split
        · exact syncGset_kept (CoreFrom.foldl (fun _ _ h2 => writeSpace_kept h2) (getCore_kept h1))
        · exact CoreFrom.foldl (fun _ _ h2 => writeSpace_kept h2) (getCore_kept h1)

theorem setKeep_kept {n k : Nat} {x : KeepSlot} (hs : Kept s₀ s) : Kept s₀ (setKeep s n k x) := by
  unfold setKeep
  exact Kept.fields hs

theorem holdSave_kept {m : Line} (hs : Kept s₀ s) : Kept s₀ (holdSave s m) := by
  unfold holdSave
  split
  · exact hs
  · exact modShardCores_kept hs (fun _ _ h1 => CoreFrom.fields h1)

theorem beginImage_kept {ctx n : Nat} (hs : Kept s₀ s) : Kept s₀ (beginImage s ctx n) := by
  unfold beginImage
  exact setKeep_kept hs

theorem beginImages_kept {ctx : Nat} {ns : List Nat} {b : Option Word} (hs : Kept s₀ s) : Kept s₀ (beginImages s ctx ns b) := by
  unfold beginImages
  exact Kept.foldl (fun _ _ h1 => beginImage_kept h1) hs

theorem execWeightSave_kept {h : Nat} (hs : Kept s₀ s) : Answers s₀ (execWeightSave h s) := by
  unfold execWeightSave
  refine ⟨_, rfl, ?_⟩
  refine withCmd_kept hs ?_
  intro _ _ h1
  dsimp only
  split
  · exact complete_kept h1
  · exact beginImages_kept (modShard_kept (Kept.fields (holdSave_kept (begun_kept h1))))

theorem execCloseEnd_kept {core : Nat} (hs : Kept s₀ s) : Answers s₀ (execCloseEnd core s) := by
  unfold execCloseEnd
  dsimp only
  split
  · split
    · exact ⟨_, rfl, beginImages_kept (applyEff_kept hs (endClose_kept (getCore_kept hs)))⟩
    · exact ⟨_, rfl, applyEff_kept hs (endClose_kept (getCore_kept hs))⟩
  · exact ⟨_, rfl, hs⟩

theorem freeSave_kept {ctx : Nat} (hs : Kept s₀ s) : Kept s₀ (freeSave s ctx) := by
  unfold freeSave
  exact modShardCores_kept hs (fun _ _ h1 => updHalt_kept (CoreFrom.fields h1))

theorem commitImage_kept {ctx n : Nat} {seq : BitVec 16} (hs : Kept s₀ s) : Kept s₀ (commitImage s ctx n seq) := by
  unfold commitImage
  refine Kept.foldl ?_ hs
  intro _ _ h1
  dsimp only
  split
  · exact setKeep_kept h1
  · exact h1

theorem execWeightSaveDone_kept {ctx : Nat} (hs : Kept s₀ s) : Answers s₀ (execWeightSaveDone ctx s) := by
  unfold execWeightSaveDone
  split
  · exact ⟨_, rfl, hs⟩
  · split
    · exact ⟨_, rfl, hs⟩
    · exact ⟨_, rfl, complete_kept (freeSave_kept (modShard_kept (Kept.foldl (fun _ _ h1 => commitImage_kept h1) hs)))⟩

theorem execWeightRestore_kept {h : Nat} (hs : Kept s₀ s) : Answers s₀ (execWeightRestore h s) := by
  unfold execWeightRestore
  refine ⟨_, rfl, ?_⟩
  refine withCmd_kept hs ?_
  intro _ _ h1
  dsimp only
  split
  · exact complete_kept h1
  · split
    · exact complete_kept h1
    · exact modShard_kept (holdSave_kept (begun_kept h1))

theorem putImage_kept {v : Env} {c : Core} {rows : List (Nat × BitVec 128 × List Line)} (hc : CoreFrom s₀ c) :
    EffFrom s₀ (putImage v c rows) := by
  unfold putImage
  refine commitLearn_kept ?_
  refine CoreFrom.foldl ?_ hc
  intro _ _ h1
  split <;> exact CoreFrom.fields h1

theorem restoreCore_kept {ctx n q : Nat} (hs : Kept s₀ s) : Kept s₀ (restoreCore s ctx n q) := by
  unfold restoreCore
  split
  · exact hs
  · exact applyEff_kept hs (putImage_kept (getCore_kept hs))

theorem execWeightRestoreDone_kept {ctx : Nat} (hs : Kept s₀ s) : Answers s₀ (execWeightRestoreDone ctx s) := by
  unfold execWeightRestoreDone
  split
  · exact ⟨_, rfl, hs⟩
  · split
    · exact ⟨_, rfl, hs⟩
    · exact ⟨_, rfl, complete_kept (freeSave_kept (modShard_kept (Kept.foldl (fun _ _ h1 => restoreCore_kept h1) hs)))⟩

theorem execCommandTimeout_kept {h : Nat} (hs : Kept s₀ s) : Answers s₀ (execCommandTimeout h s) := by
  unfold execCommandTimeout
  split
  · exact ⟨_, rfl, hs⟩
  · refine Answers.ite ⟨_, rfl, hs⟩ ?_
    dsimp only
    exact Answers.ite ⟨_, rfl, startReset_kept (Kept.ite (modCmd_kept (answer_kept hs)) (complete_kept hs))⟩ ⟨_, rfl, Kept.ite
        (modCmd_kept (answer_kept hs)) (complete_kept hs)⟩

end Sys2Proof.Machine
end

section
/-! SUPPORT. What the functions of Links keep. -/

namespace Sys2Proof.Machine

variable {s₀ s t : State}

theorem execLinkFrameTransmit_kept {port : Nat} (hs : Kept s₀ s) : Answers s₀ (execLinkFrameTransmit port s) := by
  unfold execLinkFrameTransmit
  dsimp only
  split
  · exact ⟨_, rfl, setPort_kept hs⟩
  · split
    · exact ⟨_, rfl, setPort_kept hs⟩
    · exact ⟨_, rfl, hs⟩

theorem bookReach_kept (hs : Kept s₀ s) : Kept s₀ (bookReach s) := by
  unfold bookReach
  split
  · exact hs
  · exact Kept.fields hs

theorem returnDown_kept {port : Nat} {p : Packet} (hs : Kept s₀ s) : Kept s₀ (returnDown s port p) := by
  unfold returnDown
  exact returnPkt_kept (modPort_kept hs)

theorem downNotices_kept {port : Nat} (hs : Kept s₀ s) : Kept s₀ (downNotices s port) := by
  unfold downNotices
  exact Kept.foldl (fun _ _ h1 => Kept.foldl (fun _ _ h2 => notice_kept h2) h1) hs

theorem convoysLose_kept {port : Nat} (hs : Kept s₀ s) : Kept s₀ (convoysLose s port) := by
  unfold convoysLose
  refine Kept.foldl ?_ hs
  intro _ _ h1
  split
  · exact Kept.foldl (fun _ _ h2 => loseDevice_kept h2) h1
  · exact h1

theorem downReports_kept {port : Nat} {removed : Bool} (hs : Kept s₀ s) : Kept s₀ (downReports s port removed) := by
  unfold downReports
  refine downNotices_kept ?_
  refine convoysLose_kept ?_
  split
  · exact loseDevice_kept hs
  · exact hs

theorem loseLink_kept {port : Nat} {st : PortState} {removed : Bool} (hs : Kept s₀ s) : Kept s₀ (loseLink s port st removed) :=
    by
  unfold loseLink
  refine bookReach_kept ?_
  split
  · exact downReports_kept (Kept.foldl (fun _ _ h1 => returnDown_kept h1) (setPort_kept hs))
  · exact Kept.foldl (fun _ _ h1 => returnDown_kept h1) (setPort_kept hs)

theorem portDown_kept {port : Nat} {removed : Bool} (hs : Kept s₀ s) : Kept s₀ (portDown s port removed) := by
  unfold portDown
  split
  · exact loseLink_kept hs
  · exact hs

theorem toRetrain_kept {port : Nat} (hs : Kept s₀ s) : Kept s₀ (toRetrain s port) := by
  unfold toRetrain
  exact bookReach_kept (modPort_kept hs)

theorem toActive_kept {port : Nat} (hs : Kept s₀ s) : Kept s₀ (toActive s port) := by
  unfold toActive
  exact bookReach_kept (modPort_kept hs)

theorem portStep_kept {port : Nat} {a b : PortState} (hs : Kept s₀ s) : Kept s₀ (portStep s port a b) := by
  unfold portStep
  split
  · exact modPort_kept hs
  · exact hs

theorem execPortDetectLock_kept {port : Nat} (hs : Kept s₀ s) : Answers s₀ (execPortDetectLock port s) := by
  unfold execPortDetectLock
  split
  · exact ⟨_, rfl, modPort_kept hs⟩
  · exact ⟨_, rfl, hs⟩

theorem execPortTrainEqDone_kept {port : Nat} (hs : Kept s₀ s) : Answers s₀ (execPortTrainEqDone port s) :=
  ⟨_, rfl, portStep_kept hs⟩

theorem execPortTrainEqTimeout_kept {port : Nat} (hs : Kept s₀ s) : Answers s₀ (execPortTrainEqTimeout port s) := by
  unfold execPortTrainEqTimeout
  refine ⟨_, rfl, ?_⟩
  split
  · exact portDown_kept hs
  · exact hs

theorem sendParams_kept {port : Nat} (hs : Kept s₀ s) : Kept s₀ (sendParams s port) := by
  unfold sendParams
  exact modPort_kept hs

theorem execPortAlignDone_kept {port : Nat} (hs : Kept s₀ s) : Answers s₀ (execPortAlignDone port s) := by
  unfold execPortAlignDone
  dsimp only
  split
  · exact ⟨_, rfl, sendParams_kept (setPort_kept hs)⟩
  · exact ⟨_, rfl, hs⟩

theorem execPortAlignTimeout_kept {port : Nat} (hs : Kept s₀ s) : Answers s₀ (execPortAlignTimeout port s) := by
  unfold execPortAlignTimeout
  refine ⟨_, rfl, ?_⟩
  split
  · exact portDown_kept hs
  · exact hs

theorem takeParams_kept {port : Nat} {p : PeerParams} (hs : Kept s₀ s) : Kept s₀ (takeParams s port p) := by
  unfold takeParams
  dsimp only
  split
  · exact toActive_kept (modPort_kept hs)
  · split
    · exact modPort_kept hs
    · exact loseLink_kept (modPort_kept hs)

theorem execParamExchange_kept {port : Nat} {peer : PeerParams} (hs : Kept s₀ s) :
    Answers s₀ (execParamExchange port peer s) := by
  unfold execParamExchange
  split
  · exact ⟨_, rfl, takeParams_kept hs⟩
  · exact ⟨_, rfl, hs⟩

theorem execMiswiredParamRetry_kept {port : Nat} {peer : PeerParams} (hs : Kept s₀ s) :
    Answers s₀ (execMiswiredParamRetry port peer s) := by
  unfold execMiswiredParamRetry
  split
  · exact ⟨_, rfl, takeParams_kept (sendParams_kept hs)⟩
  · exact ⟨_, rfl, hs⟩

theorem execPortRetrainTimeout_kept {port : Nat} (hs : Kept s₀ s) : Answers s₀ (execPortRetrainTimeout port s) := by
  unfold execPortRetrainTimeout
  refine ⟨_, rfl, ?_⟩
  split
  · exact portDown_kept hs
  · exact hs

theorem execPortDownRetry_kept {port : Nat} (hs : Kept s₀ s) : Answers s₀ (execPortDownRetry port s) := by
  unfold execPortDownRetry
  refine ⟨_, rfl, ?_⟩
  split
  · exact portStep_kept hs
  · exact hs

theorem execLinkAckTimeout_kept {port : Nat} (hs : Kept s₀ s) : Answers s₀ (execLinkAckTimeout port s) := by
  unfold execLinkAckTimeout
  refine ⟨_, rfl, ?_⟩
  split
  · exact toRetrain_kept hs
  · exact hs

theorem execLinkReplayLimit_kept {port : Nat} (hs : Kept s₀ s) : Answers s₀ (execLinkReplayLimit port s) := by
  unfold execLinkReplayLimit
  refine ⟨_, rfl, ?_⟩
  split
  · exact toRetrain_kept hs
  · exact hs

theorem execLinkLaneUeLimit_kept {port : Nat} (hs : Kept s₀ s) : Answers s₀ (execLinkLaneUeLimit port s) := by
  unfold execLinkLaneUeLimit
  refine ⟨_, rfl, ?_⟩
  split
  · exact toRetrain_kept hs
  · exact hs

theorem execLossOfSignal_kept {port : Nat} {removed : Bool} (hs : Kept s₀ s) : Answers s₀ (execLossOfSignal port removed s) :=
    by
  unfold execLossOfSignal
  dsimp only
  split
  · refine ⟨_, rfl, ?_⟩
    refine Kept.foldl ?_ (portDown_kept hs)
    intro _ _ h1
    split
    · exact notice_kept h1
    · exact h1
  · exact ⟨_, rfl, portDown_kept hs⟩

theorem rxPacket_kept {port : Nat} {p0 : Packet} (hs : Kept s₀ s) : Kept s₀ (rxPacket s port p0) := by
  unfold rxPacket
  dsimp only
  exact Kept.ite (returnPkt_kept (setPort_kept hs)) (Kept.ite (returnDown_kept hs) (setPort_kept hs))

theorem rxSlot_kept {port : Nat} {u : BitVec 16 × BitVec 256} (hs : Kept s₀ s) : Kept s₀ (rxSlot s port u) := by
  unfold rxSlot
  dsimp only
  split
  · exact setPort_kept hs
  · split
    · exact Kept.foldl (fun _ _ h1 => rxPacket_kept h1) hs
    · exact setPort_kept hs
    · split
      · exact hs
      · split
        · exact rxPacket_kept (setPort_kept hs)
        · exact setPort_kept hs
    · exact hs

theorem rxPop_kept {port b : Nat} (hs : Kept s₀ s) : Kept s₀ (rxPop s port b) := by
  unfold rxPop
  exact modPort_kept hs

theorem rxForward_kept {port b : Nat} (hs : Kept s₀ s) : Kept s₀ (rxForward s port b) := by
  unfold rxForward
  split
  · exact hs
  · dsimp only
    split
    · exact rxPop_kept hs
    · split
      · exact hs
      · split
        · exact Kept.fields (rxPop_kept hs)
        · split
          · exact Kept.fields (rxPop_kept hs)
          · split
            · exact hs
            · exact Kept.fields (rxPop_kept (modPort_kept hs))

theorem rxDrain_kept {n port b : Nat} (hs : Kept s₀ s) : Kept s₀ (rxDrain n s port b) := by
  induction n generalizing s with
  | zero => exact hs
  | succ n ih =>
    unfold rxDrain
    split
    · exact hs
    · split
      · exact ih (rxForward_kept hs)
      · exact hs

theorem takeFrame_kept {port : Nat} {frame : RxFrame} (hs : Kept s₀ s) : Kept s₀ (takeFrame s port frame) := by
  unfold takeFrame
  dsimp only
  split
  · exact setPort_kept hs
  · exact Kept.ite (setPort_kept hs) (Kept.foldl (fun _ _ h1 => rxDrain_kept h1) (Kept.foldl (fun _ _ h1 => rxSlot_kept h1)
        (setPort_kept hs)))

theorem execTransitReserve_kept {port buffer : Nat} (hs : Kept s₀ s) : Answers s₀ (execTransitReserve port buffer s) := by
  unfold execTransitReserve
  split
  · exact ⟨_, rfl, rxForward_kept hs⟩
  · exact ⟨_, rfl, hs⟩

theorem shapeWrite_kept {mid : Nat} {v : Word} (hs : Kept s₀ s) : Kept s₀ (shapeWrite s mid v) := by
  unfold shapeWrite
  split
  · exact clogBar_kept hs
  · split
    · exact clogBar_kept hs
    · split
      · exact clogBar_kept hs
      · exact bookReach_kept (Kept.fields hs)

theorem execLinkShapeWrite_kept {mid : Nat} {value : Word} (hs : Kept s₀ s) : Answers s₀ (execLinkShapeWrite mid value s) :=
  ⟨_, rfl, shapeWrite_kept hs⟩

theorem setEn_kept {p : Nat} {en : Bool} (hs : Kept s₀ s) : Kept s₀ (setEn s p en) := by
  unfold setEn
  dsimp only
  split
  · exact portStep_kept (modPort_kept hs)
  · split
    · exact modPort_kept hs
    · exact loseLink_kept (modPort_kept hs)

theorem ctlLocked_kept {mid p : Nat} {v : Word} (hs : Kept s₀ s) : Kept s₀ (ctlLocked s mid p v) := by
  unfold ctlLocked
  dsimp only
  split
  · exact clogBar_kept hs
  · split
    · exact clogBar_kept hs
    · exact setEn_kept (setPort_kept hs)

theorem portCtl_kept {mid p : Nat} {v : Word} (hs : Kept s₀ s) : Kept s₀ (portCtl s mid p v) := by
  unfold portCtl
  dsimp only
  split
  · exact toRetrain_kept (modPort_kept (ctlLocked_kept hs))
  · exact modPort_kept (ctlLocked_kept hs)

theorem execPortEnable_kept {mid port : Nat} {value : Word} (hs : Kept s₀ s) : Answers s₀ (execPortEnable mid port value s) :=
    by
  unfold execPortEnable
  split
  · exact ⟨_, rfl, portCtl_kept hs⟩
  · exact ⟨_, rfl, hs⟩

theorem execPortRetrainRequest_kept {mid port : Nat} (hs : Kept s₀ s) : Answers s₀ (execPortRetrainRequest mid port s) := by
  unfold execPortRetrainRequest
  split
  · exact ⟨_, rfl, portCtl_kept hs⟩
  · exact ⟨_, rfl, hs⟩

theorem lnkClear_kept {off : Nat} (hs : Kept s₀ s) : Kept s₀ (lnkClear s off) := by
  unfold lnkClear
  split
  · exact hs
  · dsimp only
    split
    · exact modPort_kept hs
    · exact modPort_kept hs
    · exact modPort_kept hs
    · exact hs

end Sys2Proof.Machine
end

section
/-! SUPPORT. What the functions of Bringup keep. -/

namespace Sys2Proof.Machine

variable {s₀ s t : State}

theorem reconcile_kept (hs : Kept s₀ s) : Kept s₀ (reconcile s) := by
  unfold reconcile
  exact Kept.fields hs

theorem appendEntry_kept {e : BitVec 128} (hs : Kept s₀ s) : Kept s₀ (appendEntry s e) := by
  unfold appendEntry
  split <;> exact Kept.fields hs

theorem fixRows_kept {tile array source : Nat} {rows : List Nat} (hs : Kept s₀ s) :
    Kept s₀ (fixRows s tile array source rows) := by
  induction rows generalizing s with
  | nil => exact hs
  | cons r rows ih => exact ih (appendEntry_kept hs)

theorem repairTile_kept {source tile : Nat} {fs : List TestFailure} (hs : Kept s₀ s) : Kept s₀ (repairTile s source tile fs) :=
    by
  unfold repairTile
  dsimp only
  split
  · exact hs
  · split
    · exact appendEntry_kept hs
    · split
      · exact appendEntry_kept hs
      · exact Kept.foldl (fun _ _ h1 => fixRows_kept h1) hs

theorem repairAll_kept {source : Nat} {fs : List TestFailure} (hs : Kept s₀ s) : Kept s₀ (repairAll s source fs) := by
  unfold repairAll
  exact Kept.foldl (fun _ _ h1 => repairTile_kept h1) hs

theorem buildRemap_kept (hs : Kept s₀ s) : Kept s₀ (buildRemap s) := by
  unfold buildRemap
  exact Kept.fields hs

theorem calibrate_kept {l : Nat} {cores : List Nat} (hs : Kept s₀ s) : Kept s₀ (calibrate s l cores) := by
  unfold calibrate
  exact Kept.fields hs

theorem interpolateAll_kept {cores : List Nat} (hs : Kept s₀ s) : Kept s₀ (interpolateAll s cores) := by
  unfold interpolateAll
  exact Kept.fields hs

theorem calibrateStart_kept (hs : Kept s₀ s) : Kept s₀ (calibrateStart s) := by
  unfold calibrateStart
  exact interpolateAll_kept (calibrate_kept (calibrate_kept hs))

theorem loadFirmware_kept (hs : Kept s₀ s) : Kept s₀ (loadFirmware s) := by
  unfold loadFirmware
  split <;> exact Kept.fields hs

theorem bootRom_kept (hs : Kept s₀ s) : Kept s₀ (bootRom s) := by
  unfold bootRom
  split
  · exact Kept.fields hs
  · exact loadFirmware_kept (Kept.fields (Kept.fields hs))

theorem burnFuses_kept (hs : Kept s₀ s) : Kept s₀ (burnFuses s) := by
  unfold burnFuses
  dsimp only
  split
  · exact hs
  · exact Kept.fields hs

theorem becomeReady_kept (hs : Kept s₀ s) : Kept s₀ (becomeReady s) := by
  unfold becomeReady
  exact bookReach_kept (burnFuses_kept (Kept.fields hs))

theorem mapAndMeasure_kept (hs : Kept s₀ s) : Kept s₀ (mapAndMeasure s) :=
  calibrateStart_kept ((buildRemap_kept hs).of_no_core rfl rfl)

theorem coldSequence_kept {refclk : Bool} {fs : List TestFailure} (hs : Kept s₀ s) : Kept s₀ (coldSequence s refclk fs) := by
  unfold coldSequence
  dsimp only
  split
  · exact bootRom_kept (Kept.fields hs)
  · split
    · exact Kept.fields (repairAll_kept (reconcile_kept (Kept.fields (bootRom_kept (Kept.fields hs)))))
    · exact Kept.fields (mapAndMeasure_kept (repairAll_kept (reconcile_kept (Kept.fields (bootRom_kept (Kept.fields hs))))))

theorem warmSequence_kept {refclk : Bool} (hs : Kept s₀ s) : Kept s₀ (warmSequence s refclk) := by
  unfold warmSequence
  dsimp only
  split
  · exact bootRom_kept (Kept.fields hs)
  · split
    · exact Kept.fields (bootRom_kept (Kept.fields hs))
    · exact becomeReady_kept (mapAndMeasure_kept (bootRom_kept (Kept.fields hs)))

theorem coldState_kept {cause : Nat} (hs : Kept s₀ s) : Kept s₀ (coldState s cause) := hs.of_no_core rfl rfl

theorem rekeyAll_kept (hs : Kept s₀ s) : Kept s₀ (rekeyAll s) := by
  unfold rekeyAll
  exact Kept.fields hs

theorem warmState_kept {cause : Nat} (hs : Kept s₀ s) : Kept s₀ (warmState s cause) := hs.of_no_core rfl rfl

theorem execPerst_kept (hs : Kept s₀ s) : Answers s₀ (execPerst s) := by
  unfold execPerst
  refine ⟨_, rfl, ?_⟩
  split
  · exact hs
  · exact coldState_kept hs

theorem execColdReset_kept {refclkPresent : Bool} {failures : List TestFailure} (hs : Kept s₀ s) :
    Answers s₀ (execColdReset refclkPresent failures s) := by
  unfold execColdReset
  split
  · exact ⟨_, rfl, hs⟩
  · refine ⟨_, rfl, ?_⟩
    refine coldSequence_kept ?_
    split
    · exact hs
    · exact coldState_kept hs

theorem execDdrTrainingDone_kept {failed : Bool} (hs : Kept s₀ s) : Answers s₀ (execDdrTrainingDone failed s) := by
  unfold execDdrTrainingDone
  split
  · refine ⟨_, rfl, ?_⟩
    split
    · exact Kept.fields hs
    · exact becomeReady_kept hs
  · exact ⟨_, rfl, hs⟩

theorem execWarmReset_kept {cause : WarmCause} {refclkPresent : Bool} (hs : Kept s₀ s) :
    Answers s₀ (execWarmReset cause refclkPresent s) := by
  unfold execWarmReset
  split
  · exact ⟨_, rfl, hs⟩
  · exact ⟨_, rfl, hs⟩
  · exact ⟨_, rfl, warmSequence_kept hs⟩
  · exact ⟨_, rfl, warmSequence_kept (warmState_kept hs)⟩

theorem endSession_kept (hs : Kept s₀ s) : Kept s₀ (endSession s) := by
  unfold endSession
  exact Kept.fields hs

theorem zeroise_kept (hs : Kept s₀ s) : Kept s₀ (zeroise s) := by
  unfold zeroise
  exact Kept.fields (endSession_kept (rekeyAll_kept hs))

theorem tamperMark_kept {bits : List Nat} (hs : Kept s₀ s) : Kept s₀ (tamperMark s bits) := by
  unfold tamperMark
  exact Kept.fields hs

theorem unlocked_kept (hs : Kept s₀ s) : Kept s₀ (unlocked s) := by
  unfold unlocked
  exact Kept.fields hs

theorem execRefclkLoss_kept (hs : Kept s₀ s) : Answers s₀ (execRefclkLoss s) := by
  unfold execRefclkLoss
  split
  · exact ⟨_, rfl, hs⟩
  · exact ⟨_, rfl, unlocked_kept (warmState_kept (tamperMark_kept (zeroise_kept hs)))⟩

theorem execTamperTrip_kept {pll glitch temp : Bool} (hs : Kept s₀ s) : Answers s₀ (execTamperTrip pll glitch temp s) := by
  unfold execTamperTrip
  dsimp only
  exact Answers.ite ⟨_, rfl, hs⟩ ⟨_, rfl, Kept.ite (unlocked_kept (warmState_kept (tamperMark_kept (zeroise_kept hs))))
      (warmState_kept (tamperMark_kept (zeroise_kept hs)))⟩

theorem execExtestExit_kept (hs : Kept s₀ s) : Answers s₀ (execExtestExit s) := by
  unfold execExtestExit
  split
  · exact ⟨_, rfl, warmState_kept (Kept.fields hs)⟩
  · exact ⟨_, rfl, hs⟩

theorem computeShard_kept {ctx : Nat} (hs : Kept s₀ s) : Kept s₀ (computeShard s ctx) := by
  unfold computeShard
  dsimp only
  split
  · exact Kept.foldl (fun _ _ h1 => complete_kept h1) (setShard_kept (purge_kept hs))
  · exact resetShard_kept hs

theorem watchAll_kept (hs : Kept s₀ s) : Kept s₀ (watchAll s) := by
  unfold watchAll
  exact syncWatch_kept hs

theorem computeReset_kept {cause : BitVec 11} (hs : Kept s₀ s) : Kept s₀ (computeReset s cause) :=
  watchAll_kept ((Kept.foldl (fun _ _ h => computeShard_kept h) hs).of_no_core rfl rfl)

theorem execComputeReset_kept {cause : ComputeCause} (hs : Kept s₀ s) : Answers s₀ (execComputeReset cause s) :=
  ⟨_, rfl, computeReset_kept hs⟩

theorem execContextResetDrainTimeout_kept {ctx : Nat} (hs : Kept s₀ s) : Answers s₀ (execContextResetDrainTimeout ctx s) := by
  unfold execContextResetDrainTimeout
  dsimp only
  split
  · exact ⟨_, rfl, hs⟩
  · exact ⟨_, rfl, computeReset_kept (Kept.foldl (fun _ _ h1 => complete_kept h1) (setShard_kept hs))⟩

end Sys2Proof.Machine
end

section
/-! SUPPORT. What the functions of Mgmt keep. -/

namespace Sys2Proof.Machine

variable {s₀ s t : State}

theorem ownNotice_kept {p : Packet} {st : Status} {result : Nat} {pay : BitVec 96} (hs : Kept s₀ s) :
    Kept s₀ (ownNotice s p st result pay) := by
  unfold ownNotice
  split
  · exact notice_kept hs
  · exact hs

theorem wdogNotice_kept {p : Packet} (hs : Kept s₀ s) : Kept s₀ (wdogNotice s p) := by
  unfold wdogNotice
  exact ownNotice_kept hs

theorem lossNotice_kept {p : Packet} (hs : Kept s₀ s) : Kept s₀ (lossNotice s p) := by
  unfold lossNotice
  dsimp only
  split
  · exact markLosses_kept (ownNotice_kept hs)
  · exact ownNotice_kept hs

theorem ueNotice_kept {p : Packet} (hs : Kept s₀ s) : Kept s₀ (ueNotice s p) := by
  unfold ueNotice
  exact Kept.foldl (fun _ _ h1 => notice_kept h1) hs

theorem faultNotice_kept {p : Packet} (hs : Kept s₀ s) : Kept s₀ (faultNotice s p) := by
  unfold faultNotice
  exact ownNotice_kept hs

theorem orphanNotice_kept {p : Packet} (hs : Kept s₀ s) : Kept s₀ (orphanNotice s p) := by
  unfold orphanNotice
  exact ownNotice_kept hs

theorem peerNotice_kept {p : Packet} (hs : Kept s₀ s) : Kept s₀ (peerNotice s p) := by
  unfold peerNotice
  dsimp only
  split
  · exact hs
  · exact notice_kept hs

theorem anyNotice_kept {p : Packet} (hs : Kept s₀ s) : Kept s₀ (anyNotice s p) := by
  unfold anyNotice
  split
  · exact peerNotice_kept hs
  · split
    · exact wdogNotice_kept hs
    · exact lossNotice_kept hs
    · exact ueNotice_kept hs
    · exact faultNotice_kept hs
    · exact orphanNotice_kept hs
    · exact hs

theorem takeNotice_kept {f : State → Packet → State} {p : Packet} (hf : ∀ x0 x1, Kept s₀ x0 → Kept s₀ (f x0 x1))
    (hs : Kept s₀ s) : Kept s₀ (takeNotice f s p) := by
  unfold takeNotice
  dsimp only
  split
  · exact Kept.fields (hubDone_kept hs)
  · exact hf _ _ (hubDone_kept hs)

theorem execWdogNotice_kept {pkt : Packet} (hs : Kept s₀ s) : Answers s₀ (execWdogNotice pkt s) :=
  ⟨_, rfl, takeNotice_kept (fun _ _ h1 => wdogNotice_kept h1) hs⟩

theorem execLossNotice_kept {pkt : Packet} (hs : Kept s₀ s) : Answers s₀ (execLossNotice pkt s) :=
  ⟨_, rfl, takeNotice_kept (fun _ _ h1 => lossNotice_kept h1) hs⟩

theorem execUeNotice_kept {pkt : Packet} (hs : Kept s₀ s) : Answers s₀ (execUeNotice pkt s) :=
  ⟨_, rfl, takeNotice_kept (fun _ _ h1 => ueNotice_kept h1) hs⟩

theorem execFaultNotice_kept {pkt : Packet} (hs : Kept s₀ s) : Answers s₀ (execFaultNotice pkt s) :=
  ⟨_, rfl, takeNotice_kept (fun _ _ h1 => faultNotice_kept h1) hs⟩

theorem execOrphanNotice_kept {pkt : Packet} (hs : Kept s₀ s) : Answers s₀ (execOrphanNotice pkt s) :=
  ⟨_, rfl, takeNotice_kept (fun _ _ h1 => orphanNotice_kept h1) hs⟩

theorem execPeerResetNotice_kept {pkt : Packet} (hs : Kept s₀ s) : Answers s₀ (execPeerResetNotice pkt s) :=
  ⟨_, rfl, takeNotice_kept (fun _ _ h1 => peerNotice_kept h1) hs⟩

theorem execNoticeFoldTimer_kept {ctx : Nat} (hs : Kept s₀ s) : Answers s₀ (execNoticeFoldTimer ctx s) := by
  unfold execNoticeFoldTimer
  refine ⟨_, rfl, ?_⟩
  split
  · exact flushNotices_kept (modShard_kept hs)
  · exact hs

theorem breakKeep_kept {ctx : Nat} {st : Status} (hs : Kept s₀ s) : Kept s₀ (breakKeep s ctx st) := by
  unfold breakKeep
  dsimp only
  split
  · exact hs
  · split
    · refine complete_kept ?_
      split
      · exact complete_kept (freeSave_kept (stopKeep_kept (modShard_kept hs)))
      · exact freeSave_kept (stopKeep_kept (modShard_kept hs))
    · split
      · exact complete_kept (freeSave_kept (stopKeep_kept (modShard_kept hs)))
      · exact freeSave_kept (stopKeep_kept (modShard_kept hs))

theorem breakKeeps_kept {st : Status} (hs : Kept s₀ s) : Kept s₀ (breakKeeps s st) := by
  unfold breakKeeps
  exact Kept.foldl (fun _ _ h1 => breakKeep_kept h1) hs

theorem startRestart_kept {hart : Nat} {cause : RestartCause} (hs : Kept s₀ s) : Kept s₀ (startRestart s hart cause) := by
  unfold startRestart
  exact Kept.fields (breakKeeps_kept (Kept.foldl (fun _ _ h1 => complete_kept h1) hs))

theorem endRestart_kept {hashMatches : Bool} (hs : Kept s₀ s) : Kept s₀ (endRestart s hashMatches) := by
  unfold endRestart
  refine Kept.foldl (fun _ _ h1 => flushNotices_kept h1) ?_
  refine Kept.foldl (fun _ _ h1 => anyNotice_kept h1) ?_
  split
  · exact Kept.fields hs
  · exact loadFirmware_kept (Kept.fields hs)

theorem execManagementRestart_kept {hart : Nat} {cause : RestartCause} {hashMatches : Bool} (hs : Kept s₀ s) :
    Answers s₀ (execManagementRestart hart cause hashMatches s) := by
  unfold execManagementRestart
  split
  · refine ⟨_, rfl, ?_⟩
    refine endRestart_kept ?_
    split
    · exact hs
    · exact startRestart_kept hs
  · exact ⟨_, rfl, hs⟩

theorem execMgmtWatchdogExpire_kept {hart : Nat} (hs : Kept s₀ s) : Answers s₀ (execMgmtWatchdogExpire hart s) := by
  unfold execMgmtWatchdogExpire
  split
  · exact ⟨_, rfl, startRestart_kept hs⟩
  · exact ⟨_, rfl, hs⟩

theorem execMgmtScrub_kept {hart corrected : Nat} {uncorrectable : Bool} (hs : Kept s₀ s) :
    Answers s₀ (execMgmtScrub hart corrected uncorrectable s) := by
  unfold execMgmtScrub
  dsimp only
  split
  · refine ⟨_, rfl, ?_⟩
    split
    · exact Kept.fields (Kept.fields hs)
    · exact startRestart_kept (Kept.fields (Kept.fields hs))
  · exact ⟨_, rfl, Kept.fields hs⟩

theorem execMgmtSelfCheck_kept {hart : Nat} {hashMatches : Bool} (hs : Kept s₀ s) :
    Answers s₀ (execMgmtSelfCheck hart hashMatches s) := by
  unfold execMgmtSelfCheck
  split
  · exact ⟨_, rfl, hs⟩
  · exact ⟨_, rfl, startRestart_kept (Kept.fields hs)⟩

theorem execMgmtParityFailure_kept {hart : Nat} {entry : Option Nat} (hs : Kept s₀ s) :
    Answers s₀ (execMgmtParityFailure hart entry s) := by
  unfold execMgmtParityFailure
  dsimp only
  split
  · refine ⟨_, rfl, ?_⟩
    split
    · exact complete_kept (Kept.fields hs)
    · exact Kept.fields hs
  · refine ⟨_, rfl, ?_⟩
    split
    · exact Kept.fields hs
    · exact startRestart_kept (Kept.fields hs)

theorem execHeartbeat_kept (hs : Kept s₀ s) : Answers s₀ (execHeartbeat s) := by
  unfold execHeartbeat
  refine ⟨_, rfl, ?_⟩
  split
  · exact Kept.fields hs
  · exact hs

theorem healthClear_kept {off : Nat} (hs : Kept s₀ s) : Kept s₀ (healthClear s off) := by
  unfold healthClear
  split
  · exact Kept.fields hs
  · exact Kept.fields hs
  · exact hs

end Sys2Proof.Machine
end

section
/-! SUPPORT. What the functions of Power keep. -/

namespace Sys2Proof.Machine

variable {s₀ s t : State}

theorem setDivisor_kept {pl : BitVec 2} (hs : Kept s₀ s) : Kept s₀ (setDivisor s pl) := by
  unfold setDivisor
  split
  · exact hs
  · exact Kept.fields (turnWindow_kept hs)

theorem startLevel_kept (hs : Kept s₀ s) : Kept s₀ (startLevel s) := by
  unfold startLevel
  dsimp only
  split
  · exact hs
  · refine Kept.fields ?_
    split
    · exact setDivisor_kept hs
    · exact hs

theorem endPlCmds_kept (hs : Kept s₀ s) : Kept s₀ (endPlCmds s) := by
  unfold endPlCmds
  exact Kept.foldl (fun _ _ h1 => complete_kept h1) (Kept.fields hs)

theorem execPlChangeDone_kept (hs : Kept s₀ s) : Answers s₀ (execPlChangeDone s) := by
  unfold execPlChangeDone
  split
  · exact ⟨_, rfl, endPlCmds_kept (Kept.fields (setDivisor_kept hs))⟩
  · exact ⟨_, rfl, hs⟩

theorem requestPl_kept {f : Fetched} {pl : BitVec 2} (hs : Kept s₀ s) : Kept s₀ (requestPl s f pl) := by
  unfold requestPl
  split
  · exact complete_kept hs
  · dsimp only
    split
    · exact Kept.fields (begun_kept (startLevel_kept (Kept.fields hs)))
    · exact complete_kept (startLevel_kept (Kept.fields hs))

theorem refreshPower_kept (hs : Kept s₀ s) : Kept s₀ (refreshPower s) := by
  unfold refreshPower
  exact Kept.fields hs

theorem execThermalPoll_kept {hottest : Int} (hs : Kept s₀ s) : Answers s₀ (execThermalPoll hottest s) := by
  unfold execThermalPoll
  split
  · exact ⟨_, rfl, hs⟩
  · exact ⟨_, rfl, startLevel_kept (Kept.fields (refreshPower_kept hs))⟩

theorem execThermalHwLimit_kept (hs : Kept s₀ s) : Answers s₀ (execThermalHwLimit s) :=
  ⟨_, rfl, startLevel_kept (Kept.fields hs)⟩

theorem execThermalHwRelease_kept (hs : Kept s₀ s) : Answers s₀ (execThermalHwRelease s) :=
  ⟨_, rfl, startLevel_kept (Kept.fields hs)⟩

theorem atWakePl_kept (hs : Kept s₀ s) : Kept s₀ (atWakePl s) := by
  unfold atWakePl
  exact setDivisor_kept (Kept.fields hs)

theorem leaveLpi_kept (hs : Kept s₀ s) : Kept s₀ (leaveLpi s) := by
  unfold leaveLpi
  exact Kept.foldl (fun _ _ h1 => modPort_kept h1) hs

theorem wakeNow_kept (hs : Kept s₀ s) : Kept s₀ (wakeNow s) := by
  unfold wakeNow
  split
  · exact atWakePl_kept hs
  · exact calibrate_kept (leaveLpi_kept (atWakePl_kept hs))
  · exact bookReach_kept (Kept.fields (calibrate_kept (watchAll_kept (atWakePl_kept (buildRemap_kept hs)))))
  · exact hs

theorem wakeBy_kept {b : Nat} (hs : Kept s₀ s) : Kept s₀ (wakeBy s b) := by
  unfold wakeBy
  dsimp only
  split
  · exact wakeNow_kept (wakeFires_kept hs)
  · exact wakeFires_kept hs

theorem execWake_kept {source : WakeSource} (hs : Kept s₀ s) : Answers s₀ (execWake source s) := by
  unfold execWake
  split
  · exact ⟨_, rfl, hs⟩
  · exact ⟨_, rfl, wakeBy_kept hs⟩

theorem peerWake_kept {port : Nat} (hs : Kept s₀ s) : Kept s₀ (peerWake s port) := by
  unfold peerWake
  dsimp only
  split
  · exact wakeBy_kept (modPort_kept hs)
  · exact modPort_kept hs

theorem execLpiWake_kept {port : Nat} {fromPeer : Bool} (hs : Kept s₀ s) : Answers s₀ (execLpiWake port fromPeer s) := by
  unfold execLpiWake
  split
  · refine ⟨_, rfl, ?_⟩
    split
    · exact peerWake_kept hs
    · exact modPort_kept hs
  · exact ⟨_, rfl, hs⟩

theorem execLinkFrameReceive_kept {port : Nat} {frame : RxFrame} (hs : Kept s₀ s) :
    Answers s₀ (execLinkFrameReceive port frame s) := by
  unfold execLinkFrameReceive
  dsimp only
  split
  · exact ⟨_, rfl, hs⟩
  · split
    · exact ⟨_, rfl, takeFrame_kept hs⟩
    · split
      · exact ⟨_, rfl, peerWake_kept hs⟩
      · exact ⟨_, rfl, hs⟩

theorem dropToken_kept (hs : Kept s₀ s) : Kept s₀ (dropToken s) := by
  unfold dropToken
  split
  · exact Kept.fields hs
  · exact hs

theorem openSave_kept {ctx : Nat} (hs : Kept s₀ s) : Kept s₀ (openSave s ctx) := by
  unfold openSave
  exact beginImages_kept hs

theorem closeSave_kept {ctx : Nat} (hs : Kept s₀ s) : Kept s₀ (closeSave s ctx) := by
  unfold closeSave
  exact modShard_kept (Kept.fields (Kept.foldl (fun _ _ h1 => commitImage_kept h1) hs))

theorem endFull_kept (hs : Kept s₀ s) : Kept s₀ (endFull s) := by
  unfold endFull
  split
  · exact endSession_kept hs
  · exact hs

theorem enterLpi_kept (hs : Kept s₀ s) : Kept s₀ (enterLpi s) := by
  unfold enterLpi
  exact bookReach_kept (Kept.foldl (fun _ _ h1 => modPort_kept h1) hs)

theorem intoS3_kept (hs : Kept s₀ s) : Kept s₀ (intoS3 s) := by
  unfold intoS3
  exact Kept.fields (warmState_kept (endFull_kept hs))

theorem intoS4_kept (hs : Kept s₀ s) : Kept s₀ (intoS4 s) := by
  unfold intoS4
  exact Kept.fields (coldState_kept hs)

theorem reachState_kept {st : PowerState} {h : Nat} (hs : Kept s₀ s) : Kept s₀ (reachState s st h) := by
  unfold reachState
  split
  · exact Kept.fields (complete_kept (setDivisor_kept hs))
  · exact Kept.fields (complete_kept (enterLpi_kept (endFull_kept (computeReset_kept (Kept.foldl (fun _ _ h1 => closeSave_kept
        h1) hs)))))
  · exact intoS3_kept (complete_kept (computeReset_kept (Kept.foldl (fun _ _ h1 => closeSave_kept h1) hs)))
  · exact intoS4_kept (complete_kept (computeReset_kept (Kept.foldl (fun _ _ h1 => closeSave_kept h1) hs)))
  · exact hs

theorem execSleepEntryDone_kept (hs : Kept s₀ s) : Answers s₀ (execSleepEntryDone s) := by
  unfold execSleepEntryDone
  split
  · refine ⟨_, rfl, ?_⟩
    split
    · exact wakeNow_kept (reachState_kept hs)
    · exact reachState_kept hs
  · exact ⟨_, rfl, hs⟩

theorem wokenFirst_kept (hs : Kept s₀ s) : Kept s₀ (wokenFirst s) := by
  unfold wokenFirst
  split
  · exact wakeNow_kept (wakeFires_kept hs)
  · exact hs

theorem execPowerSetPl_kept {h : Nat} (hs : Kept s₀ s) : Answers s₀ (execPowerSetPl h s) := by
  unfold execPowerSetPl
  refine ⟨_, rfl, ?_⟩
  refine withCmd_kept hs ?_
  intro _ _ h1
  split
  · exact h1
  · exact requestPl_kept (wokenFirst_kept h1)

theorem execPowerSetState_kept {h : Nat} (hs : Kept s₀ s) : Answers s₀ (execPowerSetState h s) := by
  unfold execPowerSetState
  refine ⟨_, rfl, ?_⟩
  refine withCmd_kept hs ?_
  intro _ _ h1
  dsimp only
  split
  · exact h1
  · split
    · exact requestPl_kept (wokenFirst_kept h1)
    · split
      · exact complete_kept (wokenFirst_kept h1)
      · refine Kept.fields ?_
        split
        · exact dropToken_kept (begun_kept (wokenFirst_kept h1))
        · exact Kept.foldl (fun _ _ h2 => openSave_kept h2) (dropToken_kept (begun_kept (wokenFirst_kept h1)))

theorem execBrownOut_kept {rail : Nat} (hs : Kept s₀ s) : Answers s₀ (execBrownOut rail s) :=
  Answers.ite ⟨_, rfl, hs⟩ ⟨_, rfl, endPlCmds_kept (Kept.ite (setDivisor_kept (Kept.fields (computeReset_kept (tamperMark_kept
      (zeroise_kept (dropToken_kept hs)))))) (Kept.fields (computeReset_kept (tamperMark_kept (zeroise_kept (dropToken_kept
      hs))))))⟩

theorem removalActions_kept (hs : Kept s₀ s) : Kept s₀ (removalActions s) := by
  unfold removalActions
  split
  · exact hs
  · exact Kept.fields (breakKeeps_kept (zeroise_kept hs))

theorem outputOff_kept (hs : Kept s₀ s) : Kept s₀ (outputOff s) := by
  unfold outputOff
  exact Kept.fields (coldState_kept hs)

theorem outputOn_kept (hs : Kept s₀ s) : Kept s₀ (outputOn s) := by
  unfold outputOn
  split
  · exact hs
  · exact Kept.fields (coldState_kept hs)

theorem execPowerFailWarning_kept (hs : Kept s₀ s) : Answers s₀ (execPowerFailWarning s) := by
  unfold execPowerFailWarning
  refine ⟨_, rfl, ?_⟩
  split
  · exact hs
  · exact removalActions_kept hs

theorem execCurrentLimitTrip_kept (hs : Kept s₀ s) : Answers s₀ (execCurrentLimitTrip s) := by
  unfold execCurrentLimitTrip
  split
  · exact ⟨_, rfl, Kept.fields (outputOff_kept hs)⟩
  · exact ⟨_, rfl, hs⟩

theorem execCurrentLimitRetry_kept (hs : Kept s₀ s) : Answers s₀ (execCurrentLimitRetry s) := by
  unfold execCurrentLimitRetry
  refine ⟨_, rfl, ?_⟩
  split
  · exact outputOn_kept (Kept.fields hs)
  · exact hs

theorem execInputLockout_kept {vinCentivolt : Nat} {rising : Bool} (hs : Kept s₀ s) :
    Answers s₀ (execInputLockout vinCentivolt rising s) :=
  ⟨_, rfl, Kept.ite (Kept.ite (outputOff_kept (Kept.fields hs)) (Kept.fields hs)) (outputOn_kept (Kept.fields hs))⟩

theorem execPresenceSeated_kept (hs : Kept s₀ s) : Answers s₀ (execPresenceSeated s) :=
  ⟨_, rfl, outputOn_kept (Kept.fields hs)⟩

theorem execPresenceOpen_kept {contact : Nat} (hs : Kept s₀ s) : Answers s₀ (execPresenceOpen contact s) := by
  unfold execPresenceOpen
  split
  · exact ⟨_, rfl, hs⟩
  · refine ⟨_, rfl, ?_⟩
    split
    · exact outputOff_kept (removalActions_kept (Kept.fields hs))
    · exact Kept.fields hs

theorem execPmbusCommand_kept {code data : Nat} (hs : Kept s₀ s) : Answers s₀ (execPmbusCommand code data s) := by
  unfold execPmbusCommand
  split
  · split
    · exact ⟨_, rfl, hs⟩
    · split
      · exact ⟨_, rfl, outputOn_kept (Kept.fields hs)⟩
      · split
        · refine ⟨_, rfl, ?_⟩
          split
          · exact outputOff_kept (removalActions_kept (Kept.fields hs))
          · exact Kept.fields hs
        · exact ⟨_, rfl, hs⟩
  · exact ⟨_, rfl, Kept.fields hs⟩
  · exact ⟨_, rfl, Kept.fields hs⟩
  · split
    · exact ⟨_, rfl, Kept.fields hs⟩
    · exact ⟨_, rfl, hs⟩

theorem pwrClear_kept {off : Nat} (hs : Kept s₀ s) : Kept s₀ (pwrClear s off) := by
  unfold pwrClear
  split
  · exact Kept.fields hs
  · exact Kept.fields hs
  · exact hs

theorem pwrWrite_kept {mid off : Nat} {v : Word} (hs : Kept s₀ s) : Kept s₀ (pwrWrite s mid off v) := by
  unfold pwrWrite
  dsimp only
  split
  · exact clogBar_kept hs
  · split
    · split
      · exact clogBar_kept hs
      · split
        · exact clogBar_kept (Kept.fields hs)
        · exact Kept.fields (Kept.fields hs)
    · exact Kept.fields hs
    · exact Kept.fields hs
    · exact Kept.fields hs
    · split
      · exact clogBar_kept hs
      · split
        · exact clogBar_kept hs
        · exact Kept.fields hs
    · exact hs

end Sys2Proof.Machine
end

section
/-! SUPPORT. What the functions of Security keep. -/

namespace Sys2Proof.Machine

variable {s₀ s t : State}

theorem secResult_kept {st : Status} (hs : Kept s₀ s) : Kept s₀ (secResult s st) := by
  unfold secResult
  exact Kept.fields hs

theorem openLevel_kept {l : BitVec 2} (hs : Kept s₀ s) : Kept s₀ (openLevel s l) := by
  unfold openLevel
  exact Kept.fields hs

theorem dbgClose_kept (hs : Kept s₀ s) : Kept s₀ (dbgClose s) := by
  unfold dbgClose
  split
  · exact hs
  · exact endSession_kept hs

theorem dbgOpen_kept {l : Nat} (hs : Kept s₀ s) : Kept s₀ (dbgOpen s l) := by
  unfold dbgOpen
  split
  · exact dbgClose_kept hs
  · split
    · exact secResult_kept hs
    · exact openLevel_kept hs

theorem dbgPresent_kept (hs : Kept s₀ s) : Kept s₀ (dbgPresent s) := by
  unfold dbgPresent
  dsimp only
  split
  · exact secResult_kept hs
  · split
    · split
      · exact Kept.fields hs
      · exact secResult_kept hs
    · split
      · exact secResult_kept hs
      · split
        · exact secResult_kept hs
        · split
          · exact secResult_kept hs
          · exact Kept.fields hs

theorem dbgGo_kept (hs : Kept s₀ s) : Kept s₀ (dbgGo s) := by
  unfold dbgGo
  split
  · exact secResult_kept hs
  · split
    · exact secResult_kept hs
    · split
      · exact secResult_kept hs
      · exact Kept.fields hs

theorem dbgCtl_kept {mid : Nat} {v : Word} (hs : Kept s₀ s) : Kept s₀ (dbgCtl s mid v) := by
  unfold dbgCtl
  dsimp only
  split
  · exact clogBar_kept hs
  · split
    · exact dbgGo_kept hs
    · exact dbgPresent_kept hs
    · exact dbgClose_kept hs
    · exact dbgOpen_kept hs
    · exact hs

theorem execDebugOpen_kept {mid : Nat} {value : Word} (hs : Kept s₀ s) : Answers s₀ (execDebugOpen mid value s) :=
  ⟨_, rfl, dbgCtl_kept hs⟩

theorem execDebugClose_kept {mid : Nat} {value : Word} (hs : Kept s₀ s) : Answers s₀ (execDebugClose mid value s) :=
  ⟨_, rfl, dbgCtl_kept hs⟩

theorem execPresent_kept {mid : Nat} {value : Word} (hs : Kept s₀ s) : Answers s₀ (execPresent mid value s) :=
  ⟨_, rfl, dbgCtl_kept hs⟩

theorem execGoProduction_kept {mid : Nat} {value : Word} (hs : Kept s₀ s) : Answers s₀ (execGoProduction mid value s) :=
  ⟨_, rfl, dbgCtl_kept hs⟩

theorem tokenDone_kept (hs : Kept s₀ s) : Kept s₀ (tokenDone s) := by
  unfold tokenDone
  dsimp only
  split
  · exact secResult_kept (Kept.fields hs)
  · split
    · exact secResult_kept (Kept.fields hs)
    · split
      · exact openLevel_kept (Kept.fields hs)
      · exact Kept.fields (Kept.fields hs)

theorem execTokenCheckDone_kept (hs : Kept s₀ s) : Answers s₀ (execTokenCheckDone s) := by
  unfold execTokenCheckDone
  split
  · exact ⟨_, rfl, tokenDone_kept hs⟩
  · exact ⟨_, rfl, hs⟩

theorem execLcTransitionDone_kept {interrupted : Bool} (hs : Kept s₀ s) : Answers s₀ (execLcTransitionDone interrupted s) := by
  unfold execLcTransitionDone
  split
  · dsimp only
    split
    · exact ⟨_, rfl, Kept.fields (Kept.fields hs)⟩
    · exact ⟨_, rfl, secResult_kept (Kept.fields (endSession_kept (Kept.fields (Kept.fields hs))))⟩
  · exact ⟨_, rfl, hs⟩

theorem jtagTake_kept {i : JtagIns} (hs : Kept s₀ s) : Kept s₀ (jtagTake s i) := by
  unfold jtagTake
  dsimp only
  split
  · refine zeroise_kept ?_
    split
    · exact Kept.fields (Kept.fields hs)
    · exact Kept.fields hs
  · split
    · refine Kept.fields ?_
      refine warmState_kept ?_
      split
      · exact Kept.fields (Kept.fields hs)
      · exact Kept.fields hs
    · split
      · exact Kept.fields (Kept.fields hs)
      · exact Kept.fields hs

theorem execJtagInstruction_kept {ins : JtagIns} (hs : Kept s₀ s) : Answers s₀ (execJtagInstruction ins s) := by
  unfold execJtagInstruction
  split
  · exact ⟨_, rfl, hs⟩
  · exact ⟨_, rfl, jtagTake_kept hs⟩

theorem updateStop_kept (hs : Kept s₀ s) : Kept s₀ (updateStop s) := by
  unfold updateStop
  dsimp only
  split
  · exact Kept.fields hs
  · exact Kept.fields (Kept.fields hs)

theorem updatePart_kept {h : Nat} {last : Bool} {bytes : List Byte} (hs : Kept s₀ s) : Kept s₀ (updatePart s h last bytes) := by
  unfold updatePart
  dsimp only
  exact Kept.ite (complete_kept (Kept.fields hs)) (Kept.ite (complete_kept (Kept.fields (Kept.fields (Kept.fields hs))))
      (complete_kept (Kept.fields (Kept.fields hs))))

theorem execFirmwareUpdate_kept {h : Nat} (hs : Kept s₀ s) : Answers s₀ (execFirmwareUpdate h s) := by
  unfold execFirmwareUpdate
  refine ⟨_, rfl, ?_⟩
  refine withCmd_kept hs ?_
  intro _ _ h1
  dsimp only
  split
  · exact complete_kept h1
  · split
    · exact complete_kept (updateStop_kept h1)
    · exact updatePart_kept h1

theorem buildReport_kept {nonce : Nat} (hs : Kept s₀ s) : Kept s₀ (buildReport s nonce) := by
  unfold buildReport
  exact Kept.fields (Kept.fields hs)

theorem execAttest_kept {h : Nat} (hs : Kept s₀ s) : Answers s₀ (execAttest h s) := by
  unfold execAttest
  refine ⟨_, rfl, ?_⟩
  refine withCmd_kept hs ?_
  intro _ _ h1
  split
  · exact complete_kept (buildReport_kept h1)
  · exact complete_kept h1

theorem takeLock_kept {mid : BitVec 4} (hs : Kept s₀ s) : KeptSnd s₀ (takeLock s mid) := by
  unfold takeLock
  dsimp only
  split
  · exact KeptSnd.of (Kept.fields hs)
  · split
    · exact KeptSnd.of (Kept.fields hs)
    · split <;> exact KeptSnd.of (Kept.fields (Kept.fields hs))

theorem execLock_kept {h : Nat} (hs : Kept s₀ s) : Answers s₀ (execLock h s) :=
  ⟨_, rfl, withCmd_kept hs (fun _ _ h1 => complete_kept ((takeLock_kept h1).snd))⟩

end Sys2Proof.Machine
end

section
/-! SUPPORT. What the functions of Bist keep. -/

namespace Sys2Proof.Machine

variable {s₀ s t : State}

theorem bistMark_kept {test : Nat} (hs : Kept s₀ s) : Kept s₀ (bistMark s test) := by
  unfold bistMark
  exact Kept.fields hs

theorem bistStart_kept {test : Nat} {all : Bool} {core : Nat} {cmd : Option Nat} (hs : Kept s₀ s) :
    Kept s₀ (bistStart s test all core cmd) := by
  unfold bistStart
  exact Kept.fields (bistMark_kept hs)

theorem execBistRun_kept {h : Nat} (hs : Kept s₀ s) : Answers s₀ (execBistRun h s) := by
  unfold execBistRun
  refine ⟨_, rfl, ?_⟩
  refine withCmd_kept hs ?_
  intro _ _ h1
  dsimp only
  split
  · exact h1
  · split
    · exact complete_kept h1
    · split
      · exact complete_kept (Kept.fields (bistMark_kept h1))
      · exact bistStart_kept (begun_kept h1)

theorem bstCtl_kept {mid : Nat} {v : Word} (hs : Kept s₀ s) : Kept s₀ (bstCtl s mid v) := by
  unfold bstCtl
  dsimp only
  split
  · exact clogBar_kept hs
  · split
    · exact hs
    · split
      · exact Kept.fields (bistMark_kept hs)
      · exact bistStart_kept hs

theorem execBstCtlGo_kept {mid : Nat} {value : Word} (hs : Kept s₀ s) : Answers s₀ (execBstCtlGo mid value s) :=
  ⟨_, rfl, bstCtl_kept hs⟩

theorem holdCores_kept {fs : List TestFailure} (hs : Kept s₀ s) : Kept s₀ (holdCores s fs) := by
  unfold holdCores
  exact Kept.fields hs

theorem zeroTiles_kept {cores : List Nat} (hs : Kept s₀ s) : Kept s₀ (zeroTiles s cores) := by
  unfold zeroTiles
  exact Kept.foldl (fun _ _ h1 => modCore_kept h1 (fun _ _ => zeroCore_kept)) hs

theorem wreckDepot_kept (hs : Kept s₀ s) : Kept s₀ (wreckDepot s) := by
  unfold wreckDepot
  exact Kept.fields hs

theorem bistEnd_kept {r : BistRun} {done : List Nat} {tiles : Nat} {stopped : Bool} {failures : List TestFailure}
    (hs : Kept s₀ s) : Kept s₀ (bistEnd s r done tiles stopped failures) := by
  unfold bistEnd
  dsimp only
  split
  · refine complete_kept ?_
    refine Kept.fields ?_
    split
    · split
      · exact wreckDepot_kept (zeroTiles_kept (holdCores_kept (repairAll_kept hs)))
      · exact zeroTiles_kept (holdCores_kept (repairAll_kept hs))
    · refine calibrate_kept ?_
      split
      · exact wreckDepot_kept (zeroTiles_kept (holdCores_kept (repairAll_kept hs)))
      · exact zeroTiles_kept (holdCores_kept (repairAll_kept hs))
  · refine Kept.fields ?_
    split
    · split
      · exact wreckDepot_kept (zeroTiles_kept (holdCores_kept (repairAll_kept hs)))
      · exact zeroTiles_kept (holdCores_kept (repairAll_kept hs))
    · refine calibrate_kept ?_
      split
      · exact wreckDepot_kept (zeroTiles_kept (holdCores_kept (repairAll_kept hs)))
      · exact zeroTiles_kept (holdCores_kept (repairAll_kept hs))

theorem execBistDone_kept {failures : List TestFailure} (hs : Kept s₀ s) : Answers s₀ (execBistDone failures s) := by
  unfold execBistDone
  split
  · exact ⟨_, rfl, hs⟩
  · exact ⟨_, rfl, bistEnd_kept hs⟩

theorem execBistLimitStop_kept {completed : Nat} {failures : List TestFailure} (hs : Kept s₀ s) :
    Answers s₀ (execBistLimitStop completed failures s) := by
  unfold execBistLimitStop
  split
  · exact ⟨_, rfl, hs⟩
  · exact ⟨_, rfl, bistEnd_kept hs⟩

theorem ledgerClear_kept {mid : Nat} {v : Word} (hs : Kept s₀ s) : Kept s₀ (ledgerClear s mid v) := by
  unfold ledgerClear
  split
  · exact clogBar_kept hs
  · split
    · exact Kept.fields hs
    · exact hs

theorem execLedgerClear_kept {mid : Nat} {value : Word} (hs : Kept s₀ s) : Answers s₀ (execLedgerClear mid value s) :=
  ⟨_, rfl, ledgerClear_kept hs⟩

theorem bstCfg_kept {mid : Nat} {v : Word} (hs : Kept s₀ s) : Kept s₀ (bstCfg s mid v) := by
  unfold bstCfg
  dsimp only
  split
  · exact clogBar_kept hs
  · split
    · exact clogBar_kept (Kept.fields hs)
    · exact Kept.fields (Kept.fields hs)

theorem bstWrite_kept {mid off : Nat} {v : Word} (hs : Kept s₀ s) : Kept s₀ (bstWrite s mid off v) := by
  unfold bstWrite
  split
  · exact clogBar_kept hs
  · split
    · exact bstCfg_kept hs
    · exact bstCtl_kept hs
    · exact Kept.fields hs
    · exact ledgerClear_kept hs
    · exact hs

end Sys2Proof.Machine
end

section
/-! SUPPORT. What the functions of Mailbox keep. -/

namespace Sys2Proof.Machine

variable {s₀ s t : State}

theorem mbxInterrupt_kept {n mid : Nat} (hs : Kept s₀ s) : Kept s₀ (mbxInterrupt s n mid) := by
  unfold mbxInterrupt
  split
  · exact Kept.fields hs
  · exact Kept.fields hs
  · exact Kept.fields hs
  · exact Kept.fields hs
  · exact hs

theorem mbxData_kept {mid n word : Nat} {value : Word} (hs : Kept s₀ s) : Kept s₀ (mbxData s mid n word value) := by
  unfold mbxData
  dsimp only
  split
  · exact clogBar_kept hs
  · split
    · exact clogBar_kept (setMbx_kept hs)
    · exact setMbx_kept hs

theorem execMailboxDataWrite_kept {mid n word : Nat} {value : Word} (hs : Kept s₀ s) :
    Answers s₀ (execMailboxDataWrite mid n word value s) := by
  unfold execMailboxDataWrite
  split
  · exact ⟨_, rfl, mbxData_kept hs⟩
  · exact ⟨_, rfl, hs⟩

theorem mbxSetBits_kept {mid n : Nat} {bits : Word} (hs : Kept s₀ s) : Kept s₀ (mbxSetBits s mid n bits) := by
  unfold mbxSetBits
  dsimp only
  split
  · exact clogBar_kept hs
  · split
    · refine wakeFires_kept ?_
      split
      · exact mbxInterrupt_kept (setMbx_kept hs)
      · exact setMbx_kept hs
    · split
      · exact mbxInterrupt_kept (setMbx_kept hs)
      · exact setMbx_kept hs

theorem execMailboxSet_kept {mid n : Nat} {bits : Word} (hs : Kept s₀ s) : Answers s₀ (execMailboxSet mid n bits s) := by
  unfold execMailboxSet
  split
  · exact ⟨_, rfl, mbxSetBits_kept hs⟩
  · exact ⟨_, rfl, hs⟩

theorem mbxClear_kept {mid n : Nat} {bits : Word} (hs : Kept s₀ s) : Kept s₀ (mbxClear s mid n bits) := by
  unfold mbxClear
  dsimp only
  split
  · exact clogBar_kept hs
  · split
    · exact mbxInterrupt_kept (setMbx_kept hs)
    · exact setMbx_kept hs

theorem execMailboxPendClear_kept {mid n : Nat} {bits : Word} (hs : Kept s₀ s) :
    Answers s₀ (execMailboxPendClear mid n bits s) := by
  unfold execMailboxPendClear
  split
  · exact ⟨_, rfl, mbxClear_kept hs⟩
  · exact ⟨_, rfl, hs⟩

theorem execMailboxAckTimeout_kept {n : Nat} (hs : Kept s₀ s) : Answers s₀ (execMailboxAckTimeout n s) := by
  unfold execMailboxAckTimeout
  dsimp only
  split
  · exact ⟨_, rfl, mbxInterrupt_kept (setMbx_kept hs)⟩
  · exact ⟨_, rfl, hs⟩

theorem mbxBind_kept {mid n : Nat} {value : Word} (hs : Kept s₀ s) : Kept s₀ (mbxBind s mid n value) := by
  unfold mbxBind
  dsimp only
  exact Kept.ite (clogBar_kept hs) (Kept.ite (clogBar_kept hs) (Kept.ite (clogBar_kept hs) (Kept.ite hs (setMbx_kept hs))))

theorem execMailboxBind_kept {mid n : Nat} {value : Word} (hs : Kept s₀ s) : Answers s₀ (execMailboxBind mid n value s) := by
  unfold execMailboxBind
  split
  · exact ⟨_, rfl, mbxBind_kept hs⟩
  · exact ⟨_, rfl, hs⟩

end Sys2Proof.Machine
end

section
/-! SUPPORT. What the functions of Regs keep. -/

namespace Sys2Proof.Machine

variable {s₀ s t : State}

theorem execCustomsLogRecord_kept {a b : Packet} (hs : Kept s₀ s) : Answers s₀ (execCustomsLogRecord a b s) := by
  unfold execCustomsLogRecord
  split
  · exact ⟨_, rfl, Kept.fields (hubDone_kept (hubDone_kept hs))⟩
  · exact ⟨_, rfl, hs⟩

theorem clogClear_kept {v : Word} (hs : Kept s₀ s) : Kept s₀ (clogClear s v) := by
  unfold clogClear
  split
  · exact Kept.fields hs
  · exact hs

theorem execCustomsLogClear_kept {mid : Nat} {value : Word} (hs : Kept s₀ s) : Answers s₀ (execCustomsLogClear mid value s) :=
    by
  unfold execCustomsLogClear
  refine ⟨_, rfl, ?_⟩
  split
  · exact clogClear_kept hs
  · exact clogBar_kept hs

theorem glbReset_kept {mid : Nat} {v : Word} (hs : Kept s₀ s) : Kept s₀ (glbReset s mid v) := by
  unfold glbReset
  split
  · exact clogBar_kept hs
  · split
    · split
      · exact hs
      · exact startRestart_kept hs
    · exact computeReset_kept hs
    · exact warmState_kept hs
    · exact clogBar_kept hs

theorem glbWrite_kept {mid off : Nat} {v : Word} (hs : Kept s₀ s) : Kept s₀ (glbWrite s mid off v) := by
  unfold glbWrite
  split
  · exact glbReset_kept hs
  · exact Kept.fields hs
  · exact Kept.fields hs
  · exact clogClear_kept hs
  · exact hs

theorem hifBase_kept {mid off : Nat} {v : BitVec 64} (hs : Kept s₀ s) : Kept s₀ (hifBase s mid off v) := by
  unfold hifBase
  dsimp only
  split
  · exact clogBar_kept hs
  · split
    · exact setSq_kept hs
    · exact setCq_kept hs

theorem hifWrite_kept {mid off : Nat} {v : Word} (hs : Kept s₀ s) : Kept s₀ (hifWrite s mid off v) := by
  unfold hifWrite
  split
  · exact Kept.fields hs
  · split
    · dsimp only
      split
      · split
        · exact clogBar_kept hs
        · exact setSq_kept hs
      · exact setSq_kept hs
      · exact hs
    · split
      · dsimp only
        split
        · split
          · exact clogBar_kept hs
          · exact setCq_kept hs
        · exact setCq_kept hs
        · exact hs
      · split
        · exact Kept.fields hs
        · exact hs

theorem fabWrite_kept {mid off : Nat} {v : Word} (hs : Kept s₀ s) : Kept s₀ (fabWrite s mid off v) := by
  unfold fabWrite
  split
  · exact hs
  · split
    · exact clogBar_kept hs
    · dsimp only
      split
      · exact setDdrGate_kept hs
      · split <;> exact Kept.fields hs

theorem strRegClear_kept {o off : Nat} (hs : Kept s₀ s) : Kept s₀ (strRegClear s o off) := by
  unfold strRegClear
  split
  · exact setIn_kept hs
  · exact setRes_kept hs

theorem depRegWrite_kept {mid off : Nat} {v : Word} (hs : Kept s₀ s) : Kept s₀ (depRegWrite s mid off v) := by
  unfold depRegWrite
  split
  · exact hs
  · split
    · exact clogBar_kept hs
    · exact Kept.fields hs

theorem tmrWrite_kept {mid i off : Nat} {v : Word} (hs : Kept s₀ s) : Kept s₀ (tmrWrite s mid i off v) := by
  unfold tmrWrite
  dsimp only
  split
  · exact tmrWriteCtl_kept hs
  · split
    · exact clogBar_kept hs
    · exact syncWatch_kept (setTmr_kept hs)

theorem mbxReadClear_kept {mid off : Nat} (hs : Kept s₀ s) : Kept s₀ (mbxReadClear s mid off) := by
  unfold mbxReadClear
  split
  · split
    · exact hs
    · exact clogBar_kept hs
  · split
    · exact healthClear_kept hs
    · exact hs

theorem mbxMask_kept {mid n : Nat} {v : Word} (hs : Kept s₀ s) : Kept s₀ (mbxMask s mid n v) := by
  unfold mbxMask
  dsimp only
  split
  · exact clogBar_kept hs
  · split
    · exact mbxInterrupt_kept (setMbx_kept hs)
    · exact setMbx_kept hs

theorem mbxOwn_kept {mid n off : Nat} {v : Word} (hs : Kept s₀ s) : Kept s₀ (mbxOwn s mid n off v) := by
  unfold mbxOwn
  dsimp only
  split
  · exact clogBar_kept hs
  · split <;> exact setMbx_kept hs

theorem mbxWrite_kept {mid off : Nat} {v : Word} (hs : Kept s₀ s) : Kept s₀ (mbxWrite s mid off v) := by
  unfold mbxWrite
  split
  · dsimp only
    split
    · exact mbxSetBits_kept hs
    · exact mbxClear_kept hs
    · exact mbxMask_kept hs
    · exact mbxOwn_kept hs
    · exact mbxOwn_kept hs
    · split
      · exact mbxData_kept hs
      · exact hs
  · split
    · exact mbxBind_kept hs
    · exact hs

theorem secWrite_kept {mid off : Nat} {v : Word} (hs : Kept s₀ s) : Kept s₀ (secWrite s mid off v) := by
  unfold secWrite
  dsimp only
  split
  · split
    · exact Kept.fields hs
    · exact clogBar_kept hs
  · split
    · split
      · exact Kept.fields hs
      · exact clogBar_kept hs
    · split
      · exact dbgCtl_kept hs
      · split
        · split
          · exact Kept.fields hs
          · exact clogBar_kept hs
        · exact hs

theorem barClear_kept {mid a : Nat} (hs : Kept s₀ s) : Kept s₀ (barClear s mid a) := by
  unfold barClear
  dsimp only
  split
  · exact hs
  · split
    · split
      · exact Kept.fields hs
      · exact hs
    · split
      · exact Kept.fields hs
      · exact hs
    · exact lnkClear_kept hs
    · split
      · exact strRegClear_kept hs
      · exact hs
    · split
      · exact setTmr_kept hs
      · exact hs
    · exact mbxReadClear_kept hs
    · exact pwrClear_kept hs
    · exact hs

theorem barWrite_kept {mid a : Nat} {v : Word} (hs : Kept s₀ s) : Kept s₀ (barWrite s mid a v) := by
  unfold barWrite
  dsimp only
  split
  · exact glbWrite_kept hs
  · exact hifWrite_kept hs
  · exact fabWrite_kept hs
  · split
    · exact shapeWrite_kept hs
    · split
      · exact portCtl_kept hs
      · exact hs
  · exact depRegWrite_kept hs
  · exact clogBar_kept hs
  · split
    · exact tmrWrite_kept hs
    · exact hs
  · exact mbxWrite_kept hs
  · exact pwrWrite_kept hs
  · exact secWrite_kept hs
  · exact bstWrite_kept hs
  · exact hs

theorem askTile_kept {mid a sub pay lo n at_ : Nat} (hs : Kept s₀ s) : Kept s₀ (askTile s mid a sub pay lo n at_) := by
  unfold askTile
  exact Kept.fields (hubSend_kept hs)

theorem readWord_kept {mid a lo n at_ : Nat} (hs : Kept s₀ s) : Kept s₀ (readWord s mid a lo n at_) := by
  unfold readWord
  split
  · exact hs
  · split
    · exact askTile_kept hs
    · exact Kept.fields (barClear_kept hs)

theorem busRead_kept {mid a n : Nat} (hs : Kept s₀ s) : Kept s₀ (busRead s mid a n) := by
  unfold busRead
  exact Kept.foldl (fun _ _ h1 => readWord_kept h1) (Kept.fields hs)

theorem writeWord_kept {mid a : Nat} {v : Word} (hs : Kept s₀ s) : Kept s₀ (writeWord s mid a v) := by
  unfold writeWord
  split
  · exact clogBar_kept hs
  · split
    · exact askTile_kept hs
    · exact barWrite_kept hs

theorem writePart_kept {mid a n : Nat} {v : BitVec 64} {w : Nat} (hs : Kept s₀ s) : Kept s₀ (writePart s mid a n v w) := by
  unfold writePart
  split
  · dsimp only
    split
    · exact hs
    · split
      · exact hifBase_kept hs
      · exact clogBar_kept hs
  · split
    · exact writeWord_kept hs
    · exact clogBar_kept hs

theorem busWrite_kept {mid a n : Nat} {v : BitVec 64} (hs : Kept s₀ s) : Kept s₀ (busWrite s mid a n v) := by
  unfold busWrite
  exact Kept.foldl (fun _ _ h1 => writePart_kept h1) hs

theorem bellWrite_kept {off : Nat} {v : Word} (hs : Kept s₀ s) : Kept s₀ (bellWrite s off v) := by
  unfold bellWrite
  split
  · exact hs
  · split
    · exact sqBell_kept hs
    · split
      · exact cqBell_kept hs
      · exact hs

theorem rdataAccess_kept {write : Option Word} (hs : Kept s₀ s) : Kept s₀ (rdataAccess s write) := by
  unfold rdataAccess
  dsimp only
  split
  · exact busRead_kept hs
  · exact busWrite_kept hs

theorem sdioWrite_kept {off : Nat} {v : Word} (hs : Kept s₀ s) : Kept s₀ (sdioWrite s off v) := by
  unfold sdioWrite
  dsimp only
  split
  · split
    · exact sdioGo_kept hs
    · exact Kept.fields hs
  · exact Kept.fields hs
  · exact Kept.fields hs
  · exact Kept.fields hs
  · exact Kept.fields hs
  · exact rdataAccess_kept hs
  · split
    · exact Kept.fields hs
    · exact hs

theorem execRegisterRead_kept {mid addr bytes : Nat} (hs : Kept s₀ s) : Answers s₀ (execRegisterRead mid addr bytes s) := by
  unfold execRegisterRead
  split
  · exact ⟨_, rfl, Kept.fields hs⟩
  · split
    · exact ⟨_, rfl, Kept.fields (clogBar_kept hs)⟩
    · split
      · split
        · exact ⟨_, rfl, rdataAccess_kept hs⟩
        · exact ⟨_, rfl, Kept.fields hs⟩
      · split
        · exact ⟨_, rfl, Kept.fields hs⟩
        · exact ⟨_, rfl, busRead_kept hs⟩

theorem execRegisterWrite_kept {mid addr bytes : Nat} {value : BitVec 64} (hs : Kept s₀ s) :
    Answers s₀ (execRegisterWrite mid addr bytes value s) := by
  unfold execRegisterWrite
  dsimp only
  split
  · exact ⟨_, rfl, hs⟩
  · split
    · exact ⟨_, rfl, clogBar_kept hs⟩
    · split
      · refine ⟨_, rfl, ?_⟩
        split
        · exact sdioWrite_kept hs
        · exact clogBar_kept hs
      · split
        · refine ⟨_, rfl, ?_⟩
          split
          · exact bellWrite_kept hs
          · exact clogBar_kept hs
        · split
          · exact ⟨_, rfl, clogBar_kept hs⟩
          · exact ⟨_, rfl, busWrite_kept hs⟩

theorem execSdioRdataAccess_kept {write : Option Word} (hs : Kept s₀ s) : Answers s₀ (execSdioRdataAccess write s) := by
  unfold execSdioRdataAccess
  refine ⟨_, rfl, ?_⟩
  split
  · exact rdataAccess_kept hs
  · exact hs

theorem execTileTollWrite_kept {mid core offset : Nat} {value : Word} (hs : Kept s₀ s) :
    Answers s₀ (execTileTollWrite mid core offset value s) := by
  unfold execTileTollWrite
  refine ⟨_, rfl, ?_⟩
  split
  · exact tileWriteBy_kept hs
  · exact hs

end Sys2Proof.Machine
end

section
/-! SUPPORT. What the functions of Stats keep. -/

namespace Sys2Proof.Machine

variable {s₀ s t : State}

theorem statsClear_kept {m : Line} (hs : Kept s₀ s) : Kept s₀ (statsClear s m) := by
  unfold statsClear
  refine Kept.foldl ?_ hs
  intro _ _ h1
  split
  · exact tileReadClear_kept h1
  · exact strRegClear_kept h1

theorem statsUsed_kept {src : Nat} (hs : Kept s₀ s) : Kept s₀ (statsUsed s src) := by
  unfold statsUsed
  split
  · exact Kept.fields hs
  · exact hs

theorem execStatsRead_kept {h : Nat} (hs : Kept s₀ s) : Answers s₀ (execStatsRead h s) := by
  unfold execStatsRead
  refine ⟨_, rfl, ?_⟩
  refine withCmd_kept hs ?_
  intro _ _ h1
  dsimp only
  split
  · exact complete_kept h1
  · split
    · exact complete_kept h1
    · refine complete_kept ?_
      split
      · exact statsClear_kept h1
      · exact statsUsed_kept h1

end Sys2Proof.Machine
end

section
/-! SUPPORT. Every command keeps what its function keeps; the obligations CoresStayCanonical and
EveryCommandAnswersAndKeepsTheQueue. -/

namespace Sys2Proof.Machine

variable {s₀ s t : State}

theorem exec_kept {i : Instr} (hs : Kept s₀ s) : Answers s₀ (exec i s) := by
  unfold exec
  split
  · exact execSqDoorbell_kept hs
  · exact execCqDoorbell_kept hs
  · exact execCommandFetch_kept hs
  · exact execCompletionHoldRelease_kept hs
  · exact execCqCoalesceTimer_kept hs
  · exact execCommandTimeout_kept hs
  · exact execMgmtCommandTake_kept hs
  · exact execNop_kept hs
  · exact execContextCreate_kept hs
  · exact execContextDestroy_kept hs
  · exact execContextReset_kept hs
  · exact execContextResetDrainDone_kept hs
  · exact execContextResetDrainTimeout_kept hs
  · exact execLoadSectionData_kept hs
  · exact execLoadSectionCommit_kept hs
  · exact execLoadSectionCompact_kept hs
  · exact execStart_kept hs
  · exact execStop_kept hs
  · exact execStopDone_kept hs
  · exact execStepRun_kept hs
  · exact execStepRunWaitDone_kept hs
  · exact execPaceSet_kept hs
  · exact execModulatorSet_kept hs
  · exact execStreamOpen_kept hs
  · exact execStreamPush_kept hs
  · exact execStreamClose_kept hs
  · exact execResultOpen_kept hs
  · exact execResultClose_kept hs
  · exact execQueueSend_kept hs
  · exact execConvoyBegin_kept hs
  · exact execConvoyStage_kept hs
  · exact execConvoyRecordStage_kept hs
  · exact execConvoyPrepare_kept hs
  · exact execConvoyCommit_kept hs
  · exact execConvoyAbort_kept hs
  · exact execPrepareReceive_kept hs
  · exact execConvoyFillDone_kept hs
  · exact execConvoyAnswer_kept hs
  · exact execCommitReceive_kept hs
  · exact execAbortReceive_kept hs
  · exact execConvoyApply_kept hs
  · exact execConvoyAck_kept hs
  · exact execJoin_kept hs
  · exact execQuery_kept hs
  · exact execConflict_kept hs
  · exact execConvoyCoordinatorTimeout_kept hs
  · exact execConvoyMemberTimer_kept hs
  · exact execWeightSave_kept hs
  · exact execWeightSaveDone_kept hs
  · exact execWeightRestore_kept hs
  · exact execStateRead_kept hs
  · exact execStateWrite_kept hs
  · exact execStatsRead_kept hs
  · exact execFirmwareUpdate_kept hs
  · exact execAttest_kept hs
  · exact execLock_kept hs
  · exact execBistRun_kept hs
  · exact execBstCtlGo_kept hs
  · exact execBistDone_kept hs
  · exact execBistLimitStop_kept hs
  · exact execPowerSetPl_kept hs
  · exact execPowerSetState_kept hs
  · exact execSleepEntryDone_kept hs
  · exact execWake_kept hs
  · exact execPlChangeDone_kept hs
  · exact execThermalPoll_kept hs
  · exact execThermalHwLimit_kept hs
  · exact execThermalHwRelease_kept hs
  · exact execBrownOut_kept hs
  · exact execPowerFailWarning_kept hs
  · exact execCurrentLimitTrip_kept hs
  · exact execCurrentLimitRetry_kept hs
  · exact execInputLockout_kept hs
  · exact execPresenceSeated_kept hs
  · exact execPresenceOpen_kept hs
  · exact execPerst_kept hs
  · exact execColdReset_kept hs
  · exact execDdrTrainingDone_kept hs
  · exact execWarmReset_kept hs
  · exact execComputeReset_kept hs
  · exact execManagementRestart_kept hs
  · exact execMgmtWatchdogExpire_kept hs
  · exact execMgmtScrub_kept hs
  · exact execMgmtSelfCheck_kept hs
  · exact execMgpBusyTimer_kept hs
  · exact execHeartbeat_kept hs
  · exact execRefclkLoss_kept hs
  · exact execTamperTrip_kept hs
  · exact execDebugOpen_kept hs
  · exact execDebugClose_kept hs
  · exact execPresent_kept hs
  · exact execTokenCheckDone_kept hs
  · exact execGoProduction_kept hs
  · exact execLcTransitionDone_kept hs
  · exact execExtestExit_kept hs
  · exact execJtagInstruction_kept hs
  · exact execLedgerClear_kept hs
  · exact execCustomsLogClear_kept hs
  · exact execCustomsLogRecord_kept hs
  · exact execRegisterWrite_kept hs
  · exact execSdioGo_kept hs
  · exact execSdioRdataAccess_kept hs
  · exact execTileTollWrite_kept hs
  · exact execTollWindowBoundary_kept hs
  · exact execLinkShapeWrite_kept hs
  · exact execPortEnable_kept hs
  · exact execPortRetrainRequest_kept hs
  · exact execMailboxDataWrite_kept hs
  · exact execMailboxSet_kept hs
  · exact execMailboxPendClear_kept hs
  · exact execMailboxAckTimeout_kept hs
  · exact execMailboxBind_kept hs
  · exact execTimerCtlWrite_kept hs
  · exact execTimerReloadNow_kept hs
  · exact execTimerReloadWrite_kept hs
  · exact execTimerCompareWrite_kept hs
  · exact execTimerTbRead_kept hs
  · exact execTimerCaploRead_kept hs
  · exact execTimerTick_kept hs
  · exact execTimerLinkAction_kept hs
  · exact execTriggerCapture_kept hs
  · exact execPaceRelease_kept hs
  · exact execRelease_kept hs
  · exact execIntegrateBegin_kept hs
  · exact execEvent_kept hs
  · exact execIntegrateEnd_kept hs
  · exact execRearguard_kept hs
  · exact execCredit_kept hs
  · exact execFireBegin_kept hs
  · exact execFireEnd_kept hs
  · exact execLearnEnd_kept hs
  · exact execCloseEnd_kept hs
  · exact execEagerEvaluate_kept hs
  · exact execStepWatchdogExpire_kept hs
  · exact execOutriderPrefetch_kept hs
  · exact execDreq_kept hs
  · exact execDdata_kept hs
  · exact execPenReturn_kept hs
  · exact execPenSpillWrite_kept hs
  · exact execWaystationForward_kept hs
  · exact execRegWr_kept hs
  · exact execRegRd_kept hs
  · exact execRegRsp_kept hs
  · exact execLinkFrameTransmit_kept hs
  · exact execLinkFrameReceive_kept hs
  · exact execLinkAckTimeout_kept hs
  · exact execLinkReplayLimit_kept hs
  · exact execLinkLaneUeLimit_kept hs
  · exact execTransitReserve_kept hs
  · exact execPortDetectLock_kept hs
  · exact execPortTrainEqDone_kept hs
  · exact execPortTrainEqTimeout_kept hs
  · exact execPortAlignDone_kept hs
  · exact execPortAlignTimeout_kept hs
  · exact execParamExchange_kept hs
  · exact execPortRetrainTimeout_kept hs
  · exact execPortDownRetry_kept hs
  · exact execMiswiredParamRetry_kept hs
  · exact execLossOfSignal_kept hs
  · exact execLpiWake_kept hs
  · exact execFrontEndCommand_kept hs
  · exact execHandlerDispatch_kept hs
  · exact execHandlerCycleLimit_kept hs
  · exact execAlu_kept hs
  · exact execAddi_kept hs
  · exact execAndi_kept hs
  · exact execOri_kept hs
  · exact execXori_kept hs
  · exact execLui_kept hs
  · exact execSlti_kept hs
  · exact execShi_kept hs
  · exact execBeq_kept hs
  · exact execBne_kept hs
  · exact execBlt_kept hs
  · exact execBge_kept hs
  · exact execBltu_kept hs
  · exact execBgeu_kept hs
  · exact execJal_kept hs
  · exact execJr_kept hs
  · exact execLoop_kept hs
  · exact execEndHandler_kept hs
  · exact execYieldTo_kept hs
  · exact execLdw_kept hs
  · exact execStw_kept hs
  · exact execLdh_kept hs
  · exact execSth_kept hs
  · exact execLdb_kept hs
  · exact execStb_kept hs
  · exact execVld_kept hs
  · exact execVst_kept hs
  · exact execAccld_kept hs
  · exact execAccst_kept hs
  · exact execVmac_kept hs
  · exact execVmacb_kept hs
  · exact execVmacm_kept hs
  · exact execVdot_kept hs
  · exact execAccop_kept hs
  · exact execVrq_kept hs
  · exact execVfun_kept hs
  · exact execVperm_kept hs
  · exact execVselm_kept hs
  · exact execVsplat_kept hs
  · exact execVext_kept hs
  · exact execVins_kept hs
  · exact execSend_kept hs
  · exact execTallyc_kept hs
  · exact execWaitne_kept hs
  · exact execCstg_kept hs
  · exact execQry_kept hs
  · exact execModw_kept hs
  · exact execSendWaitExpire_kept hs
  · exact execWaitneTimeout_kept hs
  · exact execMsg_kept hs
  · exact execTally_kept hs
  · exact execQcredit_kept hs
  · exact execNack_kept hs
  · exact execOpenChannel_kept hs
  · exact execOpenAck_kept hs
  · exact execCloseChannel_kept hs
  · exact execCloseAck_kept hs
  · exact execCloseDrainDone_kept hs
  · exact execModWrite_kept hs
  · exact execModDeliver_kept hs
  · exact execStepNotice_kept hs
  · exact execIngestGraceExpire_kept hs
  · exact execLateNotice_kept hs
  · exact execReadoutPacket_kept hs
  · exact execReadoutHoldExpire_kept hs
  · exact execReadoutPeerRetry_kept hs
  · exact execResultLossMark_kept hs
  · exact execWdogNotice_kept hs
  · exact execLossNotice_kept hs
  · exact execUeNotice_kept hs
  · exact execFaultNotice_kept hs
  · exact execOrphanNotice_kept hs
  · exact execPeerResetNotice_kept hs
  · exact execNoticeFoldTimer_kept hs
  · exact execRegisterRead_kept hs
  · exact execWeightRestoreDone_kept hs
  · exact execPmbusCommand_kept hs
  · exact execMgmtParityFailure_kept hs

/-! ### Core -/

/-- Settles O57: the command taken from the queue leaves the cores canonical. -/
theorem coresStayCanonical : Obligations.CoresStayCanonical := by
  intro s t hs ht
  unfold step at ht
  split at ht
  · cases ht
    exact hs
  · obtain ⟨u, hu, hk⟩ := exec_kept (Kept.refl { s with pending := _ })
    rw [hu] at ht
    cases ht
    exact hk.cores hs

/-- Settles O58: no command but the step that takes it touches the queue, and no arm of the dispatch refuses. -/
theorem everyCommandAnswersAndKeepsTheQueue : Obligations.EveryCommandAnswersAndKeepsTheQueue := by
  intro c s
  obtain ⟨t, ht, hk⟩ := exec_kept (i := c) (Kept.refl s)
  exact ⟨t, ht, hk.pending⟩

end Sys2Proof.Machine
end

section
/-! SUPPORT. The doorbells: which values a ring takes; the obligation DoorbellsPublishOrDiscard. -/

namespace Sys2Proof.Machine

variable {s : State}

theorem sqBad_iff (q : SqRegs) (v : Nat) : sqBad q v = true ↔ ¬(v < ringSize q.log2 ∧
    (q.tail.toNat + ringSize q.log2 - q.head.toNat) % ringSize q.log2 ≤ (v + ringSize q.log2 - q.head.toNat) % ringSize q.log2) := by
  rw [sqBad, sqUsed, Bool.or_eq_true, decide_eq_true_iff, decide_eq_true_iff]
  omega

theorem cqBad_iff (c : CqRegs) (v : Nat) : cqBad c v = true ↔ ¬(v < ringSize c.log2 ∧
    (v + ringSize c.log2 - c.head.toNat) % ringSize c.log2 ≤ (c.tail.toNat + ringSize c.log2 - c.head.toNat) % ringSize c.log2) := by
  rw [cqBad, cqUsed, Bool.or_eq_true, decide_eq_true_iff, decide_eq_true_iff]
  omega

theorem sqBell_taken {n : Nat} {value : Word} (hn : n < 256) (h : sqBad (getSq s n) (fld value 15 0) = false) :
    sqBell s n value = setSq (wakeFires s 9) n { getSq s n with tail := BitVec.ofNat 16 (fld value 15 0) } := by
  rw [sqBell, if_neg (by omega), getSq_wakeFires, if_neg (by rw [h]; decide)]

theorem sqBell_discarded {n : Nat} {value : Word} (hn : n < 256) (h : sqBad (getSq s n) (fld value 15 0) = true) :
    sqBell s n value = clogBar (setSq (wakeFires s 9) n { getSq s n with dberr := true }) 0 (8 * n) stAccess := by
  rw [sqBell, if_neg (by omega), getSq_wakeFires, if_pos h]

theorem cqBell_taken {n : Nat} {value : Word} (hn : n < 256) (h : cqBad (getCq s n) (fld value 15 0) = false) :
    cqBell s n value = ringRoom (setCq s n { getCq s n with head := BitVec.ofNat 16 (fld value 15 0) }) n := by
  rw [cqBell, if_neg (by omega), if_neg (by rw [h]; decide)]

theorem cqBell_discarded {n : Nat} {value : Word} (hn : n < 256) (h : cqBad (getCq s n) (fld value 15 0) = true) :
    cqBell s n value = clogBar (setCq s n { getCq s n with dberr := true }) 0 (0x8000 + 8 * n) stAccess := by
  rw [cqBell, if_neg (by omega), if_pos h]

/-- Settles O2: a doorbell is published exactly when its value is not bad for the ring. -/
theorem doorbellsPublishOrDiscard : Obligations.DoorbellsPublishOrDiscard := by
  intro s n value hn
  refine ⟨?_, ?_⟩
  · intro q size v taken
    have hbad : sqBad q v = true ↔ ¬taken := sqBad_iff q v
    refine ⟨sqBell s n value, rfl, ?_⟩
    cases hb : sqBad q v with
    | false =>
      have ht : taken := by_contra fun h => absurd (hbad.2 h) (by rw [hb]; decide)
      rw [sqBell_taken hn hb]
      exact ⟨fun k hk => by rw [getSq_setSq, if_neg hk, getSq_wakeFires], rfl,
        fun _ => ⟨by rw [getSq_setSq, if_pos rfl], rfl⟩, fun h => absurd ht h⟩
    | true =>
      rw [sqBell_discarded hn hb]
      exact ⟨fun k hk => by rw [getSq_clogBar, getSq_setSq, if_neg hk, getSq_wakeFires], rfl,
        fun h => absurd h (hbad.1 hb), fun _ => ⟨by rw [getSq_clogBar, getSq_setSq, if_pos rfl], rfl⟩⟩
  · intro c size v taken
    have hbad : cqBad c v = true ↔ ¬taken := cqBad_iff c v
    refine ⟨fun ht => ?_, fun ht => ?_⟩
    · have hb : cqBad c v = false := Bool.eq_false_iff.2 fun h => hbad.1 h ht
      exact congrArg _ (cqBell_taken hn hb)
    · exact congrArg _ (cqBell_discarded hn (hbad.2 ht))

end Sys2Proof.Machine
end

section
/-! SUPPORT. Command fetch: what joins the fetched commands and what completes at once; the obligation
CommandFetchTakesTheNextRing. -/

namespace Sys2Proof.Machine

variable {s : State}

/-- A command that fails a check is answered with the first failure, under its own handle. -/
theorem accept_failing {o : Origin} {m : Line} {bales : List Line} {st : Status} (h : manifestCheck s m bales = some st) :
    accept s o m bales none = answer { s with hif := { s.hif with nextHandle := s.hif.nextHandle + 1 } }
      { handle := s.hif.nextHandle, origin := o, manifest := m, bales := bales } st 0 [0] := by
  rw [accept, h]
  rfl

/-- A command that passes every check joins the fetched ones. -/
theorem accept_passing {o : Origin} {m : Line} {bales : List Line} (h : manifestCheck s m bales = none)
    (hr : resetCheck s m = none) : accept s o m bales none = { s with
      hif := { s.hif with
        nextHandle := s.hif.nextHandle + 1
        fetched := s.hif.fetched ++ [{ handle := s.hif.nextHandle, origin := o, manifest := m, bales := bales }] }
      mgmt := if isFast (mOp m) then s.mgmt else { s.mgmt with queue := s.mgmt.queue ++ [s.hif.nextHandle] } } := by
  rw [accept, h, hr]
  rfl

/-- With all that R408 asks for, a fetch takes the manifest of the next ring. -/
theorem execCommandFetch_next {n : Nat} {m : Line} {rest : List Line} (hen : s.hif.en = true) (hready : s.sdio.ready = true)
    (hs0 : s.pwr.state = .s0) (hmay : hubMay s.pwr.pl.toNat s.fab.cmd hostClass = true) (hn : nextSq s = some n) :
    exec (.commandFetch (m :: rest)) s =
      (let q := getSq s n
       let s1 := { s with hif := { s.hif with rr := (n + 1) % 256 } }
       if mBales m + 1 > ringSize q.log2 - 1 then
         .next (answer (setSq s1 n { q with head := q.tail, skip := true })
           { handle := 0, origin := .sq n, manifest := m, bales := [] } stBadLength 0 [0])
       else if !isFast (mOp m) ∧ s.mgmt.queue.length ≥ 256 then .next s1
       else if mBales m + 1 > sqUsed q then .next s1
       else .next (accept (chargeFetch (setSq s1 n { q with head := BitVec.ofNat 16 ((q.head.toNat + mBales m + 1) %
         ringSize q.log2) }) (mBales m + 1)) (.sq n) m ((List.range (mBales m)).map fun i => (rest[i]?).getD 0) none)) := by
  have he : exec (.commandFetch (m :: rest)) s = execCommandFetch (m :: rest) s := rfl
  rw [he]
  unfold execCommandFetch
  rw [if_pos ⟨hen, hready, hs0, hmay⟩, hn]

/-- Settles O3: the checks of a fetched manifest do not see the move of the ring's head. -/
theorem commandFetchTakesTheNextRing : Obligations.CommandFetchTakesTheNextRing := by
  intro s n m rest hen hready hs0 hmay hn q size bales moved f numbered
  rw [execCommandFetch_next hen hready hs0 hmay hn]
  refine ⟨fun hlong => if_pos hlong, fun hfits hpub hroom => ?_⟩
  have hqueue : ¬((!isFast (mOp m)) = true ∧ s.mgmt.queue.length ≥ 256) := by
    rintro ⟨hslow, hfull⟩
    rcases hroom with hfast | hroom
    · rw [hfast] at hslow; cases hslow
    · omega
  have hm : manifestCheck moved m bales = manifestCheck s m bales := manifestCheck_congr m bales rfl rfl
  have hr : resetCheck moved m = resetCheck s m := resetCheck_congr m rfl
  have hlong : ¬mBales m + 1 > ringSize (getSq s n).log2 - 1 := Nat.not_lt.2 hfits
  have hunpub : ¬mBales m + 1 > sqUsed (getSq s n) := Nat.not_lt.2 hpub
  dsimp only
  rw [if_neg hlong, if_neg hqueue, if_neg hunpub]
  exact ⟨fun st h => congrArg _ (accept_failing (hm.trans h)), fun h h' => congrArg _ (accept_passing (hm.trans h) (hr.trans h'))⟩

end Sys2Proof.Machine
end

section
/-! SUPPORT. What a completion ring holds after a group of entries; the obligation HeldGroupsAndCoalescing. -/

namespace Sys2Proof.Machine

variable {s : State}

theorem ringSize_pos (l : BitVec 4) : 0 < ringSize l := by
  rw [ringSize]
  split <;> positivity

theorem ringSize_le (l : BitVec 4) : ringSize l ≤ 2 ^ 16 := by
  rw [ringSize]
  split
  · exact le_rfl
  · exact Nat.pow_le_pow_right (by decide) (by omega)

/-- The entry `e` as the hub writes it at the place `i` after the tail of a ring: the SQHEAD of a command's ring, and the ring's
phase, which turns as the ring wraps (R414). -/
def ringEntry (s : State) (n : Nat) (e : BitVec 256) (i : Nat) : Nat × Nat × BitVec 256 :=
  (n, ((getCq s n).tail.toNat + i) % ringSize (getCq s n).log2,
    setFld (if fld e 23 22 = 0 then setFld e 63 48 (getSq s (fld e 71 64)).head.toNat else e) 0 0
      (b1 (if (getCq s n).tail.toNat + i < ringSize (getCq s n).log2 then (getCq s n).phase else !(getCq s n).phase)))

/-- What the ring `n` holds after `k` entries more: `t` is `s` but for the tail, the phase and the entries `es`. -/
structure Written (s t : State) (n k : Nat) (es : List (Nat × Nat × BitVec 256)) : Prop where
  tail : (getCq t n).tail.toNat = ((getCq s n).tail.toNat + k) % ringSize (getCq s n).log2
  phase : (getCq t n).phase =
    if (getCq s n).tail.toNat + k < ringSize (getCq s n).log2 then (getCq s n).phase else !(getCq s n).phase
  regs : ∃ tl ph, getCq t n = { getCq s n with tail := tl, phase := ph }
  others : ∀ i, i ≠ n → getCq t i = getCq s i
  entries : t.hif.written = s.hif.written ++ es
  rest : t = { s with hif := { s.hif with cqs := t.hif.cqs, written := t.hif.written } }

theorem Written.nothing {n : Nat} (ht : (getCq s n).tail.toNat < ringSize (getCq s n).log2) : Written s s n 0 [] where
  tail := by rw [Nat.add_zero, Nat.mod_eq_of_lt ht]
  phase := by rw [Nat.add_zero, if_pos ht]
  regs := ⟨_, _, rfl⟩
  others _ _ := rfl
  entries := (List.append_nil _).symm
  rest := rfl

/-- A ring's registers after one entry more: at the end of the ring the tail goes back to 0 and the phase turns. -/
def ringNext (c : CqRegs) : CqRegs :=
  { c with
    tail := if c.tail.toNat + 1 = ringSize c.log2 then 0 else c.tail + 1
    phase := if c.tail.toNat + 1 = ringSize c.log2 then !c.phase else c.phase }

theorem getCq_cqWriteOne (n k : Nat) (e : BitVec 256) :
    getCq (cqWriteOne s n e) k = if k = n then ringNext (getCq s n) else getCq s k := getCq_setCq ..

theorem ringNext_tail (c : CqRegs) (h : c.tail.toNat < ringSize c.log2) :
    (ringNext c).tail.toNat = (c.tail.toNat + 1) % ringSize c.log2 := by
  have hle := ringSize_le c.log2
  rw [ringNext]
  dsimp only
  split
  · rename_i hw
    rw [hw, Nat.mod_self]
    rfl
  · rw [Nat.mod_eq_of_lt (by omega), BitVec.toNat_add, Nat.mod_eq_of_lt]
    · rfl
    · show c.tail.toNat + 1 < 2 ^ 16
      omega

/-- One entry more, as long as the ring holds it. -/
theorem Written.cqWriteOne {t : State} {n k : Nat} {es : List (Nat × Nat × BitVec 256)} (h : Written s t n k es)
    (ht : (getCq s n).tail.toNat < ringSize (getCq s n).log2) (hk : k + 1 < ringSize (getCq s n).log2) (e : BitVec 256) :
    Written s (cqWriteOne t n e) n (k + 1) (es ++ [ringEntry s n e k]) := by
  obtain ⟨tl, ph, hregs⟩ := h.regs
  have hlog : (getCq t n).log2 = (getCq s n).log2 := by rw [hregs]
  have hsq : ∀ i, getSq t i = getSq s i := fun i => by rw [getSq, h.rest]; rfl
  have hcq : getCq (Machine.cqWriteOne t n e) n = ringNext (getCq t n) := by rw [getCq_cqWriteOne, if_pos rfl]
  have htail : (getCq t n).tail.toNat < ringSize (getCq t n).log2 := by
    rw [h.tail, hlog]
    exact Nat.mod_lt _ (ringSize_pos _)
  refine ⟨?_, ?_, ?_, fun i hi => ?_, ?_, ?_⟩
  · rw [hcq, ringNext_tail _ htail, hlog, h.tail, Nat.mod_add_mod, Nat.add_assoc]
  · rw [hcq, ringNext]
    dsimp only
    rw [hlog, h.tail, h.phase]
    by_cases hlt : (getCq s n).tail.toNat + k < ringSize (getCq s n).log2
    · rw [Nat.mod_eq_of_lt hlt, if_pos hlt]
      split
      · rw [if_neg (by omega)]
      · rw [if_pos (by omega)]
    · rw [Nat.mod_eq_sub_mod (by omega), Nat.mod_eq_of_lt (by omega), if_neg hlt, if_neg (by omega), if_neg (by omega)]
  · rw [hcq, ringNext, hregs]
    exact ⟨_, _, rfl⟩
  · rw [getCq_cqWriteOne, if_neg hi, h.others i hi]
  · have hw : (Machine.cqWriteOne t n e).hif.written = t.hif.written ++ [(n, (getCq t n).tail.toNat,
        setFld (if fld e 23 22 = 0 then setFld e 63 48 (getSq t (fld e 71 64)).head.toNat else e) 0 0 (b1 (getCq t n).phase))] := rfl
    rw [hw, h.entries, h.tail, h.phase, hsq, List.append_assoc, ringEntry]
  · have hw : Machine.cqWriteOne t n e = { t with hif := { t.hif with
        cqs := (Machine.cqWriteOne t n e).hif.cqs, written := (Machine.cqWriteOne t n e).hif.written } } := rfl
    rw [hw, h.rest]

/-- Entries that the ring has room for go to consecutive places. -/
theorem foldl_cqWriteOne {n : Nat} {es : List (BitVec 256)} (ht : (getCq s n).tail.toNat < ringSize (getCq s n).log2)
    (hk : es.length < ringSize (getCq s n).log2) :
    Written s (es.foldl (fun s e => cqWriteOne s n e) s) n es.length (es.zipIdx.map fun p => ringEntry s n p.1 p.2) := by
  induction es using List.reverseRecOn with
  | nil => exact .nothing ht
  | append_singleton es e ih =>
    rw [List.length_append, List.length_singleton] at hk
    have h := (ih (by omega)).cqWriteOne ht hk e
    rw [List.foldl_append, List.zipIdx_append, List.map_append, List.length_append]
    simpa using h

/-- The interrupt of a ring, now or later, leaves all of its registers but the count of entries not yet signalled. -/
theorem cqSignal_regs (n k : Nat) : (∃ u, getCq (cqSignal s n k) n = { getCq s n with unsig := u }) ∧
    (∀ i, i ≠ n → getCq (cqSignal s n k) i = getCq s i) ∧
    cqSignal s n k = { s with hif := { s.hif with cqs := (cqSignal s n k).hif.cqs, msix := (cqSignal s n k).hif.msix } } := by
  unfold cqSignal
  dsimp only
  split
  · exact ⟨⟨_, (getCq_setCq ..).trans (if_pos rfl)⟩, fun i hi => (getCq_setCq ..).trans (if_neg hi), rfl⟩
  · exact ⟨⟨_, (getCq_setCq ..).trans (if_pos rfl)⟩, fun i hi => (getCq_setCq ..).trans (if_neg hi), rfl⟩

/-- Settles O4: the entries of the group are written one after another, then the ring signals. -/
theorem heldGroupsAndCoalescing : Obligations.HeldGroupsAndCoalescing := by
  intro s cq
  refine ⟨fun g gs hg hen hfree ht => ?_, fun hu => ?_⟩
  · have he : exec (.completionHoldRelease cq) s = execCompletionHoldRelease cq s := rfl
    refine ⟨cqWrite (setCq s cq { getCq s cq with hold := gs }) cq g.entries, ?_, ?_⟩
    · rw [he]
      unfold execCompletionHoldRelease
      dsimp only
      rw [hg]
      exact if_pos ⟨hen, hfree⟩
    · have hcq : getCq (setCq s cq { getCq s cq with hold := gs }) cq = { getCq s cq with hold := gs } :=
        (getCq_setCq ..).trans (if_pos rfl)
      have hlen : g.entries.length < ringSize (getCq s cq).log2 := by
        have := ringSize_pos (getCq s cq).log2
        rw [cqFree] at hfree
        omega
      have h := foldl_cqWriteOne (s := setCq s cq { getCq s cq with hold := gs }) (n := cq) (es := g.entries)
        (by rw [hcq]; exact ht) (by rw [hcq]; exact hlen)
      obtain ⟨⟨u, hself⟩, hothers, hrest⟩ := cqSignal_regs (s := g.entries.foldl (fun s e => cqWriteOne s cq e)
        (setCq s cq { getCq s cq with hold := gs })) cq g.entries.length
      obtain ⟨tl, ph, hregs⟩ := h.regs
      have hw := h.entries
      simp only [ringEntry, hcq] at hw
      rw [cqWrite]
      refine ⟨?_, ?_, fun k hk => ?_, ?_⟩
      · rw [hself, hregs, hcq]
      · rw [hrest]
        exact hw
      · rw [hothers k hk, h.others k hk, getCq_setCq, if_neg hk]
      · rw [hrest, h.rest]
        rfl
  · have he : exec (.cqCoalesceTimer cq) s = execCqCoalesceTimer cq s := rfl
    refine ⟨_, he.trans (if_neg hu), ?_, fun k hk => ?_, rfl⟩
    · exact (getCq_setCq ..).trans (if_pos rfl)
    · exact (getCq_setCq ..).trans (if_neg hk)

end Sys2Proof.Machine
end

section
/-! SUPPORT. The harts take commands, and a command's time-out ends its wait; the obligations HartsTakeCommands and
CommandTimeoutEndsTheWait. -/

namespace Sys2Proof.Machine

variable {s : State}

/-- The command that a hart takes: the next of its group. -/
theorem execMgmtCommandTake_next {hart us : Nat} {f : Fetched} (hrun : s.mgmt.running = true) (hres : s.mgmt.restarting = false)
    (hhalt : s.sec.haltedHarts.contains hart = false) (hfree : hartFree s hart = true) (hf : nextFor s hart = some f) :
    exec (.mgmtCommandTake hart us) s = .next { modCmd s f.handle (fun x =>
        { x with taken := true, qdelay := BitVec.ofNat 16 (min us 0xFFFF) }) with
      mgmt := { s.mgmt with
        queue := s.mgmt.queue.erase f.handle, late := s.mgmt.late.erase f.handle
        hart0 := if hart = 0 then some f.handle else s.mgmt.hart0
        hart1 := if hart = 1 then some f.handle else s.mgmt.hart1
        maxUs := BitVec.ofNat 16 (max s.mgmt.maxUs.toNat (min us 0xFFFF)) } } := by
  have he : exec (.mgmtCommandTake hart us) s = execMgmtCommandTake hart us s := rfl
  rw [he]
  unfold execMgmtCommandTake
  rw [if_pos ⟨hrun, by rw [hres]; rfl, by rw [hhalt]; rfl, hfree⟩, hf]
  rfl

/-- A command marked as late keeps the busy bit set. -/
theorem execMgpBusyTimer_late {h : Nat} (hh : (s.mgmt.queue.find? fun x => !s.mgmt.late.contains x) = some h) :
    exec .mgpBusyTimer s = .next { s with mgmt := { s.mgmt with late := s.mgmt.late ++ [h] } } := by
  have he : exec .mgpBusyTimer s = execMgpBusyTimer s := rfl
  rw [he]
  unfold execMgpBusyTimer
  rw [hh]

/-- Settles O5: the three commands act through `nextFor`, the late list and `complete`. -/
theorem hartsTakeCommands : Obligations.HartsTakeCommands := by
  refine ⟨fun s hart us f hrun hres hhalt hfree hf => execMgmtCommandTake_next hrun hres hhalt hfree hf, fun s h hh => ?_,
    fun s h f hr => ?_⟩
  · refine ⟨_, execMgpBusyTimer_late hh, ?_, rfl⟩
    simp [mgpBusy]
  · have he : exec (.nop h) s = .next (complete (started s h) h stOk (mw f.manifest 0)) :=
      congrArg Host.Outcome.next (withCmd_mayRun s h 0 f _ hr)
    exact ⟨_, he, rfl, findCmd_complete _ _ _ _ _, onlyAnswered_complete s h h _ _ _⟩

/-- A completion writes nothing but what answers the command. -/
theorem onlyAnswered_complete_self (h : Nat) (st : Status) (r : Nat) (ps : List (BitVec 128)) :
    OnlyAnswered s (complete s h st r ps) := complete_touches s h st r ps

/-- An answer writes no more than a completion does. -/
theorem onlyAnswered_modCmd_answer (f : Fetched) (st : Status) (r : Nat) (ps : List (BitVec 128)) (h : Nat)
    (g : Fetched → Fetched) : OnlyAnswered s (modCmd (answer s f st r ps) h g) := by
  rw [OnlyAnswered, answer_touches]
  rfl

/-- What a time-out of the fetched command `f` leaves: its answer is given now, and a started one is answered no more. -/
def timedOut (s : State) (h : Nat) (f : Fetched) : State :=
  if hasStarted f then modCmd (answer s f stTimeout (progressOf s f) [0]) h fun x => { x with held := true }
  else complete s h stTimeout

theorem onlyAnswered_timedOut (h : Nat) (f : Fetched) : OnlyAnswered s (timedOut s h f) := by
  rw [timedOut]
  split
  · exact onlyAnswered_modCmd_answer _ _ _ _ _ _
  · exact onlyAnswered_complete_self _ _ _ _

theorem getShard_of_onlyAnswered {t : State} (h : OnlyAnswered s t) (k : Nat) : getShard t k = getShard s k := by
  rw [h]
  rfl

theorem execCommandTimeout_waiting {h : Nat} {f : Fetched} (hf : findCmd s h = some f)
    (hw : ¬(f.held = true ∨ mTimeout f.manifest = 31)) : exec (.commandTimeout h) s =
      if mReset f.manifest ∧ namesCtx f.manifest ∧ (getShard s (mCtx f.manifest)).state ≠ .free ∧
          (getShard s (mCtx f.manifest)).state ≠ .resetting then
        .next (startReset (timedOut s h f) (mCtx f.manifest) [])
      else .next (timedOut s h f) := by
  have he : exec (.commandTimeout h) s = execCommandTimeout h s := rfl
  rw [he, ← getShard_of_onlyAnswered (onlyAnswered_timedOut h f)]
  unfold execCommandTimeout
  rw [hf]
  exact if_neg hw

/-- Settles O6: what `timedOut` leaves, reset or not. -/
theorem commandTimeoutEndsTheWait : Obligations.CommandTimeoutEndsTheWait := by
  intro s h f hf
  refine ⟨fun hw => ?_, ?_⟩
  · have he : exec (.commandTimeout h) s = execCommandTimeout h s := rfl
    rw [he]
    unfold execCommandTimeout
    rw [hf]
    exact if_pos hw
  · intro hheld htime st resets ended
    have hw : ¬(f.held = true ∨ mTimeout f.manifest = 31) := by
      rintro (h1 | h1)
      · rw [hheld] at h1; cases h1
      · exact htime h1
    have hexec := execCommandTimeout_waiting hf hw
    refine ⟨fun hstart => ?_, fun hr => ?_, fun hr => ?_⟩
    · have hended : ended = complete s h stTimeout := if_neg (by rw [hstart]; decide)
      rw [hended]
      exact findCmd_complete _ _ _ _ _
    · exact hexec.trans (if_pos hr)
    · exact ⟨_, hexec.trans (if_neg hr), rfl, onlyAnswered_timedOut h f⟩

end Sys2Proof.Machine
end

section
/-! SUPPORT. The mailbox channels, their acknowledge time and their bindings; the obligations MailboxChannelsCarryMessages and
MailboxTimersAndBindings. -/

namespace Sys2Proof.Machine

variable {s : State}

/-! ### A channel's registers -/

theorem clogBar_hub_length (mid a : Nat) (st : Status) : (clogBar s mid a st).fab.hub.length = s.fab.hub.length + 2 := by
  simp [clogBar]

theorem getMbx_setMbx_self (n : Nat) (x : Mailbox) : getMbx (setMbx s n x) n = x := by rw [getMbx_setMbx, if_pos rfl]

theorem getMbx_setMbx_other {n k : Nat} (h : k ≠ n) (x : Mailbox) : getMbx (setMbx s n x) k = getMbx s k := by
  rw [getMbx_setMbx, if_neg h]

/-! ### The writes of the two sides (R468, R472) -/

theorem mbxData_refused {mid n word : Nat} {value : Word} (h : senderMay (getMbx s n) mid = false) :
    mbxData s mid n word value = clogBar s mid (mbxAddr n (4 * word)) stAccess := if_pos (by rw [h]; rfl)

theorem mbxData_full {mid n word : Nat} {value : Word} (h : senderMay (getMbx s n) mid = true) (hp : (getMbx s n).pend ≠ 0) :
    mbxData s mid n word value =
      clogBar (setMbx s n { getMbx s n with overwrite := true }) mid (mbxAddr n (4 * word)) stAccess :=
  (if_neg (by rw [h]; decide)).trans (if_pos hp)

theorem mbxData_taken {mid n word : Nat} {value : Word} (h : senderMay (getMbx s n) mid = true) (hp : (getMbx s n).pend = 0) :
    mbxData s mid n word value = setMbx s n { getMbx s n with data := nset 0 (getMbx s n).data word value } :=
  (if_neg (by rw [h]; decide)).trans (if_neg (not_not_intro hp))

/-- The entry after a write of `bits` to SET. -/
def bitsSet (x : Mailbox) (bits : Word) : Mailbox :=
  { x with
    pend := x.pend ||| bits
    timing := if x.pend = 0 ∧ bits ≠ 0 then decide (x.tmoUs ≠ 0) else x.timing }

/-- The state after SET, before it wakes the device. -/
def setSignalled (s : State) (n : Nat) (bits : Word) : State :=
  if bits &&& ~~~(getMbx s n).mask ≠ 0 then mbxInterrupt (setMbx s n (bitsSet (getMbx s n) bits)) n (getMbx s n).rmid.toNat
  else setMbx s n (bitsSet (getMbx s n) bits)

theorem mbxSetBits_refused {mid n : Nat} {bits : Word} (h : senderMay (getMbx s n) mid = false) :
    mbxSetBits s mid n bits = clogBar s mid (mbxAddr n 0x40) stAccess := if_pos (by rw [h]; rfl)

theorem mbxSetBits_taken {mid n : Nat} {bits : Word} (h : senderMay (getMbx s n) mid = true) :
    mbxSetBits s mid n bits = setSignalled s n bits ∨ mbxSetBits s mid n bits = wakeFires (setSignalled s n bits) 10 := by
  have hset : mbxSetBits s mid n bits = if mid = 1 ∧ ((getMbx s n).rmid = 2 ∨ (getMbx s n).rmid = 3) ∧ bits ≠ 0 then
      wakeFires (setSignalled s n bits) 10 else setSignalled s n bits := if_neg (by rw [h]; decide)
  rw [hset]
  split
  · exact .inr rfl
  · exact .inl rfl

theorem setSignalled_touches (n : Nat) (bits : Word) : setSignalled s n bits = { s with
    mbx := (setSignalled s n bits).mbx, hif := (setSignalled s n bits).hif
    sdio := (setSignalled s n bits).sdio, mgmt := (setSignalled s n bits).mgmt } := by
  rw [setSignalled]
  split
  · rw [mbxInterrupt_touches]
    rfl
  · rfl

theorem getMbx_setSignalled (n k : Nat) (bits : Word) :
    getMbx (setSignalled s n bits) k = if k = n then bitsSet (getMbx s n) bits else getMbx s k := by
  rw [setSignalled]
  split
  · rw [getMbx_mbxInterrupt, getMbx_setMbx]
  · rw [getMbx_setMbx]

theorem setSignalled_irq {n : Nat} {bits : Word} (hm : bits &&& ~~~(getMbx s n).mask ≠ 0) (hr : (getMbx s n).rmid = 3) :
    (setSignalled s n bits).mgmt.irq = s.mgmt.irq ++ [2] := by
  rw [setSignalled, if_pos hm, hr]
  rfl

theorem mbxClear_refused {mid n : Nat} {bits : Word} (h : receiverMay (getMbx s n) mid = false) :
    mbxClear s mid n bits = clogBar s mid (mbxAddr n 0x44) stAccess := if_pos (by rw [h]; rfl)

theorem mbxClear_last {mid n : Nat} {bits : Word} (h : receiverMay (getMbx s n) mid = true) (hp : (getMbx s n).pend ≠ 0)
    (hz : (getMbx s n).pend &&& ~~~bits = 0) : mbxClear s mid n bits = mbxInterrupt (setMbx s n { getMbx s n with
      pend := 0, empty := true, seq := (getMbx s n).seq + 1, timing := false }) n (getMbx s n).smid.toNat :=
  (if_neg (by rw [h]; decide)).trans (if_pos ⟨hp, hz⟩)

theorem mbxClear_more {mid n : Nat} {bits : Word} (h : receiverMay (getMbx s n) mid = true)
    (hz : ¬((getMbx s n).pend ≠ 0 ∧ (getMbx s n).pend &&& ~~~bits = 0)) :
    mbxClear s mid n bits = setMbx s n { getMbx s n with pend := (getMbx s n).pend &&& ~~~bits } :=
  (if_neg (by rw [h]; decide)).trans (if_neg hz)

/-- Settles O7: each write is refused, or has the effect of its side. -/
theorem mailboxChannelsCarryMessages : Obligations.MailboxChannelsCarryMessages := by
  intro s mid n hn x
  refine ⟨fun word value hw => ⟨mbxData s mid n word value, if_pos ⟨hn, hw⟩, ?_⟩,
    fun bits => ⟨mbxSetBits s mid n bits, if_pos hn, ?_⟩, fun bits => ⟨mbxClear s mid n bits, if_pos hn, ?_⟩⟩
  · cases hx : senderMay x mid with
    | false =>
      rw [mbxData_refused hx]
      exact ⟨fun _ _ => rfl, rfl, fun h => absurd h (by decide), fun h => absurd h (by decide),
        fun _ => ⟨rfl, clogBar_hub_length ..⟩⟩
    | true =>
      by_cases hp : x.pend = 0
      · rw [mbxData_taken hx hp]
        refine ⟨fun k hk => getMbx_setMbx_other hk _, rfl, fun _ _ => ⟨rfl, _, getMbx_setMbx_self .., ?_, fun k hk => ?_⟩,
          fun _ h => absurd hp h, fun h => absurd h (by decide)⟩
        · rw [nget_nset, if_pos rfl]
        · rw [nget_nset, if_neg hk]
      · rw [mbxData_full hx hp]
        exact ⟨fun k hk => getMbx_setMbx_other hk _, rfl, fun _ h => absurd h hp,
          fun _ _ => ⟨getMbx_setMbx_self .., clogBar_hub_length ..⟩, fun h => absurd h (by decide)⟩
  · cases hx : senderMay x mid with
    | false =>
      rw [mbxSetBits_refused hx]
      exact ⟨fun _ _ => rfl, rfl, fun h => absurd h (by decide), fun _ => ⟨rfl, clogBar_hub_length ..⟩⟩
    | true =>
      have hk : ∀ k, k ≠ n → getMbx (setSignalled s n bits) k = getMbx s k := fun k hk => by
        rw [getMbx_setSignalled, if_neg hk]
      have hself : getMbx (setSignalled s n bits) n = bitsSet x bits := by rw [getMbx_setSignalled, if_pos rfl]
      have hrest := setSignalled_touches (s := s) n bits
      have hfab : (setSignalled s n bits).fab = s.fab := by rw [hrest]
      rcases mbxSetBits_taken (bits := bits) hx with h | h
      · rw [h]
        exact ⟨hk, by rw [hrest], fun _ => ⟨by rw [hfab], hself, setSignalled_irq⟩, fun h => absurd h (by decide)⟩
      · rw [h]
        refine ⟨hk, ?_, fun _ => ⟨?_, hself, setSignalled_irq⟩, fun h => absurd h (by decide)⟩
        · rw [hrest]
          rfl
        · rw [wakeFires_fab, hfab]
  · cases hx : receiverMay x mid with
    | false =>
      rw [mbxClear_refused hx]
      exact ⟨fun _ _ => rfl, rfl, fun h => absurd h (by decide), fun h => absurd h (by decide),
        fun _ => ⟨rfl, clogBar_hub_length ..⟩⟩
    | true =>
      by_cases hz : x.pend ≠ 0 ∧ x.pend &&& ~~~bits = 0
      · rw [mbxClear_last hx hz.1 hz.2]
        refine ⟨fun k hk => ?_, ?_, fun _ _ _ => ⟨?_, fun hm => ?_⟩, fun _ h => absurd hz (by tauto), fun h => absurd h (by decide)⟩
        · rw [getMbx_mbxInterrupt, getMbx_setMbx_other hk]
        · rw [mbxInterrupt_touches]
          rfl
        · rw [getMbx_mbxInterrupt, getMbx_setMbx_self]
        · rw [hm]
          rfl
      · rw [mbxClear_more hx hz]
        exact ⟨fun k hk => getMbx_setMbx_other hk _, rfl, fun _ h h' => absurd ⟨h, h'⟩ hz,
          fun _ _ => ⟨getMbx_setMbx_self .., rfl⟩, fun h => absurd h (by decide)⟩

/-! ### The acknowledge time and the bindings (R466, R467, R470, R474) -/

theorem execMailboxAckTimeout_timing {n : Nat} (h : (getMbx s n).timing = true) : exec (.mailboxAckTimeout n) s =
    .next (mbxInterrupt (setMbx s n { getMbx s n with tmo := true, timing := false }) n (getMbx s n).smid.toNat) := if_pos h

theorem bindOk_iff (x : Mailbox) : bindOk x.en x.secure x.smid.toNat x.rmid.toNat = true ↔
    (x.en = true → x.smid.toNat ≤ 4 ∧ x.rmid.toNat ≤ 4 ∧ x.smid ≠ x.rmid ∧
      (if x.secure then (x.smid = 2 ∨ x.rmid = 2) ∧ x.smid.toNat ≤ 2 ∧ x.rmid.toNat ≤ 2 else x.smid ≠ 2 ∧ x.rmid ≠ 2)) := by
  cases hen : x.en <;> cases hsec : x.secure <;> simp [bindOk, ← BitVec.toNat_inj, and_assoc]

/-- The entry that a write of BIND asks for. -/
def bindAsked (x : Mailbox) (mid : Nat) (value : Word) : Mailbox :=
  { x with
    en := bit value 31, secure := if mid = 2 then bit value 30 else x.secure, vector := BitVec.ofNat 8 (fld value 29 22)
    smid := BitVec.ofNat 4 (fld value 7 4), rmid := BitVec.ofNat 4 (fld value 3 0) }

theorem mbxBind_eq (mid n : Nat) (value : Word) : mbxBind s mid n value =
    (let x := getMbx s n
     let y := bindAsked x mid value
     if s.glb.locked then clogBar s mid (0x700900 + 4 * n) stLocked
     else if ¬ (mid = 2 ∨ (mid = 0 ∧ !x.secure)) then clogBar s mid (0x700900 + 4 * n) stAccess
     else if !bindOk y.en y.secure y.smid.toNat y.rmid.toNat then clogBar s mid (0x700900 + 4 * n) stAccess
     else if y = x then s
     else setMbx s n { y with pend := 0, empty := false, tmo := false, overwrite := false, timing := false }) := rfl

/-- R466, R467 and R474 permit the write. -/
def BindMay (s : State) (mid n : Nat) (value : Word) : Prop :=
  s.glb.locked = false ∧ (mid = 2 ∨ (mid = 0 ∧ (getMbx s n).secure = false)) ∧
    bindOk (bindAsked (getMbx s n) mid value).en (bindAsked (getMbx s n) mid value).secure
      (bindAsked (getMbx s n) mid value).smid.toNat (bindAsked (getMbx s n) mid value).rmid.toNat = true

theorem mbxBind_taken {mid n : Nat} {value : Word} (h : BindMay s mid n value) : mbxBind s mid n value =
    if bindAsked (getMbx s n) mid value = getMbx s n then s
    else setMbx s n { bindAsked (getMbx s n) mid value with
      pend := 0, empty := false, tmo := false, overwrite := false, timing := false } := by
  obtain ⟨hlock, hmid, hok⟩ := h
  have hmay : mid = 2 ∨ (mid = 0 ∧ (!(getMbx s n).secure) = true) := hmid.imp_right fun h => ⟨h.1, by rw [h.2]; rfl⟩
  rw [mbxBind_eq]
  dsimp only
  rw [if_neg (by rw [hlock]; decide), if_neg (not_not_intro hmay), if_neg (by rw [hok]; decide)]

theorem mbxBind_refused {mid n : Nat} {value : Word} (h : ¬BindMay s mid n value) :
    ∃ st, mbxBind s mid n value = clogBar s mid (0x700900 + 4 * n) st := by
  rw [mbxBind_eq]
  dsimp only
  split
  · exact ⟨_, rfl⟩
  · rename_i hlock
    split
    · exact ⟨_, rfl⟩
    · rename_i hmid
      split
      · exact ⟨_, rfl⟩
      · rename_i hok
        refine absurd ⟨Bool.eq_false_iff.2 hlock, ?_, by simpa using hok⟩ h
        exact (not_not.1 hmid).imp_right fun h => ⟨h.1, by simpa using h.2⟩

/-- Settles O8: an acknowledge time sets its bits, and `BindMay` decides each write of BIND. -/
theorem mailboxTimersAndBindings : Obligations.MailboxTimersAndBindings := by
  intro s n hn x
  refine ⟨fun htm => ⟨_, execMailboxAckTimeout_timing htm, ?_, fun k hk => ?_, fun hm => ?_, ?_⟩, fun mid value => ?_⟩
  · rw [getMbx_mbxInterrupt, getMbx_setMbx_self]
  · rw [getMbx_mbxInterrupt, getMbx_setMbx_other hk]
  · have h2 : (getMbx s n).smid.toNat = 2 := by rw [hm]; rfl
    rw [h2]
    rfl
  · rw [mbxInterrupt_touches]
    rfl
  · intro y may
    have hy : y = bindAsked x mid value := rfl
    have hmay : may ↔ BindMay s mid n value := and_congr_right fun _ => and_congr_right fun _ => (bindOk_iff y).symm
    refine ⟨mbxBind s mid n value, if_pos hn, ?_⟩
    by_cases hb : BindMay s mid n value
    · rw [mbxBind_taken hb]
      by_cases hx : bindAsked (getMbx s n) mid value = getMbx s n
      · rw [if_pos hx]
        exact ⟨fun _ _ => rfl, rfl, fun _ => ⟨rfl, (if_pos hx).symm⟩, fun h => absurd (hmay.2 hb) h⟩
      · rw [if_neg hx]
        exact ⟨fun k hk => getMbx_setMbx_other hk _, rfl, fun _ => ⟨rfl, (getMbx_setMbx_self ..).trans (if_neg hx).symm⟩,
          fun h => absurd (hmay.2 hb) h⟩
    · obtain ⟨st, hst⟩ := mbxBind_refused hb
      rw [hst]
      exact ⟨fun _ _ => rfl, rfl, fun h => absurd (hmay.1 h) hb, fun _ => ⟨rfl, clogBar_hub_length ..⟩⟩

end Sys2Proof.Machine
end

section
/-! SUPPORT. Register writes of the timers; the obligation TimerRegisterWrites. -/

namespace Sys2Proof.Machine

variable {s : State}

/-! ### Register writes (R477, R480 to R483, R485, R491) -/

theorem tmrMay_iff (t : Timer) (mid : Nat) : tmrMay t mid = true ↔ mid ≤ 3 ∧ t.mode ≠ .pace := by simp [tmrMay]

/-- A register write takes effect where the master and the mode permit it, and is reported elsewhere. -/
theorem tmrWrite_eq {t : Timer} {mid i a : Nat} {x : State} :
    ((mid ≤ 3 ∧ t.mode ≠ .pace) → (if !tmrMay t mid then Host.Outcome.next (ρ := Refusal) (φ := Fault) (clogBar s mid (tmrAddr i a) stAccess)
      else .next x) = .next x) ∧
    (¬(mid ≤ 3 ∧ t.mode ≠ .pace) → (if !tmrMay t mid then Host.Outcome.next (ρ := Refusal) (φ := Fault) (clogBar s mid (tmrAddr i a) stAccess)
      else .next x) = .next (clogBar s mid (tmrAddr i a) stAccess)) := by
  rw [← tmrMay_iff]
  cases tmrMay t mid
  · exact ⟨fun h => absurd h (by decide), fun _ => rfl⟩
  · exact ⟨fun _ => rfl, fun h => absurd rfl h⟩

/-- The mode that a write of CTL asks for. -/
def askedMode (v : Word) : TimerMode := if fld v 30 29 = 1 then .compat else .native

/-- In a timer that is not in pace mode, MODE 00 and 01 name the mode. -/
theorem askedMode_eq_iff {t : Timer} {v : Word} (hm : t.mode ≠ .pace) (hv : fld v 30 29 < 2) :
    askedMode v = t.mode ↔ fld v 30 29 = t.mode.bits := by
  rw [askedMode]
  cases hmode : t.mode with
  | native => simp only [TimerMode.bits]; split <;> simp <;> omega
  | compat => simp only [TimerMode.bits]; split <;> simp <;> omega
  | pace => exact absurd hmode hm

theorem tmrWriteCtl_eq (mid i : Nat) (v : Word) : tmrWriteCtl s mid i v =
    if (mid ≤ 3 ∧ (getTmr s i).mode ≠ .pace) ∧ fld v 30 29 < 2 ∧
      ((getTmr s i).en = true → askedMode v = (getTmr s i).mode ∧ fld v 3 0 = (getTmr s i).pre.toNat)
    then setTmr s i (tmrCtl (getTmr s i) v) else clogBar s mid (tmrAddr i 0) stAccess := by
  have hcond : (!tmrMay (getTmr s i) mid || decide (fld v 30 29 ≥ 2) || ((getTmr s i).en && (fld v 30 29 != (getTmr s i).mode.bits ||
      fld v 3 0 != (getTmr s i).pre.toNat))) = true ↔ ¬((mid ≤ 3 ∧ (getTmr s i).mode ≠ .pace) ∧ fld v 30 29 < 2 ∧
      ((getTmr s i).en = true → askedMode v = (getTmr s i).mode ∧ fld v 3 0 = (getTmr s i).pre.toNat)) := by
    by_cases hm : mid ≤ 3 ∧ (getTmr s i).mode ≠ .pace
    · by_cases hv : fld v 30 29 < 2
      · have hv2 : ¬2 ≤ fld v 30 29 := Nat.not_le.2 hv
        rw [askedMode_eq_iff hm.2 hv, ← tmrMay_iff] at *
        simp [hm, hv, hv2]
        tauto
      · simp [hv, Nat.le_of_not_lt hv]
    · have hmay : tmrMay (getTmr s i) mid = false := Bool.eq_false_iff.2 fun h => hm ((tmrMay_iff _ _).1 h)
      simp [hmay, hm]
  unfold tmrWriteCtl
  dsimp only
  split
  · rename_i h
    rw [if_neg (hcond.1 h)]
  · rename_i h
    rw [if_pos (not_not.1 fun hn => h (hcond.2 hn))]

theorem bit_setFld_self {x : BitVec 4} {k : Nat} (hk : k < 4) (b : Bool) : bit (setFld x k k (b1 b)) k = b := by
  rw [bit, getLsbD_setFld, if_pos ⟨le_rfl, Nat.lt_succ_self k, hk⟩, Nat.sub_self]
  cases b <;> rfl

/-- Settles O9: each write is the model's own where R477, R483 and R485 permit it. -/
theorem timerRegisterWrites : Obligations.TimerRegisterWrites := by
  intro s mid i hi t may refused
  refine ⟨fun v => ?_, fun hm => ?_, fun hm => ?_, fun v => ⟨fun hm => ?_, fun hm => ?_, fun k hk => ⟨fun hm => ?_, fun hm => ?_⟩⟩⟩
  · intro new ok
    have he : exec (.timerCtlWrite mid i v) s = .next (tmrWriteCtl s mid i v) := if_pos hi
    rw [he, tmrWriteCtl_eq]
    exact ⟨fun h => congrArg _ (if_pos h), fun h => congrArg _ (if_neg h)⟩
  · exact (if_pos hi).trans (tmrWrite_eq.1 hm)
  · exact (if_pos hi).trans (tmrWrite_eq.2 hm)
  · exact (if_pos hi).trans (tmrWrite_eq.1 hm)
  · exact (if_pos hi).trans (tmrWrite_eq.2 hm)
  · exact (if_pos ⟨hi, hk⟩).trans (tmrWrite_eq.2 hm)
  · refine ⟨_, (if_pos ⟨hi, hk⟩).trans (tmrWrite_eq.1 hm), ?_, fun j hj => ?_, rfl, fun hmode => ?_, fun hmode => ?_⟩
    · exact (nget_nset ..).trans (if_pos rfl)
    · exact (nget_nset ..).trans (if_neg hj)
    · have hb : (tmrSetCmp t k v).behind = setFld t.behind k k (b1 (decide (v.toNat ≤ t.count.toNat))) := if_pos hmode
      rw [hb, bit_setFld_self hk, decide_eq_true_iff]
    · exact if_neg (by rw [hmode]; decide)

end Sys2Proof.Machine
end

section
/-! SUPPORT. Reads, links and captures of the timers; the obligation TimerReadsLinksAndCaptures. -/

namespace Sys2Proof.Machine

variable {s : State}

/-! ### Links and captures (R484, R487) -/

theorem getTmr_setTmr_self (i : Nat) (x : Timer) : getTmr (setTmr s i x) i = x := by rw [getTmr_setTmr, if_pos rfl]

theorem getTmr_setTmr_other {i k : Nat} (h : k ≠ i) (x : Timer) : getTmr (setTmr s i x) k = getTmr s k := by
  rw [getTmr_setTmr, if_neg h]

theorem execTimerLinkAction_fired {i : Nat} (h : (getTmr s i).linkNow = true) (hi : (getTmr s i).ltarget.toNat ≠ i) :
    exec (.timerLinkAction i) s =
      (let t := getTmr s i
       let x := getTmr s t.ltarget.toNat
       if x.mode = .pace then .next (setTmr s i { t with linkNow := false })
       else .next (setTmr (setTmr s i { t with linkNow := false }) t.ltarget.toNat { x with
         en := x.en || t.lact.getLsbD 0, resetNext := x.resetNext || t.lact.getLsbD 1 })) := by
  have he : exec (.timerLinkAction i) s = execTimerLinkAction i s := rfl
  rw [he]
  unfold execTimerLinkAction
  dsimp only
  rw [if_pos h, getTmr_setTmr_other hi]

/-- Each timer of a list without repetitions is captured once. -/
theorem getTmr_foldl_capture {l : List (Nat × Timer)} (hl : (l.map Prod.fst).Nodup) (i : Nat) :
    getTmr (l.foldl (fun s q => setTmr s q.1 (capture (getTmr s q.1))) s) i =
      if i ∈ l.map Prod.fst then capture (getTmr s i) else getTmr s i := by
  induction l generalizing s with
  | nil => rfl
  | cons q l ih =>
    rw [List.map_cons, List.nodup_cons] at hl
    rw [List.foldl_cons, ih hl.2, List.map_cons]
    by_cases hq : i = q.1
    · subst hq
      rw [if_neg hl.1, if_pos List.mem_cons_self, getTmr_setTmr_self]
    · simp only [List.mem_cons, hq, false_or, getTmr_setTmr_other hq]

/-- A condition that a timer at its reset values does not meet captures exactly the timers that meet it. -/
theorem getTmr_captureWhere {p : Timer → Bool} (hw : nwf (fun _ => ({} : Timer)) s.tmr = true) (hp : p {} = false) (i : Nat) :
    getTmr (captureWhere s p) i = if p (getTmr s i) then capture (getTmr s i) else getTmr s i := by
  have hd : ((s.tmr.filter fun q => p q.2).map Prod.fst).Nodup := (nodup_keys _ _ hw).sublist (List.filter_sublist.map _)
  have hmem : i ∈ (s.tmr.filter fun q => p q.2).map Prod.fst ↔ p (getTmr s i) = true := by
    rw [List.mem_map]
    constructor
    · rintro ⟨q, hq, rfl⟩
      obtain ⟨hq, hpq⟩ := List.mem_filter.1 hq
      rw [getTmr, nget_of_mem _ _ hw q hq]
      exact hpq
    · intro h
      rcases nget_mem ({} : Timer) s.tmr i with hi | hi
      · rw [getTmr, hi, hp] at h
        cases h
      · exact ⟨_, List.mem_filter.2 ⟨hi, h⟩, rfl⟩
  rw [captureWhere, getTmr_foldl_capture hd]
  simp only [hmem]

theorem captureWhere_touches (p : Timer → Bool) : captureWhere s p = { s with tmr := (captureWhere s p).tmr } := by
  have h := foldl_inv (fun t => t = { s with tmr := t.tmr }) (fun s (q : Nat × Timer) => setTmr s q.1 (capture (getTmr s q.1)))
    (fun t q (ht : t = _) => by rw [ht]; rfl) (s.tmr.filter fun q => p q.2) s rfl
  exact h

/-- Settles O11: the timers that an edge captures are those that `captureWhere` selects. -/
theorem timerReadsLinksAndCaptures : Obligations.TimerReadsLinksAndCaptures := by
  intro s
  refine ⟨fun i hi => ⟨if_neg (by omega), if_neg (by omega)⟩, fun i hlink hi => ?_, fun pin rising => ?_⟩
  · intro t k x
    have he := execTimerLinkAction_fired hlink hi
    by_cases hx : x.mode = .pace
    · refine ⟨_, he.trans (if_pos hx), getTmr_setTmr_self .., rfl, fun j hj _ => getTmr_setTmr_other hj _,
        fun _ => getTmr_setTmr_other hi _, fun h => absurd hx h⟩
    · refine ⟨_, he.trans (if_neg hx), ?_, rfl, fun j hj hk => ?_, fun h => absurd h hx, fun _ => getTmr_setTmr_self ..⟩
      · rw [getTmr_setTmr_other (Ne.symm hi), getTmr_setTmr_self]
      · rw [getTmr_setTmr_other hk, getTmr_setTmr_other hj]
  · have he : exec (.triggerCapture pin rising) s = execTriggerCapture pin rising s := rfl
    have hp : (captureWhere s fun t => t.src = 1 ∧ t.pin.toNat = pin ∧ t.edge.getLsbD (if rising then 0 else 1)).pwr = s.pwr := by
      rw [captureWhere_touches]
    have hget : ∀ i, nwf (fun _ => ({} : Timer)) s.tmr = true → getTmr (captureWhere s fun t => t.src = 1 ∧ t.pin.toNat = pin ∧
        t.edge.getLsbD (if rising then 0 else 1)) i = if (getTmr s i).src = 1 ∧ (getTmr s i).pin.toNat = pin ∧
          (getTmr s i).edge.getLsbD (if rising then 0 else 1) = true then capture (getTmr s i) else getTmr s i := fun i hw => by
      rw [getTmr_captureWhere hw (by simp)]
      simp only [decide_eq_true_iff]
    rw [he]
    unfold execTriggerCapture
    dsimp only
    by_cases hr : rising = true ∧ pin < 8 ∧ bit s.pwr.wakeEn pin = true
    · rw [if_pos hr, if_pos hr]
      refine ⟨_, rfl, ?_, ?_, hget⟩
      · rw [captureWhere_touches]
        rfl
      · simp only [wakeFires, hp]
    · rw [if_neg hr, if_neg hr]
      refine ⟨_, rfl, ?_, hp, hget⟩
      rw [captureWhere_touches]

end Sys2Proof.Machine
end

section
/-! SUPPORT. The pace of a shard; the obligation PaceSetAndRelease. -/

namespace Sys2Proof.Machine

variable {s : State}

/-! ### PACE_SET (R142, R485) -/

/-- A shard without a timer, or one that names its own timer again. -/
theorem setPace_own {ctx i : Nat} {p o t0 : BitVec 64} (h : ∀ j, (getShard s ctx).timer = some j → j = i) :
    setPace s ctx i p o t0 =
      modShard (setTmr s i { getTmr s i with mode := .pace, en := true, pctx := BitVec.ofNat 6 ctx }) ctx fun sh =>
        { sh with timer := some i, pacedSet := true, p := p, o := o, t0 := t0, changes := [] } := by
  unfold setPace
  cases ht : (getShard s ctx).timer with
  | none => rfl
  | some j =>
    dsimp only
    rw [if_pos (h j ht)]

/-- The timer belongs to another context. -/
def TimerTaken (s : State) (ctx i : Nat) : Prop :=
  ((getTmr s i).mode = .pace ∧ (getTmr s i).pctx.toNat ≠ ctx) ∨ timerBound s i ctx = true

theorem execPaceSet_taken {h : Nat} {f : Fetched} (hr : MayRun s h 0x11 f)
    (ht : TimerTaken s (mCtx f.manifest) (mw f.manifest 0 % 32)) :
    exec (.paceSet h) s = .next (complete (started s h) h stNoResource) := by
  have he : exec (.paceSet h) s = execPaceSet h s := rfl
  rw [he, execPaceSet, withCmd_mayRun s h _ f _ hr]
  exact congrArg _ (if_pos ht)

theorem execPaceSet_own {h : Nat} {f : Fetched} (hr : MayRun s h 0x11 f)
    (ht : ¬TimerTaken s (mCtx f.manifest) (mw f.manifest 0 % 32))
    (hown : ∀ j, (getShard s (mCtx f.manifest)).timer = some j → j = mw f.manifest 0 % 32) :
    exec (.paceSet h) s = .next (complete (setPace (started s h) (mCtx f.manifest) (mw f.manifest 0 % 32)
      (BitVec.ofNat 64 (mw2 f.manifest 1)) (BitVec.ofNat 64 (mw2 f.manifest 3)) (BitVec.ofNat 64 (mw2 f.manifest 5))) h stOk) := by
  have he : exec (.paceSet h) s = execPaceSet h s := rfl
  rw [he, execPaceSet, withCmd_mayRun s h _ f _ hr]
  dsimp only
  rw [getShard_started]
  cases hj : (getShard s (mCtx f.manifest)).timer with
  | none => exact congrArg _ ((if_neg ht).trans (if_neg Bool.false_ne_true))
  | some j =>
    refine congrArg _ ((if_neg ht).trans (if_neg ?_))
    rw [hown j hj]
    simp

/-! ### PACE_RELEASE (R143, R486) -/

/-- No step below NEXTREL is released. -/
theorem nextRel_le_of_nextRelease {ctx k : Nat} (h : nextRelease s ctx = some k) : (getShard s ctx).nextRel ≤ k := by
  unfold nextRelease at h
  dsimp only at h
  split at h
  · cases h
  · split at h
    · split at h
      · cases h
      · obtain ⟨hk, hrel⟩ := Option.ite_none_right_eq_some.1 h
        cases hrel
        exact hk.1
    · cases h

theorem execPaceRelease_due {ctx k : Nat} (h : nextRelease s ctx = some k) :
    exec (.paceRelease ctx) s = .next (sendRelease s ctx k) := by
  have he : exec (.paceRelease ctx) s = execPaceRelease ctx s := rfl
  rw [he]
  unfold execPaceRelease
  rw [h]

theorem getShard_sendRelease (ctx k c : Nat) : getShard (sendRelease s ctx k) c =
    if c = ctx then { getShard s c with nextRel := k + 1 } else getShard s c := by
  rw [sendRelease, getShard_hubSendAll, getShard_modShard]

/-- Settles O12: the shard's own timer is set, and `nextRelease` never falls behind NEXTREL. -/
theorem paceSetAndRelease : Obligations.PaceSetAndRelease := by
  refine ⟨fun s h f hr => ?_, fun s ctx k hk => ?_⟩
  · intro m ctx i taken
    refine ⟨fun ht => execPaceSet_taken hr ht, fun ht hown => ⟨_, execPaceSet_own hr ht hown, ?_⟩⟩
    have hset := setPace_own (s := started s h) (ctx := ctx) (i := i) (p := BitVec.ofNat 64 (mw2 m 1))
      (o := BitVec.ofNat 64 (mw2 m 3)) (t0 := BitVec.ofNat 64 (mw2 m 5)) hown
    refine ⟨findCmd_complete _ _ _ _ _, ?_, ?_, fun k hk => ?_, fun c hc => ?_, ?_⟩
    · rw [getTmr_complete, hset, getTmr_modShard, getTmr_setTmr, if_pos rfl]
      rfl
    · rw [getShard_complete, hset, getShard_modShard, if_pos rfl]
      rfl
    · rw [getTmr_complete, hset, getTmr_modShard, getTmr_setTmr, if_neg hk]
      rfl
    · rw [getShard_complete, hset, getShard_modShard, if_neg hc]
      rfl
    · rw [complete_touches, hset]
      rfl
  · have hself : getShard (sendRelease s ctx k) ctx = { getShard s ctx with nextRel := k + 1 } := by
      rw [getShard_sendRelease, if_pos rfl]
    refine ⟨_, execPaceRelease_due hk, hself, fun c hc => ?_, ?_, fun j hj hn => ?_⟩
    · rw [getShard_sendRelease, if_neg hc]
    · rw [sendRelease, hubSendAll_shards]
      rfl
    · have hle := nextRel_le_of_nextRelease hn
      rw [hself] at hle
      exact absurd hj (Nat.not_le.2 hle)

end Sys2Proof.Machine
end

section
/-! SUPPORT. Scalar results and control flow of the handler unit; the obligations HandlerScalarResults and HandlerControlFlow. -/

namespace Sys2Proof.Machine

variable {s : State} {n : Nat}

/-! ### Scalar results (R271) -/

/-- An issued scalar instruction writes RD and goes on. -/
theorem scalarRow_runs {w : Word} (rd : Nat) (f : Core → Word) (h : Issues s n w) :
    scalarRow s n w rd f = advanceTo s n (wr (issued s n w) rd (f (issued s n w))) := issue_runs s n w _ h

theorem ofNat_b1 (b : Bool) : BitVec.ofNat 32 (b1 b) = if b then 1 else 0 := by cases b <;> rfl

theorem fld_shift (b : Word) : fld b 4 0 = b.toNat % 32 := by simp [fld]

/-- The result of each FUNC. -/
theorem aluOp_table (a b : Word) : ∀ p ∈ [(0, a + b), (1, a - b), (2, a &&& b), (3, a ||| b), (4, a ^^^ b), (5, a <<< (b.toNat % 32)),
    (6, a >>> (b.toNat % 32)), (7, a.sshiftRight (b.toNat % 32)), (8, if a.slt b then 1 else 0), (9, if a.ult b then 1 else 0),
    (10, a * b), (11, if a.slt b then a else b), (12, if a.slt b then b else a)], aluOp (p.1 % 2048) a b = p.2 := by
  simp only [List.forall_mem_cons, ← fld_shift, ← ofNat_b1]
  exact ⟨rfl, rfl, rfl, rfl, rfl, rfl, rfl, rfl, rfl, rfl, rfl, rfl, rfl, fun _ h => absurd h List.not_mem_nil⟩

/-- The result of each shift. -/
theorem shiftOp_table (imm : Nat) (a : Word) : ∀ p ∈ [(0, a <<< (imm % 32)), (1, a >>> (imm % 32)), (2, a.sshiftRight (imm % 32))],
    imm / 32 % 4 = p.1 → shiftOp imm a = p.2 := by
  simp only [List.forall_mem_cons, shiftOp]
  refine ⟨fun h => ?_, fun h => ?_, fun h => ?_, fun _ h => absurd h List.not_mem_nil⟩ <;> rw [h] <;> rfl

/-- Settles O13: each row is `scalarRow` with the result of its table. -/
theorem handlerScalarResults : Obligations.HandlerScalarResults := by
  intro s n rd ra rb imm c a b k
  refine ⟨fun p hp h => ?_, fun h => ?_, fun h => ?_, fun h => ?_, fun h => ?_, fun h => ?_, fun h => ?_, fun p hp himm h => ?_⟩
  · rw [← aluOp_table a b p hp]
    exact congrArg _ (scalarRow_runs rd _ h)
  · exact congrArg _ (scalarRow_runs rd _ h)
  · exact congrArg _ (scalarRow_runs rd _ h)
  · exact congrArg _ (scalarRow_runs rd _ h)
  · exact congrArg _ (scalarRow_runs rd _ h)
  · exact congrArg _ (scalarRow_runs rd _ h)
  · rw [← ofNat_b1]
    exact congrArg _ (scalarRow_runs rd _ h)
  · rw [← shiftOp_table imm a p hp himm]
    exact congrArg _ (scalarRow_runs rd _ h)

/-! ### Control flow (R271, R274) -/

/-- An issued branch goes to its target or on. -/
theorem branchRow_runs {op ra rb off : Nat} (f : Word → Word → Bool) (h : Issues s n (encB op ra rb off)) :
    branchRow s n op ra rb off f =
      if f (rv (getCore s n) ra) (rv (getCore s n) rb) then
        jumpTo s n (issued s n (encB op ra rb off)) ((getCore s n).hnd.pc + (BitVec.ofNat 16 off).setWidth 13)
      else advanceTo s n (issued s n (encB op ra rb off)) := issue_runs s n _ _ h

/-- An issued LOOP: a fault inside a loop, a jump over the body for a count of 0, else the loop is set. -/
theorem execLoop_runs {rd ra imm : Nat} (h : Issues s n (encI 0x10 rd ra imm)) : exec (.loop n rd ra imm) s =
    (let c := issued s n (encI 0x10 rd ra imm)
     let a := c.hnd.pc.toNat + 1
     let len := imm % 2 ^ 10
     let k := (rv c ra).toNat
     .next (if c.hnd.loopState.isSome then faultAt s n 2 0
       else if k = 0 then jumpTo s n c (BitVec.ofNat 13 (a + len))
       else fetchAt (setCore s n { c with hnd := { c.hnd with
         pc := BitVec.ofNat 13 a, loopState := some (a, a + len - 1, k) } }) n)) :=
  congrArg Host.Outcome.next (issue_runs s n _ _ h)

/-- Settles O14: an issued branch, jump or LOOP runs its row. -/
theorem handlerControlFlow : Obligations.HandlerControlFlow := by
  intro s n ra rb rd off func imm c a b target goes
  refine ⟨fun h => ?_, fun h => ?_, fun h => ?_, fun h => ?_, fun h => ?_, fun h => ?_, fun h => ?_, fun h => ?_, fun h => ?_⟩
  · exact congrArg _ (branchRow_runs (fun a b => a == b) h)
  · exact congrArg _ (branchRow_runs (fun a b => a != b) h)
  · exact congrArg _ (branchRow_runs (fun a b => a.slt b) h)
  · exact congrArg _ (branchRow_runs (fun a b => !a.slt b) h)
  · exact congrArg _ (branchRow_runs (fun a b => a.ult b) h)
  · exact congrArg _ (branchRow_runs (fun a b => !a.ult b) h)
  · exact congrArg _ (issue_runs s n _ _ h)
  · exact congrArg _ (issue_runs s n _ _ h)
  · intro first len x
    rw [execLoop_runs h]
    have hzero : a.toNat = 0 ↔ a = 0 := by rw [← BitVec.toNat_inj]; rfl
    refine ⟨fun hin => congrArg _ (if_pos hin), fun hout ha => congrArg _ ?_, fun hout ha => congrArg _ ?_⟩
    · exact (if_neg (by rw [issued_loopState, hout]; decide)).trans (if_pos (hzero.2 ha))
    · exact (if_neg (by rw [issued_loopState, hout]; decide)).trans (if_neg fun h => ha (hzero.1 h))

end Sys2Proof.Machine
end

section
/-! SUPPORT. Scalar and vector loads and stores of the handler unit; the obligations HandlerScalarMemory and HandlerVectorMemory.
-/

namespace Sys2Proof.Machine

variable {s : State} {n : Nat}

/-! ### Scalar loads and stores (R261, R262, R271) -/

theorem inLdm_iff (a k : Nat) : inLdm a k = true ↔ a + k ≤ 0x40000 := decide_eq_true_iff

/-- An issued scalar load. -/
theorem loadRow_runs {op rd ra imm k : Nat} (h : Issues s n (encI op rd ra imm)) : loadRow s n op rd ra imm k =
    (let a := addrOf (getCore s n) ra imm
     if a % k = 0 ∧ inLdm a k = true then
       advanceTo s n (wr (issued s n (encI op rd ra imm)) rd (BitVec.ofNat 32 (ldmGet (getCore s n) a k)))
     else faultAt s n 3 a) := issue_runs s n _ _ h

/-- An issued scalar store. -/
theorem stRow_runs {op rd ra imm k : Nat} (h : Issues s n (encI op rd ra imm)) : stRow s n op rd ra imm k =
    (let a := addrOf (getCore s n) ra imm
     if a % k = 0 ∧ mayWrite (getCore s n) a k = true then
       advanceTo s n (ldmSet (issued s n (encI op rd ra imm)) a k ((rv (getCore s n) rd).toNat % 256 ^ k))
     else faultAt s n 3 a) := issue_runs s n _ _ h

/-- Settles O16: the loads are `loadRow` and the stores `stRow`. -/
theorem handlerScalarMemory : Obligations.HandlerScalarMemory := by
  intro s n rd ra imm c a loads stores
  have hload : ∀ op k i, exec i s = .next (loadRow s n op rd ra imm k) → loads op k i := by
    intro op k i he h
    rw [he, loadRow_runs h]
    refine ⟨fun h1 h2 => congrArg _ (if_pos ⟨h1, (inLdm_iff _ _).2 h2⟩), fun h1 => congrArg _ (if_neg ?_)⟩
    rwa [inLdm_iff]
  have hstore : ∀ op k i, exec i s = .next (stRow s n op rd ra imm k) → stores op k i := by
    intro op k i he h
    rw [he, stRow_runs h]
    refine ⟨fun h1 h2 => ⟨_, congrArg _ (if_pos ⟨h1, h2⟩), rfl, ?_, fun b hb => nget_memSet_outside _ _ _ _ _ hb⟩,
      fun h1 => congrArg _ (if_neg h1)⟩
    exact (ldmGet_ldmSet ..).trans (Nat.mod_mod ..)
  exact ⟨hload _ _ _ rfl, hload _ _ _ rfl, hload _ _ _ rfl, hstore _ _ _ rfl, hstore _ _ _ rfl, hstore _ _ _ rfl⟩

/-! ### Vector loads and stores (R261, R262, R271, R278, R284) -/

theorem lineAt_ldm {c : Core} {a : Nat} (h : a % 64 = 0) (hl : a + 64 ≤ 0x40000) :
    lineAt c a = some (BitVec.ofNat 512 (ldmGet c a 64)) := by
  rw [lineAt, if_neg (not_not_intro h), if_pos ((inLdm_iff _ _).2 hl)]

theorem inRowStore_iff (a : Nat) : inRowStore a = true ↔ 0x100000 ≤ a ∧ a < 0x200000 := by
  rw [inRowStore, Bool.and_eq_true, decide_eq_true_iff, decide_eq_true_iff]

theorem lineAt_row {c : Core} {line : Nat} (h : line < 0x4000) :
    lineAt c (0x100000 + 64 * line) = some (nget 0 c.syn.rows line) := by
  have hi : (0x100000 + 64 * line - 0x100000) / 64 = line := by omega
  have hout : ¬inLdm (0x100000 + 64 * line) 64 = true := by rw [inLdm_iff]; omega
  rw [lineAt, if_neg (by omega), if_neg hout, if_pos (by omega), hi]

theorem lineAt_none {c : Core} {a : Nat} (h : a % 64 ≠ 0 ∨ (0x40000 < a + 64 ∧ (a < 0x100000 ∨ 0x200000 ≤ a))) :
    lineAt c a = none := by
  rw [lineAt]
  split
  · rfl
  · rename_i ha
    have hout : ¬inLdm a 64 = true := by rw [inLdm_iff]; omega
    rw [if_neg hout, if_neg (by omega)]

theorem lineHeld_ldm {c : Core} {a : Nat} (hl : a + 64 ≤ 0x40000) : lineHeld c a = false := by
  have hrow : inRowStore a = false := Bool.eq_false_iff.2 fun h => by
    rw [inRowStore_iff] at h
    omega
  rw [lineHeld, hrow]
  rfl

theorem lineHeld_row {c : Core} {line : Nat} (h : line < 0x4000) :
    lineHeld c (0x100000 + 64 * line) = c.lrn.pending.contains line := by
  have hi : (0x100000 + 64 * line - 0x100000) / 64 = line := by omega
  have hrow : inRowStore (0x100000 + 64 * line) = true := by rw [inRowStore_iff]; omega
  rw [lineHeld, hrow, hi]
  rfl

/-- An instruction with a line that it may not read now, or not at all. -/
theorem withLine_none {c : Core} {a : Nat} {k : Line → State} (h : lineAt c a = none) : withLine s n c a k = faultAt s n 3 a := by
  unfold withLine
  rw [h]

theorem withLine_some {c : Core} {a : Nat} {l : Line} {k : Line → State} (h : lineAt c a = some l) :
    withLine s n c a k = if lineHeld c a then s else k l := by
  unfold withLine
  rw [h]

/-- Without a datapath cycle the handler stalls, and the held cycle counts. -/
theorem onPorts_noDp {mem : Bool} {c : Core} {k : Core → State} (h : ¬mayTake (tileGate s n 0) c.ports.dp handlerClass = true) :
    onPorts s n true mem c k = setCore s n (dpWait (holdDp c)) := by
  rw [onPorts, if_pos]
  simpa using h

/-- Without a row-store cycle the handler stalls, and the held cycle counts. -/
theorem onPorts_noMem {dp : Bool} {c : Core} {k : Core → State}
    (hd : dp = true → mayTake (tileGate s n 0) c.ports.dp handlerClass = true)
    (h : ¬mayTake (tileGate s n 1) c.ports.mem handlerClass = true) :
    onPorts s n dp true c k = setCore s n (dpWait (holdMem c)) := by
  rw [onPorts, if_neg, if_pos]
  · simpa using h
  · cases dp <;> simp_all

/-- An issued VLD. -/
theorem execVld_runs {rd ra imm : Nat} (h : Issues s n (encI 0x1A rd ra imm)) : exec (.vld n rd ra imm) s =
    (let x := issued s n (encI 0x1A rd ra imm)
     let a := addrOf (getCore s n) ra imm
     .next (withLine s n x a fun l => if inRowStore a then onPorts s n false true x fun c => advanceTo s n (wv c rd l)
       else advanceTo s n (wv x rd l))) := congrArg Host.Outcome.next (issue_runs s n _ _ h)

/-- Settles O17: VLD goes by its line, the others by the place and the alignment of their bytes. -/
theorem handlerVectorMemory : Obligations.HandlerVectorMemory := by
  intro s n rd ra imm c a
  refine ⟨fun h => ?_, fun h => ?_, fun h => ?_, fun h => ?_⟩
  · intro x port
    rw [execVld_runs h]
    refine ⟨fun ha hl => congrArg _ ?_, fun line hline ha => ?_, fun ha => congrArg _ (withLine_none (lineAt_none ha))⟩
    · have hrow : inRowStore a = false := Bool.eq_false_iff.2 fun h => by
        rw [inRowStore_iff] at h
        omega
      refine (withLine_some (lineAt_ldm ha hl)).trans ((if_neg ?_).trans (if_neg ?_))
      · rw [lineHeld_ldm hl]
        decide
      · change ¬inRowStore a = true
        rw [hrow]
        decide
    · have hrow : inRowStore a = true := by rw [inRowStore_iff]; omega
      have hsome : lineAt x a = some (nget 0 c.syn.rows line) := by rw [ha]; exact lineAt_row hline
      have hheld : lineHeld x a = c.lrn.pending.contains line := by rw [ha]; exact lineHeld_row hline
      have hw := fun k => withLine_some (s := s) (n := n) (k := k) hsome
      refine ⟨fun hp hport => congrArg _ ?_, fun hp hport => congrArg _ ?_, fun hp => congrArg _ ?_⟩
      · refine (hw _).trans ((if_neg (by rw [hheld, hp]; decide)).trans ((if_pos hrow).trans ?_))
        exact onPorts_runs s n false true x _ (fun h => absurd h (by decide)) fun _ => hport
      · refine (hw _).trans ((if_neg (by rw [hheld, hp]; decide)).trans ((if_pos hrow).trans ?_))
        refine onPorts_noMem (fun h => absurd h (by decide)) ?_
        change ¬port = true
        rw [hport]
        decide
      · exact (hw _).trans (if_pos (hheld.trans hp))
  · have he : exec (.vst n rd ra imm) s = .next (if a % 64 = 0 ∧ mayWrite c a 64 = true then
        advanceTo s n (ldmSet (issued s n (encI 0x1B rd ra imm)) a 64 (vv c rd).toNat) else faultAt s n 3 a) :=
      congrArg Host.Outcome.next (issue_runs s n _ _ h)
    rw [he]
    exact ⟨fun h1 h2 => congrArg _ (if_pos ⟨h1, h2⟩), fun h1 => congrArg _ (if_neg h1)⟩
  · have he : exec (.accld n rd ra imm) s = .next (if a % 64 = 0 ∧ inLdm a 256 = true then
        advanceTo s n (wa (issued s n (encI 0x1C rd ra imm)) rd (BitVec.ofNat 2048 (ldmGet c a 256))) else faultAt s n 3 a) :=
      congrArg Host.Outcome.next (issue_runs s n _ _ h)
    rw [he]
    refine ⟨fun h1 h2 => congrArg _ (if_pos ⟨h1, (inLdm_iff _ _).2 h2⟩), fun h1 => congrArg _ (if_neg ?_)⟩
    rwa [inLdm_iff]
  · have he : exec (.accst n rd ra imm) s = .next (if a % 64 = 0 ∧ mayWrite c a 256 = true then
        advanceTo s n (ldmSet (issued s n (encI 0x1D rd ra imm)) a 256 (av c rd).toNat) else faultAt s n 3 a) :=
      congrArg Host.Outcome.next (issue_runs s n _ _ h)
    rw [he]
    exact ⟨fun h1 h2 => congrArg _ (if_pos ⟨h1, h2⟩), fun h1 => congrArg _ (if_neg h1)⟩

end Sys2Proof.Machine
end

section
/-! SUPPORT. Saturating sums and the toll of the datapath; the obligation HandlerAccumulates. -/

namespace Sys2Proof.Machine

variable {s : State} {n : Nat}

/-! ### Saturating sums (R271, R272) -/

theorem sat16_eq (x : Int) : sat16 x = max (-32768) (min 32767 x) := by
  rw [sat16, clampTo]
  split
  · omega
  · split <;> omega

theorem sat16_ne_iff (x : Int) : (sat16 x != x) = decide (x < -32768 ∨ 32767 < x) := by
  rw [Bool.eq_iff_iff, bne_iff_ne, decide_eq_true_iff, sat16_eq]
  omega

/-- Whether a lane leaves the range of 16 bits. -/
theorem saturates_eq (f : Nat → Int) : saturates f = (List.range 128).any fun i => decide (f i < -32768 ∨ 32767 < f i) := by
  simp only [saturates, sat16_ne_iff]

/-- The accumulator `d` with the saturated sums `f`; ASAT, and for a MAC instruction the count, when a lane saturates. -/
def putSum (x : Core) (d : Nat) (mac : Bool) (f : Nat → Int) : Core :=
  let e := wa x d (mkAcc fun i => max (-32768) (min 32767 (f i)))
  if (List.range 128).any fun i => decide (f i < -32768 ∨ 32767 < f i) then
    { e with hnd := { e.hnd with asat := true }, cnt := if mac then (cntHi e 0xE08 1).cnt else e.cnt }
  else e

theorem putAcc_eq (x : Core) (d : Nat) (f : Nat → Int) : putAcc x d f = putSum x d false f := by
  unfold putAcc putSum
  simp only [saturates_eq, sat16_eq]
  rfl

theorem putMac_eq (x : Core) (d : Nat) (f : Nat → Int) : putMac x d f = putSum x d true f := by
  unfold putMac
  rw [putAcc_eq, putSum, putSum, saturates_eq]
  generalize ((List.range 128).any fun i => decide (f i < -32768 ∨ 32767 < f i)) = sat
  generalize wa x d _ = e
  cases sat <;> rfl

/-! ### The datapath and row-store toll (R278, R284) -/

/-- An instruction of the datapath alone: with a cycle it runs, without one it stalls. -/
theorem onPorts_dp {x : Core} (k : Core → State) :
    (mayTake (tileGate s n 0) x.ports.dp handlerClass = true → onPorts s n true false x k = k (chargePorts x handlerClass 1 0)) ∧
    (¬mayTake (tileGate s n 0) x.ports.dp handlerClass = true → onPorts s n true false x k = setCore s n (dpWait (holdDp x))) :=
  ⟨fun h => onPorts_runs s n true false x k (fun _ => h) fun h => absurd h (by decide), onPorts_noDp⟩

theorem execVmac_runs {d va vb za zb k clr neg : Nat} (h : Issues s n (encV 0x20 d va vb za zb k clr neg)) :
    exec (.vmac n d va vb za zb k clr neg) s =
      .next (onPorts s n true false (issued s n (encV 0x20 d va vb za zb k clr neg)) fun c =>
        let p (i : Nat) : Int := ((lane (vv c va) i : Int) - (za % 16 : Nat)) * ((lane (vv c vb) i : Int) - (zb % 16 : Nat))
        advanceTo s n (putMac c d fun i => macBase c d clr i + (if neg % 2 = 1 then -p i else p i))) :=
  congrArg Host.Outcome.next (issue_runs s n _ _ h)

theorem execVmacb_runs {d va vb za zb k clr neg : Nat} (h : Issues s n (encV 0x21 d va vb za zb k clr neg)) :
    exec (.vmacb n d va vb za zb k clr neg) s =
      .next (onPorts s n true false (issued s n (encV 0x21 d va vb za zb k clr neg)) fun c =>
        let p (i : Nat) : Int := ((lane (vv c va) i : Int) - (za % 16 : Nat)) * ((lane (vv c vb) (k % 128) : Int) - (zb % 16 : Nat))
        advanceTo s n (putMac c d fun i => macBase c d clr i + (if neg % 2 = 1 then -p i else p i))) :=
  congrArg Host.Outcome.next (issue_runs s n _ _ h)

theorem fld_six (w : Word) : fld w 6 0 = w.toNat % 128 := by simp [fld]

theorem fld_three (w : Word) : fld w 3 0 = w.toNat % 16 := by simp [fld]

/-- The work of VMACM on its line. -/
def vmacmDone (x : Core) (d ra vb rn za zb inc clr : Nat) (m : Line) : Core :=
  let e := putSum x d true fun i => (if clr % 2 = 1 then 0 else accLane (av x d) i) +
    ((lane m i : Int) - (za % 16 : Nat)) * ((lane (vv x vb) ((rv x rn).toNat % 128) : Int) - (zb % 16 : Nat))
  if inc % 2 = 1 then wr (wr e ra (rv e ra + 64)) rn (rv (wr e ra (rv e ra + 64)) rn + 1) else e

theorem execVmacm_runs {d ra vb rn za zb inc clr : Nat} (h : Issues s n (encM 0x22 d ra vb rn za zb inc clr)) :
    exec (.vmacm n d ra vb rn za zb inc clr) s =
      (let x := issued s n (encM 0x22 d ra vb rn za zb inc clr)
       let a := (rv (getCore s n) ra).toNat
       .next (withLine s n x a fun m => onPorts s n true (inRowStore a) x fun c =>
         advanceTo s n (vmacmDone c d ra vb rn za zb inc clr m))) := by
  refine (congrArg Host.Outcome.next (issue_runs s n _ _ h)).trans ?_
  simp only [putMac_eq, fld_six, vmacmDone]
  refine congrArg _ (congrArg _ (funext fun m => congrArg _ (funext fun c => ?_)))
  split <;> rfl

theorem execAccop_runs {d ra rb func : Nat} (h : Issues s n (encR 0x24 d ra rb func)) : exec (.accop n d ra rb func) s =
    .next (advanceTo s n (match func % 2048 with
      | 0 => putAcc (issued s n (encR 0x24 d ra rb func)) d fun i =>
          accLane (av (getCore s n) d) i + accLane (av (getCore s n) ra) i
      | 1 => wa (issued s n (encR 0x24 d ra rb func)) d (mkAcc fun i =>
          accLane (av (getCore s n) d) i / 2 ^ fld (rv (getCore s n) rb) 3 0)
      | _ => wa (issued s n (encR 0x24 d ra rb func)) d 0)) := congrArg Host.Outcome.next (issue_runs s n _ _ h)

/-- Settles O18: the accumulates are `putSum` behind the toll of their ports. -/
theorem handlerAccumulates : Obligations.HandlerAccumulates := by
  intro s n d va vb za zb k clr neg ra rn inc rb c base sum term sign dp port
  have hsum : ∀ x mac f, sum x mac f = putSum x d mac f := fun _ _ _ => rfl
  refine ⟨fun h => ?_, fun h => ?_, fun h => ?_, fun h => ?_, fun h => ?_, fun h => ?_⟩
  · intro x
    rw [execVmac_runs h]
    refine ⟨fun hd => congrArg _ (((onPorts_dp (x := x) _).1 hd).trans (congrArg (advanceTo s n ·) (putMac_eq _ _ _))), fun hd => congrArg _ ((onPorts_dp (x := x) _).2 hd)⟩
  · intro x
    rw [execVmacb_runs h]
    refine ⟨fun hd => congrArg _ (((onPorts_dp (x := x) _).1 hd).trans (congrArg (advanceTo s n ·) (putMac_eq _ _ _))), fun hd => congrArg _ ((onPorts_dp (x := x) _).2 hd)⟩
  · intro x a
    rw [execVmacm_runs h]
    refine ⟨fun m hm hheld => ?_, fun m hm hheld => ?_, fun hm => congrArg _ (withLine_none hm)⟩
    · intro e
      have hw := fun k => (withLine_some (s := s) (n := n) (c := x) (k := k) hm).trans (if_neg (by
        change ¬lineHeld c a = true
        rw [hheld]
        decide))
      refine ⟨fun hd hp => congrArg _ ((hw _).trans ?_), fun hd => congrArg _ ((hw _).trans ?_), fun hd hr hp => congrArg _ ((hw _).trans ?_)⟩
      · refine (onPorts_runs s n true (inRowStore a) x _ (fun _ => hd) hp).trans ?_
        rfl
      · exact onPorts_noDp hd
      · change onPorts s n true (inRowStore a) x _ = _
        rw [hr]
        exact onPorts_noMem (fun _ => hd) hp
    · exact congrArg _ ((withLine_some hm).trans (if_pos hheld))
  · rw [execAccop_runs h, putAcc_eq]
    rfl
  · rw [execAccop_runs h, fld_three]
    rfl
  · exact execAccop_runs h

end Sys2Proof.Machine
end

section
/-! SUPPORT. The lane instructions of the handler unit; the obligation HandlerLaneResults. -/

namespace Sys2Proof.Machine

variable {s : State} {n : Nat}

/-! ### VRQ (R273, R281) -/

/-- The core with the codes `y.1` in register `d`, `y.2.1` clamped lanes counted, and the next state `y.2.2` of the LFSR. -/
def putCodes (x : Core) (d w : Nat) (y : List Nat × Nat × Word) : Core :=
  { x with
    hnd := { x.hnd with
      v := nset 0 x.hnd.v (d % 8) (BitVec.ofNat 512 (packLanes w y.1))
      lfsr := y.2.2, rqclamp := x.hnd.rqclamp || y.2.1 != 0, flight := x.hnd.flight ++ [(d % 8, 0, vv x d)] }
    cnt := if y.2.1 = 0 then x.cnt else (cntLo x 0xE04 y.2.1).cnt }

theorem vv_putCodes (x : Core) (d w j : Nat) (y : List Nat × Nat × Word) :
    vv (putCodes x d w y) j = if j % 8 = d % 8 then BitVec.ofNat 512 (packLanes w y.1) else vv x j := vv_wv x d j _

theorem putCodes_rqclamp (x : Core) (d w : Nat) (y : List Nat × Nat × Word) :
    (putCodes x d w y).hnd.rqclamp = true ↔ x.hnd.rqclamp = true ∨ y.2.1 ≠ 0 := by
  rw [putCodes, Bool.or_eq_true, bne_iff_ne]

/-- The width of the codes that the configuration `cfg` asks for. -/
def vrqWidth (cfg : Word) : Nat := (vrqFmt (fld cfg 13 12)).width

theorem execVrq_runs {d ra rb func : Nat} (h : Issues s n (encR 0x25 d ra rb func)) : exec (.vrq n d ra rb func) s =
    .next (advanceTo s n (putCodes (issued s n (encR 0x25 d ra rb func)) d (vrqWidth (rv (getCore s n) ra))
      (vrqLanes (rv (getCore s n) ra) (av (getCore s n) rb) (getCore s n).hnd.lfsr))) := by
  have he : exec (.vrq n d ra rb func) s = execVrq n d ra rb func s := rfl
  rw [he, execVrq, issue_runs s n _ _ h]
  dsimp only
  rw [rv_issued, av_issued, issued_lfsr, vrqWidth]
  generalize vrqLanes (rv (getCore s n) ra) (av (getCore s n) rb) (getCore s n).hnd.lfsr = y
  generalize issued s n (encR 0x25 d ra rb func) = x
  by_cases hy : y.2.1 = 0
  · simp only [putCodes, hy, if_true, wv]
  · simp only [putCodes, hy, if_false, wv, cntLo, cntGet]

/-! ### The lane instructions (R271) -/

/-- The 7-bit index in byte `j` of a vector. -/
theorem fld_index (v : BitVec 512) (j : Nat) : fld v (8 * j + 6) (8 * j) = v.toNat / 2 ^ (8 * j) % 2 ^ 7 := by
  have hw : 8 * j + 6 + 1 - 8 * j = 7 := by omega
  rw [fld, hw]

/-- Settles O19: an issued lane instruction writes the destination that its table gives. -/
theorem handlerLaneResults : Obligations.HandlerLaneResults := by
  intro s n d va vb za zb k clr neg ra rb func imm rest c dp
  refine ⟨fun h => ?_, fun h => ?_, fun h => congrArg _ (issue_runs s n _ _ h), fun h => ?_,
    fun h => congrArg _ (issue_runs s n _ _ h), fun h => ?_, fun h => congrArg _ (issue_runs s n _ _ h), fun h => ?_⟩
  · intro x
    have he : exec (.vdot n d va vb za zb rest) s = .next (onPorts s n true false x fun c =>
        advanceTo s n (wr c d (BitVec.ofInt 32 ((List.range 128).map fun i =>
          ((lane (vv c va) i : Int) - (za % 16 : Nat)) * ((lane (vv c vb) i : Int) - (zb % 16 : Nat))).sum))) :=
      congrArg Host.Outcome.next (issue_runs s n _ _ h)
    rw [he]
    exact ⟨fun hd => congrArg _ ((onPorts_dp (x := x) _).1 hd), fun hd => congrArg _ ((onPorts_dp (x := x) _).2 hd)⟩
  · intro x i
    have he := execVrq_runs h
    have hx : x = vrqLanes (rv (getCore s n) ra) (av (getCore s n) rb) (getCore s n).hnd.lfsr := rfl
    rw [← hx] at he
    clear_value x
    exact ⟨_, he, rfl, (vv_putCodes ..).trans (if_pos rfl), fun j hj => (vv_putCodes ..).trans (if_neg hj),
      putCodes_rqclamp .., rfl, rfl, rfl⟩
  · refine (congrArg Host.Outcome.next (issue_runs s n _ _ h)).trans ?_
    simp only [fld_index]
    rfl
  · refine (congrArg Host.Outcome.next (issue_runs s n _ _ h)).trans ?_
    simp only [fld_three]
    rfl
  · refine (congrArg Host.Outcome.next (issue_runs s n _ _ h)).trans ?_
    simp only [fld_three]
    rfl

end Sys2Proof.Machine
end

section
/-! SUPPORT. Messages of the handler unit by the state of their channel; the obligation HandlerSendsMessages. -/

namespace Sys2Proof.Machine

variable {s : State} {n : Nat}

/-! ### Fields of the operands -/

theorem fld_chan (w : Word) : fld w 7 0 = w.toNat % 2 ^ 8 := by simp [fld]

theorem fld_land (w : Word) : fld w 31 20 = w.toNat / 2 ^ 20 := by
  have h := w.isLt
  rw [fld, Nat.mod_eq_of_lt]
  omega

theorem fld_len (w : Word) : fld w 19 10 = w.toNat / 2 ^ 10 % 2 ^ 10 := rfl

/-! ### A message by the state of its channel (R298 to R301) -/

theorem sendOn_goes {x : Core} {rd k : Nat} {p : Packet} (h2 : chState (chan x k) = 2)
    (hc : chKind (chan x k) = 2 ∨ chCredits (chan x k) ≠ 0) : sendOn s n x rd k p =
      (let r := chan x k
       let r1 := if chKind r = 2 then r else withCredits r (chCredits r - 1)
       advanceTo s n (wr (setChan x k (if chKind r = 1 then setFld r1 45 45 (1 - chRound r) else r1) none 0 0) rd 0) [p]) := by
  have hst : sendState (chan x k) = .goes := by
    rw [sendState, h2]
    exact if_pos hc
  unfold sendOn
  dsimp only
  rw [hst]

theorem sendOn_waits {x : Core} {rd k : Nat} {p : Packet}
    (h : chState (chan x k) = 1 ∨ (chState (chan x k) = 2 ∧ chKind (chan x k) ≠ 2 ∧ chCredits (chan x k) = 0)) :
    sendOn s n x rd k p = setCore s n { x with hnd := { x.hnd with wait := .credit k (rd % 32) } } := by
  have hst : sendState (chan x k) = .waits := by
    rcases h with h1 | ⟨h2, hk, hc⟩
    · rw [sendState, h1]
      rfl
    · rw [sendState, h2]
      exact if_neg fun h => h.elim hk fun h => h hc
  unfold sendOn
  dsimp only
  rw [hst]

theorem sendOn_stale {x : Core} {rd k : Nat} {p : Packet} (h : chState (chan x k) = 5) :
    sendOn s n x rd k p = advanceTo s n (wr x rd 0x32) := by
  have hst : sendState (chan x k) = .returns stStaleGen := by
    rw [sendState, h]
    rfl
  unfold sendOn
  dsimp only
  rw [hst]
  rfl

theorem sendOn_closed {x : Core} {rd k : Nat} {p : Packet} (h : chState (chan x k) = 3 ∨ chState (chan x k) = 4) :
    sendOn s n x rd k p = advanceTo s n (wr x rd 0x33) := by
  have hst : sendState (chan x k) = .returns stPeerClosed := by
    rcases h with h | h <;> rw [sendState, h] <;> rfl
  unfold sendOn
  dsimp only
  rw [hst]
  rfl

/-! ### Replies (R305, R309, R311) -/

/-- The part of the rules of a reply that the chain and the place of the bytes decide. -/
def ReplyFits (x : Core) (a : Word) (len : Nat) : Prop :=
  x.hnd.cur.chain.replied = false ∧ (len = 0 ∨ a.toNat + len ≤ 0x40000) ∧
    (x.hnd.cur.chain.isReq = true ∨ x.hnd.cur.chain.host.isSome = true)

theorem replyFits_iff (x : Core) (a : Word) (len : Nat) : ReplyFits x a len ↔ ¬(x.hnd.cur.chain.replied = true ∨
    (len ≠ 0 ∧ (!inLdm a.toNat len) = true) ∨ ((!x.hnd.cur.chain.isReq) = true ∧ x.hnd.cur.chain.host.isNone = true)) := by
  rw [ReplyFits, ← inLdm_iff]
  cases x.hnd.cur.chain.host <;> simp only [Option.isSome, Option.isNone, Bool.not_eq_true'] <;> simp <;> tauto

/-- The core after a reply: RD is OK and the chain has its reply. -/
def replied (x : Core) (rd : Nat) : Core := modChain (wr x rd 0) fun y => { y with replied := true }

theorem sendReply_unfit {x : Core} {rd : Nat} {a : Word} {land len hidx : Nat} (h : ¬ReplyFits x a len) :
    sendReply s n x rd a land len hidx = faultAt s n 3 a.toNat :=
  if_pos (by_contra fun h' => h ((replyFits_iff x a len).2 h'))

/-- A reply that fits goes to the requester or to the host. -/
theorem sendReply_fits {x : Core} {rd : Nat} {a : Word} {land len hidx : Nat} (h : ReplyFits x a len) :
    sendReply s n x rd a land len hidx =
    (let ch := x.hnd.cur.chain
     let e := ch.entry
     if ch.isReq then
       if !landingOk ((fld e 15 4 + 1) * 64) land len then faultAt s n 3 a.toNat
       else advanceTo s n (replied x rd) [mkPkt 4 2 (qPdev e) (qPcore e) 0 0 (msgSrc true (devNo s) n 0)
         (qRqueue e * 2 ^ 8 + qRqcgen e) x.ctx x.gen.toNat hidx (msgBody x a land len).1 3 0xB (msgBody x a land len).2]
     else if len > 256 then faultAt s n 3 a.toNat
     else advanceTo s n (modChain (wr x rd 0) fun y => { y with
       replied := true, reply := if len = 0 then bytesOf 4 a.toNat else ngetList (0 : Byte) x.ldm a.toNat len })) :=
  if_neg ((replyFits_iff x a len).1 h)

/-- The rules of a reply. -/
def ReplyLegal (x : Core) (a : Word) (land len : Nat) : Prop :=
  x.hnd.cur.chain.replied = false ∧ (len = 0 ∨ a.toNat + len ≤ 0x40000) ∧
    ((x.hnd.cur.chain.isReq = true ∧ landingOk ((fld x.hnd.cur.chain.entry 15 4 + 1) * 64) land len = true) ∨
      (x.hnd.cur.chain.isReq = false ∧ x.hnd.cur.chain.host.isSome = true ∧ len ≤ 256))

theorem ReplyLegal.fits {x : Core} {a : Word} {land len : Nat} (h : ReplyLegal x a land len) : ReplyFits x a len :=
  ⟨h.1, h.2.1, h.2.2.imp And.left fun h => h.2.1⟩

theorem sendReply_illegal {x : Core} {rd : Nat} {a : Word} {land len hidx : Nat} (h : ¬ReplyLegal x a land len) :
    sendReply s n x rd a land len hidx = faultAt s n 3 a.toNat := by
  by_cases hf : ReplyFits x a len
  · rw [sendReply_fits hf]
    obtain ⟨hrep, hin, hway⟩ := hf
    dsimp only
    cases hreq : x.hnd.cur.chain.isReq with
    | true =>
      refine (if_pos rfl).trans (if_pos ?_)
      rw [Bool.not_eq_true', Bool.eq_false_iff]
      exact fun hl => h ⟨hrep, hin, .inl ⟨hreq, hl⟩⟩
    | false =>
      refine (if_neg (by decide)).trans (if_pos (Nat.lt_of_not_le fun hl => h ⟨hrep, hin, .inr ⟨hreq, ?_, hl⟩⟩))
      exact hway.resolve_left (by rw [hreq]; decide)
  · exact sendReply_unfit hf

theorem sendReply_request {x : Core} {rd : Nat} {a : Word} {land len hidx : Nat} (h : ReplyLegal x a land len)
    (hr : x.hnd.cur.chain.isReq = true) : sendReply s n x rd a land len hidx = advanceTo s n (replied x rd)
      [mkPkt 4 2 (qPdev x.hnd.cur.chain.entry) (qPcore x.hnd.cur.chain.entry) 0 0 (msgSrc true (devNo s) n 0)
        (qRqueue x.hnd.cur.chain.entry * 2 ^ 8 + qRqcgen x.hnd.cur.chain.entry) x.ctx x.gen.toNat hidx
        (msgBody x a land len).1 3 0xB (msgBody x a land len).2] := by
  have hl : landingOk ((fld x.hnd.cur.chain.entry 15 4 + 1) * 64) land len = true := by
    rcases h.2.2 with ⟨-, hl⟩ | ⟨hreq, -⟩
    · exact hl
    · rw [hr] at hreq; cases hreq
  rw [sendReply_fits h.fits]
  dsimp only
  rw [if_pos hr, hl]
  rfl

theorem sendReply_host {x : Core} {rd : Nat} {a : Word} {land len hidx : Nat} (h : ReplyLegal x a land len)
    (hr : x.hnd.cur.chain.isReq = false) : sendReply s n x rd a land len hidx =
      advanceTo s n (modChain (wr x rd 0) fun y => { y with
        replied := true, reply := if len = 0 then bytesOf 4 a.toNat else ngetList (0 : Byte) x.ldm a.toNat len }) := by
  have hl : len ≤ 256 := by
    rcases h.2.2 with ⟨hreq, -⟩ | ⟨-, -, hl⟩
    · rw [hr] at hreq; cases hreq
    · exact hl
  rw [sendReply_fits h.fits]
  dsimp only
  rw [if_neg (by rw [hr]; decide), if_neg (Nat.not_lt.2 hl)]

/-! ### The three instructions -/

/-- The rules of a request (R298, R299). -/
def RequestLegal (r : BitVec 128) (a : Word) (land len : Nat) : Prop :=
  chState r ≠ 0 ∧ (chKind r = 0 ∨ chKind r = 2) ∧ landingOk (sendWin r) land len = true ∧ (len = 0 ∨ a.toNat + len ≤ 0x40000)

theorem execSend_runs {rd ra rb func : Nat} (h : Issues s n (encR 0x30 rd ra rb func)) : exec (.send n rd ra rb func) s =
    (let x := issued s n (encR 0x30 rd ra rb func)
     let a := rv x ra
     let d := rv x rb
     let k := d.toNat % 2 ^ 8
     let land := d.toNat / 2 ^ 20
     let len := d.toNat / 2 ^ 10 % 2 ^ 10
     let r := chan x k
     .next (if func % 2 = 1 then sendReply s n x rd a land len (func / 32 % 64)
       else if chState r = 0 ∨ (chKind r ≠ 0 ∧ chKind r ≠ 2) ∨ (!landingOk (sendWin r) land len) = true ∨
           (len ≠ 0 ∧ (!inLdm a.toNat len) = true) then faultAt s n 3 a.toNat
       else sendOn s n x rd k (mkPkt 4 2 (if chKind r = 2 then devNo s else chPdev r) (chPcore r)
         (if chKind r = 2 then fld r 44 43 else 0) (if chKind r = 2 then fld r 42 38 else 0) (msgSrc false (devNo s) n k)
         (chPqueue r * 2 ^ 8 + (if chKind r = 2 then 0 else chPcgen r)) x.ctx x.gen.toNat (func / 32 % 64)
         (msgBody x a land len).1 3 0xB (msgBody x a land len).2))) := by
  have he : exec (.send n rd ra rb func) s = execSend n rd ra rb func s := rfl
  rw [he, execSend, issue_runs s n _ _ h]
  simp only [fld_chan, fld_land, fld_len]

theorem requestLegal_iff (r : BitVec 128) (a : Word) (land len : Nat) : RequestLegal r a land len ↔
    ¬(chState r = 0 ∨ (chKind r ≠ 0 ∧ chKind r ≠ 2) ∨ (!landingOk (sendWin r) land len) = true ∨
      (len ≠ 0 ∧ (!inLdm a.toNat len) = true)) := by
  rw [RequestLegal, ← inLdm_iff]
  simp only [Bool.not_eq_true', Bool.eq_false_iff]
  tauto

theorem tallyOk_iff (r : BitVec 128) : tallyOk r = true ↔ chState r ≠ 0 ∧ (chKind r = 1 ∨ (chState r = 1 ∧ chKind r = 0)) := by
  simp [tallyOk]

theorem execTallyc_runs {rd ra rb func : Nat} (h : Issues s n (encR 0x31 rd ra rb func)) : exec (.tallyc n rd ra rb func) s =
    (let x := issued s n (encR 0x31 rd ra rb func)
     let k := (rv x ra).toNat % 2 ^ 8
     let t := chan x k
     .next (if !tallyOk t then faultAt s n 3 k
       else sendOn s n x rd k (mkPkt 8 2 (chPdev t) (chPcore t) 0 0 (msgSrc false (devNo s) n k) (chPqueue t * 2 ^ 8 + chPcgen t)
         x.ctx x.gen.toNat (chRound t * 32)
         (match func % 4 with | 0 => (rv x rb).toNat % 2 ^ 16 | 1 => (rv x rb).toNat | _ => 0) 3 0xB
         (if func % 4 = 2 then burstFlits (vv x (func / 4 % 8)) else [])))) := by
  have he : exec (.tallyc n rd ra rb func) s = execTallyc n rd ra rb func s := rfl
  rw [he, execTallyc, issue_runs s n _ _ h]
  simp only [fld_chan] <;> rfl

/-- Settles O20: a request and a contribution are `sendOn`, a reply is `sendReply`. -/
theorem handlerSendsMessages : Obligations.HandlerSendsMessages := by
  intro s n rd ra rb func c a d k land len hidx body outcome
  have hout : ∀ (x : Core) (ch rd : Nat) (p : Packet) (i : Instr), chan x ch = chan c ch →
      exec i s = .next (sendOn s n x rd ch p) → outcome x ch rd p i := by
    intro x ch rd p i hx he
    dsimp only [outcome]
    rw [he, ← hx]
    exact ⟨fun h2 hc => congrArg _ (sendOn_goes h2 hc), fun h => congrArg _ (sendOn_waits h), fun h => congrArg _ (sendOn_stale h),
      fun h => congrArg _ (sendOn_closed h)⟩
  refine ⟨fun h hf => ?_, fun h hf => ?_, fun h => ?_, fun j e hw => ?_⟩
  · intro r legal line
    have he := execSend_runs h
    have hl := requestLegal_iff r a land len
    refine ⟨fun hno => ?_, fun hyes => hout _ _ _ _ _ rfl ?_⟩
    · exact he.trans (congrArg _ ((if_neg (by omega)).trans (if_pos (by_contra fun h' => hno (hl.2 h')))))
    · exact he.trans (congrArg _ ((if_neg (by omega)).trans (if_neg (hl.1 hyes))))
  · intro ch e x legal
    have he : exec (.send n rd ra rb func) s = .next (sendReply s n x rd a land len hidx) :=
      (execSend_runs h).trans (congrArg _ (if_pos hf))
    rw [he]
    exact ⟨fun hno => congrArg _ (sendReply_illegal hno), fun hyes hr => congrArg _ (sendReply_request hyes hr),
      fun hyes hr => congrArg _ (sendReply_host hyes hr)⟩
  · intro k t legal
    have he := execTallyc_runs h
    have hl := tallyOk_iff t
    refine ⟨fun hno => ?_, fun hyes => hout _ _ _ _ _ rfl ?_⟩
    · refine he.trans (congrArg _ (if_pos ?_))
      rw [Bool.not_eq_true', Bool.eq_false_iff]
      exact fun h' => hno (hl.1 h')
    · refine he.trans (congrArg _ (if_neg ?_))
      rw [Bool.not_eq_true', Bool.eq_false_iff]
      exact not_not_intro (hl.2 hyes)
  · have he : exec (.sendWaitExpire n) s = execSendWaitExpire n s := rfl
    rw [he]
    unfold execSendWaitExpire
    dsimp only
    rw [hw]
    rfl

end Sys2Proof.Machine
end

section
/-! SUPPORT. Waits, queries and staging of the handler unit; the obligation HandlerWaitsAndQueries. -/

namespace Sys2Proof.Machine

variable {s : State} {n : Nat}

theorem execWaitne_runs {rd ra rb func : Nat} (h : Issues s n (encR 0x32 rd ra rb func)) : exec (.waitne n rd ra rb func) s =
    (let x := issued s n (encR 0x32 rd ra rb func)
     let a := (rv x ra).toNat
     let w := BitVec.ofNat 32 (ldmGet x a 4)
     .next (if a % 4 ≠ 0 ∨ (!inLdm a 4) = true then faultAt s n 3 a
       else if w ≠ rv x rb then advanceTo s n (wr x rd w)
       else setCore s n { x with hnd := { x.hnd with wait := .waitne (rd % 32) a (rv x rb) (func % 2048 != 0) } })) :=
  congrArg Host.Outcome.next (issue_runs s n _ _ h)

theorem execWaitneTimeout_bound {r x : Nat} {o : Word} (h : (getCore s n).hnd.wait = .waitne r x o true) :
    exec (.waitneTimeout n) s = .next (advanceTo s n
      (wr { getCore s n with hnd := { (getCore s n).hnd with wait := .none } } r (BitVec.ofNat 32 (ldmGet (getCore s n) x 4)))) := by
  have he : exec (.waitneTimeout n) s = execWaitneTimeout n s := rfl
  rw [he]
  unfold execWaitneTimeout
  dsimp only
  rw [h]

theorem execQry_runs {rd ra imm : Nat} (h : Issues s n (encI 0x34 rd ra imm)) : exec (.qry n rd ra imm) s =
    .next (advanceTo (if imm % 8 = 6 then { s with free := s.free + 1 } else s) n
      (wr (issued s n (encI 0x34 rd ra imm)) rd (qryItem (getCore s n) (devNo s) n (imm % 8) s.free))) :=
  congrArg Host.Outcome.next (issue_runs s n _ _ h)

/-- The items that the core answers itself. -/
theorem qryItem_table (c : Core) (dev n free : Nat) : ∀ p ∈ [(0, c.st.step), (1, c.st.c), (2, c.st.released), (3, c.gen.setWidth 32),
    (4, BitVec.ofNat 32 (b1 c.hnd.rqclamp * 2 + b1 c.hnd.asat)), (5, BitVec.ofNat 32 (dev * 2 ^ 10 + n))],
    p.1 ≠ 6 ∧ qryItem c dev n p.1 free = p.2 := by
  simp only [List.forall_mem_cons]
  exact ⟨⟨by decide, rfl⟩, ⟨by decide, rfl⟩, ⟨by decide, rfl⟩, ⟨by decide, rfl⟩, ⟨by decide, rfl⟩, ⟨by decide, rfl⟩,
    fun _ h => absurd h List.not_mem_nil⟩

theorem execCstg_runs {rd ra rb func : Nat} (h : Issues s n (encR 0x33 rd ra rb func)) : exec (.cstg n rd ra rb func) s =
    (let c := getCore s n
     let a := (rv c rb).toNat
     let hd := BitVec.ofNat 128 (ldmGet c a 16)
     let len := fld hd 28 19
     let x := cstgAt s n ((rv c ra).toNat % 2 ^ 15) { header := hd, data := ngetList (0 : Byte) c.ldm (a + 16) len }
     .next (if (!inLdm a (16 + len)) = true then faultAt s n 3 a
       else advanceTo x.1 n (wr (getCore x.1 n) rd (x.2.setWidth 32)))) := congrArg Host.Outcome.next (issue_runs s n _ _ h)

theorem not_inLdm_iff (a k : Nat) : (!inLdm a k) = true ↔ 0x40000 < a + k := by
  rw [Bool.not_eq_true', Bool.eq_false_iff, ne_eq, inLdm_iff]
  omega

/-- Settles O21: each instruction is the model's own where its access is well placed. -/
theorem handlerWaitsAndQueries : Obligations.HandlerWaitsAndQueries := by
  intro s n rd ra rb func imm c a b word
  refine ⟨fun h => ?_, fun r x o h => execWaitneTimeout_bound h, fun p hp himm h => ?_, fun himm h => ?_, fun h => ?_, fun h => ?_⟩
  · intro x
    rw [execWaitne_runs h]
    have hbad : ∀ {P : Prop}, (a % 4 ≠ 0 ∨ 0x40000 < a + 4 → P) → (a % 4 ≠ 0 ∨ (!inLdm a 4) = true → P) :=
      fun f h => f (h.imp_right (not_inLdm_iff a 4).1)
    refine ⟨fun ha => congrArg _ (if_pos (ha.imp_right (not_inLdm_iff a 4).2)), fun h1 h2 hw => congrArg _ ?_,
      fun h1 h2 hw => congrArg _ ?_⟩
    · exact (if_neg (hbad fun h => by omega)).trans (if_pos hw)
    · exact (if_neg (hbad fun h => by omega)).trans (if_neg (not_not_intro hw))
  · obtain ⟨h6, hv⟩ := qryItem_table c (devNo s) n s.free p hp
    rw [execQry_runs h, himm, if_neg h6, hv]
  · refine ⟨_, _, execQry_runs h, ?_, ?_⟩
    · split <;> rfl
    · split
      · exact Nat.le_succ _
      · exact le_rfl
  · have he : exec (.modw n rd ra rb func) s = .next (advanceTo s n (issued s n (encR 0x35 rd ra rb func))
        [toHub s n 7 0 0x0A (func % 2 * 16 + fld (rv c ra) 3 0) b.toNat 3]) := congrArg Host.Outcome.next (issue_runs s n _ _ h)
    rw [he, fld_three]
  · intro hd len x
    rw [execCstg_runs h]
    refine ⟨fun hout => congrArg _ (if_pos ((not_inLdm_iff _ _).2 hout)), fun hin => congrArg _ (if_neg fun hout => ?_)⟩
    exact absurd hin (Nat.not_le.2 ((not_inLdm_iff _ _).1 hout))

end Sys2Proof.Machine
end

section
/-! SUPPORT. A context created, and what its end leaves; the obligation ContextsCreatedAndDestroyed. -/

namespace Sys2Proof.Machine

variable {s t : State}

/-! ### What the close of a shard's streams leaves -/

/-- The parts of a core that a closed stream and a freed timer leave. -/
structure SameBinding (c d : Core) : Prop where
  bound : d.bound = c.bound
  ctx : d.ctx = c.ctx
  cnt : d.cnt = c.cnt
  arrived : d.arrived = c.arrived

theorem SameBinding.refl (c : Core) : SameBinding c c := ⟨rfl, rfl, rfl, rfl⟩

theorem SameBinding.trans {c d e : Core} (h : SameBinding c d) (h' : SameBinding d e) : SameBinding c e :=
  ⟨h'.bound.trans h.bound, h'.ctx.trans h.ctx, h'.cnt.trans h.cnt, h'.arrived.trans h.arrived⟩

theorem sameBinding_dropRange (i : Nat) (c : Core) : SameBinding c (dropRange i c) := by
  refine foldl_inv (SameBinding c) _ (fun d k hd => ?_) _ c (.refl c)
  dsimp only
  split
  · exact hd.trans ⟨rfl, rfl, rfl, rfl⟩
  · exact hd

/-- `t` has the shards and the depot of `s`, and cores bound as those of `s` are. -/
structure SameShards (s t : State) : Prop where
  shards : t.shards = s.shards
  dep : t.dep = s.dep
  canonical : nwf (fun _ => ({} : Core)) s.cores = true → nwf (fun _ => ({} : Core)) t.cores = true
  cores : ∀ n, SameBinding (getCore s n) (getCore t n)

theorem SameShards.refl (s : State) : SameShards s s := ⟨rfl, rfl, id, fun _ => .refl _⟩

theorem SameShards.trans {u : State} (h : SameShards s t) (h' : SameShards t u) : SameShards s u :=
  ⟨h'.shards.trans h.shards, h'.dep.trans h.dep, h'.canonical ∘ h.canonical, fun n => (h.cores n).trans (h'.cores n)⟩

/-- A change of a core that keeps its binding. -/
theorem SameShards.modCore {n : Nat} {f : Core → Core} (hf : ∀ c, SameBinding c (f c)) : SameShards s (modCore s n f) := by
  refine ⟨rfl, rfl, fun h => nwf_nset _ _ _ _ h, fun k => ?_⟩
  rw [getCore_modCore]
  split
  · exact hf _
  · exact .refl _

theorem SameShards.foldl {α : Type} {f : State → α → State} (hf : ∀ t x, SameShards t (f t x)) (l : List α) :
    SameShards s (l.foldl f s) := foldl_inv (SameShards s) f (fun t x h => h.trans (hf t x)) l s (.refl s)

theorem sameShards_setIn (i : Nat) (x : Ingest) : SameShards s (setIn s i x) := ⟨rfl, rfl, id, fun _ => .refl _⟩

theorem sameShards_closeResult (i : Nat) : SameShards s (closeResult s i) :=
  .trans (.foldl (fun _ _ => .modCore (sameBinding_dropRange i)) _) ⟨rfl, rfl, id, fun _ => .refl _⟩

theorem sameShards_closeStreams (ctx : Nat) : SameShards s (closeStreams s ctx) := by
  refine .trans (.foldl (fun _ _ => sameShards_setIn _ _) _) (.foldl (fun t i => ?_) _)
  split
  · exact .refl _
  · exact sameShards_closeResult i

theorem sameShards_syncWatch (ns : List Nat) : SameShards s (syncWatch s ns) := by
  refine .foldl (fun t n => ?_) _
  split
  · exact .modCore fun _ => ⟨rfl, rfl, rfl, rfl⟩
  · exact .refl _

theorem sameShards_freePace (ctx : Nat) : SameShards s (freePace s ctx) := by
  unfold freePace
  split
  · exact .trans (t := setTmr s _ {}) ⟨rfl, rfl, id, fun _ => .refl _⟩ (sameShards_syncWatch _)
  · exact .refl _

theorem sameShards_freed (ctx : Nat) : SameShards s (freePace (closeStreams s ctx) ctx) :=
  (sameShards_closeStreams ctx).trans (sameShards_freePace ctx)

/-! ### CONTEXT_DESTROY (R435, R439) -/

/-- The state `u` with the regions and the key of the shard gone, and nothing but its generation left of it. -/
def unmapped (u : State) (ctx : Nat) (gen : BitVec 4) : State :=
  setShard { setRegion (setRegion u ctx false 0 0) ctx true 0 0 with
    dep := dropKey (setRegion (setRegion u ctx false 0 0) ctx true 0 0).dep ctx } ctx { gen := gen }

theorem destroyShard_eq (ctx : Nat) : destroyShard s ctx =
    unmapped (modShardCores (freePace (closeStreams s ctx) ctx) ctx fun _ c => zeroCore c) ctx (getShard s ctx).gen := rfl

theorem getShard_unmapped (ctx k : Nat) (gen : BitVec 4) :
    getShard (unmapped s ctx gen) k = if k = ctx then { gen := gen } else getShard s k := getShard_setShard ..

theorem unmapped_dep (ctx : Nat) (gen : BitVec 4) : (unmapped s ctx gen).dep = { s.dep with
    rgn := nset 0 (nset 0 s.dep.rgn (2 * ctx) 0) (2 * ctx + 1) 0, keys := nset 0 s.dep.keys ctx 0 } := rfl

theorem getCore_unmapped (ctx n : Nat) (gen : BitVec 4) : getCore (unmapped s ctx gen) n = getCore s n := rfl

theorem getShard_destroyShard (ctx k : Nat) :
    getShard (destroyShard s ctx) k = if k = ctx then { gen := (getShard s ctx).gen } else getShard s k := by
  rw [destroyShard_eq, getShard_unmapped, getShard_modShardCores]
  simp only [getShard, (sameShards_freed ctx).shards]

theorem destroyShard_dep (ctx : Nat) : (destroyShard s ctx).dep = { s.dep with
    rgn := nset 0 (nset 0 s.dep.rgn (2 * ctx) 0) (2 * ctx + 1) 0, keys := nset 0 s.dep.keys ctx 0 } := by
  rw [destroyShard_eq, unmapped_dep, modShardCores_dep, (sameShards_freed ctx).dep]

/-- A core of the shard is unbound and zero, but for its watch bit, its counters and its arrived packets. -/
theorem getCore_destroyShard {ctx n : Nat} (hw : nwf (fun _ => ({} : Core)) s.cores = true) (hn : n ∈ shardCores s ctx) :
    ∃ w, getCore (destroyShard s ctx) n = { watch := w, cnt := (getCore s n).cnt, arrived := (getCore s n).arrived } := by
  have h := sameShards_freed (s := s) ctx
  have hmem : n ∈ shardCores (freePace (closeStreams s ctx) ctx) ctx := by
    rw [mem_shardCores _ (h.canonical hw), (h.cores n).bound, (h.cores n).ctx]
    exact (mem_shardCores _ hw ctx n).1 hn
  rw [destroyShard_eq, getCore_unmapped, getCore_modShardCores _ (h.canonical hw), if_pos hmem, zeroCore, (h.cores n).cnt,
    (h.cores n).arrived]
  exact ⟨_, rfl⟩

/-! ### CONTEXT_CREATE (R178, R421, R432) -/

/-- The shard that CONTEXT_CREATE makes of a free one. -/
def createdShard (old : Shard) (m : Line) : Shard := {
  state := .stopped, paced := mw m 0 / 2 ^ 6 % 2 = 1, overrun := BitVec.ofNat 2 (mw m 0 / 2 ^ 4), w := BitVec.ofNat 4 (mw m 0)
  gen := old.gen + 1, noticeCq := BitVec.ofNat 8 (mw m 0 / 2 ^ 8), shares := sharesOf m }

theorem createContext_fits {f : Fetched} {n so : Nat} (hfree : (getShard s (mCtx f.manifest)).state = .free)
    (hn : allocRegion s false (mw f.manifest 1) = some n) (hso : allocRegion s true (mw f.manifest 2) = some so) :
    createContext s f = (let ctx := mCtx f.manifest
      let sh := createdShard (getShard s ctx) f.manifest
      let s1 := setRegion (setRegion s ctx false (mw f.manifest 1) n) ctx true (mw f.manifest 2) so
      complete (setShard { s1 with dep := rekey s1.dep ctx } ctx sh) f.handle stOk sh.gen.toNat) := by
  unfold createContext
  dsimp only
  rw [if_neg (not_not_intro hfree), hn, hso]
  rfl

theorem createContext_refused {f : Fetched} (h : (getShard s (mCtx f.manifest)).state ≠ .free ∨
    allocRegion s false (mw f.manifest 1) = none ∨ allocRegion s true (mw f.manifest 2) = none) :
    createContext s f = complete s f.handle stNoResource := by
  unfold createContext
  dsimp only
  split
  · rfl
  · rename_i hfree
    split
    · rename_i hn hso
      rw [hn, hso] at h
      exact absurd h (by simp [not_not.1 hfree])
    · rfl

/-- Settles O23: what `createContext` and `destroyShard` leave. -/
theorem contextsCreatedAndDestroyed : Obligations.ContextsCreatedAndDestroyed := by
  intro s h f m ctx old
  refine ⟨fun hr => ⟨fun n so hfree hn hso => ?_, fun hno => ?_⟩, fun hr => ?_⟩
  · have he : exec (.contextCreate h) s = .next (createContext (started s h) f) :=
      congrArg Host.Outcome.next (withCmd_mayRun s h _ f _ hr)
    refine ⟨_, _, he.trans (congrArg _ (createContext_fits hfree hn hso)), rfl, ?_, fun k hk => ?_, ?_, ?_⟩
    · rw [getShard_complete, getShard_setShard, if_pos rfl]
      rfl
    · rw [getShard_complete, getShard_setShard, if_neg hk]
      rfl
    · rw [complete_dep]
      rfl
    · rw [complete_touches]
      rfl
  · have he : exec (.contextCreate h) s = .next (createContext (started s h) f) :=
      congrArg Host.Outcome.next (withCmd_mayRun s h _ f _ hr)
    exact he.trans (congrArg _ (createContext_refused hno))
  · have he : exec (.contextDestroy h) s = .next (complete (destroyShard (started s h) ctx) h stOk) :=
      congrArg Host.Outcome.next (withCmd_mayRun s h _ f _ hr)
    refine ⟨_, _, he, rfl, findCmd_complete _ _ _ _ _, ?_, fun k hk => ?_, ?_, fun hw n hn => ?_⟩
    · rw [getShard_complete, getShard_destroyShard, if_pos rfl]
      rfl
    · rw [getShard_complete, getShard_destroyShard, if_neg hk]
      rfl
    · rw [complete_dep, destroyShard_dep]
      rfl
    · rw [getCore_complete]
      exact getCore_destroyShard (s := started s h) hw hn

end Sys2Proof.Machine
end

section
/-! SUPPORT. A context's reset: what its removal of R445 leaves, and the commands that its end completes; the obligation
ContextResets. -/

namespace Sys2Proof.Machine

variable {s t : State}

/-! ### The removal of a context's work leaves the shards (R445) -/

theorem foldl_shards {α : Type} {f : State → α → State} (hf : ∀ t x, (f t x).shards = t.shards) (l : List α) :
    (l.foldl f s).shards = s.shards := foldl_keeps State.shards f hf l s

theorem answerCmd_shards (c : Option Nat) (st : Status) (r p : Nat) : (answerCmd s c st r p).shards = s.shards := by
  unfold answerCmd
  split
  · rfl
  · exact complete_shards ..

theorem placeAllHeld_shards (ctx : Nat) : (placeAllHeld s ctx).shards = s.shards :=
  foldl_shards (fun _ _ => by exact hubSendAll_shards ..) _

theorem spoilFills_shards (m : Member) (tag : Nat) (rs : List ActionRecord) : (spoilFills s m tag rs).shards = s.shards := by
  unfold spoilFills
  split
  · rfl
  · exact foldl_shards (fun _ _ => by rfl) _

theorem setCvy_shards (m : Member) (l : List MemberConvoy) : (setCvy s m l).shards = s.shards := by cases m <;> rfl

theorem discardShare_shards (m : Member) (tag : Nat) (late : Bool) : (discardShare s m tag late).shards = s.shards := by
  unfold discardShare
  split
  · rfl
  · rename_i x _
    have hspoil : (if x.prepared ∨ x.filling then spoilFills s m tag x.records else s).shards = s.shards := by
      split
      · exact spoilFills_shards ..
      · rfl
    dsimp only
    split
    · exact (setCvy_shards ..).trans hspoil
    · exact (placeAllHeld_shards _).trans ((setCvy_shards ..).trans hspoil)

theorem endCommands_shards (ctx : Nat) : (endCommands s ctx).shards = s.shards := foldl_shards (fun _ _ => complete_shards ..) _

theorem resetConvoys_shards (ctx : Nat) : (resetConvoys s ctx).shards = s.shards := by
  refine (modShardCores_shards ..).trans ((foldl_shards (fun t n => foldl_shards (fun _ _ => discardShare_shards ..) _) _).trans
    (foldl_shards (fun t tag => ?_) _))
  split
  · rfl
  · rename_i c _
    have hans : ∀ u : State, (answerCmd (answerCmd (answerCmd u c.preCmd stContextReset 0 0) c.comCmd stContextReset 0 0) c.ownerCmd
        stContextReset 0 0).shards = u.shards := fun u => by simp only [answerCmd_shards]
    show (if _ then _ else hubSendAll _ _ : State).shards = _
    split
    · exact hans _
    · exact (hubSendAll_shards ..).trans (hans _)

theorem stopKeep_shards (ctx : Nat) : (stopKeep s ctx).shards = s.shards :=
  foldl_shards (fun _ _ => by exact foldl_shards (fun _ _ => by rfl) _) _

theorem resetStreams_shards (ctx : Nat) : (resetStreams s ctx).shards = s.shards := foldl_shards (fun _ _ => by rfl) _

theorem closeResult_shards (i : Nat) : (closeResult s i).shards = s.shards := foldl_shards (fun _ _ => by rfl) _

theorem resetResults_shards (ctx : Nat) : (resetResults s ctx).shards = s.shards := by
  refine foldl_shards (fun t i => ?_) _
  show (if _ then _ else closeResult _ _ : State).shards = _
  split
  · rfl
  · exact closeResult_shards i

theorem unreserve_shards (p : Packet) : (unreserve s p).shards = s.shards := by
  unfold unreserve
  split
  · rfl
  · split <;> rfl

theorem purge_shards (ctx : Nat) : (purge s ctx).shards = s.shards := by
  refine foldl_shards (fun t q => ?_) _
  dsimp only
  split
  · rfl
  · exact foldl_shards (fun _ _ => unreserve_shards _) _

/-- A reset changes the shard that it is of, and no other. -/
theorem resetShard_shards (ctx : Nat) (st : ShardState) : (resetShard s ctx st).shards = (modShard s ctx fun sh => { sh with
    state := st, gen := sh.gen + 1, waiters := [], stopAt := none, stopCmd := none, saving := none, restoring := none }).shards := by
  unfold resetShard
  dsimp only
  rw [resetNotices, hubSendAll_shards, purge_shards, modShardCores_shards, resetResults_shards, resetStreams_shards, stopKeep_shards,
    resetConvoys_shards, modShard, modShard, setShard, setShard, getShard, getShard, endCommands_shards]

/-! ### Commands that complete one after another -/

/-- A completion drops its command from the list of fetched ones. -/
theorem complete_fetched (h : Nat) (st : Status) (r : Nat) (ps : List (BitVec 128)) :
    (complete s h st r ps).hif.fetched = s.hif.fetched.filter fun f => f.handle != h := by
  unfold complete
  split
  · rename_i hn
    refine (List.filter_eq_self.2 fun f hf => ?_).symm
    have := List.find?_eq_none.1 hn f hf
    simpa using this
  · split
    · rfl
    · rw [answer_fetched]
      rfl

/-- A command that is gone stays gone. -/
theorem findCmd_complete_of_none {k : Nat} (hk : findCmd s k = none) (h : Nat) (st : Status) (r : Nat) (ps : List (BitVec 128)) :
    findCmd (complete s h st r ps) k = none := by
  rw [findCmd, complete_fetched, List.find?_eq_none]
  exact fun f hf => List.find?_eq_none.1 hk f (List.mem_filter.1 hf).1

theorem findCmd_foldl_complete {l : List Nat} {st : Status} {r k : Nat} (h : findCmd s k = none ∨ k ∈ l) :
    findCmd (l.foldl (fun s h => complete s h st r) s) k = none := by
  induction l generalizing s with
  | nil => exact h.resolve_right List.not_mem_nil
  | cons a l ih =>
    refine ih ?_
    rcases h with h | h
    · exact .inl (findCmd_complete_of_none h _ _ _ _)
    · rcases List.mem_cons.1 h with rfl | h
      · exact .inl (findCmd_complete ..)
      · exact .inr h

/-! ### The compute reset of a drain that takes too long -/

theorem syncWatch_touches (ns : List Nat) : syncWatch s ns = { s with cores := (syncWatch s ns).cores } := by
  refine foldl_inv (fun t => t = { s with cores := t.cores }) _ (fun t n ht => ?_) ns s rfl
  split
  · rw [ht]
    rfl
  · exact ht

theorem computeReset_emptied (cause : BitVec 11) : (computeReset s cause).convoys = [] ∧ (computeReset s cause).ingest = [] ∧
    (computeReset s cause).results = [] ∧ (computeReset s cause).fab.buf = [] := by
  unfold computeReset watchAll
  dsimp only
  rw [syncWatch_touches]
  exact ⟨rfl, rfl, rfl, rfl⟩

/-! ### CONTEXT_RESET (R444, R446) -/

theorem execContextReset_runs {h : Nat} {f : Fetched} (hr : MayRun s h 0x03 f) : exec (.contextReset h) s =
    .next (if (getShard s (mCtx f.manifest)).state = .resetting then
      modShard (begun (started s h) h) (mCtx f.manifest) fun sh => { sh with resetCmds := sh.resetCmds ++ [h] }
    else startReset (begun (started s h) h) (mCtx f.manifest) [h]) :=
  congrArg Host.Outcome.next (withCmd_mayRun s h _ f _ hr)

theorem getShard_startReset (ctx k : Nat) (cmds : List Nat) : getShard (startReset s ctx cmds) k =
    if k = ctx then { getShard s ctx with
      state := .resetting, gen := (getShard s ctx).gen + 1, waiters := [], stopAt := none, stopCmd := none, saving := none
      restoring := none, resetCmds := cmds }
    else getShard s k := by
  have hget : ∀ k, getShard (resetShard s ctx .resetting) k = getShard (modShard s ctx fun sh => { sh with
      state := .resetting, gen := sh.gen + 1, waiters := [], stopAt := none, stopCmd := none, saving := none, restoring := none }) k :=
    fun k => by rw [getShard, resetShard_shards]; rfl
  rw [startReset, getShard_modShard, hget, getShard_modShard]
  split
  · rename_i hk
    rw [hk]
  · rfl

theorem execContextResetDrainDone_runs {ctx : Nat} (h : (getShard s ctx).state = .resetting) :
    exec (.contextResetDrainDone ctx) s = .next ((getShard s ctx).resetCmds.foldl
      (fun t h => complete t h stOk (getShard s ctx).gen.toNat)
      (setShard (purge s ctx) ctx { getShard s ctx with state := .stopped, resetCmds := [] })) := if_neg (not_not_intro h)

/-- Settles O24: the removal of R445 leaves the shards, and a completed command stays gone. -/
theorem contextResets : Obligations.ContextResets := by
  intro s
  refine ⟨fun h f hr => ?_, fun ctx hres => ?_⟩
  · intro ctx sh
    refine ⟨fun hst => ⟨_, (execContextReset_runs hr).trans (congrArg _ (if_neg hst)), rfl, ?_, fun k hk => ?_⟩,
      fun hst => (execContextReset_runs hr).trans (congrArg _ (if_pos hst))⟩
    · exact (getShard_startReset ..).trans (if_pos rfl)
    · exact (getShard_startReset ..).trans (if_neg hk)
  · intro sh
    refine ⟨⟨_, execContextResetDrainDone_runs hres, rfl, ?_, fun k hk => ?_, fun h hh => findCmd_foldl_complete (.inr hh)⟩, ?_⟩
    · rw [getShard, foldl_shards (fun _ _ => complete_shards ..)]
      exact (getShard_setShard ..).trans (if_pos rfl)
    · rw [getShard, foldl_shards (fun _ _ => complete_shards ..)]
      refine (getShard_setShard ..).trans ((if_neg hk).trans ?_)
      rw [getShard, purge_shards]
      rfl
    · obtain ⟨h1, h2, h3, h4⟩ := computeReset_emptied (s := sh.resetCmds.foldl (fun s h => complete s h stUncorrectable)
        (setShard s ctx { sh with resetCmds := [] })) 0x100
      exact ⟨_, _, if_neg (not_not_intro hres), rfl, rfl, h1, h2, h3, h4⟩

end Sys2Proof.Machine
end

section
/-! SUPPORT. Step limits, STEP_RUN and STOP; the obligation ShardsRunAndStop. -/

namespace Sys2Proof.Machine

variable {s : State}

/-! ### Step limits (R39, R141, R440) -/

theorem updHalt_limit (c : Core) : (updHalt c).st.runLimit = c.st.runLimit ∧ (updHalt c).st.free = c.st.free := by
  unfold updHalt
  dsimp only
  split
  · split <;> exact ⟨rfl, rfl⟩
  · exact ⟨rfl, rfl⟩

/-- Every core of the shard takes the limit that its customs accepts, and no other. -/
theorem getCore_writeLimit {ctx n : Nat} (hw : nwf (fun _ => ({} : Core)) s.cores = true) (hn : n ∈ shardCores s ctx) (mid : Nat)
    (l : Word) (free : Bool) : getCore (writeLimit s ctx mid l free) n =
      if limitAccepted s n mid l then
        updHalt { getCore s n with st := { (getCore s n).st with runLimit := l, free := free } }
      else getCore s n := by
  rw [writeLimit, getCore_modShardCores _ hw, if_pos hn]

/-! ### STEP_RUN (R434, R440) -/

/-- The state of a STEP_RUN that has written its limit: the command waits for its cores, or completes. -/
def stepRunEnd (u : State) (h ctx : Nat) (m : Line) : State :=
  if mw m 1 / 2 % 2 = 1 then
    modShard (begun u h) ctx fun x => { x with waiters := x.waiters ++ [(h, BitVec.ofNat 32 (mw m 0))] }
  else complete u h stOk (lowStep u ctx).toNat

theorem execStepRun_runs {h : Nat} {f : Fetched} (hr : MayRun s h 0x10 f) : exec (.stepRun h) s =
    (let m := f.manifest
     let ctx := mCtx m
     let sh := getShard s ctx
     let l := BitVec.ofNat 32 (mw m 0)
     let free : Bool := mw m 1 % 2 = 1
     .next (if sh.state = .stopping then started s h
       else stepRunEnd (writeLimit (if sh.state = .stopped ∧ !f.taken then
         setShard (started s h) ctx { sh with limit := l, free := free } else started s h) ctx 0xC l free) h ctx m)) :=
  congrArg Host.Outcome.next (withCmd_mayRun s h _ f _ hr)

/-! ### STOP (R421, R441) -/

theorem execStop_runs {h : Nat} {f : Fetched} (hr : MayRun s h 0x0A f) (hrun : (getShard s (mCtx f.manifest)).state = .running) :
    exec (.stop h) s = .next (modShard (writeLimit (begun (started s h) h) (mCtx f.manifest) 2
      (highStep s (mCtx f.manifest) + 1) false) (mCtx f.manifest) fun sh =>
        { sh with state := .stopping, stopAt := some (highStep s (mCtx f.manifest) + 1), stopCmd := some h }) :=
  (congrArg Host.Outcome.next (withCmd_mayRun s h _ f _ hr)).trans (congrArg _ (if_neg (not_not_intro hrun)))

theorem execStopDone_reached {ctx : Nat} {l : Word} (hl : (getShard s ctx).stopAt = some l)
    (hst : (getShard s ctx).state = .stopping) (hall : allWaitAt s ctx l = true)
    (hbar : (shardCores s ctx).all (fun n => !barred (getCore s n) l) = true) :
    exec (.stopDone ctx) s = .next (stopShard s ctx l) := by
  have he : exec (.stopDone ctx) s = execStopDone ctx s := rfl
  rw [he]
  unfold execStopDone
  dsimp only
  rw [hl]
  exact if_pos ⟨hst, hall, hbar⟩

theorem findCmd_stopShard {ctx h : Nat} {l : Word} (hc : (getShard s ctx).stopCmd = some h) : findCmd (stopShard s ctx l) h = none := by
  unfold stopShard
  dsimp only
  rw [hc]
  exact findCmd_complete _ _ _ _ _

theorem execStepRunWaitDone_reached {h ctx : Nat} {sh : Shard} {w : Nat × Word}
    (hsh : (s.shards.find? fun q => q.2.waiters.any fun w => w.1 == h) = some (ctx, sh))
    (hw : (sh.waiters.find? fun w => w.1 == h) = some w) (hrun : sh.state = .running) (hall : allWaitAt s ctx w.2 = true) :
    exec (.stepRunWaitDone h) s =
      .next (complete (setShard s ctx { sh with waiters := sh.waiters.filter fun x => x.1 != h }) h stOk (lowStep s ctx).toNat) := by
  have he : exec (.stepRunWaitDone h) s = execStepRunWaitDone h s := rfl
  rw [he]
  unfold execStepRunWaitDone
  rw [hsh]
  dsimp only
  rw [hw]
  exact if_pos ⟨hrun, hall⟩

/-- Settles O26: STEP_RUN is `writeLimit` and `stepRunEnd`, STOP ends in `stopShard`. -/
theorem shardsRunAndStop : Obligations.ShardsRunAndStop := by
  intro s
  refine ⟨fun h f hr => ?_, fun ctx mid n l free hw hn => ?_, fun h f hr hrun => execStop_runs hr hrun,
    fun ctx l hl hst hall hbar => ⟨_, execStopDone_reached hl hst hall hbar, rfl, fun h hc => findCmd_stopShard hc⟩,
    fun h ctx sh w hsh hw hrun hall => ⟨_, execStepRunWaitDone_reached hsh hw hrun hall, findCmd_complete _ _ _ _ _, ?_,
      fun k hk => ?_⟩⟩
  · intro m ctx sh l free u v
    have he := execStepRun_runs hr
    have hnot : ∀ {a b : ShardState}, sh.state = a → a ≠ b → sh.state ≠ b := fun h hab hb => hab (h.symm.trans hb)
    refine ⟨fun hst => he.trans (congrArg _ (if_pos hst)), fun hst hw => ?_, fun hst hw => ?_, fun hst ht hw => ?_,
      fun hst ht hw => ?_⟩
    · refine he.trans (congrArg _ ((if_neg (hnot hst (by decide))).trans ?_))
      rw [if_neg fun hs => hnot hst (by decide) hs.1]
      exact if_neg fun h1 => absurd (hw.symm.trans h1) (by decide)
    · refine he.trans (congrArg _ ((if_neg (hnot hst (by decide))).trans ?_))
      rw [if_neg fun hs => hnot hst (by decide) hs.1]
      exact if_pos hw
    · refine he.trans (congrArg _ ((if_neg (hnot hst (by decide))).trans ?_))
      rw [if_pos ⟨hst, by rw [ht]; rfl⟩]
      exact if_neg fun h1 => absurd (hw.symm.trans h1) (by decide)
    · refine he.trans (congrArg _ ((if_neg (hnot hst (by decide))).trans ?_))
      rw [if_pos ⟨hst, by rw [ht]; rfl⟩]
      exact if_pos hw
  · intro c
    have hc : c = _ := getCore_writeLimit hw hn mid l free
    rw [hc]
    refine ⟨fun h => ?_, fun h => if_neg (by rw [h]; decide)⟩
    rw [if_pos h]
    exact updHalt_limit _
  · rw [getShard_complete, getShard_setShard, if_pos rfl]
  · rw [getShard_complete, getShard_setShard, if_neg hk]

end Sys2Proof.Machine
end

section
/-! SUPPORT. Streams opened and closed; the obligation StreamsOpenAndClose. -/

namespace Sys2Proof.Machine

variable {s : State}

theorem getIn_setIn_self (i : Nat) (x : Ingest) : getIn (setIn s i x) i = x := by rw [getIn_setIn, if_pos rfl]

theorem getIn_setIn_other {i k : Nat} (h : k ≠ i) (x : Ingest) : getIn (setIn s i x) k = getIn s k := by
  rw [getIn_setIn, if_neg h]

theorem getRes_setRes_self (i : Nat) (x : ResultStream) : getRes (setRes s i x) i = x := by rw [getRes_setRes, if_pos rfl]

theorem getRes_setRes_other {i k : Nat} (h : k ≠ i) (x : ResultStream) : getRes (setRes s i x) k = getRes s k := by
  rw [getRes_setRes, if_neg h]

/-! ### Ingest streams (R230, R232) -/

/-- What STREAM_OPEN does with a descriptor that names the command's stream. -/
def streamOpened (u : State) (h ctx : Nat) (f : Fetched) (d : BitVec 256) (es : List Nat) (bs : List Byte) : State :=
  match streamCheck u ctx d es with
  | some (st, reason) => complete u h st reason
  | none =>
      if (getShard u ctx).state = .stopped then complete (openStream u ctx d es none) h stOk
      else ownConvoy u f 0 fun tag =>
        [{ header := ownHeader u tag 0x11 0x3FF (iStream d) (32 + 8 * iOutn d), data := bs.take (32 + 8 * iOutn d) }]

theorem execStreamOpen_runs {h : Nat} {f : Fetched} (hr : MayRun s h 0x18 f) : exec (.streamOpen h) s =
    (let bs := linesBytes f.bales
     let d := descOfBytes bs
     let es := (wordsOfBytes bs 32 (iOutn d)).map fun w => w.toNat
     .next (if iStream d ≠ mTobj f.manifest then complete (started s h) h stBadManifest
       else streamOpened (started s h) h (mCtx f.manifest) f d es bs)) :=
  congrArg Host.Outcome.next (withCmd_mayRun s h _ f _ hr)

theorem streamOpened_refused {u : State} {h ctx : Nat} {f : Fetched} {d : BitVec 256} {es : List Nat} {bs : List Byte} {st : Status}
    {reason : Nat} (hc : streamCheck u ctx d es = some (st, reason)) :
    streamOpened u h ctx f d es bs = complete u h st reason := by
  unfold streamOpened
  rw [hc]

theorem streamOpened_passed {u : State} {h ctx : Nat} {f : Fetched} {d : BitVec 256} {es : List Nat} {bs : List Byte}
    (hc : streamCheck u ctx d es = none) : streamOpened u h ctx f d es bs =
      if (getShard u ctx).state = .stopped then complete (openStream u ctx d es none) h stOk
      else ownConvoy u f 0 fun tag =>
        [{ header := ownHeader u tag 0x11 0x3FF (iStream d) (32 + 8 * iOutn d), data := bs.take (32 + 8 * iOutn d) }] := by
  unfold streamOpened
  rw [hc]

/-- What STREAM_CLOSE does with a stream of the command's context. -/
def streamClosed (s u : State) (h i : Nat) : State :=
  match (getIn u i).state with
  | .opened => complete (setIn u i (freeStream (getIn u i))) h stOk
  | .running =>
      if (getIn u i).held.isEmpty then complete (putWork u i (release u { st := { getIn u i with state := .idle } })) h stOk
      else s
  | _ => complete u h stBadState

theorem execStreamClose_runs {h : Nat} {f : Fetched} (hr : MayRun s h 0x1A f) : exec (.streamClose h) s =
    .next (if (getIn s (mTobj f.manifest)).ctx ≠ mCtx f.manifest then complete (started s h) h stBadState
      else streamClosed s (started s h) h (mTobj f.manifest)) := by
  refine (congrArg Host.Outcome.next (withCmd_mayRun s h _ f _ hr)).trans ?_
  unfold streamClosed
  rfl

theorem streamClosed_opened {u : State} {h i : Nat} (hst : (getIn u i).state = .opened) :
    streamClosed s u h i = complete (setIn u i (freeStream (getIn u i))) h stOk := by
  unfold streamClosed
  rw [hst]

theorem streamClosed_running {u : State} {h i : Nat} (hst : (getIn u i).state = .running) : streamClosed s u h i =
    if (getIn u i).held.isEmpty then complete (putWork u i (release u { st := { getIn u i with state := .idle } })) h stOk
    else s := by
  unfold streamClosed
  rw [hst]

theorem streamClosed_other {u : State} {h i : Nat} (hst : (getIn u i).state = .closed ∨ (getIn u i).state = .idle) :
    streamClosed s u h i = complete u h stBadState := by
  unfold streamClosed
  rcases hst with hst | hst <;> rw [hst]

theorem getIn_putWork (i k : Nat) (x : InWork) : getIn (putWork s i x) k = if k = i then x.st else getIn s k := by
  rw [putWork, getIn_hubSendAll, getIn_setIn]

/-! ### Result streams (R247, R256) -/

/-- A change of the result streams alone is not seen through `getRes` of another field: cores do not hold result streams. -/
theorem addMaps_results {rs : Nat} {l : List (BitVec 64)} {t : State} (h : addMaps rs s l = some t) : t.results = s.results := by
  induction l generalizing s with
  | nil => cases h; rfl
  | cons r l ih =>
    unfold addMaps at h
    split at h
    · cases h
    · next core _ => exact ih (s := setCore s (gCore r) core) h

theorem addRanges_results {rs : Nat} {l : List (BitVec 64)} {t : State} (h : addRanges rs s l = some t) :
    t.results = s.results := by
  obtain ⟨u, hu, rfl⟩ := Option.map_eq_some_iff.1 h
  exact (foldl_keeps State.results _ (fun _ _ => by rfl) _ _).trans (addMaps_results hu)

theorem getRes_addRanges (rs k : Nat) (l : List (BitVec 64)) : getRes ((addRanges rs s l).getD s) k = getRes s k := by
  cases h : addRanges rs s l with
  | none => rfl
  | some t => rw [Option.getD_some, getRes, addRanges_results h]; rfl

/-- What RESULT_OPEN does with a descriptor and its ranges. -/
def resultOpened (u : State) (h ctx : Nat) (f : Fetched) (d : BitVec 64) (rs : List (BitVec 64)) (bs : List Byte) : State :=
  match resultCheck u ctx d rs with
  | some (st, reason) => complete u h st reason
  | none =>
      if (getShard u ctx).state = .stopped then complete (openResult u ctx d rs) h stOk
      else ownConvoy u f 0 fun tag =>
        [{ header := ownHeader u tag 0x13 0x3FF (rStream d) (8 + 8 * rNrange d), data := bs.take (8 + 8 * rNrange d) }]

theorem execResultOpen_runs {h : Nat} {f : Fetched} (hr : MayRun s h 0x1B f) : exec (.resultOpen h) s =
    (let bs := linesBytes f.bales
     let d : BitVec 64 := BitVec.ofNat 64 (ofBytes (bs.take 8))
     .next (resultOpened (started s h) h (mCtx f.manifest) f d (wordsOfBytes bs 8 (rNrange d)) bs)) := by
  refine (congrArg Host.Outcome.next (withCmd_mayRun s h _ f _ hr)).trans ?_
  unfold resultOpened
  rfl

theorem resultOpened_refused {u : State} {h ctx : Nat} {f : Fetched} {d : BitVec 64} {rs : List (BitVec 64)} {bs : List Byte}
    {st : Status} {reason : Nat} (hc : resultCheck u ctx d rs = some (st, reason)) :
    resultOpened u h ctx f d rs bs = complete u h st reason := by
  unfold resultOpened
  rw [hc]

theorem resultOpened_passed {u : State} {h ctx : Nat} {f : Fetched} {d : BitVec 64} {rs : List (BitVec 64)} {bs : List Byte}
    (hc : resultCheck u ctx d rs = none) : resultOpened u h ctx f d rs bs =
      if (getShard u ctx).state = .stopped then complete (openResult u ctx d rs) h stOk
      else ownConvoy u f 0 fun tag =>
        [{ header := ownHeader u tag 0x13 0x3FF (rStream d) (8 + 8 * rNrange d), data := bs.take (8 + 8 * rNrange d) }] := by
  unfold resultOpened
  rw [hc]

theorem getRes_openResult (ctx k : Nat) (d : BitVec 64) (rs : List (BitVec 64)) (hk : k ≠ rStream d) :
    getRes (openResult s ctx d rs) k = getRes s k := by
  rw [openResult, openEngine, getRes_setRes_other hk, getRes_addRanges]

theorem getRes_openResult_self (ctx : Nat) (d : BitVec 64) (rs : List (BitVec 64)) :
    let r := getRes (openResult s ctx d rs) (rStream d)
    r.state = .opened ∧ r.desc = d ∧ r.ranges = rs ∧ r.ctx = ctx := by
  rw [openResult, openEngine, getRes_setRes_self]
  exact ⟨rfl, rfl, rfl, rfl⟩

theorem execResultClose_runs {h : Nat} {f : Fetched} (hr : MayRun s h 0x1C f) : exec (.resultClose h) s =
    .next (if (getRes s (mTobj f.manifest)).state = .closed ∨ (getRes s (mTobj f.manifest)).ctx ≠ mCtx f.manifest then
      complete (started s h) h stBadState
    else complete (closeResult (started s h) (mTobj f.manifest)) h stOk) :=
  congrArg Host.Outcome.next (withCmd_mayRun s h _ f _ hr)

theorem getRes_closeResult (i k : Nat) : getRes (closeResult s i) k =
    if k = i then { discardResults (getRes s i) with state := .closed, ranges := [] } else getRes s k := by
  have hkeep : ∀ k, getRes (((getRes s i).ranges.map gCore).eraseDups.foldl (fun s n => modCore s n (dropRange i)) s) k = getRes s k :=
    fun k => foldl_keeps (fun t => getRes t k) _ (fun _ _ => by rfl) _ s
  rw [closeResult, closeEngine, getRes_setRes, hkeep, hkeep]

/-- Settles O27: each command is decided by its check, by the state of the context and by that of the stream. -/
theorem streamsOpenAndClose : Obligations.StreamsOpenAndClose := by
  intro s h f m ctx u bs
  refine ⟨fun hr => ?_, fun hr => ?_, fun hr => ?_, fun hr => ?_⟩
  · intro d es
    have he := execStreamOpen_runs hr
    refine ⟨fun hi => he.trans (congrArg _ (if_pos hi)), fun hi => ?_⟩
    have he1 : exec (.streamOpen h) s = .next (streamOpened u h ctx f d es bs) := he.trans (congrArg _ (if_neg (not_not_intro hi)))
    refine ⟨fun st reason hc => he1.trans (congrArg _ (streamOpened_refused hc)), fun hc hst => ?_,
      fun hc hst => he1.trans (congrArg _ ((streamOpened_passed (u := u) (h := h) (f := f) (bs := bs) hc).trans (if_neg hst)))⟩
    refine ⟨_, he1.trans (congrArg _ ((streamOpened_passed (u := u) (h := h) (f := f) (bs := bs) hc).trans (if_pos hst))), findCmd_complete _ _ _ _ _, ?_, fun k hk => ?_, ?_⟩
    · rw [getIn_complete]
      exact getIn_setIn_self ..
    · rw [getIn_complete]
      exact getIn_setIn_other hk _
    · rw [complete_touches]
      rfl
  · intro i st
    have he := execStreamClose_runs hr
    have he1 : st.ctx = ctx → exec (.streamClose h) s = .next (streamClosed s u h i) :=
      fun hctx => he.trans (congrArg _ (if_neg (not_not_intro hctx)))
    refine ⟨fun hbad => ?_, fun hctx hst => ?_, fun hctx hst hheld => ?_, fun hctx hst hheld => ?_⟩
    · by_cases hctx : st.ctx = ctx
      · exact (he1 hctx).trans (congrArg _ (streamClosed_other (hbad.resolve_left (not_not_intro hctx))))
      · exact he.trans (congrArg _ (if_pos hctx))
    · refine ⟨_, (he1 hctx).trans (congrArg _ (streamClosed_opened hst)), findCmd_complete _ _ _ _ _, ?_, fun k hk => ?_⟩
      · rw [getIn_complete]
        exact getIn_setIn_self ..
      · rw [getIn_complete]
        exact getIn_setIn_other hk _
    · refine ⟨_, (he1 hctx).trans (congrArg _ ((streamClosed_running (s := s) (u := u) (h := h) hst).trans (if_pos (List.isEmpty_iff.2 hheld)))),
        findCmd_complete _ _ _ _ _, ?_, fun k hk => ?_⟩
      · rw [getIn_complete]
        exact (getIn_putWork ..).trans (if_pos rfl)
      · rw [getIn_complete]
        exact (getIn_putWork ..).trans (if_neg hk)
    · exact (he1 hctx).trans (congrArg _ ((streamClosed_running (s := s) (u := u) (h := h) hst).trans (if_neg fun h => hheld (List.isEmpty_iff.1 h))))
  · intro d rs
    have he := execResultOpen_runs hr
    refine ⟨fun st reason hc => he.trans (congrArg _ (resultOpened_refused hc)), fun hc hst => ?_,
      fun hc hst => he.trans (congrArg _ ((resultOpened_passed hc).trans (if_neg hst)))⟩
    obtain ⟨h1, h2, h3, h4⟩ := getRes_openResult_self (s := u) ctx d rs
    refine ⟨_, he.trans (congrArg _ ((resultOpened_passed hc).trans (if_pos hst))), findCmd_complete _ _ _ _ _, ?_⟩
    simp only [getRes_complete]
    exact ⟨h1, h2, h3, h4, fun k hk => getRes_openResult _ _ _ _ hk⟩
  · intro i st
    have he := execResultClose_runs hr
    refine ⟨fun hbad => he.trans (congrArg _ (if_pos hbad)), fun hopen hctx => ?_⟩
    refine ⟨_, he.trans (congrArg _ (if_neg fun h => h.elim hopen fun h => h hctx)), findCmd_complete _ _ _ _ _, ?_, fun k hk => ?_⟩
    · rw [getRes_complete, getRes_closeResult, if_pos rfl]
      rfl
    · rw [getRes_complete, getRes_closeResult, if_neg hk]
      rfl

end Sys2Proof.Machine
end

section
/-! SUPPORT. Rows and windows of the ingest streams; the obligation RowsAreTakenAndWindowsComplete. -/

namespace Sys2Proof.Machine

variable {s : State}

/-! ### Rows (R235, R236) -/

/-- What STREAM_PUSH does for a stream and the rows that its bales hold. -/
def pushed (s u : State) (h i : Nat) (may : Bool) (rows : Option (List Row)) : State :=
  if !may then complete u h stBadState
  else match rows with
    | none => complete u h stBadLength
    | some rs =>
        if (getIn s i).state = .opened then
          let x := rs.foldl countRow { st := { getIn s i with held := (getIn s i).held ++ rs } }
          pushDone (setIn u i x.st) h x.acc 0
        else
          let x := rs.foldl (takeRow u) { st := getIn s i }
          pushDone (putWork u i x) h x.acc x.late

/-- What STREAM_PUSH starts from: the captures that a push of the stream causes (R486). -/
def pushStart (s : State) (h i : Nat) : State := captureWhere (started s h) fun t => t.src = 3 ∧ t.index.toNat = i

theorem execStreamPush_runs {h : Nat} {f : Fetched} (hr : MayRun s h 0x19 f) : exec (.streamPush h) s =
    .next (pushed s (pushStart s h (mTobj f.manifest)) h (mTobj f.manifest)
      ((getIn s (mTobj f.manifest)).ctx == mCtx f.manifest && (getIn s (mTobj f.manifest)).closeAt.isNone &&
        ((getIn s (mTobj f.manifest)).state == .opened || (getIn s (mTobj f.manifest)).state == .running))
      (parsePush (getIn s (mTobj f.manifest)).desc (getTmr s (iTimer (getIn s (mTobj f.manifest)).desc)).tb (linesBytes f.bales))) := by
  refine (congrArg Host.Outcome.next (withCmd_mayRun s h _ f _ hr)).trans ?_
  unfold pushed pushStart
  rfl

theorem pushed_refused {u : State} {h i : Nat} {rows : Option (List Row)} : pushed s u h i false rows = complete u h stBadState := rfl

theorem pushed_short {u : State} {h i : Nat} : pushed s u h i true none = complete u h stBadLength := rfl

theorem pushed_some {u : State} {h i : Nat} {rs : List Row} : pushed s u h i true (some rs) =
    if (getIn s i).state = .opened then
      let x := rs.foldl countRow { st := { getIn s i with held := (getIn s i).held ++ rs } }
      pushDone (setIn u i x.st) h x.acc 0
    else
      let x := rs.foldl (takeRow u) { st := getIn s i }
      pushDone (putWork u i x) h x.acc x.late := rfl

/-- Counting rows leaves the rows that the stream holds. -/
theorem countRow_held (x : InWork) (r : Row) : (countRow x r).st.held = x.st.held := by
  unfold countRow
  split <;> rfl

theorem countRow_acc (x : InWork) (r : Row) : (countRow x r).acc = x.acc + if r.samples ≠ [] then 1 else 0 := by
  unfold countRow
  split
  · next h => exact (if_neg (not_not_intro h)).symm ▸ rfl
  · rfl

/-- A row counts when it carries samples. -/
theorem foldl_countRow_acc (rs : List Row) (x : InWork) :
    (rs.foldl countRow x).acc = x.acc + (rs.filter fun r => r.samples ≠ []).length := by
  induction rs generalizing x with
  | nil => rfl
  | cons r rs ih =>
    rw [List.foldl_cons, ih, countRow_acc, List.filter_cons]
    by_cases h : r.samples = []
    · simp [h]
    · simp [h]
      omega

theorem getIn_captureWhere (p : Timer → Bool) (i : Nat) : getIn (captureWhere s p) i = getIn s i := by
  rw [captureWhere_touches]
  rfl

theorem findCmd_pushDone (h acc late : Nat) : findCmd (pushDone s h acc late) h = none := findCmd_complete ..

theorem getIn_pushDone (h acc late i : Nat) : getIn (pushDone s h acc late) i = getIn s i := getIn_complete ..

/-! ### Notices of steps (R244) -/

/-- What STEP_NOTICE starts from: the packet taken, and the captures that a step of an own core causes (R486). -/
def noticeStart (s : State) (pkt : Packet) : State :=
  if srcDev pkt = devNo s then captureWhere (hubDone s pkt) fun t => t.src = 2 ∧ t.index.toNat = srcCore pkt else hubDone s pkt

theorem noticeStart_touches (pkt : Packet) :
    noticeStart s pkt = { s with fab := (noticeStart s pkt).fab, tmr := (noticeStart s pkt).tmr } := by
  unfold noticeStart
  split
  · rw [captureWhere_touches]
    rfl
  · rfl

/-- A stream after a notice from the core of a packet. -/
def noticed (st : Ingest) (pkt : Packet) : Ingest :=
  { st with notices := nset st.startF st.notices (srcDev pkt * 1024 + srcCore pkt) (BitVec.ofNat 32 (payload pkt)) }

theorem hearsNotice_noticeStart (pkt : Packet) (st : Ingest) : hearsNotice (noticeStart s pkt) st pkt = hearsNotice s st pkt := by
  rw [noticeStart_touches]
  rfl

theorem ingest_noticeStart (pkt : Packet) : (noticeStart s pkt).ingest = s.ingest := by rw [noticeStart_touches]

theorem getIn_noticeStart (pkt : Packet) (i : Nat) : getIn (noticeStart s pkt) i = getIn s i := by
  rw [noticeStart_touches]
  rfl

theorem execStepNotice_runs (pkt : Packet) : exec (.stepNotice pkt) s =
    .next ((s.ingest.filter fun q => hearsNotice s q.2 pkt).foldl
      (fun s q => putWork s q.1 (release s { st := noticed (getIn s q.1) pkt })) (noticeStart s pkt)) := by
  have he : exec (.stepNotice pkt) s = .next (((noticeStart s pkt).ingest.filter fun q =>
      hearsNotice (noticeStart s pkt) q.2 pkt).foldl
      (fun s q => putWork s q.1 (release s { st := noticed (getIn s q.1) pkt })) (noticeStart s pkt)) := rfl
  simp only [he, ingest_noticeStart, hearsNotice_noticeStart]

/-! ### The grace time (R246) -/

theorem execIngestGraceExpire_runs {i : Nat} {k : Word} (hmay : ((getIn s i).state == .running && iGrace (getIn s i).desc != 0 ||
      (getIn s i).state == .idle && (getShard s (getIn s i).ctx).paced) = true) (hk : graceWindow s (getIn s i) = some k) :
    exec (.ingestGraceExpire i) s = .next (putWork s i (completeTo s { st := getIn s i } k)) := by
  have he : exec (.ingestGraceExpire i) s = execIngestGraceExpire i s := rfl
  rw [he]
  unfold execIngestGraceExpire
  dsimp only
  rw [if_pos hmay, hk]

theorem execIngestGraceExpire_nothing {i : Nat} (h : ((getIn s i).state == .running && iGrace (getIn s i).desc != 0 ||
      (getIn s i).state == .idle && (getShard s (getIn s i).ctx).paced) = false ∨ graceWindow s (getIn s i) = none) :
    exec (.ingestGraceExpire i) s = .next s := by
  have he : exec (.ingestGraceExpire i) s = execIngestGraceExpire i s := rfl
  rw [he]
  unfold execIngestGraceExpire
  dsimp only
  split
  · next hmay => rw [h.resolve_left (by simp [hmay])]
  · rfl

theorem putWork_touches (i : Nat) (x : InWork) :
    putWork s i x = { s with ingest := (putWork s i x).ingest, fab := (putWork s i x).fab } := by
  unfold putWork
  rw [hubSendAll_touches]
  rfl

/-- Settles O28: what a push does follows its stream's state; a notice and the grace time change the streams they name. -/
theorem rowsAreTakenAndWindowsComplete : Obligations.RowsAreTakenAndWindowsComplete := by
  intro s
  refine ⟨fun h f hr => ?_, fun pkt => ?_, fun i => ?_⟩
  · intro i st u rows may
    have he : exec (.streamPush h) s = .next (pushed s u h i may rows) := execStreamPush_runs hr
    have hu (k : Nat) : getIn u k = getIn s k := getIn_captureWhere ..
    refine ⟨fun hm => by rw [he, hm, pushed_refused], fun hm hn => by rw [he, hm, hn, pushed_short],
      fun rs hm hs hst => ?_, fun rs hm hs hst => ?_⟩
    · intro x
      rw [hm, hs, pushed_some, if_pos hst] at he
      refine ⟨_, he, findCmd_pushDone .., rfl, ?_, ?_, ?_, fun k hk => ?_⟩
      · rw [getIn_pushDone]
        exact getIn_setIn_self ..
      · exact foldl_keeps (fun x : InWork => x.st.held) _ countRow_held rs { st := { st with held := st.held ++ rs } }
      · exact (foldl_countRow_acc rs _).trans (Nat.zero_add _)
      · rw [getIn_pushDone]
        exact (getIn_setIn_other hk _).trans (hu k)
    · intro x
      rw [hm, hs, pushed_some, if_neg (fun h => by have := hst.symm.trans h; cases this)] at he
      refine ⟨_, he, findCmd_pushDone .., rfl, ?_, fun k hk => ?_⟩
      · rw [getIn_pushDone]
        exact (getIn_putWork ..).trans (if_pos rfl)
      · rw [getIn_pushDone]
        exact ((getIn_putWork ..).trans (if_neg hk)).trans (hu k)
  · intro s2
    have he := execStepNotice_runs (s := s) pkt
    refine ⟨he, fun hnone => ?_, fun i hi => ⟨_, by rw [he, hi], ?_, fun k hk => ?_⟩⟩
    · rw [he, List.filter_eq_nil_iff.2 fun q hq hh => by simpa [hh] using (List.any_eq_false.1 hnone) q hq]
      rfl
    · refine (getIn_putWork ..).trans ((if_pos rfl).trans ?_)
      rw [getIn_noticeStart]
      rfl
    · exact ((getIn_putWork ..).trans (if_neg hk)).trans (getIn_noticeStart ..)
  · intro st may
    refine ⟨fun k hm hk => ⟨_, execIngestGraceExpire_runs hm hk, (getIn_putWork ..).trans (if_pos rfl),
      fun j hj => (getIn_putWork ..).trans (if_neg hj), putWork_touches ..⟩, execIngestGraceExpire_nothing⟩

end Sys2Proof.Machine
end

section
/-! SUPPORT. Result streams: gathering, marks and delivery; the obligation ResultsAreGatheredAndMarked. -/

namespace Sys2Proof.Machine

variable {s : State}

/-! ### The result streams of a context -/

theorem mem_resultsIn (hw : nwf (fun _ => ({} : ResultStream)) s.results = true) {p : ResultStream → Bool} (hp : p {} = false)
    (ctx i : Nat) : i ∈ resultsIn s ctx p ↔ (getRes s i).ctx = ctx ∧ p (getRes s i) = true := by
  simp only [resultsIn, List.mem_map, List.mem_filter, Bool.and_eq_true, beq_iff_eq]
  constructor
  · rintro ⟨q, ⟨hq, h1, h2⟩, rfl⟩
    rw [getRes, nget_of_mem _ _ hw q hq]
    exact ⟨h1, h2⟩
  · rintro ⟨h1, h2⟩
    rcases nget_mem ({} : ResultStream) s.results i with hi | hi
    · rw [getRes, hi, hp] at h2
      cases h2
    · exact ⟨_, ⟨hi, h1, h2⟩, rfl⟩

theorem nodup_resultsIn (hw : nwf (fun _ => ({} : ResultStream)) s.results = true) (ctx : Nat) (p : ResultStream → Bool) :
    (resultsIn s ctx p).Nodup := (nodup_keys _ _ hw).sublist (List.filter_sublist.map _)

/-- A step that changes one stream, taken once for each stream of a list. -/
theorem getRes_foldl {g : State → Nat → State} {m : ResultStream → ResultStream}
    (hg : ∀ s i k, getRes (g s i) k = if k = i then m (getRes s i) else getRes s k) {l : List Nat} (hl : l.Nodup) (k : Nat) :
    getRes (l.foldl g s) k = if k ∈ l then m (getRes s k) else getRes s k := by
  induction l generalizing s with
  | nil => rfl
  | cons i l ih =>
    obtain ⟨hi, hl⟩ := List.nodup_cons.1 hl
    rw [List.foldl_cons, ih hl, hg]
    by_cases hk : k = i
    · subst hk
      simp [hi]
    · simp [hk]

/-- The streams of a context that run, each changed once. -/
theorem getRes_foldl_running (hw : nwf (fun _ => ({} : ResultStream)) s.results = true) {u : State} (hu : u.results = s.results)
    {g : State → Nat → State} {m : ResultStream → ResultStream}
    (hg : ∀ s i k, getRes (g s i) k = if k = i then m (getRes s i) else getRes s k) (ctx k : Nat) :
    getRes ((resultsIn u ctx fun st => st.state == .running).foldl g u) k =
      if (getRes s k).ctx = ctx ∧ (getRes s k).state = .running then m (getRes s k) else getRes s k := by
  have hk (k : Nat) : getRes u k = getRes s k := congrArg (nget ({} : ResultStream) · k) hu
  have hwu : nwf (fun _ => ({} : ResultStream)) u.results = true := by rw [hu]; exact hw
  rw [getRes_foldl hg (nodup_resultsIn hwu ..), hk]
  simp only [mem_resultsIn hwu (p := fun st => st.state == .running) rfl, hk, beq_iff_eq]

/-! ### Packets, late steps and losses (R251, R254, R255) -/

/-- The range of a stream that a packet's header names. -/
def rangeOf (st : ResultStream) (f : BitVec 256) : Option Nat :=
  (List.range st.ranges.length).find? fun k =>
    gCore (st.ranges.getD k 0) == fld f 41 32 && gSbase (st.ranges.getD k 0) == fld f 54 42 && gSlots (st.ranges.getD k 0) == fld f 64 55 + 1

/-- What READOUT_PACKET does with the range that it finds. -/
def gathered (s : State) (pkt : Packet) (here : Option Nat) : State :=
  let f : BitVec 256 := pkt.flits.headD 0
  let i := fld f 70 65
  let st := getRes s i
  let w : Word := BitVec.ofNat 32 (fld f 31 0)
  let n := fld f 64 55 + 1
  let piece := fld f 75 71
  match here with
  | none => hubDone s pkt
  | some k =>
      if st.state = .running ∧ st.ctx = pctx pkt ∧ ofShard s pkt = true ∧ stepLe st.first w = true ∧ stepLt st.lastDec w = true then
        setRes (hubDone s pkt) i { st with
          parts := (st.parts.filter fun p => !(p.1 == w && p.2.1 == 32 * k + piece)) ++
            [(w, 32 * k + piece, pktValues pkt (min 60 (n - 60 * piece)))] }
      else hubDone s pkt

theorem execReadoutPacket_runs (pkt : Packet) : exec (.readoutPacket pkt) s =
    .next (gathered s pkt (rangeOf (getRes s (fld (pkt.flits.headD 0 : BitVec 256) 70 65)) (pkt.flits.headD 0))) := by
  have he : exec (.readoutPacket pkt) s = execReadoutPacket pkt s := rfl
  rw [he]
  unfold execReadoutPacket gathered
  dsimp only
  change (match rangeOf (getRes s (fld (pkt.flits.headD 0 : BitVec 256) 70 65)) (pkt.flits.headD 0) with | none => _ | some k => _) = _
  cases rangeOf (getRes s (fld (pkt.flits.headD 0 : BitVec 256) 70 65)) (pkt.flits.headD 0) with
  | none => rfl
  | some k => exact (apply_ite Host.Outcome.next _ _ _).symm

/-- A stream after the notice that a step is late. -/
def lateMark (step : Word) (st : ResultStream) : ResultStream :=
  if stepLt st.lastDec (windowOfStep st step) = true ∧ (!st.lateWin.contains (windowOfStep st step)) = true then
    { st with lateWin := st.lateWin ++ [windowOfStep st step] } else st

/-- What a late step does to one stream of the state. -/
def lateOne (step : Word) (s : State) (i : Nat) : State :=
  if stepLt (getRes s i).lastDec (windowOfStep (getRes s i) step) = true ∧
      (!(getRes s i).lateWin.contains (windowOfStep (getRes s i) step)) = true then
    setRes s i { getRes s i with lateWin := (getRes s i).lateWin ++ [windowOfStep (getRes s i) step] }
  else s

theorem getRes_lateOne (step : Word) (s : State) (i k : Nat) :
    getRes (lateOne step s i) k = if k = i then lateMark step (getRes s i) else getRes s k := by
  unfold lateOne lateMark
  split
  · exact getRes_setRes ..
  · split
    · next h => rw [h]
    · rfl

theorem execLateNotice_ofShard {pkt : Packet} (h : ofShard s pkt = true) : exec (.lateNotice pkt) s =
    .next ((resultsIn (hubDone s pkt) (pctx pkt) fun st => st.state == .running).foldl
      (lateOne (BitVec.ofNat 32 (payload pkt))) (hubDone s pkt)) := by
  have he : exec (.lateNotice pkt) s = execLateNotice pkt s := rfl
  rw [he]
  exact if_pos h

theorem execLateNotice_other {pkt : Packet} (h : ofShard s pkt = false) : exec (.lateNotice pkt) s = .next (hubDone s pkt) := by
  have he : exec (.lateNotice pkt) s = execLateNotice pkt s := rfl
  rw [he]
  exact if_neg (by rw [show ofShard (hubDone s pkt) pkt = ofShard s pkt from rfl, h]; decide)

/-- A stream after the loss of an event at a step: its window is marked where its record stands (R255). -/
def lossMark (step : Word) (st : ResultStream) : ResultStream :=
  if stepLt (windowOfStep st step) st.first = true then st
  else if stepLt st.lastDec (windowOfStep st step) = true then
    if st.lossWin.contains (windowOfStep st step) then st else { st with lossWin := st.lossWin ++ [windowOfStep st step] }
  else if (st.held.any fun r => r.window == windowOfStep st step) = true then
    { st with held := st.held.map fun r => if r.window = windowOfStep st step then { r with loss := true } else r }
  else if (st.again.any fun r => r.2.window == windowOfStep st step) = true then
    { st with
      again := st.again.map fun r => if r.2.window = windowOfStep st step then (r.1, { r.2 with loss := true }) else r
      loss := if st.again.any fun r => r.2.window == windowOfStep st step && !r.2.loss then satAdd st.loss 1 else st.loss }
  else { st with lossNext := true }

/-- What a loss does to one stream of the state. -/
def lossOne (step : Word) (s : State) (i : Nat) : State :=
  let st := getRes s i
  let w := windowOfStep st step
  if stepLt w st.first then s
  else if stepLt st.lastDec w then
    setRes s i (if st.lossWin.contains w then st else { st with lossWin := st.lossWin ++ [w] })
  else if st.held.any fun r => r.window == w then
    setRes s i { st with held := st.held.map fun r => if r.window = w then { r with loss := true } else r }
  else if st.again.any fun r => r.2.window == w then
    setRes s i { st with
      again := st.again.map fun r => if r.2.window = w then (r.1, { r.2 with loss := true }) else r
      loss := if st.again.any fun r => r.2.window == w && !r.2.loss then satAdd st.loss 1 else st.loss }
  else setRes s i { st with lossNext := true }

theorem getRes_lossOne (step : Word) (s : State) (i k : Nat) :
    getRes (lossOne step s i) k = if k = i then lossMark step (getRes s i) else getRes s k := by
  unfold lossOne lossMark
  dsimp only
  split
  · split
    · next h => rw [h]
    · rfl
  all_goals repeat' split
  all_goals simp_all [getRes_setRes]

theorem execResultLossMark_runs (ctx : Nat) (step : Word) : exec (.resultLossMark ctx step) s =
    .next ((resultsIn s ctx fun st => st.state == .running).foldl (lossOne step) s) := rfl

theorem lossMark_before {step : Word} {st : ResultStream} (h : stepLt (windowOfStep st step) st.first = true) :
    lossMark step st = st := if_pos h

theorem lossMark_later {step : Word} {st : ResultStream} (h : stepLt (windowOfStep st step) st.first = false)
    (h1 : stepLt st.lastDec (windowOfStep st step) = true) : lossMark step st =
      if st.lossWin.contains (windowOfStep st step) then st else { st with lossWin := st.lossWin ++ [windowOfStep st step] } := by
  rw [lossMark, if_neg (ne_true_of_eq_false h), if_pos h1]

theorem lossMark_held {step : Word} {st : ResultStream} (h : stepLt (windowOfStep st step) st.first = false)
    (h1 : stepLt st.lastDec (windowOfStep st step) = false)
    (h2 : (st.held.any fun r => r.window == windowOfStep st step) = true) : lossMark step st =
      { st with held := st.held.map fun r => if r.window = windowOfStep st step then { r with loss := true } else r } := by
  rw [lossMark, if_neg (ne_true_of_eq_false h), if_neg (ne_true_of_eq_false h1), if_pos h2]

theorem lossMark_again {step : Word} {st : ResultStream} (h : stepLt (windowOfStep st step) st.first = false)
    (h1 : stepLt st.lastDec (windowOfStep st step) = false)
    (h2 : (st.held.any fun r => r.window == windowOfStep st step) = false)
    (h3 : (st.again.any fun r => r.2.window == windowOfStep st step) = true) : (lossMark step st).again =
      st.again.map fun r => if r.2.window = windowOfStep st step then (r.1, { r.2 with loss := true }) else r := by
  rw [lossMark, if_neg (ne_true_of_eq_false h), if_neg (ne_true_of_eq_false h1), if_neg (ne_true_of_eq_false h2), if_pos h3]

theorem lossMark_next {step : Word} {st : ResultStream} (h : stepLt (windowOfStep st step) st.first = false)
    (h1 : stepLt st.lastDec (windowOfStep st step) = false)
    (h2 : (st.held.any fun r => r.window == windowOfStep st step) = false)
    (h3 : (st.again.any fun r => r.2.window == windowOfStep st step) = false) : lossMark step st = { st with lossNext := true } := by
  rw [lossMark, if_neg (ne_true_of_eq_false h), if_neg (ne_true_of_eq_false h1), if_neg (ne_true_of_eq_false h2),
    if_neg (ne_true_of_eq_false h3)]

/-! ### Delivery (R255, R256) -/

/-- What delivery never changes of a stream: its parts, its windows and its clamp count. -/
def Decoding (st : ResultStream) := (st.parts, st.rclamp, st.lateWin, st.lossWin, st.lastDec)

theorem markLoss_keeps {st : ResultStream} {r : Record} : Decoding (markLoss st r).1 = Decoding st := by
  unfold markLoss
  split <;> rfl

theorem getRes_deliverOne_other {i k us : Nat} (hk : k ≠ i) : getRes (deliverOne s i us) k = getRes s k := by
  unfold deliverOne
  dsimp only
  split
  · rfl
  · split
    · split
      · rw [getRes_cqWrite]
        exact getRes_setRes_other hk _
      · rfl
    · split
      · rw [getRes_hubSendAll]
        exact getRes_setRes_other hk _
      · rfl

theorem decoding_deliverOne (i us : Nat) : Decoding (getRes (deliverOne s i us) i) = Decoding (getRes s i) := by
  unfold deliverOne
  dsimp only
  split
  · rfl
  · split
    · split
      · rw [getRes_cqWrite, getRes_setRes_self]
        exact markLoss_keeps
      · rfl
    · split
      · rw [getRes_hubSendAll, getRes_setRes_self]
        exact markLoss_keeps
      · rfl

theorem getRes_deliverHeld_other {i k : Nat} (hk : k ≠ i) (n us : Nat) : getRes (deliverHeld n s i us) k = getRes s k := by
  induction n generalizing s with
  | zero => rfl
  | succ n ih => exact ih.trans (getRes_deliverOne_other hk)

theorem decoding_deliverHeld (n i us : Nat) : Decoding (getRes (deliverHeld n s i us) i) = Decoding (getRes s i) := by
  induction n generalizing s with
  | zero => rfl
  | succ n ih => exact ih.trans (decoding_deliverOne ..)

/-- Nothing is delivered to a completion ring that is off. -/
theorem deliverOne_off {i us : Nat} (hd : rDest (getRes s i).desc = 0) (hc : (getCq s (rCq (getRes s i).desc)).en = false) :
    deliverOne s i us = s := by
  unfold deliverOne
  dsimp only
  split
  · rfl
  · rw [if_pos hd, if_neg (by simp [hc])]

theorem deliverHeld_of_fixed {i us : Nat} (h : deliverOne s i us = s) (n : Nat) : deliverHeld n s i us = s := by
  induction n with
  | zero => rfl
  | succ n ih => rw [deliverHeld, h, ih]

theorem deliverOne_nil {i us : Nat} (h : (getRes s i).held = []) : deliverOne s i us = s := by
  unfold deliverOne
  dsimp only
  rw [h]

theorem retryOne_nil {i : Nat} (h : (getRes s i).again = []) : retryOne s i = s := by
  unfold retryOne
  dsimp only
  rw [h]

theorem retryAll_of_fixed {i : Nat} (h : retryOne s i = s) (n : Nat) : retryAll n s i = s := by
  induction n with
  | zero => rfl
  | succ n ih => rw [retryAll, h, ih]

theorem retryOne_fits {i t : Nat} {r : Record} {rest : List (Nat × Record)} (h : (getRes s i).again = (t, r) :: rest)
    (hf : partsFit s (getRes s i).desc r = true) : retryOne s i =
      hubSendAll (setRes s i (noteSent { getRes s i with again := rest } t r)) (recMsgs s i { getRes s i with dropped := false } r) := by
  unfold retryOne
  dsimp only
  rw [h]
  exact if_pos hf

theorem decoding_holdRecord (st : ResultStream) (r : Record) : Decoding (holdRecord st r) = Decoding st := by
  unfold holdRecord
  split <;> rfl

theorem holdRecord_room {st : ResultStream} {r : Record} (h : st.held.length + st.again.length < 16) :
    holdRecord st r = { st with held := st.held ++ [r] } := if_neg (by omega)

/-- A stream whose window is decoded. -/
def decoded (st : ResultStream) (w : Word) (k : Nat) : ResultStream :=
  { st with
    parts := st.parts.filter fun p => p.1 != w
    lateWin := st.lateWin.filter (· != w), lossWin := st.lossWin.filter (· != w)
    lastDec := if stepLt st.lastDec w then w else st.lastDec, rclamp := satAdd st.rclamp k }

/-- The record of a window, and the values that were clamped for it. -/
def recordOf (st : ResultStream) (w : Word) (xs : List (Nat × Nat × Int)) : Record × Nat :=
  buildRecord st.desc w xs (st.lossWin.contains w) (st.lateWin.contains w)

theorem execReadoutHoldExpire_nothing {i w us : Nat} (h : windowVector (getRes s i) (BitVec.ofNat 32 w) = none) :
    exec (.readoutHoldExpire i w us) s = .next s := by
  have he : exec (.readoutHoldExpire i w us) s = execReadoutHoldExpire i w us s := rfl
  rw [he]
  unfold execReadoutHoldExpire
  dsimp only
  rw [h]
  split
  · next heq => cases heq
  · rfl

theorem execReadoutHoldExpire_runs {i w us : Nat} {xs : List (Nat × Nat × Int)} (hs : (getRes s i).state = .running)
    (hv : windowVector (getRes s i) (BitVec.ofNat 32 w) = some xs) (hr : (getRes s i).ranges ≠ []) :
    exec (.readoutHoldExpire i w us) s = .next (deliverHeld 17 (setRes s i
      (holdRecord (decoded (getRes s i) (BitVec.ofNat 32 w) (recordOf (getRes s i) (BitVec.ofNat 32 w) xs).2)
        (recordOf (getRes s i) (BitVec.ofNat 32 w) xs).1)) i us) := by
  have he : exec (.readoutHoldExpire i w us) s = execReadoutHoldExpire i w us s := rfl
  rw [he]
  unfold execReadoutHoldExpire
  dsimp only
  rw [hv, hs]
  dsimp only
  rw [if_neg hr]
  unfold recordOf decoded
  obtain ⟨r, k⟩ := buildRecord (getRes s i).desc (BitVec.ofNat 32 w) xs ((getRes s i).lossWin.contains (BitVec.ofNat 32 w))
    ((getRes s i).lateWin.contains (BitVec.ofNat 32 w))
  dsimp only
  rw [hs]

theorem execReadoutPeerRetry_runs {i : Nat} (hd : rDest (getRes s i).desc = 1) (h : (getRes s i).again ≠ [] ∨ (getRes s i).held ≠ []) :
    exec (.readoutPeerRetry i) s = .next (deliverHeld 16 (retryAll 16 { s with free := s.free + 1 } i) i (freeLatency s)) :=
  if_pos ⟨hd, by simpa using h⟩

/-- Settles O29: each stream of the context is marked once, and a decoded window leaves only its record. -/
theorem resultsAreGatheredAndMarked : Obligations.ResultsAreGatheredAndMarked := by
  intro s
  refine ⟨fun pkt => ?_, fun pkt => ?_, fun ctx step hw => ?_, fun i w us xs => ?_, fun i hd => ?_⟩
  · intro f i st w n piece here wanted
    have he : exec (.readoutPacket pkt) s = .next (gathered s pkt here) := execReadoutPacket_runs pkt
    refine ⟨fun hno => ?_, fun k hk hwant => ?_⟩
    · rw [he]
      cases hh : here with
      | none => rfl
      | some k => exact congrArg _ (if_neg (hno.resolve_left (by simp [hh])))
    · rw [he, hk]
      exact congrArg _ (if_pos hwant)
  · refine ⟨execLateNotice_other, fun ho hw => ⟨_, execLateNotice_ofShard ho, ?_, fun i => ?_⟩⟩
    · refine foldl_inv (fun t : State => t = { hubDone s pkt with results := t.results }) _ (fun t i ht => ?_) _ _ rfl
      unfold lateOne
      split
      · rw [ht]
        rfl
      · exact ht
    · intro st w
      rw [getRes_foldl_running hw (u := hubDone s pkt) rfl (getRes_lateOne _)]
      change (if st.ctx = pctx pkt ∧ st.state = .running then lateMark _ st else st) = _
      by_cases hrun : st.ctx = pctx pkt ∧ st.state = .running
      · rw [if_pos hrun, lateMark]
        refine if_congr ⟨fun h => ⟨hrun.1, hrun.2, h.1, by simpa using h.2⟩, fun h => ⟨h.2.2.1, by simpa using h.2.2.2⟩⟩ rfl rfl
      · rw [if_neg hrun, if_neg fun h => hrun ⟨h.1, h.2.1⟩]
  · refine ⟨_, execResultLossMark_runs ctx step, ?_, fun i => ?_⟩
    · refine foldl_inv (fun t : State => t = { s with results := t.results }) _ (fun t i ht => ?_) _ _ rfl
      unfold lossOne
      dsimp only
      split
      · exact ht
      repeat' split
      all_goals
        rw [ht]
        rfl
    · intro st w
      rw [getRes_foldl_running hw rfl (getRes_lossOne _)]
      change (_ → (if st.ctx = ctx ∧ st.state = .running then lossMark step st else st) = _) ∧ _
      by_cases hrun : st.ctx = ctx ∧ st.state = .running
      · rw [if_pos hrun]
        exact ⟨fun h => lossMark_before (h.resolve_left (not_not_intro hrun)), fun _ _ h => ⟨lossMark_later h, lossMark_held h,
          lossMark_again h, lossMark_next h⟩⟩
      · rw [if_neg hrun]
        exact ⟨fun _ => rfl, fun h1 h2 => (hrun ⟨h1, h2⟩).elim⟩
  · intro st wd
    change let rec1 := recordOf st wd xs; _
    intro rec1
    refine ⟨execReadoutHoldExpire_nothing, fun hs hv hr => ⟨_, execReadoutHoldExpire_runs hs hv hr, fun k hk => ?_, ?_⟩⟩
    · exact (getRes_deliverHeld_other hk ..).trans (getRes_setRes_other hk _)
    · have hdec : Decoding (getRes (deliverHeld 17 (setRes s i (holdRecord (decoded st wd rec1.2) rec1.1)) i us) i) =
          Decoding (decoded st wd rec1.2) := by
        rw [decoding_deliverHeld, getRes_setRes_self, decoding_holdRecord]
      simp only [Decoding, Prod.mk.injEq] at hdec
      obtain ⟨h1, h2, h3, h4, h5⟩ := hdec
      refine ⟨h1, h2, h3, h4, h5, fun hd hc hroom => ?_⟩
      have hself := getRes_setRes_self (s := s) i (holdRecord (decoded st wd rec1.2) rec1.1)
      rw [holdRecord_room (st := decoded st wd rec1.2) hroom] at hself
      change (getRes (deliverHeld 17 (setRes s i (holdRecord (decoded st wd rec1.2) rec1.1)) i us) i).held = _
      rw [holdRecord_room (st := decoded st wd rec1.2) hroom, deliverHeld_of_fixed (deliverOne_off (by rw [hself]; exact hd) (by rw [hself]; exact hc)), hself]
      rfl
  · intro st u
    refine ⟨execReadoutPeerRetry_runs hd, fun t r ha hh hf => ?_⟩
    rw [execReadoutPeerRetry_runs hd (Or.inl (by rw [ha]; exact List.cons_ne_nil _ _))]
    refine congrArg _ ?_
    have h1 : retryOne u i = hubSendAll (setRes u i { st with again := [], sent := st.sent.filter (fun x => x.1 != t) ++ [(t, r)] })
        (recMsgs u i { st with again := [], dropped := false } r) := retryOne_fits (s := u) ha hf
    have hget : getRes (hubSendAll (setRes u i { st with again := [], sent := st.sent.filter (fun x => x.1 != t) ++ [(t, r)] })
        (recMsgs u i { st with again := [], dropped := false } r)) i =
        { st with again := [], sent := st.sent.filter (fun x => x.1 != t) ++ [(t, r)] } := by
      rw [getRes_hubSendAll, getRes_setRes_self]
    rw [show retryAll 16 u i = retryAll 15 (retryOne u i) i from rfl, h1,
      retryAll_of_fixed (retryOne_nil (by rw [hget])), deliverHeld_of_fixed (deliverOne_nil (by rw [hget]; exact hh))]

end Sys2Proof.Machine
end

section
/-! SUPPORT. What the convoy unit touches, and the commands of a coordinator; the obligation
CoordinatorCommandsFollowTheConvoyState. -/

namespace Sys2Proof.Machine

variable {s s₀ t u : State}

/-! ### What the convoy unit touches -/

theorem onlyConvoyUnit_refl : OnlyConvoyUnit s s := rfl

theorem OnlyConvoyUnit.trans (h1 : OnlyConvoyUnit s t) (h2 : OnlyConvoyUnit t u) : OnlyConvoyUnit s u := by
  unfold OnlyConvoyUnit at *
  rw [h2, h1]

theorem onlyConvoyUnit_started (h : Nat) : OnlyConvoyUnit s (started s h) := rfl

theorem onlyConvoyUnit_begun (h : Nat) : OnlyConvoyUnit s (begun s h) := rfl

theorem onlyConvoyUnit_modConvoy (tag : Nat) (f : Convoy → Convoy) : OnlyConvoyUnit s (modConvoy s tag f) := rfl

theorem onlyConvoyUnit_dropConvoy (tag : Nat) : OnlyConvoyUnit s (dropConvoy s tag) := rfl

theorem onlyConvoyUnit_unitCycles (k n : Nat) : OnlyConvoyUnit s (unitCycles s k n) := rfl

theorem onlyConvoyUnit_hubSend (p : Packet) : OnlyConvoyUnit s (hubSend s p) := rfl

theorem onlyConvoyUnit_hubSendAll (ps : List Packet) : OnlyConvoyUnit s (hubSendAll s ps) := by
  rw [hubSendAll_touches]
  rfl

theorem onlyConvoyUnit_complete (h : Nat) (st : Status) (r : Nat) (ps : List (BitVec 128)) :
    OnlyConvoyUnit s (complete s h st r ps) := by
  rw [complete_touches]
  rfl

theorem onlyConvoyUnit_answerCmd (c : Option Nat) (st : Status) (r p : Nat) : OnlyConvoyUnit s (answerCmd s c st r p) := by
  cases c with
  | none => exact onlyConvoyUnit_refl
  | some h => exact onlyConvoyUnit_complete ..

theorem onlyConvoyUnit_takeCvy (sub tag : Nat) : OnlyConvoyUnit s (takeCvy s .hub sub tag) := by
  unfold takeCvy
  split
  · next heq => cases heq
  · rfl
  · rfl

/-- Nothing but the fabric differs. -/
def OnlyFabric (s t : State) : Prop := t = { s with fab := t.fab }

theorem OnlyFabric.trans (h1 : OnlyFabric s t) (h2 : OnlyFabric t u) : OnlyFabric s u := by
  unfold OnlyFabric at *
  rw [h2, h1]

theorem OnlyFabric.onlyConvoyUnit (h : OnlyFabric s t) : OnlyConvoyUnit s t := by
  unfold OnlyFabric at h
  rw [h]
  rfl

theorem OnlyFabric.hif_eq (h : OnlyFabric s t) : t.hif = s.hif := by rw [h]

theorem onlyFabric_hubSendAll (ps : List Packet) : OnlyFabric s (hubSendAll s ps) := hubSendAll_touches s ps

theorem onlyFabric_hubTake (p : Packet) : OnlyFabric s (hubTake s p) := rfl

theorem onlyFabric_fanOut (ctx sub st pay : Nat) : OnlyFabric s (fanOut s ctx sub st pay) :=
  OnlyFabric.trans (t := unitCycles s 5 32) rfl (onlyFabric_hubSendAll _)

theorem onlyFabric_ite {c : Prop} [Decidable c] (h : OnlyFabric s t) : OnlyFabric s (if c then t else s) := by
  split
  · exact h
  · rfl

/-- A message to the members of a convoy goes into the fabric. -/
theorem onlyFabric_toMembers (c : Convoy) (sub st pay : Nat) : OnlyFabric s (toMembers s c sub st pay) := by
  unfold toMembers
  exact ((onlyFabric_ite (onlyFabric_fanOut ..)).trans (onlyFabric_ite (onlyFabric_hubTake _))).trans (onlyFabric_hubSendAll _)

theorem onlyConvoyUnit_toMembers (c : Convoy) (sub st pay : Nat) : OnlyConvoyUnit s (toMembers s c sub st pay) :=
  (onlyFabric_toMembers ..).onlyConvoyUnit

theorem onlyConvoyUnit_endConvoy (tag : Nat) : OnlyConvoyUnit s (endConvoy s tag) := by
  unfold endConvoy
  split
  · exact onlyConvoyUnit_refl
  · dsimp only
    split
    · exact onlyConvoyUnit_refl
    · split
      · exact (onlyConvoyUnit_dropConvoy _).trans (onlyConvoyUnit_hubSend _)
      · split
        · exact ((onlyConvoyUnit_dropConvoy _).trans (onlyConvoyUnit_answerCmd ..)).trans (onlyConvoyUnit_answerCmd ..)
        · exact onlyConvoyUnit_dropConvoy _
        · exact onlyConvoyUnit_refl

theorem onlyConvoyUnit_decideAbort (c : Convoy) (st : Status) (r p : Nat) : OnlyConvoyUnit s (decideAbort s c st r p) := by
  unfold decideAbort
  exact ((((onlyConvoyUnit_modConvoy ..).trans (onlyConvoyUnit_toMembers ..)).trans (onlyConvoyUnit_answerCmd ..)).trans
    (onlyConvoyUnit_answerCmd ..)).trans (onlyConvoyUnit_endConvoy _)

theorem onlyConvoyUnit_foldl {α : Type} {g : State → α → State} (hg : ∀ s x, OnlyConvoyUnit s (g s x)) (l : List α) :
    OnlyConvoyUnit s (l.foldl g s) :=
  foldl_inv (OnlyConvoyUnit s) g (fun t x ht => ht.trans (hg t x)) l s onlyConvoyUnit_refl

theorem onlyConvoyUnit_loseDevice (tags : List Nat) (dev : Nat) (st : Status) : OnlyConvoyUnit s (loseDevice s tags dev st) := by
  refine onlyConvoyUnit_foldl (fun s tag => ?_) tags
  split
  · exact onlyConvoyUnit_refl
  · dsimp only
    split
    · exact onlyConvoyUnit_refl
    · split
      · exact (onlyConvoyUnit_modConvoy ..).trans (onlyConvoyUnit_decideAbort ..)
      · exact (((onlyConvoyUnit_modConvoy ..).trans (onlyConvoyUnit_modConvoy ..)).trans (onlyConvoyUnit_answerCmd ..)).trans
          (onlyConvoyUnit_endConvoy _)

theorem onlyConvoyUnit_loseFar (c : Convoy) : OnlyConvoyUnit s (loseFar s c) :=
  onlyConvoyUnit_foldl (fun _ _ => onlyConvoyUnit_loseDevice ..) _

theorem onlyConvoyUnit_decideCommit (c : Convoy) : OnlyConvoyUnit s (decideCommit s c) := by
  unfold decideCommit
  exact (((onlyConvoyUnit_modConvoy ..).trans (onlyConvoyUnit_toMembers ..)).trans (onlyConvoyUnit_loseFar _)).trans
    (onlyConvoyUnit_endConvoy _)

theorem onlyConvoyUnit_allReady (tag : Nat) : OnlyConvoyUnit s (allReady s tag) := by
  unfold allReady
  split
  · exact onlyConvoyUnit_refl
  · split
    · exact onlyConvoyUnit_refl
    · dsimp only
      split
      · exact ((onlyConvoyUnit_modConvoy ..).trans (onlyConvoyUnit_answerCmd ..)).trans (onlyConvoyUnit_decideCommit _)
      · exact (onlyConvoyUnit_modConvoy ..).trans (onlyConvoyUnit_answerCmd ..)

theorem onlyConvoyUnit_relayReady (tag : Nat) : OnlyConvoyUnit s (relayReady s tag) := by
  unfold relayReady
  split
  · exact onlyConvoyUnit_refl
  · split
    · exact (onlyConvoyUnit_modConvoy ..).trans (onlyConvoyUnit_hubSendAll _)
    · exact onlyConvoyUnit_refl

theorem onlyConvoyUnit_prepare (c : Convoy) : OnlyConvoyUnit s (prepare s c) := by
  unfold prepare
  split
  · exact onlyConvoyUnit_decideAbort ..
  · exact onlyConvoyUnit_decideAbort ..
  · exact (((onlyConvoyUnit_modConvoy ..).trans (onlyConvoyUnit_toMembers ..)).trans (onlyConvoyUnit_loseFar _)).trans
      (onlyConvoyUnit_allReady _)

/-! ### The commands that wait on a convoy -/

theorem findCmd_answerCmd_of_none {k : Nat} (hk : findCmd s k = none) (c : Option Nat) (st : Status) (r p : Nat) :
    findCmd (answerCmd s c st r p) k = none := by
  cases c with
  | none => exact hk
  | some h => exact findCmd_complete_of_none hk ..

theorem findCmd_answerCmd {k : Nat} (st : Status) (r p : Nat) : findCmd (answerCmd s (some k) st r p) k = none :=
  findCmd_complete ..

/-- The end of a convoy answers commands and takes no new ones. -/
theorem findCmd_endConvoy {k : Nat} (hk : findCmd s k = none) (tag : Nat) : findCmd (endConvoy s tag) k = none := by
  unfold endConvoy
  split
  · exact hk
  · dsimp only
    split
    · exact hk
    · split
      · exact hk
      · split
        · exact findCmd_answerCmd_of_none (findCmd_answerCmd_of_none (s := dropConvoy s tag) hk ..) ..
        · exact hk
        · exact hk

theorem findCmd_decideAbort_of_none {k : Nat} (hk : findCmd s k = none) (c : Convoy) (st : Status) (r p : Nat) :
    findCmd (decideAbort s c st r p) k = none := by
  unfold decideAbort
  refine findCmd_endConvoy (findCmd_answerCmd_of_none (findCmd_answerCmd_of_none ?_ ..) ..) _
  rw [findCmd, (onlyFabric_toMembers ..).hif_eq]
  exact hk

/-- The command that waited for PREPARE is answered by an abort. -/
theorem findCmd_decideAbort {c : Convoy} {k : Nat} (hk : c.preCmd = some k) (st : Status) (r p : Nat) :
    findCmd (decideAbort s c st r p) k = none := by
  unfold decideAbort
  rw [hk]
  exact findCmd_endConvoy (findCmd_answerCmd_of_none (findCmd_answerCmd ..) ..) _

/-! ### Commands of a coordinator (R323, R326-R328, R335, R337, R341) -/

/-- The convoy of a command is one of the unit. -/
theorem cmdConvoy_started (h : Nat) (f : Fetched) : cmdConvoy (started s h) f = cmdConvoy s f := rfl

theorem execConvoyBegin_runs {h : Nat} {f : Fetched} (hr : MayRun s h 0x28 f) : exec (.convoyBegin h) s =
    .next (if (findConvoy s (tagOf s (mw f.manifest 0 % 64))).isSome ∨ s.convoys.length ≥ 64 then complete (started s h) h stNoResource
      else complete { started s h with convoys := s.convoys ++ [{
          tag := tagOf s (mw f.manifest 0 % 64), ctx := mCtx f.manifest, tc := mw f.manifest 0 / 2 ^ 8 % 32
          auto := mw f.manifest 0 / 2 ^ 7 % 2 == 1
          sc := if mw f.manifest 0 / 2 ^ 6 % 2 = 1 then none else some (BitVec.ofNat 32 (mw f.manifest 1)) }] } h stOk) :=
  congrArg Host.Outcome.next (withCmd_mayRun s h _ f _ hr)

/-- What CONVOY_STAGE does for the convoy that it finds. -/
def staged (u : State) (h : Nat) (f : Fetched) (c : Option Convoy) : State :=
  match c with
  | none => complete u h stBadState
  | some c =>
      if c.phase ≠ .opened then complete u h stBadState
      else match parseRecords (4 * f.bales.length) (linesBytes f.bales) with
        | none => complete u h stBadManifest
        | some rs => complete (stageAll c.ctx c.tag false (unitCycles u 4 rs.length) rs).1 h
            ((stageAll c.ctx c.tag false (unitCycles u 4 rs.length) rs).2.getD stOk)

theorem execConvoyStage_runs {h : Nat} {f : Fetched} (hr : MayRun s h 0x29 f) : exec (.convoyStage h) s =
    .next (staged (started s h) h f (cmdConvoy s f)) := by
  refine (congrArg Host.Outcome.next (withCmd_mayRun s h _ f _ hr)).trans ?_
  rw [cmdConvoy_started]
  unfold staged
  rfl

theorem execConvoyPrepare_runs {h : Nat} {f : Fetched} (hr : MayRun s h 0x2A f) : exec (.convoyPrepare h) s =
    .next (match cmdConvoy s f with
      | none => complete (started s h) h stBadState
      | some c =>
          if c.phase ≠ .opened then complete (started s h) h stBadState
          else prepare (modConvoy (begun (started s h) h) c.tag fun _ => { c with preCmd := some h }) { c with preCmd := some h }) :=
  congrArg Host.Outcome.next (withCmd_mayRun s h _ f _ hr)

theorem execConvoyCommit_runs {h : Nat} {f : Fetched} (hr : MayRun s h 0x2B f) : exec (.convoyCommit h) s =
    .next (match cmdConvoy s f with
      | none => complete (started s h) h stBadState
      | some c =>
          if c.phase ≠ .ready then complete (started s h) h stBadState
          else decideCommit (modConvoy (begun (started s h) h) c.tag fun _ => { c with comCmd := some h }) { c with comCmd := some h }) :=
  congrArg Host.Outcome.next (withCmd_mayRun s h _ f _ hr)

theorem execConvoyAbort_runs {h : Nat} {f : Fetched} (hr : MayRun s h 0x2C f) : exec (.convoyAbort h) s =
    .next (match cmdConvoy s f with
      | none => complete (started s h) h stBadState
      | some c =>
          if undecided c = true ∧ c.ownerCmd = none then decideAbort (complete (started s h) h stOk) c stConvoyMember 0 0
          else complete (started s h) h stBadState) :=
  congrArg Host.Outcome.next (withCmd_mayRun s h _ f _ hr)

/-- Settles O30: each command is decided by the convoy that it names and by that convoy's phase. -/
theorem coordinatorCommandsFollowTheConvoyState : Obligations.CoordinatorCommandsFollowTheConvoyState := by
  intro s h f w tag u
  refine ⟨fun hr => ?_, fun hr => ?_, fun c hc => ⟨fun hr hph => ?_, fun hr hph => ?_, fun hr hun how => ?_⟩,
    fun hno hr => ?_, fun hno hr => ?_, fun hno hr => ?_⟩
  · have he := execConvoyBegin_runs hr
    refine ⟨fun hfull => he.trans (congrArg _ (if_pos hfull)), fun hnone hlen => ?_⟩
    have hroom : ¬((findConvoy s tag).isSome ∨ s.convoys.length ≥ 64) := by
      rw [hnone]
      simpa using hlen
    refine ⟨_, he.trans (congrArg _ (if_neg hroom)), findCmd_complete .., ?_, ?_⟩
    · rw [complete_touches]
      rfl
    · rw [complete_touches]
  · have he := execConvoyStage_runs hr
    refine ⟨fun hnone => by rw [he, hnone]; rfl, fun c hc => ?_⟩
    rw [he, hc]
    refine ⟨fun hph => congrArg _ (if_pos hph), fun hph hp => ?_, fun rs hph hp => ?_⟩
    · exact congrArg _ ((if_neg (not_not_intro hph)).trans (by rw [hp]))
    · exact congrArg _ ((if_neg (not_not_intro hph)).trans (by rw [hp]))
  · have he := execConvoyPrepare_runs hr
    rw [hc] at he
    refine ⟨_, he.trans (congrArg _ (if_neg (not_not_intro hph))), ?_, rfl⟩
    exact ((onlyConvoyUnit_started h).trans (onlyConvoyUnit_begun h)).trans
      ((onlyConvoyUnit_modConvoy ..).trans (onlyConvoyUnit_prepare _))
  · have he := execConvoyCommit_runs hr
    rw [hc] at he
    refine ⟨_, he.trans (congrArg _ (if_neg (not_not_intro hph))), ?_, rfl⟩
    exact ((onlyConvoyUnit_started h).trans (onlyConvoyUnit_begun h)).trans
      ((onlyConvoyUnit_modConvoy ..).trans (onlyConvoyUnit_decideCommit _))
  · have he := execConvoyAbort_runs hr
    rw [hc] at he
    refine ⟨_, he.trans (congrArg _ (if_pos ⟨hun, how⟩)), ?_, findCmd_decideAbort_of_none (findCmd_complete ..) ..,
      fun k hk => findCmd_decideAbort hk .., rfl⟩
    exact ((onlyConvoyUnit_started h).trans (onlyConvoyUnit_complete ..)).trans (onlyConvoyUnit_decideAbort ..)
  · rw [execConvoyPrepare_runs hr]
    cases hc : cmdConvoy s f with
    | none => rfl
    | some c => exact congrArg _ (if_pos (hno c hc))
  · rw [execConvoyCommit_runs hr]
    cases hc : cmdConvoy s f with
    | none => rfl
    | some c => exact congrArg _ (if_pos (hno c hc))
  · rw [execConvoyAbort_runs hr]
    cases hc : cmdConvoy s f with
    | none => rfl
    | some c => exact congrArg _ (if_neg fun hand => (hno c hc).elim (fun hun => by simp [hun] at hand) fun how => how hand.2)

end Sys2Proof.Machine
end

section
/-! SUPPORT. What a coordinator decides; the obligation CoordinatorDecides. -/

namespace Sys2Proof.Machine

variable {s : State}

theorem unitTurn_may {k : Nat} {f : State → State} (h : hubMay s.pwr.pl.toNat s.fab.cvy k = true) :
    unitTurn s k f = f (unitCycles s k 1) := if_pos h

theorem unitTurn_stays {k : Nat} {f : State → State} (h : hubMay s.pwr.pl.toNat s.fab.cvy k = false) :
    unitTurn s k f = s := if_neg (ne_true_of_eq_false h)

theorem convoys_takeCvy_hub (sub tag : Nat) : (takeCvy s .hub sub tag).convoys = s.convoys := by
  rw [onlyConvoyUnit_takeCvy sub tag]
  unfold takeCvy
  split <;> rfl

/-- Taking a message from the hub leaves the convoys. -/
theorem findConvoy_takeCvy_hub (sub tag k : Nat) : findConvoy (takeCvy s .hub sub tag) k = findConvoy s k := by
  rw [findConvoy, convoys_takeCvy_hub]
  rfl

theorem findConvoy_taken (sub tag : Nat) : findConvoy (takeCvy (unitCycles s 5 1) .hub sub tag) tag = findConvoy s tag :=
  findConvoy_takeCvy_hub ..

theorem onlyFabric_takeCvy_hub (sub tag : Nat) : OnlyFabric s (takeCvy s .hub sub tag) := by
  unfold takeCvy
  split
  · next heq => cases heq
  · rfl
  · rfl

theorem OnlyFabric.devNo_eq {t : State} (h : OnlyFabric s t) : devNo t = devNo s := by
  rw [h]
  rfl

theorem tag_of_findConvoy {tag : Nat} {c : Convoy} (h : findConvoy s tag = some c) : c.tag = tag :=
  beq_iff_eq.1 (List.find?_some (p := fun c : Convoy => c.tag == tag) h)

/-! ### Answers (R336, R337) -/

/-- The party that an answer of a member counts for. -/
def partyOf (s : State) (dev : Nat) (m : Member) : Nat × Member := if dev = devNo s then (dev, m) else (dev, .hub)

/-- The number of a member among the parties of its device. -/
def memberNo : Member → Nat
  | .core n => n
  | .hub => 0x3FF

theorem takeAnswer_none {tag dev : Nat} {m : Member} {a : Answer} (h : findConvoy s tag = none) : takeAnswer s tag dev m a = s := by
  unfold takeAnswer
  rw [h]

theorem takeAnswer_again {tag dev : Nat} {m : Member} {a : Answer} {c : Convoy} (h : findConvoy s tag = some c)
    (hc : c.extra.count (partyOf s dev m) < c.answered.count (partyOf s dev m)) : takeAnswer s tag dev m a = s := by
  unfold takeAnswer
  rw [h]
  exact if_pos hc

section
variable {tag dev : Nat} {m : Member} {c : Convoy} (h : findConvoy s tag = some c)
  (hc : c.answered.count (partyOf s dev m) ≤ c.extra.count (partyOf s dev m))
include h hc

theorem takeAnswer_ready_waiting {w : Word} (hph : c.phase ≠ .preparing) : takeAnswer s tag dev m (.ready w) = s := by
  unfold takeAnswer
  rw [h]
  exact (if_neg (Nat.not_lt.2 hc)).trans (if_pos hph)

theorem takeAnswer_ready {w : Word} (hph : c.phase = .preparing) : takeAnswer s tag dev m (.ready w) =
    let u := modConvoy s tag fun _ =>
      { c with answered := c.answered ++ [partyOf s dev m], ready := c.ready + 1, h := some (laterStep c.h w) }
    if c.relay then relayReady u tag else allReady u tag := by
  unfold takeAnswer
  rw [h]
  exact (if_neg (Nat.not_lt.2 hc)).trans (if_neg (not_not_intro hph))

theorem takeAnswer_abort {code : Status} {reason : BitVec 8} (hph : c.phase = .preparing) :
    takeAnswer s tag dev m (.abort code reason) =
      let d := { c with answered := c.answered ++ [partyOf s dev m] }
      let e := ackedBy (devNo s) d (partyOf s dev m)
      if c.relay then
        hubSend (modConvoy s tag fun _ => { d with phase := .aborted, status := code })
          (unitPkt s c.ctx (homeOf tag) 0x3FF 0 0 0x03 tag (reason.toNat * 2 ^ 8 + code.toNat))
      else decideAbort (modConvoy s tag fun _ => e) e code (memberResult dev m) reason.toNat := by
  unfold takeAnswer
  rw [h]
  exact (if_neg (Nat.not_lt.2 hc)).trans (if_neg (not_not_intro hph))

theorem takeAnswer_abort_opened {code : Status} {reason : BitVec 8} (hph : c.phase = .opened) (hrel : c.relay = false) :
    takeAnswer s tag dev m (.abort code reason) = modConvoy s tag fun c =>
      { c with badMember := c.badMember.or (some (dev, memberNo m, reason)) } := by
  unfold takeAnswer
  rw [h]
  have h1 : c.phase ≠ .preparing := by rw [hph]; decide
  have h2 : c.phase ≠ .aborted := by rw [hph]; decide
  have h3 : c.phase = .opened ∧ (!c.relay) = true := ⟨hph, by rw [hrel]; rfl⟩
  exact (if_neg (Nat.not_lt.2 hc)).trans ((if_pos h1).trans ((if_neg h2).trans (if_pos h3)))

end

/-- The subtype of an answer's packet. -/
def answerSub : Answer → Nat
  | .ready _ => 2
  | .abort _ _ => 3

theorem execConvoyAnswer_runs {tag dev : Nat} {m : Member} {a : Answer} (h : hubMay s.pwr.pl.toNat s.fab.cvy 5 = true) :
    exec (.convoyAnswer tag dev m a) s =
      .next (takeAnswer (takeCvy (unitCycles s 5 1) .hub (answerSub a) tag) tag dev m a) :=
  (congrArg Host.Outcome.next (unitTurn_may h)).trans (by cases a <;> rfl)

theorem execConvoyAck_runs {tag dev : Nat} {m : Member} (h : hubMay s.pwr.pl.toNat s.fab.cvy 5 = true) :
    exec (.convoyAck tag dev m) s = .next (takeAck (takeCvy (unitCycles s 5 1) .hub 6 tag) tag dev m) :=
  congrArg Host.Outcome.next (unitTurn_may h)

theorem partyOf_taken (sub tag dev : Nat) (m : Member) :
    partyOf (takeCvy (unitCycles s 5 1) .hub sub tag) dev m = partyOf s dev m := by
  rw [partyOf, (onlyFabric_takeCvy_hub sub tag).devNo_eq]
  rfl

theorem preCmd_ackedBy (here : Nat) (c : Convoy) (p : Nat × Member) : (ackedBy here c p).preCmd = c.preCmd := by
  unfold ackedBy
  split <;> rfl

theorem onlyConvoyUnit_taken (sub tag : Nat) : OnlyConvoyUnit s (takeCvy (unitCycles s 5 1) .hub sub tag) :=
  (onlyConvoyUnit_unitCycles 5 1).trans (onlyConvoyUnit_takeCvy ..)

section
variable {tag dev : Nat} {m : Member} {c : Convoy} (h : findConvoy s tag = some c) (hmay : hubMay s.pwr.pl.toNat s.fab.cvy 5 = true)
include h hmay

theorem convoyAnswer_again {a : Answer} (hc : c.extra.count (partyOf s dev m) < c.answered.count (partyOf s dev m)) :
    exec (.convoyAnswer tag dev m a) s = .next (takeCvy (unitCycles s 5 1) .hub (answerSub a) tag) := by
  rw [execConvoyAnswer_runs hmay, takeAnswer_again ((findConvoy_taken ..).trans h)]
  rwa [partyOf_taken]

variable (hc : c.answered.count (partyOf s dev m) ≤ c.extra.count (partyOf s dev m))
include hc

theorem convoyAnswer_ready_waiting {w : Word} (hph : c.phase ≠ .preparing) : exec (.convoyAnswer tag dev m (.ready w)) s =
    .next (takeCvy (unitCycles s 5 1) .hub 2 tag) := by
  rw [execConvoyAnswer_runs hmay, takeAnswer_ready_waiting ((findConvoy_taken ..).trans h) (by rwa [partyOf_taken]) hph]
  rfl

/-- A READY that counts raises the number of ready parties, and may decide. -/
theorem convoyAnswer_ready {w : Word} (hph : c.phase = .preparing) : exec (.convoyAnswer tag dev m (.ready w)) s =
    (let u := modConvoy (takeCvy (unitCycles s 5 1) .hub 2 tag) tag fun _ =>
      { c with answered := c.answered ++ [partyOf s dev m], ready := c.ready + 1, h := some (laterStep c.h w) }
     .next (if c.relay then relayReady u tag else allReady u tag)) := by
  rw [execConvoyAnswer_runs hmay, takeAnswer_ready ((findConvoy_taken ..).trans h) (by rwa [partyOf_taken]) hph, partyOf_taken]
  rfl

/-- An ABORT that counts decides at a coordinator and is passed on by a relay. -/
theorem convoyAnswer_abort {code : Status} {reason : BitVec 8} (hph : c.phase = .preparing) :
    exec (.convoyAnswer tag dev m (.abort code reason)) s =
      (let u := takeCvy (unitCycles s 5 1) .hub 3 tag
       let d := { c with answered := c.answered ++ [partyOf s dev m] }
       let e := ackedBy (devNo s) d (partyOf s dev m)
       .next (if c.relay then
         hubSend (modConvoy u tag fun _ => { d with phase := .aborted, status := code })
           (unitPkt u c.ctx (homeOf tag) 0x3FF 0 0 0x03 tag (reason.toNat * 2 ^ 8 + code.toNat))
       else decideAbort (modConvoy u tag fun _ => e) e code (memberResult dev m) reason.toNat)) := by
  rw [execConvoyAnswer_runs hmay, takeAnswer_abort ((findConvoy_taken ..).trans h) (by rwa [partyOf_taken]) hph, partyOf_taken,
    (onlyFabric_takeCvy_hub ..).devNo_eq]
  rfl

theorem convoyAnswer_abort_opened {code : Status} {reason : BitVec 8} (hph : c.phase = .opened) (hrel : c.relay = false) :
    exec (.convoyAnswer tag dev m (.abort code reason)) s = .next (modConvoy (takeCvy (unitCycles s 5 1) .hub 3 tag) tag fun c =>
      { c with badMember := c.badMember.or (some (dev, memberNo m, reason)) }) := by
  rw [execConvoyAnswer_runs hmay, takeAnswer_abort_opened ((findConvoy_taken ..).trans h) (by rwa [partyOf_taken]) hph hrel]
  rfl

end

/-! ### Questions, joins and conflicts (R330, R341, R344) -/

/-- What a QUERY is answered for the convoy that the unit finds. -/
def queried (u : State) (tag dev : Nat) (m : Member) (c : Option Convoy) : State :=
  match c with
  | none => toMember u (ctxOfTag u tag) dev m 0x05 tag 0
  | some c => match c.phase with
    | .committing => toMember u c.ctx dev m 0x04 tag ((c.sc.map fun w => w.toNat).getD 0)
    | .aborted => toMember u c.ctx dev m 0x05 tag c.status.toNat
    | _ => toMember u c.ctx dev m 0x08 tag 0

theorem execQuery_runs {tag dev : Nat} {m : Member} (h : hubMay s.pwr.pl.toNat s.fab.cvy 5 = true) :
    exec (.query tag dev m) s = .next (queried (takeCvy (unitCycles s 5 1) .hub 7 tag) tag dev m (findConvoy s tag)) := by
  refine (congrArg Host.Outcome.next (unitTurn_may h)).trans ?_
  rw [← findConvoy_taken (s := s) 7 tag]
  unfold queried
  rfl

theorem queried_committing {u : State} {tag dev : Nat} {m : Member} {c : Convoy} (h : c.phase = .committing) :
    queried u tag dev m (some c) = toMember u c.ctx dev m 0x04 tag ((c.sc.map fun w => w.toNat).getD 0) := by
  unfold queried
  dsimp only
  rw [h]

theorem queried_aborted {u : State} {tag dev : Nat} {m : Member} {c : Convoy} (h : c.phase = .aborted) :
    queried u tag dev m (some c) = toMember u c.ctx dev m 0x05 tag c.status.toNat := by
  unfold queried
  dsimp only
  rw [h]

theorem queried_waiting {u : State} {tag dev : Nat} {m : Member} {c : Convoy} (h1 : c.phase ≠ .committing) (h2 : c.phase ≠ .aborted) :
    queried u tag dev m (some c) = toMember u c.ctx dev m 0x08 tag 0 := by
  unfold queried
  dsimp only
  split
  · next h => exact (h1 h).elim
  · next h => exact (h2 h).elim
  · rfl

/-- What a JOIN does with the convoy that the unit finds, where the packet names a context. -/
def joined (u : State) (tag dev core : Nat) (ctx : Option Nat) (c : Option Convoy) : State :=
  match c with
  | none => toMember u (ctx.getD (ctxOfTag u tag)) dev (.core core) 0x05 tag lateJoin
  | some c =>
      if ctx.any fun k => k != c.ctx then toMember u (ctx.getD 0) dev (.core core) 0x05 tag lateJoin
      else match c.phase with
        | .opened => addMember u tag dev (.core core)
        | .preparing => joinLate u c dev core
        | _ => toMember u c.ctx dev (.core core) 0x05 tag lateJoin

theorem execJoin_runs {tag dev core : Nat} (h : hubMay s.pwr.pl.toNat s.fab.cvy 5 = true) :
    exec (.join tag dev core) s = .next (joined (takeCvy (unitCycles s 5 1) .hub 9 tag) tag dev core
      ((cvyPkt (unitCycles s 5 1) .hub 9 tag).map pctx) (findConvoy s tag)) := by
  refine (congrArg Host.Outcome.next (unitTurn_may h)).trans ?_
  rw [← findConvoy_taken (s := s) 9 tag]
  unfold joined
  rfl

section
variable {u : State} {tag dev core : Nat} {ctx : Option Nat} {c : Convoy} (h : (ctx.any fun k => k != c.ctx) = false)
include h

theorem joined_opened (hph : c.phase = .opened) : joined u tag dev core ctx (some c) = addMember u tag dev (.core core) := by
  unfold joined
  dsimp only
  rw [if_neg (ne_true_of_eq_false h), hph]

theorem joined_preparing (hph : c.phase = .preparing) : joined u tag dev core ctx (some c) = joinLate u c dev core := by
  unfold joined
  dsimp only
  rw [if_neg (ne_true_of_eq_false h), hph]

theorem joined_late (h1 : c.phase ≠ .opened) (h2 : c.phase ≠ .preparing) :
    joined u tag dev core ctx (some c) = toMember u c.ctx dev (.core core) 0x05 tag lateJoin := by
  unfold joined
  dsimp only
  rw [if_neg (ne_true_of_eq_false h)]
  split
  · next hph => exact (h1 hph).elim
  · next hph => exact (h2 hph).elim
  · rfl

end

/-- A core of the own device joins a convoy that prepares by its own PREPARE; it counts for itself. -/
theorem joinLate_own {c : Convoy} {dev core : Nat} (h : dev = devNo s) : joinLate s c dev core =
    toMember (addMember s c.tag dev (.core core)) c.ctx dev (.core core) 0x01 (c.tag + if c.sc.isNone then 2 ^ 15 else 0)
      ((c.sc.map fun w => w.toNat).getD 0) := by
  have hfar : (dev != devNo s) = false := by simp [h]
  have hid : (modConvoy (addMember s c.tag dev (.core core)) c.tag fun x => { x with extra := x.extra }) =
      addMember s c.tag dev (.core core) := by
    simp [modConvoy]
  unfold joinLate
  simp only [hfar, Bool.false_and, Bool.false_eq_true, if_false]
  rw [hid]

/-- What a conflict does to the convoy that the unit finds. -/
def conflicted (u : State) (tag first : Nat) (c : Option Convoy) : State :=
  match c with
  | none => u
  | some c => if undecided c = true ∧ first ≠ tag then decideAbort u c stConvoyConflict 0 0 else u

theorem execConflict_runs {tag first : Nat} (h : hubMay s.pwr.pl.toNat s.fab.cvy 5 = true) :
    exec (.conflict tag first) s = .next (conflicted (takeCvy (unitCycles s 5 1) .hub 0xA tag) tag first (findConvoy s tag)) := by
  refine (congrArg Host.Outcome.next (unitTurn_may h)).trans ?_
  rw [← findConvoy_taken (s := s) 0xA tag]
  unfold conflicted
  rfl

theorem execConvoyCoordinatorTimeout_none {tag : Nat} (h : findConvoy s tag = none) :
    exec (.convoyCoordinatorTimeout tag) s = .next s := by
  have he : exec (.convoyCoordinatorTimeout tag) s = execConvoyCoordinatorTimeout tag s := rfl
  rw [he]
  unfold execConvoyCoordinatorTimeout
  rw [h]

theorem execConvoyCoordinatorTimeout_some {tag : Nat} {c : Convoy} (h : findConvoy s tag = some c) :
    exec (.convoyCoordinatorTimeout tag) s =
      if undecided c = true then .next (decideAbort s c stConvoyTimeout 0 0) else .next s := by
  have he : exec (.convoyCoordinatorTimeout tag) s = execConvoyCoordinatorTimeout tag s := rfl
  rw [he]
  unfold execConvoyCoordinatorTimeout
  rw [h]

/-- The end of each phase of a convoy touches the convoy unit alone, from the message on that brings it. -/
theorem onlyConvoyUnit_decided (sub tag k : Nat) (f : Convoy → Convoy) {t : State}
    (h : OnlyConvoyUnit (modConvoy (takeCvy (unitCycles s 5 1) .hub sub tag) k f) t) : OnlyConvoyUnit s t :=
  (onlyConvoyUnit_taken sub tag).trans ((onlyConvoyUnit_modConvoy ..).trans h)

/-- Settles O32: each message takes a turn of the convoy unit, and is decided by the convoy that its tag names. -/
theorem coordinatorDecides : Obligations.CoordinatorDecides := by
  refine ⟨fun s tag dev core first m a hno => ?_, fun s tag dev core first m a hnone hmay => ?_,
    fun s tag hnone => execConvoyCoordinatorTimeout_none hnone, fun s tag c hc => ?_⟩
  · have hstay : ∀ f, unitTurn s 5 f = s := fun f => unitTurn_stays hno
    exact ⟨congrArg _ (hstay _), congrArg _ (hstay _), congrArg _ (hstay _), congrArg _ (hstay _), congrArg _ (hstay _)⟩
  · intro v
    refine ⟨?_, ?_, ?_, ?_⟩
    · rw [execConvoyAnswer_runs hmay, takeAnswer_none ((findConvoy_taken ..).trans hnone)]
      cases a <;> rfl
    · rw [execQuery_runs hmay, hnone]
      rfl
    · rw [execJoin_runs hmay, hnone]
      rfl
    · rw [execConflict_runs hmay, hnone]
      rfl
  · intro v
    have htag := tag_of_findConvoy hc
    refine ⟨fun hmay => ⟨fun dev m => ?_, fun dev core => ?_, fun first => ?_⟩, fun hun => ?_, fun hun => ?_⟩
    · intro party counts d
      refine ⟨fun a hno => ?_, fun w hyes => ?_, fun code reason hyes => ?_, ?_, ?_⟩
      · rw [convoyAnswer_again hc hmay (Nat.lt_of_not_le (of_decide_eq_false hno))]
        cases a <;> rfl
      · intro e u
        refine ⟨fun hph hrel => ?_, fun hph hrel => ?_, fun hph =>
          convoyAnswer_ready_waiting hc hmay (of_decide_eq_true hyes) hph⟩
        · exact ⟨_, (convoyAnswer_ready hc hmay (of_decide_eq_true hyes) hph).trans
            (congrArg _ (if_neg (ne_true_of_eq_false hrel))), onlyConvoyUnit_decided 2 tag _ _ (onlyConvoyUnit_allReady tag), rfl⟩
        · exact ⟨_, (convoyAnswer_ready hc hmay (of_decide_eq_true hyes) hph).trans (congrArg _ (if_pos hrel)),
            onlyConvoyUnit_decided 2 tag _ _ (onlyConvoyUnit_relayReady tag), rfl⟩
      · intro u e
        have hpre : e.preCmd = c.preCmd := preCmd_ackedBy _ d _
        refine ⟨fun hph hrel => ?_, fun hph hrel => ?_, fun hph hrel =>
          convoyAnswer_abort_opened hc hmay (of_decide_eq_true hyes) hph hrel⟩
        · exact ⟨_, (convoyAnswer_abort hc hmay (of_decide_eq_true hyes) hph).trans
            (congrArg _ (if_neg (ne_true_of_eq_false hrel))), onlyConvoyUnit_decided 3 tag _ _ (onlyConvoyUnit_decideAbort ..), rfl,
            fun h hh => findCmd_decideAbort (c := e) (hpre.trans hh) _ _ _⟩
        · exact (convoyAnswer_abort hc hmay (of_decide_eq_true hyes) hph).trans (congrArg _ (if_pos hrel))
      · refine ⟨_, execConvoyAck_runs hmay, onlyConvoyUnit_decided 6 tag _ _ (onlyConvoyUnit_endConvoy tag), ?_⟩
        unfold takeAck
        rw [(onlyFabric_takeCvy_hub ..).devNo_eq]
        rfl
      · intro u
        have he : exec (.query tag dev m) s = .next (queried u tag dev m (findConvoy s tag)) := execQuery_runs hmay
        rw [hc] at he
        refine ⟨fun hph => ?_, fun hph => ?_, fun h1 h2 => he.trans (congrArg _ (queried_waiting h1 h2))⟩
        · exact he.trans (congrArg _ (queried_committing hph))
        · exact he.trans (congrArg _ (queried_aborted hph))
    · intro u
      have he : exec (.join tag dev core) s = .next (joined u tag dev core ((cvyPkt v .hub 9 tag).map pctx) (findConvoy s tag)) :=
        execJoin_runs hmay
      rw [hc] at he
      refine ⟨fun p hp hctx => ?_, fun hsame => ?_⟩
      · rw [he, hp]
        exact congrArg _ (if_pos (by simpa using hctx))
      · have hno : (((cvyPkt v .hub 9 tag).map pctx).any fun k => k != c.ctx) = false := by
          cases hp : cvyPkt v .hub 9 tag with
          | none => rfl
          | some p => simpa using hsame p hp
        refine ⟨fun hph => he.trans (congrArg _ (joined_opened hno hph)), fun hph hdv => ?_,
          fun hph => he.trans (congrArg _ (joined_preparing hno hph)), fun h1 h2 => he.trans (congrArg _ (joined_late hno h1 h2))⟩
        have hown : dev = devNo u := hdv.trans (onlyFabric_takeCvy_hub (s := v) 9 tag).devNo_eq.symm
        rw [he, joined_preparing hno hph, joinLate_own hown, htag]
    · intro u
      have he : exec (.conflict tag first) s = .next (conflicted u tag first (findConvoy s tag)) := execConflict_runs hmay
      rw [hc] at he
      refine ⟨fun hun hne => ?_, fun hno => he.trans (congrArg _ (if_neg fun h => hno.elim (fun h1 => by simp [h1] at h) h.2))⟩
      exact ⟨_, he.trans (congrArg _ (if_pos ⟨hun, hne⟩)),
        (onlyConvoyUnit_taken 0xA tag).trans (onlyConvoyUnit_decideAbort ..), rfl, fun h hh => findCmd_decideAbort hh ..⟩
    · exact ⟨_, (execConvoyCoordinatorTimeout_some hc).trans (if_pos hun), onlyConvoyUnit_decideAbort .., rfl,
        fun h hh => findCmd_decideAbort hh ..⟩
    · exact (execConvoyCoordinatorTimeout_some hc).trans (if_neg (ne_true_of_eq_false hun))

end Sys2Proof.Machine
end

section
/-! SUPPORT. The members of a convoy; the obligation MembersPrepareCommitAndApply. -/

namespace Sys2Proof.Machine

variable {s u : State} {n tag : Nat} {x : MemberConvoy}

/-! ### A member's turn at its port -/

theorem fromUnit_turn {sub : Nat} {f : State → State} (h : (cvyPkt s (.core n) sub tag).all (portTurn s n) = true) :
    fromUnit s (.core n) sub tag f = f (takeCvy s (.core n) sub tag) := by
  unfold fromUnit
  split
  · next p k hp hk =>
    cases hk
    rw [hp] at h
    exact if_pos h
  · rfl

theorem fromUnit_stays {sub : Nat} {f : State → State} (h : (cvyPkt s (.core n) sub tag).all (portTurn s n) = false) :
    fromUnit s (.core n) sub tag f = s := by
  unfold fromUnit
  split
  · next p k hp hk =>
    cases hk
    rw [hp] at h
    exact if_neg (ne_true_of_eq_false h)
  · next hno =>
    cases hp : cvyPkt s (.core n) sub tag with
    | none =>
      rw [hp] at h
      cases h
    | some p => exact (hno p n hp rfl).elim

theorem fromUnit_hub {sub : Nat} {f : State → State} : fromUnit s .hub sub tag f = f (takeCvy s .hub sub tag) := by
  unfold fromUnit
  split
  · next heq => cases heq
  · rfl

/-- Taking a message from a core's port leaves its shares and its step. -/
theorem getCore_takeCvy (sub : Nat) : (getCore (takeCvy s (.core n) sub tag) n).cvy = (getCore s n).cvy ∧
    (getCore (takeCvy s (.core n) sub tag) n).st = (getCore s n).st := by
  unfold takeCvy
  split
  · next heq =>
    cases heq
    rw [portDone, getCore_modCore, if_pos rfl]
    exact ⟨rfl, rfl⟩
  · next heq => cases heq
  · exact ⟨rfl, rfl⟩

theorem findShare_takeCvy (sub k : Nat) : findShare (takeCvy s (.core n) sub tag) (.core n) k = findShare s (.core n) k := by
  exact congrArg (List.find? fun y : MemberConvoy => y.tag == k) (getCore_takeCvy sub).1

theorem takeCvy_touches (sub : Nat) :
    takeCvy s (.core n) sub tag = { s with cores := (takeCvy s (.core n) sub tag).cores } := by
  unfold takeCvy
  split
  · rfl
  · next heq => cases heq
  · rfl

theorem getShard_takeCvy (sub k : Nat) : getShard (takeCvy s (.core n) sub tag) k = getShard s k := by
  rw [takeCvy_touches]
  rfl

theorem getCore_takeCvy_other (sub : Nat) {k : Nat} (hk : k ≠ n) : getCore (takeCvy s (.core n) sub tag) k = getCore s k := by
  unfold takeCvy
  split
  · next heq =>
    cases heq
    rw [portDone, getCore_modCore, if_neg hk]
  · next heq => cases heq
  · rfl

/-! ### PREPARE at a core (R328, R332) -/

/-- The step that a PREPARE names for a share: none on a stopped context. -/
def namedStep (u : State) (x : MemberConvoy) (sc : Option Word) : Option Word :=
  if (getShard u x.ctx).state = .stopped then none else sc

/-- A named step is past for a core, or too far ahead. -/
def tooLate (c : Core) (named : Option Word) : Bool :=
  match named with
  | some w => stepLt w (firstStep c) || (w - c.st.step).toNat ≥ 2 ^ 30
  | none => false

/-- A share after a PREPARE that it accepts. -/
def askedShare (u : State) (n : Nat) (x : MemberConvoy) (sc : Option Word) (y : MemberConvoy) : MemberConvoy :=
  { y with
    sc := namedStep u x sc
    barrier := if (getShard u x.ctx).state == .stopped then none else some ((namedStep u x sc).getD (firstStep (getCore u n)))
    filling := x.records.any fun r => aKind r == 4 }

theorem memberPrepare_none {m : Member} {sc : Option Word} (h : findShare u m tag = none) : memberPrepare u m tag sc = u := by
  unfold memberPrepare
  rw [h]

section
variable {sc : Option Word} (h : findShare u (.core n) tag = some x)
include h

theorem memberPrepare_busy (hb : x.prepared = true ∨ x.filling = true) : memberPrepare u (.core n) tag sc = u := by
  unfold memberPrepare
  rw [h]
  exact if_pos hb

variable (hp : x.prepared = false) (hf : x.filling = false)
include hp hf

theorem memberPrepare_failed {r : BitVec 8} (hr : x.failed = some r) : memberPrepare u (.core n) tag sc =
    sendAnswer (discardShare u (.core n) tag false) (.core n) x.ctx tag (.abort stConvoyMember r) := by
  unfold memberPrepare
  rw [h]
  dsimp only
  rw [if_neg (by simp [hp, hf]), hr]

/-- A share without a failed record is aborted where the step is past, and else takes the step and asks for its FILLs. -/
theorem memberPrepare_core (hr : x.failed = none) : memberPrepare u (.core n) tag sc =
    if tooLate (getCore u n) (namedStep u x sc) then
      sendAnswer (discardShare u (.core n) tag false) (.core n) x.ctx tag (.abort stConvoyLate 0)
    else if (x.records.any fun r => aKind r == 4) = true then modShare u (.core n) tag (askedShare u n x sc)
    else endPrepare (modShare u (.core n) tag (askedShare u n x sc)) (.core n) tag := by
  unfold memberPrepare askedShare tooLate namedStep
  rw [h]
  dsimp only
  rw [if_neg (by simp [hp, hf]), hr]
  by_cases hst : (getShard u x.ctx).state = .stopped
  · simp [hst, armsBarrier]
  · cases sc <;> simp [hst, armsBarrier, memberStep]

end

/-! ### COMMIT at a core (R338) -/

theorem memberCommit_none {m : Member} {sc : Word} (h : findShare u m tag = none) : memberCommit u m tag sc = u := by
  unfold memberCommit
  rw [h]

theorem memberCommit_idle {m : Member} {sc : Word} (h : findShare u m tag = some x) (hx : x.prepared = false ∨ x.commit.isSome = true) :
    memberCommit u m tag sc = u := by
  unfold memberCommit
  rw [h]
  exact if_pos (hx.imp (fun hp => by rw [hp]; rfl) id)

/-- A core's share with the step of its COMMIT. -/
def committed (w : Word) (y : MemberConvoy) : MemberConvoy := { y with commit := some w, sc := some w, barrier := none }

/-- A core that has taken the step of a COMMIT. -/
def commitTaken (u : State) (n tag : Nat) (w : Word) : State := modCore (modShare u (.core n) tag (committed w)) n updHalt

theorem memberCommit_core {sc : Word} (h : findShare u (.core n) tag = some x) (hp : x.prepared = true) (hc : x.commit = none) :
    memberCommit u (.core n) tag sc =
      (let w := commitStep u (.core n) x.ctx sc
       let y := { x with commit := some w, sc := some w }
       let t := commitTaken u n tag w
       sendAck (if armsBarrier u (.core n) x.ctx || waitsHandler t (.core n) y then t else applyShare t (.core n) y) (.core n) x.ctx tag) := by
  unfold memberCommit commitTaken committed
  rw [h]
  dsimp only
  rw [if_neg (by simp [hp, hc])]
  have hb (w : Word) : (if (armsBarrier u (.core n) x.ctx && Member.core n == .hub) = true then some w else none) = none :=
    if_neg (by simp)
  simp only [hb]

/-! ### ABORT at a core (R340) -/

theorem memberAbort_none {m : Member} {late : Bool} (h : findShare u m tag = none) : memberAbort u m tag late = u := by
  unfold memberAbort
  rw [h]

theorem memberAbort_some {m : Member} {late : Bool} (h : findShare u m tag = some x) : memberAbort u m tag late =
    if x.commit.isSome then u else sendAck (discardShare u m tag late) m x.ctx tag := by
  unfold memberAbort
  rw [h]

/-! ### What a share's records change -/

/-- Cores other than one are the same. -/
def OtherCores (n : Nat) (s t : State) : Prop := ∀ k, k ≠ n → getCore t k = getCore s k

theorem otherCores_refl : OtherCores n s s := fun _ _ => rfl

theorem OtherCores.trans {t : State} (h1 : OtherCores n s u) (h2 : OtherCores n u t) : OtherCores n s t :=
  fun k hk => (h2 k hk).trans (h1 k hk)

theorem otherCores_setCore (c : Core) : OtherCores n s (setCore s n c) := fun k hk => by rw [getCore_setCore, if_neg hk]

theorem otherCores_modCore (f : Core → Core) : OtherCores n s (modCore s n f) := fun k hk => by rw [getCore_modCore, if_neg hk]

theorem otherCores_applyEff (e : Eff) : OtherCores n s (applyEff s n e) := fun k hk => by
  rw [applyEff, coreSendAll_touches]
  exact otherCores_setCore _ k hk

theorem otherCores_tileWrite (off : Nat) (v : Word) : OtherCores n s (tileWrite s n off v) := by
  unfold tileWrite
  split
  · split
    · unfold gateWrite
      split
      · exact otherCores_refl
      · exact fun _ _ => rfl
    · exact otherCores_refl
  · exact otherCores_modCore _

theorem otherCores_applyReg (r : ActionRecord) : OtherCores n s (applyReg s n r) := by
  unfold applyReg
  split
  · exact otherCores_tileWrite _ _
  · exact otherCores_modCore _

theorem otherCores_applyRec (sc : Option Word) (all : List ActionRecord) (r : ActionRecord) :
    OtherCores n s (applyRec s n sc all r) := by
  unfold applyRec
  dsimp only
  split
  case h_7 => exact otherCores_applyReg r
  case h_9 => exact otherCores_applyEff _
  case h_10 => exact otherCores_applyEff _
  case h_11 =>
    split
    · exact otherCores_applyEff _
    · exact otherCores_refl
  case h_14 => exact otherCores_refl
  all_goals exact otherCores_setCore _

theorem otherCores_applyRecs (sc : Option Word) (rs : List ActionRecord) : OtherCores n s (applyRecs s n sc rs) := by
  have hrecs : OtherCores n s (rs.foldl (fun s r => applyRec s n sc rs r) s) :=
    foldl_inv (OtherCores n s) _ (fun t r ht => ht.trans (otherCores_applyRec _ _ _)) rs s otherCores_refl
  unfold applyRecs
  dsimp only
  split
  · exact hrecs.trans (otherCores_modCore _)
  · exact hrecs

theorem otherCores_applyShare (y : MemberConvoy) : OtherCores n s (applyShare s (.core n) y) := by
  unfold applyShare setCvy
  exact ((otherCores_modCore _).trans (otherCores_applyRecs _ _)).trans (otherCores_modCore _)

end Sys2Proof.Machine
namespace Sys2Proof.Machine

variable {s u : State} {n tag : Nat} {x : MemberConvoy}

/-! ### The instructions of a member -/

theorem execPrepareReceive_core {sc : Option Word} (h : (cvyPkt s (.core n) 0x01 tag).all (portTurn s n) = true) :
    exec (.prepareReceive (.core n) tag sc) s = .next (memberPrepare (takeCvy s (.core n) 0x01 tag) (.core n) tag sc) :=
  congrArg Host.Outcome.next ((fromUnit_turn h).trans (congrArg (memberPrepare · _ tag sc) (if_neg (by simp))))

theorem execCommitReceive_core {sc : Word} (h : (cvyPkt s (.core n) 0x04 tag).all (portTurn s n) = true) :
    exec (.commitReceive (.core n) tag sc) s = .next (memberCommit (takeCvy s (.core n) 0x04 tag) (.core n) tag sc) :=
  congrArg Host.Outcome.next ((fromUnit_turn h).trans (congrArg (memberCommit · _ tag sc) (if_neg (by simp))))

theorem execAbortReceive_core (h : (cvyPkt s (.core n) 0x05 tag).all (portTurn s n) = true) :
    exec (.abortReceive (.core n) tag) s =
      .next (memberAbort (takeCvy s (.core n) 0x05 tag) (.core n) tag (abortIsLate s (.core n) tag)) :=
  congrArg Host.Outcome.next ((fromUnit_turn h).trans (congrArg (memberAbort · _ tag _) (if_neg (by simp))))

theorem execConvoyFillDone_none (h : findShare s (.core n) tag = none) : exec (.convoyFillDone (.core n) tag) s = .next s := by
  have he : exec (.convoyFillDone (.core n) tag) s = execConvoyFillDone (.core n) tag s := rfl
  rw [he]
  unfold execConvoyFillDone
  rw [h]

theorem execConvoyFillDone_some (h : findShare s (.core n) tag = some x) : exec (.convoyFillDone (.core n) tag) s =
    if x.filling = true ∧ fillTurn (getCore s n) = true then
      .next (endPrepare ((x.records.filter fun r => aKind r == 4 && fillsFree s n tag [r]).foldl (fun s r =>
        if outsideRegion s x.ctx (aArg r ≥ 2 ^ 28) (aArg r % 2 ^ 28 * 512) (64 * aUnits r) then s else applyFill s n r) s) (.core n) tag)
    else .next s := by
  have he : exec (.convoyFillDone (.core n) tag) s = execConvoyFillDone (.core n) tag s := rfl
  rw [he]
  unfold execConvoyFillDone
  rw [h]

theorem execConvoyApply_none {m : Member} (h : nextApply s m = none) : exec (.convoyApply m) s = .next s := by
  have he : exec (.convoyApply m) s = execConvoyApply m s := rfl
  rw [he]
  unfold execConvoyApply
  rw [h]

theorem execConvoyApply_some {m : Member} (h : nextApply s m = some x) : exec (.convoyApply m) s = .next (applyShare s m x) := by
  have he : exec (.convoyApply m) s = execConvoyApply m s := rfl
  rw [he]
  unfold execConvoyApply
  rw [h]

theorem execConvoyMemberTimer_none {m : Member} (h : findShare s m tag = none) : exec (.convoyMemberTimer m tag) s = .next s := by
  have he : exec (.convoyMemberTimer m tag) s = execConvoyMemberTimer m tag s := rfl
  rw [he]
  unfold execConvoyMemberTimer
  rw [h]

theorem execConvoyMemberTimer_some {m : Member} (h : findShare s m tag = some x) : exec (.convoyMemberTimer m tag) s =
    if x.prepared = true ∧ x.commit.isNone = true then
      if pathLost s (homeOf tag) then .next (orphan s m tag) else .next (memberSend s m x.ctx (homeOf tag) 0x07 tag 0)
    else .next s := by
  have he : exec (.convoyMemberTimer m tag) s = execConvoyMemberTimer m tag s := rfl
  rw [he]
  unfold execConvoyMemberTimer
  rw [h]

/-! ### A share's cores and shards -/

theorem updHalt_cvy (c : Core) : (updHalt c).cvy = c.cvy := by
  unfold updHalt
  dsimp only
  split
  · split <;> rfl
  · rfl

theorem sendAck_core_touches (ctx : Nat) : sendAck s (.core n) ctx tag = { s with fab := (sendAck s (.core n) ctx tag).fab } :=
  coreSend_touches ..

theorem shards_sendAck_core (ctx : Nat) : (sendAck s (.core n) ctx tag).shards = s.shards := by rw [sendAck_core_touches]

theorem getCore_sendAck_core (ctx k : Nat) : getCore (sendAck s (.core n) ctx tag) k = getCore s k := by
  rw [sendAck_core_touches]
  rfl

theorem shards_takeCvy (sub : Nat) : (takeCvy s (.core n) sub tag).shards = s.shards := by rw [takeCvy_touches]

/-- The shares of a core that has taken the step of a COMMIT. -/
theorem cvy_commitTaken (w : Word) : (getCore (commitTaken u n tag w) n).cvy =
    (getCore u n).cvy.map fun y => if y.tag = tag then committed w y else y := by
  rw [commitTaken, getCore_modCore, if_pos rfl, updHalt_cvy]
  exact congrArg Core.cvy ((getCore_modCore ..).trans (if_pos rfl))

theorem otherCores_commitTaken (w : Word) : OtherCores n u (commitTaken u n tag w) := by
  unfold commitTaken modShare setCvy
  exact OtherCores.trans (otherCores_modCore _) (otherCores_modCore _)

theorem shards_commitTaken (w : Word) : (commitTaken u n tag w).shards = u.shards := rfl

theorem firstStep_of_st {c d : Core} (h : c.st = d.st) : firstStep c = firstStep d := by
  unfold firstStep
  rw [h]

theorem tooLate_of_st {c d : Core} (h : c.st = d.st) (named : Option Word) : tooLate c named = tooLate d named := by
  unfold tooLate
  rw [h, firstStep_of_st h]

/-! ### Records that arrive (R330, R331) -/

theorem stageRecord_home {ctx : Nat} {r : ActionRecord} {sc : Option Word} (hh : homeOf tag = devNo s)
    (hb : aTcore r = 0x3FF ∨ boundTo s ctx (aTcore r) = true) :
    stageRecord s ctx tag r sc = (stageHere s ctx tag false r).1 := by
  have hrel : relayFor s ctx tag sc = s := if_pos (Or.inl hh)
  unfold stageRecord
  dsimp only
  rw [hrel, if_neg (fun hno => hb.elim hno.1 fun hbound => by simp [hbound] at hno), if_neg fun hno => hno.1 hh]

theorem onlyFabric_foldl_hubDone (ps : List Packet) : OnlyFabric s (ps.foldl hubDone s) :=
  foldl_inv (OnlyFabric s) hubDone (fun _ _ ht => ht.trans (hubDone_touches ..)) ps s rfl

/-- What CONVOY_RECORD_STAGE does in its turn. -/
def recordStaged (v : State) (mid : Nat) (r : ActionRecord) : State :=
  if (mid ≠ 6 ∧ mid ≠ 0xA ∧ mid ≠ 0xB) ∨ aTdev r ≠ devNo v then (recordIn v r).foldl hubDone v
  else stageRecord ((recordIn v r).foldl hubDone v) (ctxOfRecord v r) (aTag r) r (recordSc v r)

theorem execConvoyRecordStage_stays {mid : Nat} {r : ActionRecord} (h : hubMay s.pwr.pl.toNat s.fab.cvy 5 = false) :
    exec (.convoyRecordStage mid r) s = .next s := congrArg Host.Outcome.next (unitTurn_stays h)

theorem execConvoyRecordStage_runs {mid : Nat} {r : ActionRecord} (h : hubMay s.pwr.pl.toNat s.fab.cvy 5 = true) :
    exec (.convoyRecordStage mid r) s = .next (recordStaged (unitCycles s 5 1) mid r) :=
  congrArg Host.Outcome.next (unitTurn_may h)

/-- A core that holds a share of a convoy takes its messages in their turn (first part of O31). -/
theorem member_prepares (hx : findShare s (.core n) tag = some x) (sc : Option Word)
    (hturn : (cvyPkt s (.core n) 0x01 tag).all (portTurn s n) = true) :
    let u := takeCvy s (.core n) 0x01 tag
    (x.prepared = true ∨ x.filling = true → exec (.prepareReceive (.core n) tag sc) s = .next u) ∧
    (x.prepared = false → x.filling = false →
      (∀ r, x.failed = some r → exec (.prepareReceive (.core n) tag sc) s =
        .next (sendAnswer (discardShare u (.core n) tag false) (.core n) x.ctx tag (.abort stConvoyMember r))) ∧
      (x.failed = none → exec (.prepareReceive (.core n) tag sc) s =
        .next (if tooLate (getCore s n) (namedStep s x sc) then
          sendAnswer (discardShare u (.core n) tag false) (.core n) x.ctx tag (.abort stConvoyLate 0)
        else if (x.records.any fun r => aKind r == 4) = true then modShare u (.core n) tag (askedShare s n x sc)
        else endPrepare (modShare u (.core n) tag (askedShare s n x sc)) (.core n) tag))) := by
  intro u
  have he := execPrepareReceive_core (sc := sc) hturn
  have hu : findShare u (.core n) tag = some x := (findShare_takeCvy 0x01 tag).trans hx
  have hst : (getCore u n).st = (getCore s n).st := (getCore_takeCvy 0x01).2
  have hname : namedStep u x sc = namedStep s x sc := by
    unfold namedStep
    rw [getShard_takeCvy]
  have hshare : askedShare u n x sc = askedShare s n x sc := by
    unfold askedShare
    rw [hname, getShard_takeCvy, firstStep_of_st hst]
  refine ⟨fun hb => he.trans (congrArg _ (memberPrepare_busy hu hb)), fun hp hf =>
    ⟨fun r hr => he.trans (congrArg _ (memberPrepare_failed hu hp hf hr)), fun hr => ?_⟩⟩
  rw [he, memberPrepare_core hu hp hf hr, hname, hshare, tooLate_of_st hst]

/-- A prepared core takes the step of COMMIT (R338). -/
theorem member_commits (hx : findShare s (.core n) tag = some x) (sc : Word)
    (hturn : (cvyPkt s (.core n) 0x04 tag).all (portTurn s n) = true) (hp : x.prepared = true) (hc : x.commit = none) :
    exec (.commitReceive (.core n) tag sc) s = .next
      (let w := if (getShard s x.ctx).state = .stopped then (getCore s n).st.step else sc
       let y := { x with commit := some w, sc := some w }
       let t := commitTaken (takeCvy s (.core n) 0x04 tag) n tag w
       sendAck (if (getShard s x.ctx).state != .stopped || waitsHandler t (.core n) y then t else applyShare t (.core n) y)
        (.core n) x.ctx tag) := by
  have hstep : commitStep (takeCvy s (.core n) 0x04 tag) (.core n) x.ctx sc =
      if (getShard s x.ctx).state = .stopped then (getCore s n).st.step else sc := by
    change (if (getShard (takeCvy s (.core n) 0x04 tag) x.ctx).state = .stopped then
      (getCore (takeCvy s (.core n) 0x04 tag) n).st.step else sc) = _
    rw [getShard_takeCvy, (getCore_takeCvy 0x04).2]
  have harms : armsBarrier (takeCvy s (.core n) 0x04 tag) (.core n) x.ctx = ((getShard s x.ctx).state != .stopped) := by
    unfold armsBarrier
    rw [getShard_takeCvy]
    exact Bool.and_true _
  rw [execCommitReceive_core hturn, memberCommit_core ((findShare_takeCvy 0x04 tag).trans hx) hp hc, hstep, harms]

theorem member_commits_running (hx : findShare s (.core n) tag = some x) (sc : Word)
    (hturn : (cvyPkt s (.core n) 0x04 tag).all (portTurn s n) = true) (hp : x.prepared = true) (hc : x.commit = none)
    (hs : (getShard s x.ctx).state ≠ .stopped) : exec (.commitReceive (.core n) tag sc) s =
      .next (sendAck (commitTaken (takeCvy s (.core n) 0x04 tag) n tag sc) (.core n) x.ctx tag) := by
  rw [member_commits hx sc hturn hp hc]
  simp [hs]

/-- What the core's acknowledgement of a COMMIT leaves behind it. -/
theorem member_committed {ctx : Nat} (sc : Word) :
    let t := sendAck (commitTaken (takeCvy s (.core n) 0x04 tag) n tag sc) (.core n) ctx tag
    t.shards = s.shards ∧ (∀ k, k ≠ n → getCore t k = getCore s k) ∧
      (getCore t n).cvy = (getCore s n).cvy.map fun y => if y.tag = tag then committed sc y else y := by
  dsimp only
  refine ⟨?_, fun k hk => ?_, ?_⟩
  · rw [shards_sendAck_core, shards_commitTaken, shards_takeCvy]
  · rw [getCore_sendAck_core, otherCores_commitTaken sc k hk, getCore_takeCvy_other 0x04 hk]
  · rw [getCore_sendAck_core, cvy_commitTaken, (getCore_takeCvy 0x04).1]

/-- Settles O31: a core follows the state of its share; a hub passes the message on; a record is staged by its master. -/
theorem membersPrepareCommitAndApply : Obligations.MembersPrepareCommitAndApply := by
  refine ⟨fun s n tag x hx => ?_, fun s n tag hx => ?_, fun s tag => ?_, fun s mid r => ?_⟩
  · intro m c first stopped turn
    refine ⟨fun sc hturn => ?_, fun hno => ?_, fun hf ht => ?_, fun sc hturn => ?_, fun hturn => ?_, fun ht sc => ?_, fun ht sc => ?_,
      fun ht => ?_, execConvoyApply_none, fun y hy => ?_, fun hp hc hl => ?_, fun hp hc hl => ?_, fun hno => ?_⟩
    · intro u named late share
      obtain ⟨hbusy, hfree⟩ := member_prepares hx sc hturn
      refine ⟨hbusy, fun hp hf => ?_⟩
      obtain ⟨hfail, hgo⟩ := hfree hp hf
      refine ⟨hfail, fun hr hl => (hgo hr).trans (congrArg _ (if_pos hl)), fun hr hl =>
        (hgo hr).trans (congrArg _ (if_neg (ne_true_of_eq_false hl)))⟩
    · exact (execConvoyFillDone_some hx).trans (if_neg fun h => hno.elim (fun h1 => by simp [h1] at h) fun h1 => by
        rw [show fillTurn (getCore s n) = false from h1] at h
        simp at h)
    · exact (execConvoyFillDone_some hx).trans (if_pos ⟨hf, ht⟩)
    · intro u share taken
      refine ⟨fun hp hc hs => ?_, fun hp hc hs => ?_, fun hno => ?_⟩
      · have hne : (getShard s x.ctx).state ≠ .stopped := ne_of_beq_false hs
        exact ⟨_, member_commits_running hx sc hturn hp hc hne, member_committed sc⟩
      · intro y
        have hst : (getShard s x.ctx).state = .stopped := eq_of_beq hs
        rw [member_commits hx sc hturn hp hc]
        simp only [hst, if_true, bne_self_eq_false, Bool.false_or]
        rfl
      · exact (execCommitReceive_core hturn).trans (congrArg _ (memberCommit_idle ((findShare_takeCvy 0x04 tag).trans hx) hno))
    · have he := (execAbortReceive_core hturn).trans (congrArg _ (memberAbort_some ((findShare_takeCvy 0x05 tag).trans hx)))
      exact ⟨fun hc => he.trans (congrArg _ (if_pos hc)), fun hc => he.trans (congrArg _ (if_neg (by simp [hc])))⟩
    · exact congrArg Host.Outcome.next (fromUnit_stays ht)
    · exact congrArg Host.Outcome.next (fromUnit_stays ht)
    · exact congrArg Host.Outcome.next (fromUnit_stays ht)
    · exact ⟨_, execConvoyApply_some hy, rfl, otherCores_applyShare y⟩
    · exact (execConvoyMemberTimer_some hx).trans ((if_pos ⟨hp, by simp [hc]⟩).trans (if_neg (ne_true_of_eq_false hl)))
    · exact (execConvoyMemberTimer_some hx).trans ((if_pos ⟨hp, by simp [hc]⟩).trans (if_pos hl))
    · exact (execConvoyMemberTimer_some hx).trans (if_neg fun h => hno.elim (fun h1 => by simp [h1] at h) fun h1 => by
        have := Option.isNone_iff_eq_none.1 h.2
        simp [this] at h1)
  · intro m
    have hu (sub : Nat) : findShare (takeCvy s (.core n) sub tag) (.core n) tag = none := (findShare_takeCvy sub tag).trans hx
    exact ⟨fun sc ht => (execPrepareReceive_core ht).trans (congrArg _ (memberPrepare_none (hu _))),
      fun sc ht => (execCommitReceive_core ht).trans (congrArg _ (memberCommit_none (hu _))),
      fun ht => (execAbortReceive_core ht).trans (congrArg _ (memberAbort_none (hu _))),
      execConvoyMemberTimer_none hx, execConvoyFillDone_none hx⟩
  · intro status
    exact ⟨fun sc => congrArg Host.Outcome.next fromUnit_hub, fun sc => congrArg Host.Outcome.next fromUnit_hub,
      congrArg Host.Outcome.next fromUnit_hub⟩
  · intro v u ctx may
    refine ⟨execConvoyRecordStage_stays, fun hmay => ?_⟩
    have he : exec (.convoyRecordStage mid r) s = .next (recordStaged v mid r) := execConvoyRecordStage_runs hmay
    have hgo (hm : may) (hd : aTdev r = devNo s) : exec (.convoyRecordStage mid r) s = .next (stageRecord u ctx (aTag r) r (recordSc v r)) :=
      he.trans (congrArg _ (if_neg fun h => h.elim (fun h => by
        obtain ⟨h1, h2, h3⟩ := h
        exact hm.elim h1 fun hm => hm.elim h2 h3) fun h => h hd))
    refine ⟨fun hno => he.trans (congrArg _ (if_pos (hno.imp (fun h => ?_) id))), hgo, fun hm hd hh hb => ?_⟩
    · exact ⟨fun h1 => h (Or.inl h1), fun h1 => h (Or.inr (Or.inl h1)), fun h1 => h (Or.inr (Or.inr h1))⟩
    · have hu : OnlyFabric v u := onlyFabric_foldl_hubDone _
      rw [hgo hm hd, stageRecord_home (hh.trans hu.devNo_eq.symm)]
      rw [hu]
      exact hb

end Sys2Proof.Machine
end

section
/-! SUPPORT. The boundaries of a step; the obligation StepPhasesFollowInOrder. -/

namespace Sys2Proof.Machine

variable {s : State} {c : Core} {n : Nat} {e : Eff}

/-! ### What the parts of a step leave of a core -/

theorem wakeWord_touches (c : Core) : wakeWord c = { c with hnd := (wakeWord c).hnd } := by
  unfold wakeWord
  split
  · dsimp only
    split <;> rfl
  · rfl

@[simp] theorem wakeWord_st (c : Core) : (wakeWord c).st = c.st := by rw [wakeWord_touches]

@[simp] theorem wakeWord_nrn (c : Core) : (wakeWord c).nrn = c.nrn := by rw [wakeWord_touches]

@[simp] theorem wakeWord_lrn (c : Core) : (wakeWord c).lrn = c.lrn := by rw [wakeWord_touches]

@[simp] theorem wakeWord_syn (c : Core) : (wakeWord c).syn = c.syn := by rw [wakeWord_touches]

@[simp] theorem wakeWord_cnt (c : Core) : (wakeWord c).cnt = c.cnt := by rw [wakeWord_touches]

@[simp] theorem wakeWord_ldm (c : Core) : (wakeWord c).ldm = c.ldm := by rw [wakeWord_touches]

theorem getCore_applyEff (s : State) (n : Nat) (e : Eff) : getCore (applyEff s n e) n = wakeWord e.core := by
  rw [applyEff, coreSendAll_touches]
  exact (getCore_setCore ..).trans (if_pos rfl)

/-- The work of a core touches that core and the fabric. -/
theorem onlyTheCore_applyEff (s : State) (n : Nat) (e : Eff) : OnlyTheCore s (applyEff s n e) n := by
  refine ⟨?_, otherCores_applyEff e⟩
  rw [applyEff, coreSendAll_touches]
  rfl

theorem getShard_applyEff (k : Nat) : getShard (applyEff s n e) k = getShard s k := by
  rw [applyEff, coreSendAll_touches]
  rfl

theorem onlyTheCore_setCore (s : State) (n : Nat) (c : Core) : OnlyTheCore s (setCore s n c) n := ⟨rfl, otherCores_setCore c⟩

theorem getCore_setCore_self (s : State) (n : Nat) (c : Core) : getCore (setCore s n c) n = c := by rw [getCore_setCore, if_pos rfl]

theorem modBoundary_touches (c : Core) (u : Word) :
    modBoundary c u = { c with ldm := (modBoundary c u).ldm, cnt := (modBoundary c u).cnt } := by
  unfold modBoundary
  dsimp only
  split
  · split <;> rfl
  · rfl

@[simp] theorem modBoundary_st (c : Core) (u : Word) : (modBoundary c u).st = c.st := by rw [modBoundary_touches]

@[simp] theorem modBoundary_syn (c : Core) (u : Word) : (modBoundary c u).syn = c.syn := by rw [modBoundary_touches]

/-- Folding the steps that are complete moves c and the counts of its window. -/
theorem advance_touches (n : Nat) (c : Core) :
    advance n c = { c with st := { c.st with rg := (advance n c).st.rg, c := (advance n c).st.c } } := by
  induction n generalizing c with
  | zero => rfl
  | succ n ih =>
    unfold advance
    dsimp only
    split
    · rw [ih]
    · rfl

theorem updHalt_touches (c : Core) : updHalt c = { c with
    cnt := (updHalt c).cnt, st := { c.st with forceHalt := (updHalt c).st.forceHalt, haltStep := (updHalt c).st.haltStep } } := by
  unfold updHalt
  dsimp only
  split
  · split <;> rfl
  · rfl

theorem evaluate_st (c : Core) (n : Nat) (u : Word) : (evaluate c n u).1.st = c.st := by
  unfold evaluate
  dsimp only
  split <;> split <;> rfl

theorem evaluateAll_st (u : Word) (c : Core) (ns : List Nat) : (evaluateAll u c ns).1.st = c.st := by
  induction ns generalizing c with
  | nil => rfl
  | cons n ns ih => exact (ih _).trans (evaluate_st ..)

theorem noteFire_st (v : Env) (u : Word) (n k : Nat) (c : Core) (r : ReadRange) : (noteFire v u n k c r).st = c.st := by
  unfold noteFire
  dsimp only
  split <;> rfl

theorem fireStep_st (v : Env) (c : Core) :
    (fireStep v c).core.st = { c.st with phase := .fire, cr := nset 0 c.st.cr (c.st.step.toNat % 16) 0 } := by
  have hfire : ∀ (fs : List (Nat × Nat)) (k : Core),
      (fs.foldl (fun k f => (readRanges k).foldl (noteFire v c.st.step f.1 f.2) k) k).st = k.st :=
    fun fs k => foldl_keeps Core.st (fun k (f : Nat × Nat) => (readRanges k).foldl (noteFire v c.st.step f.1 f.2) k)
      (fun k f => foldl_keeps Core.st _ (noteFire_st v c.st.step f.1 f.2) (readRanges k) k) fs k
  unfold fireStep
  exact (hfire ..).trans (evaluateAll_st ..)

theorem requantWord_st (n : Nat) (x : Int) : (requantWord c n x).st = c.st := by
  unfold requantWord
  dsimp only
  split <;> split <;> rfl

/-- CLOSE takes up the touched neurons and leaves the step's state. -/
theorem closeNeurons_st (c : Core) : (closeNeurons c).st = c.st := by
  unfold closeNeurons
  exact foldl_keeps Core.st (fun c n => { requantWord c n (accOf c n) with nrn := setAcc (requantWord c n (accOf c n)).nrn n 0 })
    (fun c n => requantWord_st n (accOf c n)) c.nrn.touch c

theorem clearRange_lrn (c : Core) (r : ReadRange) : (clearRange c r).lrn = c.lrn := by
  unfold clearRange
  exact foldl_keeps Core.lrn _ (fun _ _ => by rfl) _ c

/-- A step with no entry due begins INTEGRATE with what its boundary leaves. -/
theorem openStep_st (v : Env) (h : ∀ r ∈ c.syn.ring, r.due ≠ c.st.step) :
    (openStep v c).core.st = { c.st with phase := .integrate, forceHalt := false } := by
  have hnone : ∀ d : Core, d.syn = c.syn → (d.syn.ring.filter fun r => r.due == c.st.step) = [] := fun d hd => by
    rw [hd]
    exact List.filter_eq_nil_iff.2 fun r hr => by simpa using h r hr
  unfold openStep
  dsimp only
  rw [hnone]
  · simp only [integrateAll, List.foldl_nil, modBoundary_st]
    split <;> rfl
  · rw [modBoundary_syn]
    split <;> rfl

/-- The end of CLOSE begins the next step, with the LFSR as it stands and nothing left to commit. -/
theorem endClose_core (v : Env) (c : Core) :
    let d := (endClose v c).core
    d.st.phase = .waiting ∧ d.st.step = c.st.step + 1 ∧ d.nrn.lfsrAtClose = d.nrn.lfsr ∧ d.lrn.pending = [] ∧ d.lrn.depotOut = [] := by
  have hlrn := foldl_keeps Core.lrn clearRange clearRange_lrn (endingRanges v (commitLearn v c).core c.st.step) (commitLearn v c).core
  unfold endClose
  dsimp only
  rw [updHalt_touches, advance_touches]
  exact ⟨rfl, rfl, rfl, congrArg LearnState.pending hlrn, congrArg LearnState.depotOut hlrn⟩

/-! ### The boundaries of a step (R114, R117-R119, R129, R137) -/

theorem execCloseEnd_plain (hp : (getCore s n).st.phase = .close) (hs : (getShard s (getCore s n).ctx).saving = none) :
    exec (.closeEnd n) s = .next (applyEff s n (endClose (envOf s n) (getCore s n))) := by
  have he : exec (.closeEnd n) s = execCloseEnd n s := rfl
  rw [he]
  unfold execCloseEnd
  dsimp only
  rw [if_pos hp, getShard_applyEff, hs]

theorem execCloseEnd_saving (hp : (getCore s n).st.phase = .close) {h : Nat} {q : BitVec 16} {b : Option Word}
    (hs : (getShard s (getCore s n).ctx).saving = some (h, q, b)) : exec (.closeEnd n) s =
      .next (beginImages (applyEff s n (endClose (envOf s n) (getCore s n))) (getCore s n).ctx [n] b) := by
  have he : exec (.closeEnd n) s = execCloseEnd n s := rfl
  rw [he]
  unfold execCloseEnd
  dsimp only
  rw [if_pos hp, getShard_applyEff, hs]

/-- Settles O33: each boundary is the core's own; where its condition fails the core stays as it is. -/
theorem stepPhasesFollowInOrder : Obligations.StepPhasesFollowInOrder := by
  intro s n c v
  refine ⟨fun hno => if_neg fun h => ?_, fun hm hw => ?_, fun hm => if_pos hm, fun hm => if_neg (ne_true_of_eq_false hm), fun hm => ?_,
    fun hm => if_neg (ne_true_of_eq_false hm), fun hp => ?_, fun hp => if_neg hp, fun hp hw => ?_,
    fun hno => if_neg fun h => hno.elim (· h.1) (· h.2), fun hp => ?_, fun hp => if_neg hp⟩
  · exact hno.elim (fun h1 => by rw [h.1] at h1; cases h1) fun h1 => by rw [h.2] at h1; cases h1
  · refine ⟨_, if_pos ⟨hm, hw⟩, onlyTheCore_applyEff .., rfl, fun hr => ?_⟩
    rw [getCore_applyEff, wakeWord_st]
    exact openStep_st v hr
  · refine ⟨_, if_pos hm, onlyTheCore_applyEff .., rfl, ?_⟩
    rw [getCore_applyEff, wakeWord_st]
    exact fireStep_st v c
  · exact ⟨_, if_pos hp, onlyTheCore_applyEff .., rfl⟩
  · refine ⟨_, if_pos ⟨hp, hw⟩, onlyTheCore_setCore .., rfl, ?_⟩
    rw [getCore_setCore_self]
    exact ⟨closeNeurons_st _, rfl, rfl⟩
  · intro t
    have hcore : getCore t n = wakeWord (endClose v c).core := getCore_applyEff ..
    obtain ⟨h1, h2, h3, h4, h5⟩ := endClose_core v c
    refine ⟨onlyTheCore_applyEff .., ?_, ?_, ?_, ?_, ?_, execCloseEnd_plain hp,
      fun h q b => execCloseEnd_saving hp⟩
    · rw [hcore, wakeWord_st, h1]
    · rw [hcore, wakeWord_st, h2]
    · rw [hcore, wakeWord_nrn, h3]
    · rw [hcore, wakeWord_lrn, h4]
    · rw [hcore, wakeWord_lrn, h5]

end Sys2Proof.Machine
end

section
/-! SUPPORT. Port states; the obligation PortStatesFollowTheTraining. -/

namespace Sys2Proof.Machine

variable {s t u : State} {p : Nat}

/-! ### What leaves the ports (R394) -/

theorem getPort_of_ports (h : t.ports = s.ports) (k : Nat) : getPort t k = getPort s k := congrArg (nget ({} : Port) · k) h

theorem OnlyConvoyUnit.ports_eq (h : OnlyConvoyUnit s t) : t.ports = s.ports := by
  unfold OnlyConvoyUnit at h
  rw [h]

theorem bookReach_ports : (bookReach s).ports = s.ports := by
  unfold bookReach
  dsimp only
  split <;> rfl

theorem returnPkt_ports (tile : Nat) (q : Packet) (st : Status) : (returnPkt s tile q st).ports = s.ports := by
  unfold returnPkt
  dsimp only
  split <;> rfl

theorem downNotices_ports (port : Nat) : (downNotices s port).ports = s.ports := by
  unfold downNotices
  exact foldl_keeps State.ports _ (fun s c => foldl_keeps State.ports _ (fun s d => notice_ports ..) _ s) _ s

theorem convoysLose_ports (port : Nat) : (convoysLose s port).ports = s.ports := by
  unfold convoysLose
  refine foldl_keeps State.ports _ (fun s c => ?_) _ s
  split
  · exact foldl_keeps State.ports _ (fun s d => (onlyConvoyUnit_loseDevice ..).ports_eq) _ s
  · rfl

theorem downReports_ports (port : Nat) (removed : Bool) : (downReports s port removed).ports = s.ports := by
  unfold downReports
  rw [downNotices_ports, convoysLose_ports]
  split
  · exact (onlyConvoyUnit_loseDevice ..).ports_eq
  · rfl

/-! ### A link that is lost -/

/-- A port that has lost its link, and the others as they were. -/
def LinkLost (s t : State) (p : Nat) (st : PortState) (sent : Option PeerParams) : Prop :=
  ((getPort t p).state = st ∧ ∀ k, k ≠ p → getPort t k = getPort s k) ∧
    (getPort t p).retry = [] ∧ (getPort t p).tx = [] ∧ (getPort t p).nextSeq = 1 ∧ (getPort t p).sentPar = sent

theorem LinkLost.of_ports {st : PortState} {x : Option PeerParams} (h : LinkLost s t p st x) (hp : u.ports = t.ports) :
    LinkLost s u p st x := by
  unfold LinkLost
  simp only [getPort_of_ports hp]
  exact h

/-- A packet that comes back counts at most, and changes nothing else of the port. -/
theorem LinkLost.returnDown {st : PortState} {x : Option PeerParams} (h : LinkLost s t p st x) (q : Packet) :
    LinkLost s (returnDown t p q) p st x := by
  obtain ⟨⟨h1, h2⟩, h3, h4, h5, h6⟩ := h
  refine LinkLost.of_ports (t := modPort t p fun x => if vcOf q = 0 then x else { x with ldnack := satAdd x.ldnack 1 }) ?_
    (returnPkt_ports ..)
  unfold LinkLost
  have hself : getPort (modPort t p fun x => if vcOf q = 0 then x else { x with ldnack := satAdd x.ldnack 1 }) p =
      if vcOf q = 0 then getPort t p else { getPort t p with ldnack := satAdd (getPort t p).ldnack 1 } :=
    (getPort_modPort ..).trans (if_pos rfl)
  rw [hself]
  refine ⟨⟨?_, fun k hk => (getPort_modPort ..).trans ((if_neg hk).trans (h2 k hk))⟩, ?_, ?_, ?_, ?_⟩ <;> split <;> assumption

/-- The packets of a cleared port come back one by one. -/
theorem linkLost_returned {y : Port} {x : Option PeerParams} (h1 : y.retry = []) (h2 : y.tx = []) (h3 : y.nextSeq = 1)
    (h4 : y.sentPar = x) (ps : List Packet) :
    LinkLost s (ps.foldl (fun s q => returnDown s p q) (setPort s p y)) p y.state x := by
  refine foldl_inv (LinkLost s · p y.state x) _ (fun t q ht => ht.returnDown q) ps _ ?_
  unfold LinkLost
  rw [getPort_setPort, if_pos rfl]
  exact ⟨⟨rfl, fun k hk => (getPort_setPort ..).trans (if_neg hk)⟩, h1, h2, h3, h4⟩

theorem loseLink_lost (p : Nat) (st : PortState) (removed : Bool) :
    LinkLost s (loseLink s p st removed) p st (getPort s p).sentPar := by
  unfold loseLink
  dsimp only
  refine LinkLost.of_ports ?_ bookReach_ports
  split
  · exact (linkLost_returned (y := { linkClear (getPort s p) with state := st, lanes := _, downs := _ }) rfl rfl rfl rfl _).of_ports
      (downReports_ports ..)
  · exact linkLost_returned (y := { linkClear (getPort s p) with state := st, lanes := _, downs := _ }) rfl rfl rfl rfl _

theorem portDown_lost (hp : p < 6) (hr : runs (getPort s p) = true) (removed : Bool) :
    LinkLost s (portDown s p removed) p .down (getPort s p).sentPar := by
  rw [portDown, if_pos ⟨hp, hr⟩]
  exact loseLink_lost ..

theorem runs_iff (x : Port) : runs x = true ↔ x.state ≠ .disabled ∧ x.state ≠ .down := by
  unfold runs
  cases x.state <;> decide

/-! ### Training (R384, R385) -/

theorem sendParams_self : getPort (sendParams s p) p = { getPort s p with sentPar := some (ownParams s p) } :=
  (getPort_modPort ..).trans (if_pos rfl)

theorem getPort_modPort_self (f : Port → Port) : getPort (modPort s p f) p = f (getPort s p) := (getPort_modPort ..).trans (if_pos rfl)

theorem getPort_modPort_other {k : Nat} (hk : k ≠ p) (f : Port → Port) : getPort (modPort s p f) k = getPort s k :=
  (getPort_modPort ..).trans (if_neg hk)

theorem toActive_self : getPort (toActive s p) p = { getPort s p with
    state := .active, retraining := false, nakTaken := none, retry := (getPort s p).retry.map fun f => { f with sent := false } } := by
  rw [toActive, getPort_of_ports bookReach_ports, getPort_modPort_self]

theorem toActive_other {k : Nat} (hk : k ≠ p) : getPort (toActive s p) k = getPort s k := by
  rw [toActive, getPort_of_ports bookReach_ports, getPort_modPort_other hk]

/-- A port with the parameters that its peer sent. -/
def heard (s : State) (p : Nat) (peer : PeerParams) : State :=
  modPort s p fun x => { x with
    peerFe := peer.frontEnd, peerBook := BitVec.ofNat 8 (fld peer.shape 7 0), peerPort := peer.port, peerDev := peer.dev }

theorem heard_self (peer : PeerParams) : getPort (heard s p peer) p = { getPort s p with
    peerFe := peer.frontEnd, peerBook := BitVec.ofNat 8 (fld peer.shape 7 0), peerPort := peer.port, peerDev := peer.dev } :=
  getPort_modPort_self _

theorem paramsMatch_heard (peer : PeerParams) : paramsMatch (heard s p peer) p peer = paramsMatch s p peer := by
  have hfe : (getPort (heard s p peer) p).fe = (getPort s p).fe := by rw [heard_self]
  unfold paramsMatch
  rw [hfe]
  rfl

theorem takeParams_match {peer : PeerParams} (h : paramsMatch s p peer = true) : takeParams s p peer = toActive (heard s p peer) p :=
  if_pos ((paramsMatch_heard peer).trans h)

theorem takeParams_other {peer : PeerParams} (h : paramsMatch s p peer = false) : takeParams s p peer =
    if (getPort s p).state = .miswired then heard s p peer else loseLink (heard s p peer) p .miswired false := by
  have hst : (getPort (heard s p peer) p).state = (getPort s p).state := by rw [heard_self]
  rw [← hst]
  exact if_neg (ne_true_of_eq_false ((paramsMatch_heard peer).trans h))

theorem heard_other (peer : PeerParams) {k : Nat} (hk : k ≠ p) : getPort (heard s p peer) k = getPort s k := getPort_modPort_other hk _

/-- The parameters of a peer make the port ACTIVE where they match, and MISWIRED where they do not. -/
theorem takeParams_ends (peer : PeerParams) :
    (∀ k, k ≠ p → getPort (takeParams s p peer) k = getPort s k) ∧
    (getPort (takeParams s p peer) p).sentPar = (getPort s p).sentPar ∧
    (paramsMatch s p peer = true → (getPort (takeParams s p peer) p).state = .active ∧
      (getPort (takeParams s p peer) p).peerDev = peer.dev ∧ ∀ f ∈ (getPort (takeParams s p peer) p).retry, f.sent = false) ∧
    (paramsMatch s p peer = false → (getPort (takeParams s p peer) p).state = .miswired) := by
  cases hm : paramsMatch s p peer with
  | true =>
    rw [takeParams_match hm, toActive_self, heard_self]
    refine ⟨fun k hk => (toActive_other hk).trans (heard_other peer hk), rfl, fun _ => ⟨rfl, rfl, fun f hf => ?_⟩, fun h => by cases h⟩
    obtain ⟨g, -, rfl⟩ := List.mem_map.1 hf
    rfl
  | false =>
    rw [takeParams_other hm]
    by_cases hst : (getPort s p).state = .miswired
    · rw [if_pos hst, heard_self]
      exact ⟨fun k hk => heard_other peer hk, rfl, (fun h => by cases h), fun _ => hst⟩
    · rw [if_neg hst]
      obtain ⟨⟨h1, h2⟩, -, -, -, h6⟩ := loseLink_lost (s := heard s p peer) p .miswired false
      refine ⟨fun k hk => (h2 k hk).trans (heard_other peer hk), ?_, (fun h => by cases h), fun _ => h1⟩
      rw [h6, heard_self]

/-! ### LPI (R399) -/

theorem rxOff_state (x : Port) (b : Nat) : (rxOff x b).state = x.state := rfl

theorem leavePortLpi_state {x : Port} (h : x.state = .lpi) : (leavePortLpi x).state = .align := by
  rw [leavePortLpi, if_pos h, rxOffAll, if_neg (fun hs : PortState.align = .lpi => by cases hs)]
  exact foldl_keeps Port.state _ rxOff_state _ _

theorem execLossOfSignal_ports (p : Nat) (removed : Bool) :
    ∃ t, exec (.lossOfSignal p removed) s = .next t ∧ t.ports = (portDown s p removed).ports := by
  have he : exec (.lossOfSignal p removed) s = execLossOfSignal p removed s := rfl
  rw [he]
  unfold execLossOfSignal
  dsimp only
  split
  · refine ⟨_, rfl, foldl_keeps State.ports _ (fun s c => ?_) _ _⟩
    split
    · exact notice_ports ..
    · rfl
  · exact ⟨_, rfl, rfl⟩

/-- Settles O37: each instruction moves its own port from the state that it needs. -/
theorem portStatesFollowTheTraining : Obligations.PortStatesFollowTheTraining := by
  intro s p hp x ends down
  have hdown {t : State} {y : Option PeerParams} (h : LinkLost s t p .down y) : down t := by
    obtain ⟨h1, h3, h4, h5, -⟩ := h
    exact ⟨h1, h3, h4, h5⟩
  have hrun {st : PortState} (h : x.state = st) (hd : st ≠ .disabled ∧ st ≠ .down) : runs x = true := (runs_iff x).2 (by rwa [h])
  refine ⟨fun h => if_pos ⟨hp, h⟩, fun h => if_neg fun hh => h hh.2, fun h => ⟨congrArg _ (if_pos ⟨hp, h⟩), ?_⟩,
    fun h => ⟨congrArg _ (if_neg fun hh => h hh.2), congrArg _ (if_neg h)⟩, fun h => ⟨?_, ?_⟩,
    fun h1 h2 => ⟨if_neg fun hh => hh.2.elim h1 h2, congrArg _ (if_neg fun hh => hh.elim h1 h2)⟩, fun peer h => ?_,
    fun peer h => if_neg fun hh => h hh.2, fun peer h => ?_, fun peer h => if_neg fun hh => h hh.2, fun h hr => ?_, fun h => ?_,
    fun h hst => ?_, fun h => ?_, fun removed hr => ?_, fun removed hr => ?_, fun fromPeer h hw => ?_, fun h hw => ?_,
    fun fromPeer h => if_neg fun hh => h hh.2⟩
  · exact ⟨_, congrArg Host.Outcome.next (if_pos h), hdown (portDown_lost hp (hrun h (by decide)) _)⟩
  · refine ⟨_, if_pos ⟨hp, h⟩, ⟨?_, fun k hk => ?_⟩, rfl, ?_⟩
    · rw [sendParams_self, getPort_setPort, if_pos rfl]
    · exact (getPort_modPort_other hk _).trans ((getPort_setPort ..).trans (if_neg hk))
    · rw [sendParams_self]
      rfl
  · exact ⟨_, congrArg Host.Outcome.next (if_pos h), hdown (portDown_lost hp (h.elim (hrun · (by decide)) (hrun · (by decide))) _)⟩
  · obtain ⟨h1, -, h3, h4⟩ := takeParams_ends (s := s) (p := p) peer
    exact ⟨_, if_pos ⟨hp, h⟩, fun hm => ⟨⟨(h3 hm).1, h1⟩, (h3 hm).2⟩, fun hm => ⟨h4 hm, h1⟩⟩
  · obtain ⟨h1, h2, h3, h4⟩ := takeParams_ends (s := sendParams s p) (p := p) peer
    have hpm : paramsMatch (sendParams s p) p peer = paramsMatch s p peer := by
      unfold paramsMatch
      rw [sendParams_self]
      rfl
    have hoth : ∀ k, k ≠ p → getPort (takeParams (sendParams s p) p peer) k = getPort s k :=
      fun k hk => (h1 k hk).trans (getPort_modPort_other hk _)
    refine ⟨_, if_pos ⟨hp, h⟩, fun hm => ⟨(h3 (hpm.trans hm)).1, hoth⟩, fun hm => ⟨h4 (hpm.trans hm), hoth⟩, ?_⟩
    rw [h2, sendParams_self]
  · exact ⟨_, congrArg Host.Outcome.next (if_pos h), hdown (portDown_lost hp hr _)⟩
  · exact congrArg _ (if_neg (ne_true_of_eq_false h))
  · exact congrArg _ ((if_pos h).trans (if_pos ⟨hp, hst⟩))
  · cases hen : x.en with
    | false => exact congrArg _ (if_neg (ne_true_of_eq_false hen))
    | true => exact congrArg _ ((if_pos hen).trans (if_neg fun hh => h.elim (fun h1 => by rw [hen] at h1; cases h1) fun h1 => h1 hh.2))
  · obtain ⟨t, ht, hports⟩ := execLossOfSignal_ports (s := s) p removed
    exact ⟨t, ht, hdown ((portDown_lost hp hr removed).of_ports hports)⟩
  · refine (if_neg fun hh => ?_).trans (congrArg _ (if_neg fun hh => ?_))
    · exact absurd hh.2.1 (ne_true_of_eq_false hr)
    · exact absurd hh.2 (ne_true_of_eq_false hr)
  · have he : exec (.lpiWake p fromPeer) s = .next (modPort s p leavePortLpi) := by
      refine (if_pos ⟨hp, h⟩).trans (congrArg _ ?_)
      cases fromPeer with
      | false => rfl
      | true => exact if_neg (ne_true_of_eq_false (hw.resolve_left (by decide)))
    refine ⟨_, he, ⟨?_, fun k hk => getPort_modPort_other hk _⟩, rfl⟩
    rw [getPort_modPort_self]
    exact leavePortLpi_state h
  · exact (if_pos ⟨hp, h⟩).trans (congrArg _ (if_pos hw))

end Sys2Proof.Machine
end

section
/-! SUPPORT. Frames of the links; the obligation FramesKeepTheirOrder. -/

namespace Sys2Proof.Machine

variable {s t u : State} {p : Nat}

theorem getPort_setPort_self (y : Port) : getPort (setPort s p y) p = y := (getPort_setPort ..).trans (if_pos rfl)

/-! ### Sending (R378-R382) -/

section
variable {x : Port}

theorem sendFrame_replay {f : RetryFrame} (h : (x.retry.find? fun f => !f.sent) = some f) : sendFrame s x =
    { onLine x (mkFrame (mkHdr s x f.seq false) (f.frame.ctls.zip f.frame.slots)) with
      replay := satAdd x.replay 1
      retry := x.retry.map fun y => if y.seq = f.seq then { y with sent := true, replays := y.replays + 1 } else y } := by
  unfold sendFrame
  rw [h]

variable (h : (x.retry.find? fun f => !f.sent) = none)
include h

theorem sendFrame_new (h1 : (takeNew x).1 ≠ []) (h2 : x.retry.length < 128) : sendFrame s x =
    { onLine x (mkFrame (mkHdr s x x.nextSeq false) (packSlots (takeNew x).1)) with
      nextSeq := x.nextSeq + 1, tx := (takeNew x).2
      retry := x.retry ++ [{
        seq := x.nextSeq, frame := mkFrame (mkHdr s x x.nextSeq false) (packSlots (takeNew x).1), packets := (takeNew x).1 }] } := by
  unfold sendFrame
  rw [h]
  dsimp only
  rw [if_neg fun hno => hno.elim h1 fun hl => absurd hl (by omega)]

theorem sendFrame_idle (h1 : (takeNew x).1 = [] ∨ x.retry.length ≥ 128) : sendFrame s x = sendIdle s x := by
  unfold sendFrame
  rw [h]
  dsimp only
  rw [if_pos h1]

end

/-- A replay keeps the numbers of the frames that the retry buffer holds. -/
theorem map_seq_replayed (l : List RetryFrame) (q : BitVec 12) :
    (l.map fun y => if y.seq = q then { y with sent := true, replays := y.replays + 1 } else y).map RetryFrame.seq =
      l.map RetryFrame.seq := by
  rw [List.map_map]
  refine List.map_congr_left fun y _ => ?_
  rw [Function.comp]
  split <;> rfl

/-- What leaving LPI changes of a port: its state and what it tells its peer of its buffers. -/
theorem leavePortLpi_touches {x : Port} (h : x.state = .lpi) :
    leavePortLpi x = { x with state := .align, ourOff := (leavePortLpi x).ourOff } := by
  rw [leavePortLpi, if_pos h, rxOffAll, if_neg (fun hs : PortState.align = .lpi => by cases hs)]
  exact foldl_inv (fun y : Port => y = { x with state := .align, ourOff := y.ourOff }) rxOff (fun y b hy => by rw [hy]; rfl) _ _ rfl

/-! ### Receiving (R380, R382) -/

/-- What taking packets out of frames leaves: all but ports and fabric, and the sequence of every port. -/
def FramesTaken (s t : State) : Prop :=
  t = { s with ports := t.ports, fab := t.fab } ∧
    ∀ k, (getPort t k).lastGood = (getPort s k).lastGood ∧ (getPort t k).sendNak = (getPort s k).sendNak

theorem framesTaken_refl : FramesTaken s s := ⟨rfl, fun _ => ⟨rfl, rfl⟩⟩

theorem FramesTaken.trans (h1 : FramesTaken s t) (h2 : FramesTaken t u) : FramesTaken s u := by
  refine ⟨?_, fun k => ⟨(h2.2 k).1.trans (h1.2 k).1, (h2.2 k).2.trans (h1.2 k).2⟩⟩
  rw [h2.1, h1.1]

theorem framesTaken_setPort {x : Port} (h1 : x.lastGood = (getPort s p).lastGood) (h2 : x.sendNak = (getPort s p).sendNak) :
    FramesTaken s (setPort s p x) := by
  refine ⟨rfl, fun k => ?_⟩
  rw [getPort_setPort]
  split
  · next hk =>
    subst hk
    exact ⟨h1, h2⟩
  · exact ⟨rfl, rfl⟩

theorem framesTaken_modPort {f : Port → Port} (h1 : ∀ x, (f x).lastGood = x.lastGood) (h2 : ∀ x, (f x).sendNak = x.sendNak) :
    FramesTaken s (modPort s p f) := framesTaken_setPort (h1 _) (h2 _)

theorem framesTaken_returnPkt (tile : Nat) (q : Packet) (st : Status) : FramesTaken s (returnPkt s tile q st) := by
  unfold returnPkt
  dsimp only
  split
  · exact framesTaken_refl
  · exact ⟨rfl, fun _ => ⟨rfl, rfl⟩⟩

theorem framesTaken_returnDown (q : Packet) : FramesTaken s (returnDown s p q) := by
  unfold returnDown
  exact (framesTaken_modPort (fun x => by split <;> rfl) (fun x => by split <;> rfl)).trans (framesTaken_returnPkt ..)

theorem framesTaken_rxPacket (q : Packet) : FramesTaken s (rxPacket s p q) := by
  unfold rxPacket
  extract_lets x q1 q2 b tile
  split
  · refine FramesTaken.trans ?_ (framesTaken_returnPkt ..)
    exact framesTaken_setPort rfl rfl
  · split
    · exact framesTaken_returnDown _
    · exact framesTaken_setPort rfl rfl

theorem framesTaken_foldl {α : Type} {g : State → α → State} (hg : ∀ s x, FramesTaken s (g s x)) (l : List α) (s : State) :
    FramesTaken s (l.foldl g s) :=
  foldl_inv (FramesTaken s) g (fun t x ht => ht.trans (hg t x)) l s framesTaken_refl

theorem framesTaken_rxSlot (u : BitVec 16 × BitVec 256) : FramesTaken s (rxSlot s p u) := by
  unfold rxSlot
  dsimp only
  split
  · exact framesTaken_setPort rfl rfl
  · split
    · exact framesTaken_foldl (fun _ q => framesTaken_rxPacket q) _ _
    · exact framesTaken_setPort rfl rfl
    · split
      · exact framesTaken_refl
      · split
        · refine FramesTaken.trans ?_ (framesTaken_rxPacket _)
          exact framesTaken_setPort rfl rfl
        · exact framesTaken_setPort rfl rfl
    · exact framesTaken_refl

theorem framesTaken_rxPop (b : Nat) : FramesTaken s (rxPop s p b) := framesTaken_modPort (fun _ => rfl) fun _ => rfl

/-- A packet that enters the mesh from a port's receive buffer. -/
def entered (s : State) (p b tile : Nat) (q : Packet) : State :=
  let s1 := rxPop s p b
  { s1 with fab := enterBuf s1.fab tile 6 q none }

theorem framesTaken_entered (b tile : Nat) (q : Packet) : FramesTaken s (entered s p b tile q) :=
  (framesTaken_rxPop b).trans ⟨rfl, fun _ => ⟨rfl, rfl⟩⟩

/-- A packet reserves its entries at the port that it will leave by. -/
def reserving (s : State) (e k n : Nat) : State := modPort s e fun y => { y with reserved := nmod 0 y.reserved k (· + n) }

theorem framesTaken_reserving (e k n : Nat) : FramesTaken s (reserving s e k n) := framesTaken_modPort (fun _ => rfl) fun _ => rfl

section
variable {b : Nat} {q : Packet} {qs : List Packet}

theorem rxForward_none (h : nget [] (getPort s p).rx b = []) : rxForward s p b = s := by
  unfold rxForward
  rw [h]

variable (h : nget [] (getPort s p).rx b = q :: qs)
include h

theorem rxForward_stale (hs : stale s q = true) : rxForward s p b = rxPop s p b := by
  unfold rxForward
  rw [h]
  exact if_pos hs

variable (hs : stale s q = false)
include hs

theorem rxForward_held (ho : s.fab.off.contains (bufKey (portTile p (dcore q / 32)) 6 (vcOf q)) = true) : rxForward s p b = s := by
  unfold rxForward
  rw [h]
  exact (if_neg (ne_true_of_eq_false hs)).trans (if_pos ho)

variable (ho : s.fab.off.contains (bufKey (portTile p (dcore q / 32)) 6 (vcOf q)) = false)
include ho

theorem rxForward_here (he : exitPort s q = none) :
    rxForward s p b = entered s p b (portTile p (dcore q / 32)) (entryForm p none q) := by
  unfold rxForward
  rw [h]
  refine (if_neg (ne_true_of_eq_false hs)).trans ((if_neg (ne_true_of_eq_false ho)).trans ?_)
  dsimp only
  rw [he]
  rfl

theorem rxForward_exit {e : Nat} (he : exitPort s q = some e) : rxForward s p b =
    (let k := bufNo (vcOf q) (txForm s e (entryForm p (some e) q)).dc
     if portLost (getPort s e) then entered s p b (portTile p (dcore q / 32)) (entryForm p (some e) q)
     else if txUsed (getPort s e) k + entriesOf q > 64 then s
     else entered (reserving s e k (entriesOf q)) p b (portTile p (dcore q / 32)) (entryForm p (some e) q)) := by
  unfold rxForward
  rw [h]
  refine (if_neg (ne_true_of_eq_false hs)).trans ((if_neg (ne_true_of_eq_false ho)).trans ?_)
  dsimp only
  rw [he]
  rfl

end

theorem framesTaken_rxForward (b : Nat) : FramesTaken s (rxForward s p b) := by
  cases h : nget [] (getPort s p).rx b with
  | nil =>
    rw [rxForward_none h]
    exact framesTaken_refl
  | cons q qs =>
    cases hs : stale s q with
    | true =>
      rw [rxForward_stale h hs]
      exact framesTaken_rxPop b
    | false =>
      cases ho : s.fab.off.contains (bufKey (portTile p (dcore q / 32)) 6 (vcOf q)) with
      | true =>
        rw [rxForward_held h hs ho]
        exact framesTaken_refl
      | false =>
        cases he : exitPort s q with
        | none =>
          rw [rxForward_here h hs ho he]
          exact framesTaken_entered ..
        | some e =>
          rw [rxForward_exit h hs ho he]
          dsimp only
          split
          · exact framesTaken_entered ..
          · split
            · exact framesTaken_refl
            · exact (framesTaken_reserving ..).trans (framesTaken_entered ..)

theorem framesTaken_rxDrain (n b : Nat) : FramesTaken s (rxDrain n s p b) := by
  induction n generalizing s with
  | zero => exact framesTaken_refl
  | succ n ih =>
    unfold rxDrain
    split
    · exact framesTaken_refl
    · split
      · exact (framesTaken_rxForward b).trans ih
      · exact framesTaken_refl

theorem linkAck_keeps (x : Port) (h : BitVec 48) : (linkAck x h).lastGood = x.lastGood := by
  unfold linkAck
  rfl

/-- A port that has counted a frame's lanes. -/
def laneCounted (x : Port) (r : RxFrame) : Port :=
  { x with corr := if laneFixed r then satAdd x.corr 1 else x.corr, laneUe := laneRuns x.laneUe (badLanes r) }

theorem takeFrame_bad {r : RxFrame} (h : goodFrame r = none) :
    takeFrame s p r = setPort s p { laneCounted (getPort s p) r with sendNak := true } := by
  unfold takeFrame laneCounted
  dsimp only
  rw [h]

theorem takeFrame_passed {r : RxFrame} {f : Frame} (h : goodFrame r = some f)
    (hno : hIdle f.hdr = true ∨ hSeq f.hdr ≠ (getPort s p).lastGood + 1) :
    takeFrame s p r = setPort s p (linkAck (laneCounted (getPort s p) r) f.hdr) := by
  unfold takeFrame laneCounted
  dsimp only
  rw [h]
  exact if_pos (hno.imp id fun hs => by rwa [linkAck_keeps])

/-- A port that has taken the next frame in order. -/
def inOrder (x : Port) (r : RxFrame) (f : Frame) : Port :=
  { linkAck (laneCounted x r) f.hdr with lastGood := hSeq f.hdr, sendNak := false }

theorem takeFrame_next {r : RxFrame} {f : Frame} (h : goodFrame r = some f) (hi : hIdle f.hdr = false)
    (hs : hSeq f.hdr = (getPort s p).lastGood + 1) : FramesTaken (setPort s p (inOrder (getPort s p) r f)) (takeFrame s p r) := by
  have he : takeFrame s p r = (List.range 6).foldl (fun s b => rxDrain (nget [] (getPort s p).rx b).length s p b)
      ((f.ctls.zip f.slots).foldl (fun s u => rxSlot s p u) (setPort s p (inOrder (getPort s p) r f))) := by
    unfold takeFrame
    dsimp only
    rw [h]
    exact if_neg fun hno => hno.elim (fun h1 => by rw [hi] at h1; cases h1) fun h1 => h1 (by rw [linkAck_keeps]; exact hs)
  rw [he]
  exact (framesTaken_foldl (fun _ u => framesTaken_rxSlot u) _ _).trans (framesTaken_foldl (fun _ b => framesTaken_rxDrain _ b) _ _)

/-! ### The limits (R384) -/

theorem toRetrain_self : getPort (toRetrain s p) p = { getPort s p with
    state := .retrain, retraining := true, retrains := satAdd (getPort s p).retrains 1, laneUe := []
    retry := (getPort s p).retry.map fun f => { f with replays := 0 } } := by
  rw [toRetrain, getPort_of_ports bookReach_ports, getPort_modPort_self]

theorem replays_toRetrain : ∀ f ∈ (getPort (toRetrain s p) p).retry, f.replays = 0 := by
  rw [toRetrain_self]
  intro f hf
  obtain ⟨g, -, rfl⟩ := List.mem_map.1 hf
  rfl

/-! ### Entries for packets in transit (R387) -/

theorem nget_nmod {α : Type} [DecidableEq α] (d : α) (m : NMap α) (k : Nat) (f : α → α) : nget d (nmod d m k f) k = f (nget d m k) :=
  (nget_nset ..).trans (if_pos rfl)

theorem rx_rxPop (b : Nat) : nget [] (getPort (rxPop s p b) p).rx b = (nget [] (getPort s p).rx b).drop 1 := by
  rw [rxPop, getPort_modPort_self]
  exact (nget_nset ..).trans (if_pos rfl)

theorem reserved_rxPop (b k : Nat) : (getPort (rxPop s p b) k).reserved = (getPort s k).reserved := by
  rw [rxPop, getPort_modPort]
  split
  · next h => rw [h]; rfl
  · rfl

theorem rx_entered (b tile : Nat) (q : Packet) :
    nget [] (getPort (entered s p b tile q) p).rx b = (nget [] (getPort s p).rx b).drop 1 := rx_rxPop b

theorem rx_reserving (e k n : Nat) : (getPort (reserving s e k n) p).rx = (getPort s p).rx := by
  rw [reserving, getPort_modPort]
  split
  · next h => rw [h]
  · rfl

theorem reserved_entered (e b tile : Nat) (q : Packet) : (getPort (entered s p b tile q) e).reserved = (getPort s e).reserved :=
  reserved_rxPop b e

theorem reserved_reserving (e k n : Nat) : nget 0 (getPort (reserving s e k n) e).reserved k = nget 0 (getPort s e).reserved k + n := by
  rw [reserving, getPort_modPort_self]
  exact nget_nmod 0 (getPort s e).reserved k (· + n)

theorem entryForm_here (q : Packet) : entryForm p none q = { q with dc := false } := by simp [entryForm]

/-- Settles O38: what a port sends and takes, and where it stays as it is. -/
theorem framesKeepTheirOrder : Obligations.FramesKeepTheirOrder := by
  intro s p hp x idleFrame idle
  refine ⟨fun hna => ⟨?_, ?_, ?_, fun hno => ?_, fun hl hw => ?_, fun r => ⟨fun hno => ?_, fun hl hw => ?_⟩⟩, fun ha => ?_,
    fun b hb => ⟨fun h => ?_, fun q qs h => ?_⟩⟩
  · exact congrArg _ (if_neg fun h => hna h.2.1)
  · exact congrArg _ (if_neg fun h => hna h.2.1)
  · exact congrArg _ (if_neg fun h => hna h.2.1)
  · exact (if_neg fun h => hna h.2).trans (if_neg fun h => hno.elim (· h.2.1) fun h1 => absurd h.2.2 (ne_true_of_eq_false h1))
  · refine ⟨_, (if_neg fun h => hna h.2).trans (if_pos ⟨hp, hl, hw⟩), ?_⟩
    have hself := getPort_setPort_self (s := s) (p := p) (leavePortLpi (sendIdle s x))
    rw [leavePortLpi_touches (show (sendIdle s x).state = .lpi from hl)] at hself ⊢
    rw [hself]
    exact ⟨⟨rfl, by rw [hself]; exact ⟨rfl, rfl, rfl, rfl, rfl, rfl⟩⟩, rfl⟩
  · exact (if_neg (Nat.not_le.2 hp)).trans ((if_neg hna).trans
      (if_neg fun h => hno.elim (· h.1) fun h1 => absurd h.2 (ne_true_of_eq_false h1)))
  · exact (if_neg (Nat.not_le.2 hp)).trans ((if_neg hna).trans (if_pos ⟨hl, hw⟩))
  · have hsend {y : Port} (hy : (if x.inReset then sendIdle s x else sendFrame s x) = y) :
        exec (.linkFrameTransmit p) s = .next (setPort s p y) := hy ▸ if_pos ⟨hp, ha⟩
    have hidle : idle (setPort s p (sendIdle s x)) ∧ (getPort (setPort s p (sendIdle s x)) p).state = .active := by
      have hself := getPort_setPort_self (s := s) (p := p) (sendIdle s x)
      refine ⟨⟨rfl, ?_⟩, ?_⟩
      · rw [hself]
        exact ⟨rfl, rfl, rfl, rfl, rfl, rfl⟩
      · rw [hself]
        exact ha
    have hrecv (r : RxFrame) : exec (.linkFrameReceive p r) s = .next (takeFrame s p r) :=
      (if_neg (Nat.not_le.2 hp)).trans (if_pos ha)
    refine ⟨fun hr => ⟨_, hsend (if_pos hr), hidle⟩, fun hr => ⟨fun f hf => ?_, fun hf h1 h2 => ?_, fun hf h1 => ?_⟩,
      fun r => ?_, fun hr => ?_, fun hr => ?_, fun hr => ?_, fun hr => ?_,
      fun hl => ?_, fun hl => ?_⟩
    · refine ⟨_, hsend ((if_neg (ne_true_of_eq_false hr)).trans (sendFrame_replay hf)), rfl, ?_⟩
      rw [getPort_setPort_self]
      exact ⟨rfl, rfl, rfl, rfl, rfl, map_seq_replayed x.retry f.seq⟩
    · refine ⟨_, hsend ((if_neg (ne_true_of_eq_false hr)).trans (sendFrame_new hf h1 h2)), rfl, ?_⟩
      rw [getPort_setPort_self]
      exact ⟨rfl, rfl, rfl, rfl⟩
    · exact ⟨_, hsend ((if_neg (ne_true_of_eq_false hr)).trans (sendFrame_idle hf h1)), hidle⟩
    · intro y
      refine ⟨fun hg => (hrecv r).trans (congrArg _ (takeFrame_bad hg)), fun f hg hno =>
        (hrecv r).trans (congrArg _ (takeFrame_passed hg hno)), fun f hg hi hs => ?_⟩
      obtain ⟨h1, h2⟩ := takeFrame_next (s := s) (p := p) hg hi hs
      refine ⟨_, hrecv r, h1, (h2 p).1.trans ?_, (h2 p).2.trans ?_⟩ <;> rw [getPort_setPort_self] <;> rfl
    · exact ⟨_, congrArg Host.Outcome.next (if_pos ⟨hp, ha, hr⟩), by rw [toRetrain_self], replays_toRetrain⟩
    · exact congrArg _ (if_neg fun h => h.2.2 hr)
    · exact ⟨_, congrArg Host.Outcome.next (if_pos ⟨hp, ha, hr⟩), by rw [toRetrain_self], replays_toRetrain⟩
    · exact congrArg _ (if_neg fun h => absurd h.2.2 (ne_true_of_eq_false hr))
    · exact ⟨_, congrArg Host.Outcome.next (if_pos ⟨hp, ha, hl⟩), by rw [toRetrain_self], by rw [toRetrain_self]⟩
    · exact congrArg _ (if_neg fun h => absurd h.2.2 (ne_true_of_eq_false hl))
  · exact (if_pos ⟨hp, hb⟩).trans (congrArg _ (rxForward_none h))
  · intro tile held leaves
    have he : exec (.transitReserve p b) s = .next (rxForward s p b) := if_pos ⟨hp, hb⟩
    refine ⟨fun hs => ?_, fun hs ho => he.trans (congrArg _ (rxForward_held h hs ho)), fun hs ho => ⟨fun hx => ?_, fun e hx => ?_⟩⟩
    · exact ⟨_, he.trans (congrArg _ (rxForward_stale h hs)), (rx_rxPop b).trans (by rw [h]; rfl), rfl⟩
    · refine ⟨_, he.trans (congrArg _ (rxForward_here h hs ho hx)), (rx_entered ..).trans (by rw [h]; rfl), rfl, ?_⟩
      rw [entryForm_here]
      rfl
    · intro q1 k
      have hrun := he.trans (congrArg _ (rxForward_exit h hs ho hx))
      refine ⟨fun hl => ?_, fun hl hu => ?_, fun hl hu => ?_⟩
      · exact ⟨_, hrun.trans (congrArg _ (if_pos hl)), (rx_entered ..).trans (by rw [h]; rfl), rfl, rfl⟩
      · exact hrun.trans (congrArg _ ((if_neg (ne_true_of_eq_false hl)).trans (if_pos hu)))
      · refine ⟨_, hrun.trans (congrArg _ ((if_neg (ne_true_of_eq_false hl)).trans (if_neg (Nat.not_lt.2 hu)))),
          ⟨(rx_entered ..).trans ?_, rfl, rfl⟩, ?_⟩
        · rw [rx_reserving, h]
          rfl
        · rw [reserved_entered, reserved_reserving]

end Sys2Proof.Machine
end

section
/-! SUPPORT. Messages, credits and NACKs at a core; the obligation MessagesLandOrAreRefused. -/

namespace Sys2Proof.Machine

variable {s t : State} {n : Nat} {pkt : Packet} {c : Core} {v : Env}

/-! ### Packets that take their turn at a core port (R135) -/

theorem fromPort_turn {f : State → State} (h : portTurn s n pkt = true) : fromPort s n pkt f = f (portDone s n pkt) := if_pos h

theorem fromPort_stays {f : State → State} (h : portTurn s n pkt = false) : fromPort s n pkt f = s := if_neg (ne_true_of_eq_false h)

theorem chanStep_turn {f : Env → Core → Eff} (h : portTurn s n pkt = true) : chanStep s n pkt f =
    applyEff (portDone s n pkt) n (f (envOf (portDone s n pkt) n) (getCore (portDone s n pkt) n)) := fromPort_turn h

theorem chanStep_stays {f : Env → Core → Eff} (h : portTurn s n pkt = false) : chanStep s n pkt f = s := fromPort_stays h

theorem OnlyTheCore.trans {u : State} (h1 : OnlyTheCore s t n) (h2 : OnlyTheCore t u n) : OnlyTheCore s u n := by
  refine ⟨?_, fun k hk => (h2.2 k hk).trans (h1.2 k hk)⟩
  rw [h2.1, h1.1]

theorem onlyTheCore_portDone : OnlyTheCore s (portDone s n pkt) n := ⟨rfl, otherCores_modCore _⟩

/-- The work of a packet touches its core and the fabric. -/
theorem onlyTheCore_arrived (e : Eff) : OnlyTheCore s (applyEff (portDone s n pkt) n e) n :=
  onlyTheCore_portDone.trans (onlyTheCore_applyEff ..)

theorem q_applyEff (e : Eff) : (getCore (applyEff s n e) n).q = e.core.q := by
  rw [getCore_applyEff, wakeWord_touches]

theorem ldm_applyEff (e : Eff) : (getCore (applyEff s n e) n).ldm = e.core.ldm := by rw [getCore_applyEff, wakeWord_ldm]

theorem cnt_applyEff (e : Eff) : (getCore (applyEff s n e) n).cnt = e.core.cnt := by rw [getCore_applyEff, wakeWord_cnt]

/-! ### Messages (R290-R292) -/

theorem countDrop_q (st : Status) (logged : Bool) : (countDrop c st logged).q = c.q := by
  unfold countDrop
  dsimp only
  split <;> split <;> rfl

theorem countDrop_ldm (st : Status) (logged : Bool) : (countDrop c st logged).ldm = c.ldm := by
  unfold countDrop
  dsimp only
  split <;> split <;> rfl

theorem takeMessage_refused {st : Status} (h : portTurn s n pkt = true)
    (hc : customs (envOf (portDone s n pkt) n) (getCore (portDone s n pkt) n) pkt = some (st, false)) :
    takeMessage s n pkt = applyEff (portDone s n pkt) n
      { core := countDrop (getCore (portDone s n pkt) n) st false, out := [nackOf (envOf (portDone s n pkt) n) pkt st] } := by
  unfold takeMessage
  rw [fromPort_turn h]
  dsimp only
  rw [hc]
  rfl

theorem takeMessage_logged {st : Status} (h : portTurn s n pkt = true)
    (hc : customs (envOf (portDone s n pkt) n) (getCore (portDone s n pkt) n) pkt = some (st, true)) :
    takeMessage s n pkt = clogTile (applyEff (portDone s n pkt) n
        { core := countDrop (getCore (portDone s n pkt) n) st true, out := [nackOf (envOf (portDone s n pkt) n) pkt st] })
      n pkt.mid.toNat (if pkt.mid = 0xA then mSdev pkt else (envOf (portDone s n pkt) n).dev) (mScore pkt) st
      (wouldLand (getCore (portDone s n pkt) n) pkt) := by
  unfold takeMessage
  rw [fromPort_turn h]
  dsimp only
  rw [hc]
  rfl

theorem takeMessage_passed (h : portTurn s n pkt = true)
    (hc : customs (envOf (portDone s n pkt) n) (getCore (portDone s n pkt) n) pkt = none) :
    takeMessage s n pkt = applyEff (portDone s n pkt) n
      { core := if typ pkt = 8 then takeTally (getCore (portDone s n pkt) n) pkt
          else landMsg (getCore (portDone s n pkt) n) pkt ((freeSlotOf (getCore (portDone s n pkt) n) (mQueue pkt)).getD 0) } := by
  unfold takeMessage
  rw [fromPort_turn h]
  dsimp only
  rw [hc]
  dsimp only
  split <;> rfl

theorem cntHi_q (c : Core) (off k : Nat) : (cntHi c off k).q = c.q := rfl

theorem arrive_q (c : Core) (q a b : Nat) : (arrive c q a b).q = c.q := rfl

theorem landMsg_msgs (k : Nat) : (landMsg c pkt k).q.msgs.length = c.q.msgs.length + 1 := by
  have hq : (if mLen pkt = 0 then c else ldmSet c (landAddr (qEnt c (mQueue pkt)) pkt k) (mLen pkt)
      (ofBytes ((flitBytes pkt.flits).take (mLen pkt)))).q = c.q := by split <;> rfl
  unfold landMsg
  dsimp only
  rw [cntHi_q, arrive_q]
  dsimp only
  rw [ldmSet_q, hq]
  exact List.length_append

/-! ### Credits and NACKs (R302, R303) -/

theorem takeCreditOf_unmatched
    (h : sameCtx c pkt = false ∨ chState (chan c (mQueue pkt)) = 0 ∨ chPcgen (chan c (mQueue pkt)) ≠ mCgen pkt) :
    takeCreditOf c pkt = unmatched c := if_pos (h.imp (fun h => by rw [h]; rfl) id)

theorem nackChan_unmatched
    (h : sameCtx c pkt = false ∨ chState (chan c (mQueue pkt)) = 0 ∨ chPcgen (chan c (mQueue pkt)) ≠ mCgen pkt) :
    nackChan c pkt = if closeBack c pkt then setQState c (mQueue pkt) 0 else unmatched c :=
  if_pos (h.imp (fun h => by rw [h]; rfl) id)

/-- A core that a NACK has reached: an event that comes back counts where the link is down. -/
def nacked (c : Core) (p : Packet) : Core :=
  if returnsEvent p then (if nkStatus p = stLinkDown then cntHi c 0xB0C 1 else c) else nackChan c p

theorem nacked_event (h : returnsEvent pkt = true) : (nacked c pkt).q = c.q ∧ (nacked c pkt).ldm = c.ldm := by
  rw [nacked, if_pos h]
  split <;> exact ⟨rfl, rfl⟩

theorem nacked_chan (h : returnsEvent pkt = false) : nacked c pkt = nackChan c pkt := if_neg (ne_true_of_eq_false h)

theorem execNack_core (h : portTurn s n pkt = true) (hh : toHubNack pkt = false) : exec (.nack n pkt) s =
    .next (applyEff (portDone s n pkt) n { core := nacked (getCore (portDone s n pkt) n) pkt }) :=
  (if_neg (ne_true_of_eq_false hh)).trans (congrArg Host.Outcome.next (chanStep_turn h))

theorem onlyConvoyUnit_nackUnit : OnlyConvoyUnit s (nackUnit s pkt) := by
  unfold nackUnit
  dsimp only
  split
  · exact onlyConvoyUnit_refl
  · split
    · exact onlyConvoyUnit_refl
    · split
      · exact onlyConvoyUnit_loseDevice ..
      · exact onlyConvoyUnit_refl

theorem execQueueSend_runs {h : Nat} {f : Fetched} (hr : MayRun s h 0x20 f) (hb : txnBusy s h = false) : exec (.queueSend h) s =
    .next (if (getShard s (mCtx f.manifest)).state = .stopped ∧
        (!kindOk (qEnt (getCore s (dcore (hostMsg s f))) (mQueue (hostMsg s f))) (hostMsg s f)) = true then
      complete (started s h) h stPeerClosed
    else hubSend (begun (started s h) h) (hostMsg s f)) :=
  (if_neg (ne_true_of_eq_false hb)).trans (congrArg Host.Outcome.next (withCmd_mayRun s h _ f _ hr))

/-- Settles O39: a message is refused or lands by its customs; the rest follows the channel or the queue that it names. -/
theorem messagesLandOrAreRefused : Obligations.MessagesLandOrAreRefused := by
  intro s n pkt u c v
  refine ⟨fun hno => ⟨congrArg _ (fromPort_stays hno), congrArg _ (fromPort_stays hno), congrArg _ (chanStep_stays hno), fun hh => ?_⟩,
    fun ht => ⟨fun st hc => ?_, fun st hc => ?_, fun k hc h8 hk => ?_, fun hc h8 => ?_, ?_, ?_, fun hh he => ?_, fun hh he => ?_⟩,
    fun hh => ⟨fun h8 => ?_, fun h1 => ?_, fun h6 => ?_, fun h1 h6 h8 => ?_⟩, fun h f => ⟨fun hb => if_pos hb, fun hr hb => ?_⟩⟩
  · exact (if_neg (ne_true_of_eq_false hh)).trans (congrArg _ (chanStep_stays hno))
  · have he : Host.Outcome.next (takeMessage s n pkt) = _ := congrArg (Host.Outcome.next (φ := Fault) (ρ := Refusal)) (takeMessage_refused ht hc)
    refine ⟨_, he, he, onlyTheCore_arrived _, rfl, ?_, ?_⟩
    · rw [q_applyEff, countDrop_q]
    · rw [ldm_applyEff, countDrop_ldm]
  · have he : Host.Outcome.next (takeMessage s n pkt) = _ := congrArg (Host.Outcome.next (φ := Fault) (ρ := Refusal)) (takeMessage_logged ht hc)
    refine ⟨_, he, he, rfl, ?_, ?_⟩
    · rw [getCore_clogTile, q_applyEff, countDrop_q]
    · rw [getCore_clogTile, ldm_applyEff, countDrop_ldm]
  · have he : Host.Outcome.next (takeMessage s n pkt) = _ := congrArg (Host.Outcome.next (φ := Fault) (ρ := Refusal)) (takeMessage_passed ht hc)
    rw [if_neg h8, show freeSlotOf (getCore (portDone s n pkt) n) (mQueue pkt) = some k from hk] at he
    refine ⟨_, he, onlyTheCore_arrived _, rfl, ?_, ?_, ?_⟩
    · rw [q_applyEff]
      rfl
    · rw [ldm_applyEff]
      rfl
    · rw [q_applyEff]
      exact landMsg_msgs k
  · have he : Host.Outcome.next (takeMessage s n pkt) = _ := congrArg (Host.Outcome.next (φ := Fault) (ρ := Refusal)) (takeMessage_passed ht hc)
    rw [if_pos h8] at he
    refine ⟨_, he, onlyTheCore_arrived _, rfl, ?_, ?_⟩
    · rw [q_applyEff]
    · rw [ldm_applyEff]
  · intro r hno
    have hcredit : exec (.qcredit n pkt) s = .next (applyEff u n { core := takeCreditOf c pkt }) :=
      congrArg Host.Outcome.next (chanStep_turn ht)
    rw [takeCreditOf_unmatched hno] at hcredit
    have hnack (hh : toHubNack pkt = false) (he : returnsEvent pkt = false) : exec (.nack n pkt) s =
        .next (applyEff u n { core := if closeBack c pkt then setQState c (mQueue pkt) 0 else unmatched c }) := by
      rw [execNack_core ht hh, nacked_chan he, nackChan_unmatched hno]
    refine ⟨⟨_, hcredit, onlyTheCore_arrived _, rfl, ?_, ?_, ?_⟩, fun hh he hb => ?_, fun hh he hb => ?_⟩
    · rw [q_applyEff]
      rfl
    · rw [ldm_applyEff]
      rfl
    · rw [cnt_applyEff]
      rfl
    · have hrun := hnack hh he
      rw [if_pos hb] at hrun
      refine ⟨_, hrun, onlyTheCore_arrived _, rfl, ?_, ?_⟩
      · rw [ldm_applyEff]
      · rw [cnt_applyEff]
        rfl
    · have hrun := hnack hh he
      rw [if_neg (ne_true_of_eq_false hb)] at hrun
      refine ⟨_, hrun, onlyTheCore_arrived _, rfl, ?_, ?_, ?_⟩
      · rw [q_applyEff]
        rfl
      · rw [ldm_applyEff]
        rfl
      · rw [cnt_applyEff]
        rfl
  · refine ⟨_, congrArg Host.Outcome.next (chanStep_turn ht), onlyTheCore_arrived _, ?_, ?_⟩
    · rw [q_applyEff]
    · rw [ldm_applyEff]
  · refine ⟨_, execNack_core ht hh, onlyTheCore_arrived _, ?_, ?_⟩
    · rw [q_applyEff, nacked_chan he]
    · rw [ldm_applyEff, nacked_chan he]
  · refine ⟨_, execNack_core ht hh, onlyTheCore_arrived _, ?_, ?_⟩
    · rw [q_applyEff]
      exact (nacked_event he).1
    · rw [ldm_applyEff]
      exact (nacked_event he).2
  · exact (if_pos hh).trans (if_pos h8)
  · exact (if_pos hh).trans ((if_neg (by omega)).trans (if_pos h1))
  · refine ⟨_, (if_pos hh).trans ((if_neg (by omega)).trans ((if_neg (by omega)).trans (if_pos h6))), ?_, rfl⟩
    exact OnlyConvoyUnit.trans (t := hubDone s pkt) rfl onlyConvoyUnit_nackUnit
  · exact (if_pos hh).trans ((if_neg h8).trans ((if_neg (Nat.not_le.2 h1)).trans (if_neg h6)))
  · intro m open_ stopped
    have he := execQueueSend_runs hr hb
    refine ⟨fun hs ho => ?_, fun hno => ?_⟩
    · have hclosed : (!kindOk (qEnt (getCore s (dcore m)) (mQueue m)) m) = true := congrArg (!·) ho
      exact he.trans (congrArg _ (if_pos ⟨hs, hclosed⟩))
    · refine he.trans (congrArg _ (if_neg fun h => hno.elim (· h.1) fun ho => ?_))
      have hopen : (!kindOk (qEnt (getCore s (dcore m)) (mQueue m)) m) = false := congrArg (!·) ho
      exact absurd h.2 (ne_true_of_eq_false hopen)

end Sys2Proof.Machine
end

section
/-! SUPPORT. Channels that open, drain and close; the obligation ChannelsOpenDrainAndClose. -/

namespace Sys2Proof.Machine

variable {s t : State} {n : Nat} {pkt : Packet} {c : Core} {v : Env}

/-! ### OPEN (R296) -/

/-- The entry of a queue that an OPEN takes. -/
def openedEntry (c : Core) (p : Packet) (q : Nat) : BitVec 128 :=
  BitVec.ofNat 128 ((qEnt c q).toNat / 2 ^ 59 * 2 ^ 59 + srcDev p * 2 ^ 50 + srcCore p * 2 ^ 40 + mQueue p * 2 ^ 32 +
    mCgen p * 2 ^ 24 + fld p.head 27 20 * 2 ^ 16 + fld p.head 19 8 * 2 ^ 4)

/-- A core that has opened a queue with an entry. -/
def openedWith (c : Core) (q : Nat) (e : BitVec 128) : Core :=
  openQueue { c with q := { c.q with table := nset 0 c.q.table q e } } q 1

/-- A core that has opened a queue for an OPEN. -/
def openedFor (c : Core) (p : Packet) (q : Nat) : Core := openedWith c q (openedEntry c p q)

/-- A core that has opened a queue for an OPEN and holds a notice of it for a handler. -/
def noticedFor (c : Core) (p : Packet) (q k : Nat) (e : BitVec 128) : Core :=
  let c1 := openedWith c q e
  let sender := BitVec.ofNat 32 (srcDev p * 2 ^ 10 + srcCore p)
  let d := mkDesc sender q (qCgen c1 q) (fld p.head 6 1) false false 0 (qWin e) 0
  let c2 := ldmSet c1 (slotAddr (qBase e + k)) 16 d.toNat
  let m : QMsg := { queue := q, slot := qBase e + k, notice := true, chain := {
    sender := sender, s4 := BitVec.ofNat 32 (q * 2 ^ 8 + qCgen c1 q), schan := mQueue p
    cgen := qCgen c1 q, entry := e } }
  arrive { c2 with q := { c2.q with msgs := c2.q.msgs ++ [m] } } q 1 1

/-- The refusal of an OPEN. -/
def openRefused (v : Env) (c : Core) (p : Packet) : Eff :=
  { core := c, out := [mkNack v (srcDev p) (srcCore p) (mQueue p) 0 0xB (pctx p) (pgen p) stNoResource true 7 3] }

theorem opens_sameCtx : (c.bound && c.ctx == pctx pkt && c.gen.toNat == pgen pkt) = sameCtx c pkt := rfl

theorem takeOpen_other (h : sameCtx c pkt = false) : takeOpen v c pkt = openRefused v c pkt :=
  if_pos (by rw [opens_sameCtx, h]; rfl)

/-- A tally that takes an OPEN lists its sender. -/
def listedFor (c : Core) (p : Packet) (q : Nat) : Core :=
  ldmSet { c with q := { c.q with listed := nset 0 c.q.listed q (nget 0 c.q.listed q + 1) } }
    (tallyList (qEnt c q) + 4 * nget 0 c.q.listed q) 4 (srcDev p * 2 ^ 18 + srcCore p * 2 ^ 8 + mQueue p)

section
variable (h : sameCtx c pkt = true)
include h

theorem opens_here : ¬(!(c.bound && c.ctx == pctx pkt && c.gen.toNat == pgen pkt)) = true := by
  rw [opens_sameCtx, h]
  decide

theorem takeOpen_full (h1 : freeQueue c 1 (fld pkt.head 31 28) = none) (h2 : freeTally c (fld pkt.head 31 28) = none) :
    takeOpen v c pkt = openRefused v c pkt := by
  refine (if_neg (opens_here h)).trans ?_
  rw [h1, h2]
  rfl

theorem takeOpen_queue {q : Nat} (h1 : freeQueue c 1 (fld pkt.head 31 28) = some q) (h2 : bit pkt.head 7 = false) :
    takeOpen v c pkt =
      { core := openedFor c pkt q
        out := [openAckPkt v (openedFor c pkt q) (srcDev pkt) (srcCore pkt) (mQueue pkt) q] } := by
  refine (if_neg (opens_here h)).trans ?_
  rw [h1]
  exact if_neg (ne_true_of_eq_false h2)

theorem takeOpen_unnoticed {q : Nat} (h1 : freeQueue c 1 (fld pkt.head 31 28) = some q) (h2 : bit pkt.head 7 = true)
    (h3 : freeSlotOf (openedFor c pkt q) q = none) : takeOpen v c pkt =
      { core := openedFor c pkt q
        out := [openAckPkt v (openedFor c pkt q) (srcDev pkt) (srcCore pkt) (mQueue pkt) q] } := by
  refine (if_neg (opens_here h)).trans ?_
  rw [h1]
  refine (if_pos h2).trans ?_
  split
  · rfl
  · next hk => cases h3.symm.trans hk

theorem takeOpen_noticed {q k : Nat} (h1 : freeQueue c 1 (fld pkt.head 31 28) = some q) (h2 : bit pkt.head 7 = true)
    (h3 : freeSlotOf (openedFor c pkt q) q = some k) :
    takeOpen v c pkt = { core := noticedFor c pkt q k (openedEntry c pkt q) } := by
  refine (if_neg (opens_here h)).trans ?_
  rw [h1]
  refine (if_pos h2).trans ?_
  split
  · next hk => cases h3.symm.trans hk
  · next hk =>
    cases h3.symm.trans hk
    rfl

theorem takeOpen_tally {q : Nat} (h1 : freeQueue c 1 (fld pkt.head 31 28) = none) (h2 : freeTally c (fld pkt.head 31 28) = some q) :
    takeOpen v c pkt =
      { core := listedFor c pkt q
        out := [openAckPkt v (listedFor c pkt q) (srcDev pkt) (srcCore pkt) (mQueue pkt) q] } := by
  refine (if_neg (opens_here h)).trans ?_
  rw [h1, h2]
  rfl

end

theorem listedFor_listed (q : Nat) : nget 0 (listedFor c pkt q).q.listed q = nget 0 c.q.listed q + 1 := by
  rw [listedFor, ldmSet_q]
  exact (nget_nset (0 : Nat) c.q.listed q (nget 0 c.q.listed q + 1) q).trans (if_pos rfl)

theorem setQSt_q (c : Core) (q : Nat) (w : BitVec 64) : (setQSt c q w).q = c.q := rfl

theorem syncKind_q (c : Core) (q : Nat) : (syncKind c q).q = c.q := by rw [syncKind, setQSt_q]

theorem openQueue_msgs (c : Core) (q k : Nat) : (openQueue c q k).q.msgs = c.q.msgs := by
  unfold openQueue
  dsimp only
  rw [setQSt_q, syncKind_q]

theorem openedWith_msgs (q : Nat) (e : BitVec 128) : (openedWith c q e).q.msgs = c.q.msgs := by rw [openedWith, openQueue_msgs]

theorem openedFor_msgs (q : Nat) : (openedFor c pkt q).q.msgs = c.q.msgs := openedWith_msgs ..

/-- A notice of an OPEN is one message more. -/
theorem noticedFor_msgs (q k : Nat) (e : BitVec 128) : (noticedFor c pkt q k e).q.msgs.length = c.q.msgs.length + 1 := by
  unfold noticedFor
  dsimp only
  rw [arrive_q]
  dsimp only
  rw [ldmSet_q, openedWith_msgs]
  exact List.length_append

/-! ### Answers and closes (R299) -/

theorem takeOpenAck_dropped
    (h : sameCtx c pkt = false ∨ chState (chan c (mQueue pkt)) ≠ 1 ∧ chState (chan c (mQueue pkt)) ≠ 3) :
    takeOpenAck v c pkt = { core := c } := if_pos (h.imp (fun h => by rw [h]; rfl) id)

theorem takeClose_other (h : sameCtx c pkt = false) : takeClose v c pkt = { core := c } := if_pos (by rw [h]; rfl)

theorem takeClose_queue (h : sameCtx c pkt = true) (hq : namesQueue c pkt = true) (hs : qState c (mQueue pkt) ≠ 2) :
    takeClose v c pkt = { core := setQState { c with q := { c.q with draining := c.q.draining ++ [(mQueue pkt, true)] } } (mQueue pkt) 2 } :=
  (if_neg (by rw [h]; decide)).trans ((if_pos hq).trans (if_neg hs))

theorem takeCloseAck_other (h : sameCtx c pkt = false) : takeCloseAck c pkt = c := if_pos (by rw [h]; rfl)

/-! ### The end of a drain (R299) -/

theorem execCloseDrainDone_runs (q : Nat) : exec (.closeDrainDone n q) s =
    .next (applyEff s n (drainDone (envOf s n) (getCore s n) q)) := rfl

theorem drainDone_waits {q : Nat} (h : qPending c q ≠ 0) : drainDone v c q = { core := c } := if_pos h

theorem drainDone_answers {q : Nat} (h : qPending c q = 0) (hd : c.q.draining.contains (q, true) = true) :
    (drainDone v c q).core = setQState { c with q := { c.q with draining := c.q.draining.erase (q, true) } } q 0 :=
  congrArg Eff.core ((if_neg (not_not_intro h)).trans (if_pos hd))

theorem drainDone_asks {q : Nat} (h : qPending c q = 0) (hd : c.q.draining.contains (q, true) = false)
    (ha : c.q.draining.contains (q, false) = true) :
    (drainDone v c q).core = { c with q := { c.q with draining := c.q.draining.erase (q, false) } } :=
  congrArg Eff.core ((if_neg (not_not_intro h)).trans ((if_neg (ne_true_of_eq_false hd)).trans (if_pos ha)))

/-- A core that a packet leaves as it is keeps its queues and its memory. -/
theorem kept_applyEff {u : State} (hu : OnlyTheCore s u n) {e : Eff} (he : e.core = getCore u n) :
    OnlyTheCore s (applyEff u n e) n ∧ (getCore (applyEff u n e) n).q = (getCore u n).q ∧
      (getCore (applyEff u n e) n).ldm = (getCore u n).ldm := by
  refine ⟨hu.trans (onlyTheCore_applyEff ..), ?_, ?_⟩
  · rw [q_applyEff, he]
  · rw [ldm_applyEff, he]

theorem fab_applyEff_quiet {u : State} {e : Eff} (he : e.out = []) : (applyEff u n e).fab = u.fab := by
  rw [applyEff, he]
  rfl

/-- Settles O40: each packet of a channel is decided by its generation and by the state of the queue or channel that it names. -/
theorem channelsOpenDrainAndClose : Obligations.ChannelsOpenDrainAndClose := by
  intro s n pkt u c v same kept
  have hu : OnlyTheCore s u n := onlyTheCore_portDone
  refine ⟨fun hno => ⟨congrArg _ (chanStep_stays hno), congrArg _ (chanStep_stays hno), congrArg _ (chanStep_stays hno),
    congrArg _ (chanStep_stays hno)⟩, fun ht => ⟨⟨_, congrArg Host.Outcome.next (chanStep_turn ht), onlyTheCore_arrived _, rfl, fun hno => ?_,
      fun q hs hq hb => ?_, fun q hs hq hb => ?_, fun q hs hq hf => ?_⟩,
    ⟨_, congrArg Host.Outcome.next (chanStep_turn ht), onlyTheCore_arrived _, rfl, fun hno => ?_⟩,
    ⟨_, congrArg Host.Outcome.next (chanStep_turn ht), onlyTheCore_arrived _, rfl, fun hs => ?_, fun hs hq hst => ?_⟩,
    ⟨_, congrArg Host.Outcome.next (chanStep_turn ht), onlyTheCore_arrived _, rfl, ?_, ?_, fun hs => ?_⟩⟩, fun q => ?_⟩
  · have hrefuse : takeOpen v c pkt = openRefused v c pkt := by
      cases hs : sameCtx c pkt with
      | false => exact takeOpen_other hs
      | true =>
        obtain ⟨h1, h2⟩ := hno.resolve_left fun h : sameCtx c pkt = false => by rw [hs] at h; cases h
        exact takeOpen_full hs h1 h2
    exact ⟨kept_applyEff hu (congrArg Eff.core hrefuse), hrefuse⟩
  · rw [q_applyEff, takeOpen_queue hs hq hb]
    exact ⟨rfl, openedFor_msgs q⟩
  · rw [q_applyEff]
    cases hk : freeSlotOf (openedFor c pkt q) q with
    | none =>
      rw [takeOpen_unnoticed hs hq hb hk]
      exact Or.inr ⟨rfl, openedFor_msgs q⟩
    | some k =>
      rw [takeOpen_noticed hs hq hb hk]
      exact Or.inl ⟨rfl, noticedFor_msgs ..⟩
  · rw [q_applyEff, takeOpen_tally hs hq hf]
    exact ⟨rfl, listedFor_listed q⟩
  · have hdrop := takeOpenAck_dropped (v := v) hno
    exact ⟨kept_applyEff hu (congrArg Eff.core hdrop), fab_applyEff_quiet (u := u) (congrArg Eff.out hdrop)⟩
  · have hdrop := takeClose_other (v := v) hs
    exact ⟨kept_applyEff hu (congrArg Eff.core hdrop), fab_applyEff_quiet (u := u) (congrArg Eff.out hdrop)⟩
  · have hclose := takeClose_queue (v := v) hs hq hst
    refine ⟨fab_applyEff_quiet (u := u) (congrArg Eff.out hclose), ?_, ?_⟩
    · rw [q_applyEff]
      exact congrArg (fun e : Eff => e.core.q.draining) hclose
    · rw [ldm_applyEff]
      exact congrArg (fun e : Eff => e.core.ldm) hclose
  · rw [ldm_applyEff]
  · rw [q_applyEff]
  · exact kept_applyEff hu (takeCloseAck_other hs)
  · intro d
    refine ⟨fun hp => ⟨_, execCloseDrainDone_runs q, onlyTheCore_applyEff .., ?_, ?_, ?_⟩, fun hp hd =>
      ⟨_, execCloseDrainDone_runs q, onlyTheCore_applyEff .., ?_, ?_⟩, fun hp hd ha =>
      ⟨_, execCloseDrainDone_runs q, onlyTheCore_applyEff .., ?_, ?_⟩⟩
    · exact fab_applyEff_quiet (congrArg Eff.out (drainDone_waits (v := envOf s n) hp))
    · rw [q_applyEff, drainDone_waits hp]
    · rw [ldm_applyEff, drainDone_waits hp]
    · rw [q_applyEff, drainDone_answers hp hd]
      rfl
    · rw [ldm_applyEff, drainDone_answers hp hd]
      rfl
    · rw [q_applyEff, drainDone_asks hp hd ha]
    · rw [ldm_applyEff, drainDone_asks hp hd ha]

end Sys2Proof.Machine
end

section
/-! SUPPORT. The notices that reach a context; the obligation NoticesReachTheirContexts. -/

namespace Sys2Proof.Machine

variable {s : State}

/-- While management restarts and the hub's buffer has room the notice waits there (R461). -/
theorem takeNotice_waits (k : State → Packet → State) (pkt : Packet)
    (hw : s.mgmt.restarting = true ∧ s.mgmt.notices.length < 256) :
    takeNotice k s pkt = { hubDone s pkt with mgmt := { (hubDone s pkt).mgmt with notices := s.mgmt.notices ++ [pkt] } } := if_pos hw

/-- Else firmware takes the notice at once. -/
theorem takeNotice_now {k : State → Packet → State} {pkt : Packet} {t : State}
    (hw : ¬(s.mgmt.restarting = true ∧ s.mgmt.notices.length < 256)) (ht : k (hubDone s pkt) pkt = t) :
    (.next (takeNotice k s pkt) : Host.Outcome State Fault Refusal) = .next t :=
  congrArg Host.Outcome.next ((if_neg hw).trans ht)

/-- The shard that the packet names is in use, at the packet's generation. -/
def NamesShard (s : State) (pkt : Packet) : Prop := (getShard s (pctx pkt)).state ≠ .free ∧ genOf s (pctx pkt) = pgen pkt

theorem ownNotice_of_names {pkt : Packet} (ho : NamesShard s pkt) (st : Status) (r : Nat) (pay : BitVec 96) :
    ownNotice s pkt st r pay = notice s (pctx pkt) { status := st, result := BitVec.ofNat 32 r, payload := pay } := if_pos ho

theorem ownNotice_of_not_names {pkt : Packet} (ho : ¬NamesShard s pkt) (st : Status) (r : Nat) (pay : BitVec 96) :
    ownNotice s pkt st r pay = s := if_neg ho

theorem lossNotice_of_names {pkt : Packet} (ho : NamesShard s pkt) :
    lossNotice s pkt = markLosses (notice s (pctx pkt)
      { status := stEventLoss, result := BitVec.ofNat 32 (payload pkt), payload := noticeCore pkt })
      (pctx pkt) (BitVec.ofNat 32 (payload pkt)) := by
  rw [← ownNotice_of_names ho]
  exact if_pos ho.2

theorem lossNotice_of_old {pkt : Packet} (hg : genOf s (pctx pkt) ≠ pgen pkt) : lossNotice s pkt = s :=
  (if_neg hg).trans (ownNotice_of_not_names (fun ho => hg ho.2) _ _ _)

theorem ueContexts_of_names {pkt : Packet} (ho : NamesShard s pkt) : ueContexts s pkt = [pctx pkt] := if_pos ho

theorem ueContexts_of_not_names {pkt : Packet} (ho : ¬NamesShard s pkt) :
    ueContexts s pkt = ctxsIn s fun sh => sh.state == .running := if_neg ho

/-- The notice of an uncorrectable error to the context `c` (R449): the core where it is bound, else 0x3FF. -/
def ueEntry (s : State) (pkt : Packet) (c : Nat) : Notice :=
  { status := stUncorrectable
    result := if boundTo s c (srcCore pkt) then BitVec.ofNat 32 (srcCore pkt) else 0x3FF
    payload := BitVec.ofNat 96 (payload pkt) }

theorem ueNotice_of_names {pkt : Packet} (ho : NamesShard s pkt) :
    ueNotice s pkt = notice s (pctx pkt) (ueEntry s pkt (pctx pkt)) :=
  congrArg (fun cs => cs.foldl (fun s c => notice s c (ueEntry s pkt c)) s) (ueContexts_of_names ho)

theorem ueNotice_of_not_names {pkt : Packet} (ho : ¬NamesShard s pkt) :
    ueNotice s pkt = (ctxsIn s fun sh => sh.state == .running).foldl (fun s c => notice s c (ueEntry s pkt c)) s :=
  congrArg (fun cs => cs.foldl (fun s c => notice s c (ueEntry s pkt c)) s) (ueContexts_of_not_names ho)

/-- Entries that a ring has no checks for any more are all written, in their order. -/
theorem cqWrite_single_written (n : Nat) (e : BitVec 256) :
    ∃ w, (cqWrite s n [e]).hif.written = s.hif.written ++ [w] := by
  obtain ⟨-, -, hrest⟩ := cqSignal_regs (s := cqWriteOne s n e) n 1
  exact ⟨_, congrArg (fun t : State => t.hif.written) hrest⟩

/-- A notice whose status was not told in this period goes to the ring of the context, when that has room (R449). -/
theorem notice_written {c : Nat} {x : Notice} (hr : s.mgmt.restarting = false) (hs : (getShard s c).sent = [])
    (hq : cqRoom s (getShard s c).noticeCq.toNat 1 = true) :
    notice s c x = cqWrite (setShard s c { getShard s c with sent := [x.status] }) (getShard s c).noticeCq.toNat [noticeEntry c x] := by
  unfold notice
  dsimp only
  rw [hr, hs, hq]
  rfl

/-- The next period of a context opens with nothing told in it. -/
theorem flushNotices_none {c : Nat} (hn : (getShard s c).notices = []) :
    flushNotices s c = setShard s c { getShard s c with notices := [] } :=
  congrArg (fun l => l.foldl (fun s x => notice s c x) (setShard s c { getShard s c with notices := [] })) hn

theorem flushNotices_one {c : Nat} {x : Notice} (hn : (getShard s c).notices = [x]) :
    flushNotices s c = notice (setShard s c { getShard s c with notices := [] }) c x :=
  congrArg (fun l => l.foldl (fun s x => notice s c x) (setShard s c { getShard s c with notices := [] })) hn

theorem exec_noticeFoldTimer {k : Nat} (hk : k < 64) :
    exec (.noticeFoldTimer k) s = .next (flushNotices (modShard s k fun sh => { sh with sent := [] }) k) :=
  congrArg Host.Outcome.next (if_pos hk)

theorem getShard_flushNotices_none {k : Nat} (hn : (getShard s k).notices = []) (j : Nat) :
    getShard (flushNotices (modShard s k fun sh => { sh with sent := [] }) k) j =
      if j = k then { getShard s k with sent := [], notices := [] } else getShard s j := by
  rw [flushNotices_none (by simpa using hn)]
  by_cases hj : j = k <;> simp [hj]

/-- One notice held back goes to its ring as the next period opens. -/
theorem noticeFoldTimer_one {k : Nat} {x : Notice} (hn : (getShard s k).notices = [x]) (hr : s.mgmt.restarting = false)
    (hq : cqRoom s (getShard s k).noticeCq.toNat 1 = true) :
    flushNotices (modShard s k fun sh => { sh with sent := [] }) k =
      cqWrite (setShard (setShard (modShard s k fun sh => { sh with sent := [] }) k
        { getShard s k with sent := [], notices := [] }) k
        { getShard s k with sent := [x.status], notices := [] }) (getShard s k).noticeCq.toNat [noticeEntry k x] := by
  rw [flushNotices_one (x := x) (by simpa using hn), getShard_modShard, if_pos rfl]
  rw [notice_written (by exact hr) (by rw [getShard_setShard, if_pos rfl]) (by rw [getShard_setShard, if_pos rfl]; exact hq)]
  rw [getShard_setShard, if_pos rfl]

/-- Settles O41: firmware takes the notice, or the hub's buffer does while management restarts. -/
theorem noticesReachTheirContexts : Obligations.NoticesReachTheirContexts := by
  unfold Obligations.NoticesReachTheirContexts
  intro s pkt u ctx own waits held
  refine ⟨fun hw => ?_, fun hw => ⟨fun ho => ?_, fun ho => ?_, ?_⟩, fun k hk => ⟨fun hn => ?_, fun x hn hr hq => ?_⟩⟩
  · have h (k : State → Packet → State) : Host.Outcome.next (takeNotice k s pkt) = held :=
      congrArg Host.Outcome.next (takeNotice_waits k pkt hw)
    exact ⟨h _, h _, h _, h _, h _, h _⟩
  · have ho' : NamesShard u pkt := ho
    exact ⟨takeNotice_now hw (ownNotice_of_names ho' ..), takeNotice_now hw (lossNotice_of_names ho'), takeNotice_now hw (ueNotice_of_names ho'),
      takeNotice_now hw (ownNotice_of_names ho' ..), takeNotice_now hw (ownNotice_of_names ho' ..)⟩
  · have ho' : ¬NamesShard u pkt := ho
    exact ⟨takeNotice_now hw (ownNotice_of_not_names ho' ..), takeNotice_now hw (ownNotice_of_not_names ho' ..), takeNotice_now hw (ownNotice_of_not_names ho' ..),
      fun hg => takeNotice_now hw (lossNotice_of_old (s := u) hg), takeNotice_now hw (ueNotice_of_not_names ho')⟩
  · intro c
    have h : exec (.peerResetNotice pkt) s = .next (peerNotice u pkt) :=
      takeNotice_now (k := peerNotice) hw rfl
    exact ⟨fun hf => h.trans (congrArg Host.Outcome.next (if_pos hf)),
      fun hf => h.trans (congrArg Host.Outcome.next (if_neg hf))⟩
  · have hg := getShard_flushNotices_none hn
    exact ⟨_, exec_noticeFoldTimer hk, (hg k).trans (if_pos rfl), fun j hj => (hg j).trans (if_neg hj)⟩
  · refine ⟨_, exec_noticeFoldTimer hk, ?_, ?_⟩
    · rw [noticeFoldTimer_one hn hr hq, getShard_cqWrite, getShard_setShard, if_pos rfl]
    · rw [noticeFoldTimer_one hn hr hq]
      obtain ⟨w, hw⟩ := cqWrite_single_written (s := setShard (setShard (modShard s k fun sh => { sh with sent := [] }) k
        { getShard s k with sent := [], notices := [] }) k { getShard s k with sent := [x.status], notices := [] })
        (getShard s k).noticeCq.toNat (noticeEntry k x)
      rw [hw]
      exact ⟨⟨[w], rfl⟩, List.length_append⟩

end Sys2Proof.Machine
end

section
/-! SUPPORT. Core state and statistics read and written by the host; the obligation StateIsReadAndWrittenAtABoundary. -/

namespace Sys2Proof.Machine

variable {s : State}

/-- The bytes of a state read, as the host finds them (R107). -/
def stateAnswer (s : State) (m : Line) : List (BitVec 128) :=
  replyEntries ((List.range (mw m 2)).map fun i => spaceByte s (mTcore m) (mw m 0) (spaceFirst (mw m 0) (mw m 1) + i))

/-- What STATE_READ answers at a boundary (R107). -/
def stateReadDone (s : State) (h : Nat) (m : Line) : State :=
  complete (started s h) h stOk ((getCore s (mTcore m)).st.step - 1).toNat (stateAnswer s m)

/-- STATE_READ, in the order of its checks (R107, R422). -/
theorem exec_stateRead {h : Nat} {f : Fetched} (hr : MayRun s h 0x38 f) :
    exec (.stateRead h) s = .next
      (if spaceFirst (mw f.manifest 0) (mw f.manifest 1) + mw f.manifest 2 > spaceSize (mw f.manifest 0) then complete (started s h) h stAccess
      else if !atBoundary (getCore s (mTcore f.manifest)) then started s h
      else stateReadDone s h f.manifest) :=
  congrArg Host.Outcome.next (withCmd_mayRun s h 0x38 f _ hr)

/-- The core as a state write leaves it, before the checks of what it holds then (R108). -/
def stateWritten (s : State) (f : Fetched) : Core :=
  let m := f.manifest
  let written := ((linesBytes f.bales).take (mw m 2)).zipIdx.foldl
    (fun c x => writeSpace c (mw m 0) (spaceFirst (mw m 0) (mw m 1) + x.2) x.1) (getCore s (mTcore m))
  if mw m 0 = 4 then syncGset written else written

/-- What a state write may not leave behind (R56, R86, R108). -/
def stateUnfit (s : State) (f : Fetched) : Bool :=
  let m := f.manifest
  spaceBad (stateWritten s f) (mw m 0) (spaceFirst (mw m 0) (mw m 1)) (mw m 2) ||
    (mw m 0 != 1 && mw m 0 != 5 && hitsCompanion s (mCtx m) (mTcore m) (stateWritten s f))

/-- The state with the write done and answered. -/
def stateWriteDone (s : State) (h : Nat) (f : Fetched) : State :=
  complete (setCore (started s h) (mTcore f.manifest) (wakeWord (stateWritten s f))) h stOk
    ((getCore s (mTcore f.manifest)).st.step - 1).toNat

/-- STATE_WRITE, in the order of its checks (R108, R422). -/
theorem exec_stateWrite {h : Nat} {f : Fetched} (hr : MayRun s h 0x39 f) :
    exec (.stateWrite h) s = .next
      (if spaceFirst (mw f.manifest 0) (mw f.manifest 1) + mw f.manifest 2 > spaceSize (mw f.manifest 0) then complete (started s h) h stAccess
      else if (getShard s (mCtx f.manifest)).state ≠ .stopped ∧ mw f.manifest 0 ≠ 0 then complete (started s h) h stBadState
      else if !atBoundary (getCore s (mTcore f.manifest)) then started s h
      else if stateUnfit (started s h) f then complete (started s h) h stDoesNotFit
      else stateWriteDone s h f) :=
  congrArg Host.Outcome.next (withCmd_mayRun s h 0x39 f _ hr)

theorem stateWriteDone_touches (h : Nat) (f : Fetched) :
    stateWriteDone s h f = { s with
      cores := (stateWriteDone s h f).cores, hif := (stateWriteDone s h f).hif, sdio := (stateWriteDone s h f).sdio
      mgmt := (stateWriteDone s h f).mgmt, fab := (stateWriteDone s h f).fab } := by
  unfold stateWriteDone
  rw [complete_cores]
  exact complete_touches ..

theorem getCore_stateWriteDone (h : Nat) (f : Fetched) (k : Nat) :
    getCore (stateWriteDone s h f) k = if k = mTcore f.manifest then wakeWord (stateWritten s f) else getCore s k := by
  rw [stateWriteDone, getCore_complete]
  exact getCore_setCore ..

/-- A statistics read takes its bytes, and counts them as read, from the state `z` (R422). -/
def statsAfter (u : State) (m : Line) : State :=
  if mw m 0 % 8 ≤ 1 ∧ bit m 131 then statsClear u m else statsUsed u (mw m 0 % 8)

/-- STATS_READ, in the order of its checks (R422). -/
theorem exec_statsRead {h : Nat} {f : Fetched} (hr : MayRun s h 0x3A f) :
    exec (.statsRead h) s = .next
      (if mw f.manifest 0 % 8 = 2 ∧ (findConvoy s (mw f.manifest 3 % 2 ^ 15)).isNone then complete (started s h) h stNoResource
      else if mw f.manifest 1 + mw f.manifest 2 > statsSize (started s h) (mw f.manifest 0 % 8) (mw f.manifest 1) then
        complete (started s h) h stAccess
      else complete (statsAfter (started s h) f.manifest) h stOk 0
        (replyEntries ((List.range (mw f.manifest 2)).map fun i => statsByte (started s h) f.manifest (mw f.manifest 1 + i)))) :=
  congrArg Host.Outcome.next (withCmd_mayRun s h 0x3A f _ hr)

/-- A read of another source than the counters clears nothing. -/
theorem statsAfter_free {u : State} {m : Line} (hs : 1 < mw m 0 % 8) :
    statsAfter u m = { u with free := (statsAfter u m).free } := by
  rw [statsAfter, if_neg (fun h => absurd h.1 (by omega)), statsUsed]
  split <;> rfl

theorem stateRead_atBoundary {h : Nat} {f : Fetched} (hr : MayRun s h 0x38 f) :
    let m := f.manifest
    let sp := mw m 0
    let a := spaceFirst sp (mw m 1)
    let c := getCore s (mTcore m)
    (spaceSize sp < a + mw m 2 → exec (.stateRead h) s = .next (complete (started s h) h stAccess)) ∧
    (a + mw m 2 ≤ spaceSize sp → atBoundary c = false → exec (.stateRead h) s = .next (started s h)) ∧
    (a + mw m 2 ≤ spaceSize sp → atBoundary c = true → exec (.stateRead h) s = .next (stateReadDone s h m)) := by
  intro m sp a c
  refine ⟨fun ha => (exec_stateRead hr).trans (congrArg Host.Outcome.next (if_pos ha)), fun ha hb => ?_, fun ha hb => ?_⟩
  · exact (exec_stateRead hr).trans (congrArg Host.Outcome.next ((if_neg (Nat.not_lt.2 ha)).trans (if_pos (congrArg not hb))))
  · exact (exec_stateRead hr).trans
      (congrArg Host.Outcome.next ((if_neg (Nat.not_lt.2 ha)).trans (if_neg (ne_true_of_eq_false (congrArg not hb)))))

theorem stateWrite_checks {h : Nat} {f : Fetched} (hr : MayRun s h 0x39 f) :
    let m := f.manifest
    let sp := mw m 0
    let a := spaceFirst sp (mw m 1)
    let c := getCore s (mTcore m)
    let u := started s h
    (spaceSize sp < a + mw m 2 → exec (.stateWrite h) s = .next (complete u h stAccess)) ∧
    (a + mw m 2 ≤ spaceSize sp → (getShard s (mCtx m)).state ≠ .stopped → sp ≠ 0 →
      exec (.stateWrite h) s = .next (complete u h stBadState)) ∧
    (a + mw m 2 ≤ spaceSize sp → (getShard s (mCtx m)).state = .stopped ∨ sp = 0 →
      (atBoundary c = false → exec (.stateWrite h) s = .next u) ∧
      (atBoundary c = true → stateUnfit u f = true → exec (.stateWrite h) s = .next (complete u h stDoesNotFit)) ∧
      (atBoundary c = true → stateUnfit u f = false → exec (.stateWrite h) s = .next (stateWriteDone s h f))) := by
  intro m sp a c u
  have he := exec_stateWrite hr
  refine ⟨fun ha => he.trans (congrArg Host.Outcome.next (if_pos ha)), fun ha hst hsp => ?_, fun ha hst => ?_⟩
  · exact he.trans (congrArg Host.Outcome.next ((if_neg (Nat.not_lt.2 ha)).trans (if_pos ⟨hst, hsp⟩)))
  · have hn : ¬((getShard s (mCtx m)).state ≠ .stopped ∧ sp ≠ 0) := fun h => hst.elim h.1 h.2
    have he' := he.trans (congrArg Host.Outcome.next ((if_neg (Nat.not_lt.2 ha)).trans (if_neg hn)))
    refine ⟨fun hb => ?_, fun hb hu => ?_, fun hb hu => ?_⟩
    · exact he'.trans (congrArg Host.Outcome.next (if_pos (congrArg not hb)))
    · exact he'.trans (congrArg Host.Outcome.next ((if_neg (ne_true_of_eq_false (congrArg not hb))).trans (if_pos hu)))
    · exact he'.trans (congrArg Host.Outcome.next
        ((if_neg (ne_true_of_eq_false (congrArg not hb))).trans (if_neg (ne_true_of_eq_false hu))))

/-- Settles O42: the three reads and writes, each in the order of its checks. -/
theorem stateIsReadAndWrittenAtABoundary : Obligations.StateIsReadAndWrittenAtABoundary := by
  unfold Obligations.StateIsReadAndWrittenAtABoundary
  intro s h f m n sp a c u written after unfit
  refine ⟨fun hr => ?_, fun hr => ?_, fun hr => ?_⟩
  · obtain ⟨hbad, hwait, hdone⟩ := stateRead_atBoundary hr
    exact ⟨hbad, hwait, fun ha hb => ⟨_, hdone ha hb, onlyAnswered_complete .., findCmd_complete .., rfl⟩⟩
  · obtain ⟨hbad, hstate, hrest⟩ := stateWrite_checks hr
    refine ⟨hbad, hstate, fun ha hst => ?_⟩
    obtain ⟨hwait, hunfit, hdone⟩ := hrest ha hst
    exact ⟨hwait, hunfit, fun hb hu => ⟨_, hdone hb hu, findCmd_complete .., rfl, (getCore_stateWriteDone h f n).trans (if_pos rfl),
      fun k hk => (getCore_stateWriteDone h f k).trans (if_neg hk), stateWriteDone_touches h f⟩⟩
  · intro src gone
    have he := exec_statsRead hr
    refine ⟨fun hg => he.trans (congrArg Host.Outcome.next (if_pos hg)), fun hg ha => ?_, fun hg ha => ?_⟩
    · exact he.trans (congrArg Host.Outcome.next ((if_neg hg).trans (if_pos ha)))
    · refine ⟨_, statsAfter u m, he.trans (congrArg Host.Outcome.next ((if_neg hg).trans (if_neg (Nat.not_lt.2 ha)))),
        findCmd_complete .., rfl, rfl, fun hs => ?_⟩
      rw [complete_cores, complete_ingest, complete_results, statsAfter_free hs]
      exact ⟨rfl, rfl, rfl⟩

end Sys2Proof.Machine
end

section
/-! SUPPORT. A state whose list of cores names a core twice; the obligation WeightKeepSavesAndRestores. -/

namespace Sys2Proof.Machine

/-- A core that waits at step 4 and holds a learned row. -/
def learningCore : Core := { st := { phase := .waiting, step := 4 }, syn := { index := [(0, BitVec.ofNat 128 (2 ^ 85))] } }

/-- A taken WEIGHT_SAVE of context 0, with a barrier at the step 4. -/
def twiceListedSave : Fetched :=
  { handle := 1, origin := .sdio, bales := [], taken := true, manifest := BitVec.ofNat 512 (0x3000 + 2 ^ 128 + 3 * 2 ^ 160) }

/-- Context 0 runs, and the list of cores names core 0 twice: the entry that a read finds is unbound, the one behind it is bound. -/
def twiceListed : State :=
  { State.reset with
    pwr := { State.reset.pwr with state := .s0 }
    shards := [(0, { state := .running })]
    cores := [(0, learningCore), (0, { learningCore with bound := true })]
    hif := { State.reset.hif with fetched := [twiceListedSave] } }

theorem mayRun_twiceListed : MayRun twiceListed 1 0x30 twiceListedSave := by
  unfold MayRun
  decide +kernel

theorem keepMay_twiceListed : keepMay twiceListed twiceListedSave.manifest = true := by decide +kernel

/-- Core 0 is one of the cores that learn, and stands at the barrier. -/
theorem keepCores_twiceListed : keepCores twiceListed (mCtx twiceListedSave.manifest) = [0] := by decide +kernel

theorem atSave_twiceListed : atSave (getCore twiceListed 0) (keepStep twiceListed twiceListedSave.manifest) = true := by
  decide +kernel

/-- Setting the save barrier writes core 0 back once, unbound: the shard has no core then, and no image is begun. -/
theorem weightSave_twiceListed :
    (match exec (.weightSave 1) twiceListed with
      | .next t => t.nv.keep
      | _ => [(0, { writing := true })]) = [] := by decide +kernel

/-- Refutes O43: where the list of cores names a core twice, an unbound entry first, the write of the save barrier drops the bound
entry; the core, which stands at the barrier, then begins no image. -/
theorem not_weightKeepSavesAndRestores : ¬ Obligations.WeightKeepSavesAndRestores := by
  intro h
  obtain ⟨hcmd, -⟩ := h twiceListed
  obtain ⟨hsave, -⟩ := hcmd 1 twiceListedSave
  obtain ⟨-, hmay⟩ := hsave mayRun_twiceListed
  obtain ⟨t, ht, -, -, -, -, hbegun, -⟩ := hmay keepMay_twiceListed
  have hkeep : t.nv.keep = [] := by
    have hsaved := weightSave_twiceListed
    rw [ht] at hsaved
    exact hsaved
  rw [keepCores_twiceListed] at hbegun
  obtain ⟨hwriting, -⟩ := hbegun (List.nodup_singleton _) 0 List.mem_cons_self atSave_twiceListed rfl rfl
  have hnone : (keepSlot t 0 (saveSlot twiceListed (mCtx twiceListedSave.manifest) 0)).writing = false := by
    rw [keepSlot, hkeep]
    rfl
  rw [hnone] at hwriting
  exact Bool.false_ne_true hwriting

end Sys2Proof.Machine
end

section
/-! SUPPORT. Requests to DBG_CTL and the end of a token's check; the obligation DebugRequestsAreCheckedInOrder. -/

namespace Sys2Proof.Machine

variable {s : State}

/-- A write to DBG_CTL that is looked at: from a master that may ask for it, with its key, one request alone, and none before it
still checked (R535). -/
def dbgMay (s : State) (mid : Nat) (v : Word) : Bool :=
  (mid == 0 || mid == 1 || (mid == 4 && fld v 3 0 != 1)) && reaches s mid dbgCtlAddr && fld v 31 24 == 0x3D && !secBusy s &&
    [0, 1, 2, 4, 8].contains (fld v 3 0)

/-- What the request `k` of a write to DBG_CTL does, with the level `l`. -/
def dbgAsk (s : State) (l k : Nat) : State :=
  match k with
  | 1 => dbgGo s
  | 2 => dbgPresent s
  | 4 => dbgClose s
  | 8 => dbgOpen s l
  | _ => s

theorem dbgCtl_eq (mid : Nat) (v : Word) :
    dbgCtl s mid v = if dbgMay s mid v then dbgAsk s (fld v 5 4) (fld v 3 0) else clogBar s mid dbgCtlAddr stAccess := by
  have hc : (!(mid == 0 || mid == 1 || (mid == 4 && fld v 3 0 != 1)) || !reaches s mid dbgCtlAddr || fld v 31 24 != 0x3D || secBusy s ||
      !([0, 1, 2, 4, 8].contains (fld v 3 0))) = !dbgMay s mid v := by
    simp only [dbgMay, Bool.not_and, Bool.not_not, bne]
  by_cases hm : dbgMay s mid v = true
  · rw [if_pos hm]
    exact if_neg (by rw [hc, hm]; decide)
  · rw [if_neg hm]
    exact if_pos (by rw [hc, Bool.eq_false_of_not_eq_true hm]; rfl)

/-- The four requests are one register write. -/
def AllRequests (s : State) (mid : Nat) (v : Word) (o : Host.Outcome State Fault Refusal) : Prop :=
  exec (.debugOpen mid v) s = o ∧ exec (.debugClose mid v) s = o ∧ exec (.present mid v) s = o ∧ exec (.goProduction mid v) s = o

theorem allRequests_of_dbgCtl {mid : Nat} {v : Word} {t : State} (h : dbgCtl s mid v = t) : AllRequests s mid v (.next t) :=
  have hn := congrArg Host.Outcome.next h
  ⟨hn, hn, hn, hn⟩

/-- Of a write that is looked at, the request `k` alone matters. -/
theorem dbgCtl_asks {mid : Nat} {v : Word} (hm : dbgMay s mid v = true) {k : Nat} (hk : fld v 3 0 = k) {t : State}
    (ht : dbgAsk s (fld v 5 4) k = t) : dbgCtl s mid v = t := by
  rw [dbgCtl_eq, if_pos hm, hk, ht]

theorem dbgOpen_close : dbgOpen s 0 = dbgClose s := if_pos rfl

theorem dbgOpen_refused {l : Nat} (hl : l ≠ 0) (h : inS0 s = false ∨ levelFree s.nv.lcState l = false) :
    dbgOpen s l = secResult s stBadState :=
  (if_neg hl).trans (if_pos (by rcases h with h | h <;> simp [h]))

theorem dbgOpen_opens {l : Nat} (hl : l ≠ 0) (h0 : inS0 s = true) (hf : levelFree s.nv.lcState l = true) :
    dbgOpen s l = openLevel s (BitVec.ofNat 2 l) :=
  (if_neg hl).trans (if_neg (by simp [h0, hf]))

theorem dbgClose_blank (h : s.nv.lcState = 0) : dbgClose s = s := if_pos h

theorem dbgClose_ends (h : s.nv.lcState ≠ 0) : dbgClose s = endSession s := if_neg h

/-- A request for a transition, to be taken on by `k`, is LOCKED after lock and BAD_STATE over work (R513). -/
theorem dbgGo_refused (h : inS0 s = false ∨ s.nv.lcState ≠ 2) : dbgGo s = secResult s stBadState :=
  if_pos ((Bool.or_eq_true_iff).2 (h.imp (congrArg not) bne_iff_ne.2))

theorem dbgGo_may (h0 : inS0 s = true) (hl : s.nv.lcState = 2) :
    dbgGo s = if s.glb.locked then secResult s stLocked else if shardsBusy s then secResult s stBadState
      else { s with sec := { s.sec with request := .transition 3 } } := if_neg (by simp [h0, hl])

theorem dbgPresent_notS0 (h0 : inS0 s = false) : dbgPresent s = secResult s stBadState := if_pos (by rw [h0]; rfl)

/-- A token for a level (R536). -/
theorem dbgPresent_level (h0 : inS0 s = true) (hp : memGet s.sec.token 2 1 = 1 ∨ memGet s.sec.token 2 1 = 2) :
    dbgPresent s = if levelExists s.nv.lcState (memGet s.sec.token 2 1) then { s with sec := { s.sec with request := .token } }
      else secResult s stBadState := (if_neg (by rw [h0]; decide)).trans (if_pos hp)

/-- A token for a transition (R536). -/
theorem dbgPresent_move (h0 : inS0 s = true) (hp1 : memGet s.sec.token 2 1 ≠ 1) (hp2 : memGet s.sec.token 2 1 ≠ 2) :
    dbgPresent s =
      if memGet s.sec.token 2 1 < 0x10 ∨ !tokenMove s.nv.lcState (memGet s.sec.token 2 1 - 0x10) then secResult s stBadState
      else if s.glb.locked then secResult s stLocked
      else if shardsBusy s then secResult s stBadState
      else { s with sec := { s.sec with request := .token } } :=
  (if_neg (by rw [h0]; decide)).trans (if_neg (not_or.2 ⟨hp1, hp2⟩))

theorem openLevel_two {l : Nat} (hl : l = 2) : (openLevel s (BitVec.ofNat 2 l)).sec.everFull = true := by
  subst hl
  exact Bool.or_true _

theorem openLevel_one {l : Nat} (hl : l = 1) : (openLevel s (BitVec.ofNat 2 l)).sec.everNs = true := by
  subst hl
  exact Bool.or_true _

/-- The state with the request for a token's check answered. -/
def requestDone (s : State) : State := { s with sec := { s.sec with request := .none } }

theorem exec_tokenCheckDone (hq : s.sec.request = .token) (hr : hartRuns s 1 = true) :
    exec .tokenCheckDone s = .next (tokenDone s) := if_pos ⟨hq, hr⟩

theorem tokenDone_badState (hm : tokenMay s = false) : tokenDone s = secResult (requestDone s) stBadState :=
  if_pos (congrArg not hm)

theorem tokenDone_authFailed (hm : tokenMay s = true) (ho : tokenOk s = false) :
    tokenDone s = secResult (requestDone s) stAuthFailed :=
  (if_neg (ne_true_of_eq_false (congrArg not hm))).trans (if_pos (congrArg not ho))

theorem tokenDone_passed (hm : tokenMay s = true) (ho : tokenOk s = true) :
    tokenDone s = if memGet s.sec.token 2 1 < 0x10 then openLevel (requestDone s) (BitVec.ofNat 2 (memGet s.sec.token 2 1))
      else { s with sec := { s.sec with request := .transition (BitVec.ofNat 3 (memGet s.sec.token 2 1 - 0x10)) } } :=
  (if_neg (ne_true_of_eq_false (congrArg not hm))).trans (if_neg (ne_true_of_eq_false (congrArg not ho)))

/-- Where a transition is asked for: LOCKED, BAD_STATE or begun. -/
theorem ifLockedBusy {α : Type} {a b c x : α} {locked busy : Bool} (h : x = if locked then a else if busy then b else c) :
    (locked = true → x = a) ∧ (locked = false → busy = true → x = b) ∧ (locked = false → busy = false → x = c) := by
  subst h
  exact ⟨fun hl => if_pos hl, fun hl hb => (if_neg (ne_true_of_eq_false hl)).trans (if_pos hb),
    fun hl hb => (if_neg (ne_true_of_eq_false hl)).trans (if_neg (ne_true_of_eq_false hb))⟩

/-- Settles O44: a request that may be looked at is answered by what it asks for, any other is reported. -/
theorem debugRequestsAreCheckedInOrder : Obligations.DebugRequestsAreCheckedInOrder := by
  unfold Obligations.DebugRequestsAreCheckedInOrder
  intro s mid v asks may all purpose
  refine ⟨fun hm => ?_, fun hm => ⟨fun ha hl => ⟨fun h => ?_, fun h0 hf => ?_⟩, fun ha hlc => ?_, fun ha => ⟨fun h => ?_, fun h0 hlc => ?_⟩,
    fun ha h0 hp => ⟨fun he => ?_, fun he => ?_⟩, fun ha h0 hp1 hp2 => ⟨fun h => ?_, fun hp ht => ?_⟩, fun ha hlc => ?_, fun ha h0 => ?_,
    fun ha => ?_⟩, fun h => if_neg ?_, fun hq hr => ⟨fun hm => ?_, fun hm ho => ?_, fun hm ho hp => ?_, fun hm ho hp => ?_⟩⟩
  · exact allRequests_of_dbgCtl ((dbgCtl_eq mid v).trans (if_neg (ne_true_of_eq_false hm)))
  · exact allRequests_of_dbgCtl (dbgCtl_asks hm ha (dbgOpen_refused hl h))
  · exact ⟨_, congrArg Host.Outcome.next (dbgCtl_asks hm ha (dbgOpen_opens hl h0 hf)), rfl, rfl, rfl, openLevel_two, openLevel_one⟩
  · refine ⟨endSession s, congrArg Host.Outcome.next ?_, rfl, rfl⟩
    rcases ha with ha | ⟨ha, hl⟩
    · exact dbgCtl_asks hm ha (dbgClose_ends hlc)
    · exact dbgCtl_asks hm ha ((congrArg (dbgOpen s) hl).trans (dbgOpen_close.trans (dbgClose_ends hlc)))
  · exact allRequests_of_dbgCtl (dbgCtl_asks hm ha (dbgGo_refused h))
  · obtain ⟨hlocked, hbusy, hgo⟩ := ifLockedBusy (dbgGo_may h0 hlc)
    exact ⟨fun hl => allRequests_of_dbgCtl (dbgCtl_asks hm ha (hlocked hl)),
      fun hl hb => allRequests_of_dbgCtl (dbgCtl_asks hm ha (hbusy hl hb)),
      fun hl hb => allRequests_of_dbgCtl (dbgCtl_asks hm ha (hgo hl hb))⟩
  · exact allRequests_of_dbgCtl (dbgCtl_asks hm ha ((dbgPresent_level h0 hp).trans (if_pos he)))
  · exact allRequests_of_dbgCtl (dbgCtl_asks hm ha ((dbgPresent_level h0 hp).trans (if_neg (ne_true_of_eq_false he))))
  · exact allRequests_of_dbgCtl (dbgCtl_asks hm ha ((dbgPresent_move h0 hp1 hp2).trans (if_pos (h.imp_right (congrArg not)))))
  · have hno : ¬(purpose < 0x10 ∨ (!tokenMove s.nv.lcState (purpose - 0x10)) = true) :=
      not_or.2 ⟨Nat.not_lt.2 hp, ne_true_of_eq_false (congrArg not ht)⟩
    obtain ⟨hlocked, hbusy, hgo⟩ := ifLockedBusy ((dbgPresent_move h0 hp1 hp2).trans (if_neg hno))
    exact ⟨fun hl => allRequests_of_dbgCtl (dbgCtl_asks hm ha (hlocked hl)),
      fun hl hb => allRequests_of_dbgCtl (dbgCtl_asks hm ha (hbusy hl hb)),
      fun hl hb => allRequests_of_dbgCtl (dbgCtl_asks hm ha (hgo hl hb))⟩
  · rcases ha with ha | ⟨ha, hl⟩
    · exact allRequests_of_dbgCtl (dbgCtl_asks hm ha (dbgClose_blank hlc))
    · exact allRequests_of_dbgCtl
        (dbgCtl_asks hm ha ((congrArg (dbgOpen s) hl).trans (dbgOpen_close.trans (dbgClose_blank hlc))))
  · exact allRequests_of_dbgCtl (dbgCtl_asks hm ha (dbgPresent_notS0 h0))
  · exact allRequests_of_dbgCtl (dbgCtl_asks hm ha rfl)
  · exact fun hc => h.elim (absurd hc.1) (fun hr => ne_true_of_eq_false hr hc.2)
  · exact (exec_tokenCheckDone hq hr).trans (congrArg _ (tokenDone_badState hm))
  · exact (exec_tokenCheckDone hq hr).trans (congrArg _ (tokenDone_authFailed hm ho))
  · exact ⟨_, (exec_tokenCheckDone hq hr).trans (congrArg Host.Outcome.next ((tokenDone_passed hm ho).trans (if_pos hp))), rfl, rfl, rfl, rfl⟩
  · exact (exec_tokenCheckDone hq hr).trans (congrArg Host.Outcome.next ((tokenDone_passed hm ho).trans (if_neg (Nat.not_lt.2 hp))))

end Sys2Proof.Machine
end

section
/-! SUPPORT. Transitions of the life cycle, tamper sources, the TAP and the lock; the obligation LifeCycleTamperAndLock. -/

namespace Sys2Proof.Machine

variable {s : State}

/-! ### Transitions of the life cycle (R513) -/

/-- The state at the end of a transition to `t`. -/
def transitionEnd (s : State) (t : BitVec 3) : State :=
  let s2 := endSession { s with sec := { s.sec with request := .none }, nv := { moveKeys s.nv t with lcState := t, torn := false } }
  secResult { s2 with sec := { s2.sec with idhash := idHash s2 } } stOk

theorem exec_lcTransitionDone_of_none (b : Bool) (hn : ∀ t, s.sec.request ≠ .transition t) :
    exec (.lcTransitionDone b) s = .next s := by
  have he : exec (.lcTransitionDone b) s = execLcTransitionDone b s := rfl
  rw [he, execLcTransitionDone]
  split
  · exact absurd ‹_› (hn _)
  · rfl

theorem exec_lcTransitionDone {t : BitVec 3} (ht : s.sec.request = .transition t) (b : Bool) :
    exec (.lcTransitionDone b) s = .next
      (if b then { s with sec := { s.sec with request := .none }, nv := { s.nv with torn := true } } else transitionEnd s t) := by
  have he : exec (.lcTransitionDone b) s = execLcTransitionDone b s := rfl
  rw [he, execLcTransitionDone, ht]
  cases b <;> rfl

/-- RMA and SCRAPPED take the device's keys and what is kept under them. -/
theorem moveKeys_leaves {n : NonVolatile} {t : BitVec 3} (ht : t = 4 ∨ t = 5) :
    (moveKeys n t).keep = [] ∧ (moveKeys n t).identity = false := by
  rw [moveKeys, if_pos ht]
  exact ⟨rfl, rfl⟩

/-! ### Tamper sources, the lost clock and the TAP (R428, R514, R515, R529) -/

/-- The cause bits of the three tamper inputs. -/
def tripBits (p g k : Bool) : List Nat := (if p then [1] else []) ++ (if g then [2] else []) ++ (if k then [4] else [])

theorem tripBits_nil {p g k : Bool} : tripBits p g k = [] ↔ p = false ∧ g = false ∧ k = false := by
  revert p g k
  decide

theorem tripBits_length (p g k : Bool) : (tripBits p g k).length = b1 p + b1 g + b1 k := by
  revert p g k
  decide

theorem exec_tamperTrip (p g k : Bool) :
    exec (.tamperTrip p g k) s = if s.boot = .off ∨ tripBits p g k = [] then .next s
      else .next (if p then unlocked (warmState (tamperMark (zeroise s) (tripBits p g k)) 9)
        else warmState (tamperMark (zeroise s) (tripBits p g k)) 9) := rfl

/-- A device that was zeroised and counted a tamper event, and is about to boot again. -/
structure Tripped (s t : State) (bits : List Nat) : Prop where
  boot : t.boot = .warmPending
  zeroised : t.sec.zeroised = true
  count : t.sec.tamperCnt = satAdd s.sec.tamperCnt bits.length
  bits : t.sec.tamper = bits.foldl (fun t b => t ||| BitVec.ofNat 5 (2 ^ b)) s.sec.tamper
  nv : t.nv = quietKeep s.nv
  cores : t.cores = []
  shards : t.shards = []
  pending : t.pending = s.pending

theorem tripped_warmState (bits : List Nat) (cause : Nat) : Tripped s (warmState (tamperMark (zeroise s) bits) cause) bits :=
  ⟨rfl, rfl, rfl, rfl, rfl, rfl, rfl, rfl⟩

theorem Tripped.unlocked {t : State} {bits : List Nat} (h : Tripped s t bits) : Tripped s (Machine.unlocked t) bits :=
  ⟨h.boot, h.zeroised, h.count, h.bits, h.nv, h.cores, h.shards, h.pending⟩

/-- A cause bit that is set stays set, and each event sets its own. -/
theorem tripBits_set (p g k : Bool) (x : BitVec 5) :
    let y := (tripBits p g k).foldl (fun t b => t ||| BitVec.ofNat 5 (2 ^ b)) x
    (p = true → y.getLsbD 1 = true) ∧ (g = true → y.getLsbD 2 = true) ∧ (k = true → y.getLsbD 4 = true) := by
  revert p g k x
  decide

theorem tamperTrip_tripped {p g k : Bool} (hb : s.boot ≠ .off) (hp : p = true ∨ g = true ∨ k = true) :
    ∃ t, exec (.tamperTrip p g k) s = .next t ∧ Tripped s t (tripBits p g k) := by
  have hn : ¬(s.boot = .off ∨ tripBits p g k = []) := by
    rintro (h | h)
    · exact hb h
    · obtain ⟨hp', hg', hk'⟩ := tripBits_nil.1 h
      rw [hp', hg', hk'] at hp
      simp at hp
  refine ⟨_, (exec_tamperTrip p g k).trans (if_neg hn), ?_⟩
  split
  · exact (tripped_warmState ..).unlocked
  · exact tripped_warmState ..

/-- A TAP instruction other than IDCODE, in a state of the TAP that EXTEST does not change. -/
theorem jtagTake_plain {i : JtagIns} (hi : i ≠ .extest) (hd : i ≠ .idcode) (hj : s.sec.jtag ≠ .extest) :
    jtagTake s i = { s with sec := { s.sec with jtag := i } } := by
  unfold jtagTake
  dsimp only
  rw [if_neg hd, if_neg (fun h => hi h.1), if_neg (fun h => hj h.1)]

theorem jtagTake_idcode (hj : s.sec.jtag ≠ .extest) :
    jtagTake s .idcode = { s with sec := { s.sec with jtag := .idcode }, rdata := idcode s } := by
  unfold jtagTake
  dsimp only
  rw [if_pos rfl, if_neg (fun h => JtagIns.noConfusion h.1), if_neg (fun h => hj h.1)]

theorem jtagTake_extest (hj : s.sec.jtag ≠ .extest) :
    jtagTake s .extest = zeroise { s with sec := { s.sec with jtag := .extest } } := by
  unfold jtagTake
  dsimp only
  rw [if_pos ⟨rfl, hj⟩, if_neg (c := JtagIns.extest = .idcode) JtagIns.noConfusion]

/-- To leave EXTEST resets the device (R515). -/
theorem jtagTake_leaves {i : JtagIns} (hi : i ≠ .extest) (hj : s.sec.jtag = .extest) :
    (jtagTake s i).boot = .warmPending ∧ (jtagTake s i).nv = quietKeep s.nv := by
  unfold jtagTake
  dsimp only
  rw [if_neg (fun h => hi h.1), if_pos ⟨hj, hi⟩]
  split <;> exact ⟨rfl, rfl⟩

theorem exec_jtagInstruction {i : JtagIns} (hb : s.boot ≠ .off) (ha : jtagAccepts s i = true) :
    exec (.jtagInstruction i) s = .next (jtagTake s i) :=
  if_neg (not_or.2 ⟨hb, ne_true_of_eq_false (congrArg not ha)⟩)

/-! ### The lock (R427) -/

/-- Where the lock is never taken: in recovery, in BLANK and in SCRAPPED. -/
def LockBarred (s : State) : Prop := s.sec.recovery = true ∨ s.nv.lcState = 0 ∨ s.nv.lcState = 5

theorem takeLock_barred (hb : LockBarred s) (mid : BitVec 4) :
    (takeLock s mid).2 = { s with glb := { s.glb with lockMid := mid, failed := false, failRule := 0, failGate := 0 } } :=
  congrArg Prod.snd (if_pos hb)

theorem takeLock_again (hb : ¬LockBarred s) (hl : s.glb.locked = true) (mid : BitVec 4) :
    (takeLock s mid).2 = { s with glb := { s.glb with lockMid := mid, failed := false, failRule := 0, failGate := 0 } } :=
  congrArg Prod.snd ((if_neg hb).trans (if_pos hl))

/-- The lock is taken, unless a gate breaks a rule. -/
theorem takeLock_first (hb : ¬LockBarred s) (hl : s.glb.locked = false) (mid : BitVec 4) :
    (takeLock s mid).2.glb.locked = ((gateRules s).find? fun q => q.2 != 0).isNone ∧
      (takeLock s mid).2.glb.failed = ((gateRules s).find? fun q => q.2 != 0).isSome := by
  have hb' : ¬(s.sec.recovery = true ∨ s.nv.lcState = 0 ∨ s.nv.lcState = 5) := hb
  unfold takeLock
  dsimp only
  rw [if_neg hb', if_neg (ne_true_of_eq_false hl)]
  split
  · rename_i q hq
    rw [hq]
    exact ⟨hl, rfl⟩
  · rename_i hq
    rw [hq]
    exact ⟨rfl, rfl⟩

/-- The lock is always attributed, and leaves all but the global registers. -/
theorem takeLock_touches (mid : BitVec 4) :
    (takeLock s mid).2 = { s with glb := (takeLock s mid).2.glb } ∧ (takeLock s mid).2.glb.lockMid = mid := by
  unfold takeLock
  dsimp only
  split
  · exact ⟨rfl, rfl⟩
  · split
    · exact ⟨rfl, rfl⟩
    · split <;> exact ⟨rfl, rfl⟩

theorem takeLock_stays (hl : s.glb.locked = true) (mid : BitVec 4) : (takeLock s mid).2.glb.locked = true := by
  by_cases hb : LockBarred s
  · rw [takeLock_barred hb]
    exact hl
  · rw [takeLock_again hb hl]
    exact hl

theorem exec_lock {h : Nat} {f : Fetched} (hr : MayRun s h 0x42 f) :
    exec (.lock h) s = .next (complete (takeLock (started s h) (originMid f.origin)).2 h (takeLock (started s h) (originMid f.origin)).1
      (glbLock (takeLock (started s h) (originMid f.origin)).2).toNat) :=
  congrArg Host.Outcome.next (withCmd_mayRun s h 0x42 f _ hr)

/-- The clause of O45 about LOCK. -/
theorem lock_taken {h : Nat} {f : Fetched} (hr : MayRun s h 0x42 f) :
    ∃ t, exec (.lock h) s = .next t ∧ findCmd t h = none ∧ t.nv = s.nv ∧
      t.glb.lockMid = originMid f.origin ∧ (LockBarred s → t.glb.locked = s.glb.locked ∧ t.glb.failed = false) ∧
      (s.glb.locked = true → t.glb.locked = true) ∧
      (¬LockBarred s → s.glb.locked = false → (∀ q ∈ gateRules s, q.2 = 0) → t.glb.locked = true ∧ t.glb.failed = false) ∧
      (¬LockBarred s → s.glb.locked = false → (∃ q ∈ gateRules s, q.2 ≠ 0) → t.glb.locked = false ∧ t.glb.failed = true) := by
  obtain ⟨hrest, hmid⟩ := takeLock_touches (s := started s h) (originMid f.origin)
  refine ⟨_, exec_lock hr, findCmd_complete .., ?_, ?_, fun hb => ?_, fun hl => ?_, fun hb hl hg => ?_, fun hb hl hg => ?_⟩
  · rw [complete_nv, hrest]
    rfl
  · rw [complete_glb, hmid]
  · rw [complete_glb, takeLock_barred (s := started s h) hb]
    exact ⟨rfl, rfl⟩
  · rw [complete_glb]
    exact takeLock_stays (s := started s h) hl _
  · obtain ⟨hlocked, hfailed⟩ := takeLock_first (s := started s h) hb hl (originMid f.origin)
    have hnone : ((gateRules (started s h)).find? fun q => q.2 != 0) = none :=
      List.find?_eq_none.2 fun q hq => by simp [hg q hq]
    rw [complete_glb, hlocked, hfailed, hnone]
    exact ⟨rfl, rfl⟩
  · obtain ⟨hlocked, hfailed⟩ := takeLock_first (s := started s h) hb hl (originMid f.origin)
    obtain ⟨q, hq, hne⟩ := hg
    have hsome : ((gateRules (started s h)).find? fun q => q.2 != 0).isSome = true :=
      List.find?_isSome.2 ⟨q, hq, bne_iff_ne.2 hne⟩
    rw [complete_glb, hlocked, hfailed, hsome, Option.isNone_eq_false_iff.2 hsome]
    exact ⟨rfl, rfl⟩

/-- Settles O45: a clause for each command and each case of it. -/
theorem lifeCycleTamperAndLock : Obligations.LifeCycleTamperAndLock := by
  unfold Obligations.LifeCycleTamperAndLock
  intro s
  refine ⟨fun b hn => exec_lcTransitionDone_of_none b hn, fun t ht => ⟨exec_lcTransitionDone ht true, transitionEnd s t,
    exec_lcTransitionDone ht false, rfl, rfl, rfl, rfl, rfl, rfl, rfl, fun h45 => moveKeys_leaves h45⟩, fun p g k h => ?_,
    fun p g k hb hp => ?_, fun hb => ?_, fun hb => if_pos hb, fun hj => ⟨_, if_pos hj, rfl, rfl, rfl⟩, fun hj => if_neg hj,
    fun i hi => if_pos (hi.imp_right (congrArg not)), fun hb hj => ?_, fun hb ha hj => ?_, fun i hb ha hi hj => ?_,
    fun i hb ha hi hd hj => ?_, fun h f hr => lock_taken hr⟩
  · exact (exec_tamperTrip p g k).trans (if_pos (h.imp_right tripBits_nil.2))
  · obtain ⟨t, ht, htrip⟩ := tamperTrip_tripped hb hp
    obtain ⟨hp1, hg1, hk1⟩ := tripBits_set p g k s.sec.tamper
    rw [← htrip.bits] at hp1 hg1 hk1
    exact ⟨t, ht, htrip.boot, htrip.zeroised, htrip.count.trans (congrArg _ (tripBits_length p g k)), hp1, hg1, hk1, htrip.nv,
      htrip.cores, htrip.shards, htrip.pending⟩
  · have htrip := (tripped_warmState (s := s) [0] 3).unlocked
    exact ⟨_, if_neg hb, htrip.boot, htrip.zeroised, htrip.nv, htrip.count, by rw [htrip.bits]; simp, rfl, htrip.pending⟩
  · exact (exec_jtagInstruction hb rfl).trans (congrArg _ (jtagTake_idcode hj))
  · exact ⟨_, (exec_jtagInstruction hb ha).trans (congrArg _ (jtagTake_extest hj)), rfl, rfl, rfl⟩
  · obtain ⟨hboot, hnv⟩ := jtagTake_leaves hi hj
    exact ⟨_, exec_jtagInstruction hb ha, hboot, hnv⟩
  · exact (exec_jtagInstruction hb ha).trans (congrArg _ (jtagTake_plain hi hd hj))

end Sys2Proof.Machine
end

section
/-! SUPPORT. The firmware update, attestation and the logs; the obligation UpdateAttestAndLogs. -/

namespace Sys2Proof.Machine

variable {s : State}

/-! ### The two copies of the firmware (R524) -/

@[simp] theorem copyOf_setCopy_self (n : NonVolatile) (b : Bool) (c : FwCopy) : copyOf (setCopy n b c) b = c := by cases b <;> rfl

@[simp] theorem copyOf_setCopy_other (n : NonVolatile) (b : Bool) (c : FwCopy) : copyOf (setCopy n b c) (!b) = copyOf n (!b) := by
  cases b <;> rfl

/-- Whether an image verifies is not a matter of the copies held. -/
theorem imageOk_setCopy (n : NonVolatile) (b : Bool) (c : FwCopy) (img : List Byte) : imageOk (setCopy n b c) img = imageOk n img := by
  cases b <;> rfl

/-- The bytes of the update with one part more. -/
def updateImage (s : State) (bytes : List Byte) : List Byte :=
  (if s.sec.updateAt.isNone then [] else (copyOf s.nv (inactive s.nv)).bytes) ++ bytes

/-- The inactive copy while the update is under way. -/
def updateCopy (s : State) (bytes : List Byte) : FwCopy :=
  { copyOf s.nv (inactive s.nv) with shipped := false, valid := false, bytes := updateImage s bytes }

/-- The state with one part more in the inactive copy. -/
def updateTaken (s : State) (bytes : List Byte) (at_ : Option Nat) : State :=
  { s with nv := setCopy s.nv (inactive s.nv) (updateCopy s bytes), sec := { s.sec with updateAt := at_ } }

theorem updatePart_more (h : Nat) (bytes : List Byte) :
    updatePart s h false bytes = complete (updateTaken s bytes (some (updateImage s bytes).length)) h stOk := rfl

/-- The inactive copy once the update is over: VALID when the image verifies. -/
def updatedCopy (s : State) (bytes : List Byte) : FwCopy :=
  if imageOk s.nv (updateImage s bytes) then
    { updateCopy s bytes with valid := true, seq := (copyOf s.nv (!inactive s.nv)).seq + 1 }
  else updateCopy s bytes

theorem updatedCopy_bytes (bytes : List Byte) : (updatedCopy s bytes).bytes = updateImage s bytes := by
  unfold updatedCopy
  split <;> rfl

theorem updatedCopy_valid (bytes : List Byte) : (updatedCopy s bytes).valid = imageOk s.nv (updateImage s bytes) := by
  unfold updatedCopy
  split
  · rename_i hi
    exact hi.symm
  · rename_i hi
    exact (Bool.eq_false_of_not_eq_true hi).symm

theorem setCopy_setCopy (n : NonVolatile) (b : Bool) (c d : FwCopy) : setCopy (setCopy n b c) b d = setCopy n b d := by
  cases b <;> rfl

theorem updatePart_last (h : Nat) (bytes : List Byte) :
    ∃ st, updatePart s h true bytes =
      complete { s with nv := setCopy s.nv (inactive s.nv) (updatedCopy s bytes), sec := { s.sec with updateAt := none } } h st := by
  by_cases hi : imageOk s.nv (updateImage s bytes) = true
  · refine ⟨stOk, (if_pos ((imageOk_setCopy ..).trans hi)).trans ?_⟩
    rw [updatedCopy, if_pos hi, setCopy_setCopy, copyOf_setCopy_other]
    rfl
  · refine ⟨stAuthFailed, (if_neg fun hc => hi ((imageOk_setCopy ..).symm.trans hc)).trans ?_⟩
    rw [updatedCopy, if_neg hi]
    rfl

/-- FIRMWARE_UPDATE, in the order of its checks. -/
theorem exec_firmwareUpdate {h : Nat} {f : Fetched} (hr : MayRun s h 0x40 f) :
    exec (.firmwareUpdate h) s = .next
      (if s.glb.locked ∧ !s.sec.recovery then complete (started s h) h stLocked
      else if mw f.manifest 1 ≠ s.sec.updateAt.getD 0 ∨ mw f.manifest 1 + (linesBytes f.bales).length > 2 ^ 23 then
        complete (updateStop (started s h)) h stBadState
      else updatePart (started s h) h (mw f.manifest 0 % 2 = 1) (linesBytes f.bales)) :=
  congrArg Host.Outcome.next (withCmd_mayRun s h 0x40 f _ hr)

/-- What one part leaves, when it is not the last. -/
theorem updatePart_more_holds {h : Nat} (bytes : List Byte) :
    (updatePart s h false bytes).sec.updateAt = some (updateImage s bytes).length ∧
    (copyOf (updatePart s h false bytes).nv (inactive s.nv)).valid = false ∧
    (copyOf (updatePart s h false bytes).nv (inactive s.nv)).bytes = updateImage s bytes ∧
    copyOf (updatePart s h false bytes).nv (!inactive s.nv) = copyOf s.nv (!inactive s.nv) := by
  rw [updatePart_more, complete_sec, complete_nv]
  exact ⟨rfl, congrArg FwCopy.valid (copyOf_setCopy_self ..), congrArg FwCopy.bytes (copyOf_setCopy_self ..), copyOf_setCopy_other ..⟩

/-- What the last part leaves. -/
theorem updatePart_last_holds {h : Nat} (bytes : List Byte) :
    (updatePart s h true bytes).sec.updateAt = none ∧
    (copyOf (updatePart s h true bytes).nv (inactive s.nv)).bytes = updateImage s bytes ∧
    (copyOf (updatePart s h true bytes).nv (inactive s.nv)).valid = imageOk s.nv (updateImage s bytes) ∧
    copyOf (updatePart s h true bytes).nv (!inactive s.nv) = copyOf s.nv (!inactive s.nv) := by
  obtain ⟨st, hst⟩ := updatePart_last (s := s) h bytes
  rw [hst, complete_sec, complete_nv]
  refine ⟨rfl, ?_, ?_, copyOf_setCopy_other ..⟩
  · rw [copyOf_setCopy_self, updatedCopy_bytes]
  · rw [copyOf_setCopy_self, updatedCopy_valid]

theorem findCmd_updatePart (h : Nat) (last : Bool) (bytes : List Byte) : findCmd (updatePart s h last bytes) h = none := by
  cases last
  · rw [updatePart_more, findCmd_complete]
  · obtain ⟨st, hst⟩ := updatePart_last (s := s) h bytes
    rw [hst, findCmd_complete]

/-- The clause of O46 about FIRMWARE_UPDATE, once the update may go on. -/
theorem firmwareUpdate_taken {h : Nat} {f : Fetched} (hr : MayRun s h 0x40 f) (hl : s.glb.locked = false ∨ s.sec.recovery = true) :
    let bytes := linesBytes f.bales
    let b := inactive s.nv
    (mw f.manifest 1 ≠ s.sec.updateAt.getD 0 ∨ 2 ^ 23 < mw f.manifest 1 + bytes.length →
      exec (.firmwareUpdate h) s = .next (complete (updateStop (started s h)) h stBadState)) ∧
    (mw f.manifest 1 = s.sec.updateAt.getD 0 → mw f.manifest 1 + bytes.length ≤ 2 ^ 23 →
      ∃ t, exec (.firmwareUpdate h) s = .next t ∧ findCmd t h = none ∧
      (mw f.manifest 0 % 2 = 0 → t.sec.updateAt = some (updateImage s bytes).length ∧ (copyOf t.nv b).valid = false ∧
        (copyOf t.nv b).bytes = updateImage s bytes) ∧
      (mw f.manifest 0 % 2 = 1 → t.sec.updateAt = none ∧ (copyOf t.nv b).bytes = updateImage s bytes ∧
        (copyOf t.nv b).valid = imageOk s.nv (updateImage s bytes)) ∧
      copyOf t.nv (!b) = copyOf s.nv (!b)) := by
  intro bytes b
  have hn : ¬(s.glb.locked = true ∧ (!s.sec.recovery) = true) := by
    rintro ⟨hlk, hrc⟩
    rcases hl with hl | hl
    · exact absurd hlk (ne_true_of_eq_false hl)
    · rw [hl] at hrc
      exact absurd hrc (by decide)
  have he := (exec_firmwareUpdate hr).trans (congrArg Host.Outcome.next (if_neg hn))
  refine ⟨fun hb => he.trans (congrArg Host.Outcome.next (if_pos hb)), fun ho hs => ?_⟩
  have ho' : ¬(mw f.manifest 1 ≠ s.sec.updateAt.getD 0 ∨ mw f.manifest 1 + (linesBytes f.bales).length > 2 ^ 23) :=
    not_or.2 ⟨not_not_intro ho, Nat.not_lt.2 hs⟩
  have he' := he.trans (congrArg Host.Outcome.next (if_neg ho'))
  rcases Nat.mod_two_eq_zero_or_one (mw f.manifest 0) with h0 | h1
  · rw [show decide (mw f.manifest 0 % 2 = 1) = false from decide_eq_false (by omega)] at he'
    obtain ⟨hat, hvalid, hbytes, hother⟩ := updatePart_more_holds (s := started s h) (h := h) bytes
    exact ⟨_, he', findCmd_updatePart .., fun _ => ⟨hat, hvalid, hbytes⟩, fun h1 => absurd h1 (by omega), hother⟩
  · rw [show decide (mw f.manifest 0 % 2 = 1) = true from decide_eq_true h1] at he'
    obtain ⟨hat, hbytes, hvalid, hother⟩ := updatePart_last_holds (s := started s h) (h := h) bytes
    exact ⟨_, he', findCmd_updatePart .., fun h0 => absurd h0 (by omega), fun _ => ⟨hat, hbytes, hvalid⟩, hother⟩

/-! ### Attestation and the logs (R319, R320, R526, R549) -/

/-- Where attestation is served. -/
def AttestServed (s : State) : Prop := (s.nv.lcState = 2 ∨ s.nv.lcState = 3 ∨ s.sec.recovery = true) ∧ s.sec.pufFail = false

theorem exec_attest {h : Nat} {f : Fetched} (hr : MayRun s h 0x41 f) :
    exec (.attest h) s = .next
      (if (s.nv.lcState = 2 ∨ s.nv.lcState = 3 ∨ s.sec.recovery) ∧ !s.sec.pufFail then
        complete (buildReport (started s h) (fld f.manifest 255 128)) h stOk
          (buildReport (started s h) (fld f.manifest 255 128)).sec.report.length
      else complete (started s h) h stBadState) :=
  congrArg Host.Outcome.next (withCmd_mayRun s h 0x41 f _ hr)

theorem attest_holds {h : Nat} {f : Fetched} (hr : MayRun s h 0x41 f) :
    (¬AttestServed s → exec (.attest h) s = .next (complete (started s h) h stBadState)) ∧
    (AttestServed s → ∃ t, exec (.attest h) s = .next t ∧ findCmd t h = none ∧ t.nv = s.nv ∧ t.sec.reports = s.sec.reports + 1 ∧
      t.sec.report = (buildReport (started s h) (fld f.manifest 255 128)).sec.report) := by
  have he := exec_attest hr
  refine ⟨fun hn => he.trans (congrArg Host.Outcome.next (if_neg fun hc => hn ⟨hc.1, by simpa using hc.2⟩)),
    fun hsv => ⟨_, he.trans (congrArg Host.Outcome.next (if_pos ⟨hsv.1, congrArg not hsv.2⟩)), findCmd_complete .., ?_, ?_, ?_⟩⟩
  · rw [complete_nv]
    rfl
  · rw [complete_sec]
    rfl
  · rw [complete_sec]

/-- The ledger is cleared over the debug port in RMA, with the key. -/
def ledgerMay (s : State) (mid : Nat) (v : Word) : Bool :=
  mid == 4 && s.nv.lcState == 4 && reaches s mid (bstAddr 0x14) && fld v 31 24 == 0xC3

theorem ledgerClear_eq (mid : Nat) (v : Word) :
    ledgerClear s mid v = if ledgerMay s mid v then
        if bit v 0 then { s with nv := { s.nv with ledgerA := [], ledgerB := [] } } else s
      else clogBar s mid (bstAddr 0x14) stAccess := by
  have hc : (mid ≠ 4 ∨ s.nv.lcState ≠ 4 ∨ (!reaches s mid (bstAddr 0x14)) = true ∨ fld v 31 24 ≠ 0xC3) ↔ ¬ledgerMay s mid v = true := by
    simp only [ledgerMay, Bool.and_eq_true, beq_iff_eq, not_and_or, Bool.not_eq_true', Bool.not_eq_true, or_assoc, ne_eq]
  by_cases hm : ledgerMay s mid v = true
  · rw [if_pos hm]
    exact if_neg fun h => hc.1 h hm
  · rw [if_neg hm]
    exact if_pos (hc.2 hm)

/-- A customs log that is cleared holds no valid entry. -/
theorem clogClear_invalid {v : Word} (hv : bit v 0 = true) :
    clogClear s v = { s with glb := (clogClear s v).glb } ∧
      (clogClear s v).glb = { s.glb with log := (clogClear s v).glb.log } ∧ ∀ q ∈ (clogClear s v).glb.log, q.2.valid = false := by
  rw [clogClear, if_pos hv]
  refine ⟨rfl, rfl, fun q hq => ?_⟩
  obtain ⟨p, -, rfl⟩ := List.mem_map.1 (List.mem_filter.1 hq).1
  rfl

/-- A pair of notices takes the place that `next` names. -/
theorem logRecord_entry {g : Glb} (a b : Packet) :
    nget {} (logRecord g a b).log g.next.toNat = logEntry a b (g.seq + 1) := by
  rw [logRecord, nget_nset, if_pos rfl]

/-- Settles O46: a clause for each command and each case of it. -/
theorem updateAttestAndLogs : Obligations.UpdateAttestAndLogs := by
  unfold Obligations.UpdateAttestAndLogs
  intro s
  refine ⟨fun h f hr => ?_, fun h f hr => attest_holds hr, fun mid v => ?_, fun a b => ⟨fun ha hb => ?_, fun hn => if_neg ?_⟩⟩
  · intro u off bytes b image
    refine ⟨fun hl hrc => ?_, fun hl => firmwareUpdate_taken hr hl⟩
    exact (exec_firmwareUpdate hr).trans (congrArg Host.Outcome.next (if_pos ⟨hl, congrArg not hrc⟩))
  · intro may
    have hl := ledgerClear_eq (s := s) mid v
    refine ⟨fun hm => congrArg Host.Outcome.next (hl.trans (if_neg (ne_true_of_eq_false hm))),
      fun hm hb => congrArg Host.Outcome.next (hl.trans ((if_pos hm).trans (if_pos hb))),
      fun hm hb => congrArg Host.Outcome.next (hl.trans ((if_pos hm).trans (if_neg (ne_true_of_eq_false hb)))),
      fun hr => congrArg Host.Outcome.next (if_neg (ne_true_of_eq_false hr)),
      fun hr hb => congrArg Host.Outcome.next ((if_pos hr).trans (if_neg (ne_true_of_eq_false hb))), fun hr hb => ?_⟩
    obtain ⟨hrest, hglb, hinvalid⟩ := clogClear_invalid (s := s) hb
    exact ⟨_, congrArg Host.Outcome.next (if_pos hr), hrest, hglb, hinvalid⟩
  · exact ⟨_, if_pos ⟨ha, hb⟩, rfl, rfl, rfl, rfl, logRecord_entry (g := s.glb) a b⟩
  · exact fun hc => hn.elim (absurd hc.1) (absurd hc.2)

end Sys2Proof.Machine
end

section
/-! SUPPORT. The begin and the end of a self-test; the obligation BistRunsAndEnds. -/

namespace Sys2Proof.Machine

variable {s : State}

/-! ### The begin of a test (R551, R552, R558) -/

/-- A test that has begun, of the cores and with the command given. -/
def bistBegun (s : State) (test : Nat) (all : Bool) (core : Nat) (cmd : Option Nat) : BistRun :=
  { test := BitVec.ofNat 2 test, cores := bistCores s test all core
    partly := overBudget s.bst.sliceUs.toNat s.pwr.pl.toNat test, cmd := cmd }

/-- A test outside its limits: refused, its status recorded. -/
def bistOutside (s : State) (test : Nat) : State :=
  { bistMark s test with bst := { (bistMark s test).bst with status := stBistLimit } }

theorem exec_bistRun {h : Nat} {f : Fetched} (hr : MayRun s h 0x48 f) :
    exec (.bistRun h) s = .next
      (if s.bst.running.isSome ∨ s.pwr.target.isSome then started s h
      else if !bistMay s (mw f.manifest 0 % 4) (mw f.manifest 0 / 4 % 2 = 1) (mTcore f.manifest) then complete (started s h) h stBadState
      else if !inLimits s then complete (bistOutside (started s h) (mw f.manifest 0 % 4)) h stBistLimit
      else bistStart (begun (started s h) h) (mw f.manifest 0 % 4) (mw f.manifest 0 / 4 % 2 = 1) (mTcore f.manifest) (some h)) :=
  congrArg Host.Outcome.next (withCmd_mayRun s h 0x48 f _ hr)

theorem not_some_of_not {α : Type} {o : Option α} (h : ¬o.isSome = true) : o = none := Option.not_isSome_iff_eq_none.1 h

/-- The clause of O47 about BIST_RUN. -/
theorem bistRun_holds {h : Nat} {f : Fetched} (hr : MayRun s h 0x48 f) :
    let test := mw f.manifest 0 % 4
    let all : Bool := mw f.manifest 0 / 4 % 2 = 1
    let u := started s h
    let busy := s.bst.running.isSome = true ∨ s.pwr.target.isSome = true
    (busy → exec (.bistRun h) s = .next u) ∧
    (¬busy → bistMay s test all (mTcore f.manifest) = false → exec (.bistRun h) s = .next (complete u h stBadState)) ∧
    (¬busy → bistMay s test all (mTcore f.manifest) = true → inLimits s = false → ∃ t, exec (.bistRun h) s = .next t ∧ findCmd t h = none ∧
      t.bst.status = stBistLimit ∧ t.bst.running = none ∧ t.cores = s.cores) ∧
    (¬busy → bistMay s test all (mTcore f.manifest) = true → inLimits s = true → ∃ t, exec (.bistRun h) s = .next t ∧ t.cores = s.cores ∧
      t.bst.running = some (bistBegun s test all (mTcore f.manifest) (some h))) := by
  intro test all u busy
  have he := exec_bistRun hr
  have hfree (hb : ¬busy) := he.trans (congrArg Host.Outcome.next (if_neg hb))
  refine ⟨fun hb => he.trans (congrArg Host.Outcome.next (if_pos hb)), fun hb hm => ?_, fun hb hm hl => ?_, fun hb hm hl => ?_⟩
  · exact (hfree hb).trans (congrArg Host.Outcome.next (if_pos (congrArg not hm)))
  · refine ⟨_, (hfree hb).trans (congrArg Host.Outcome.next
      ((if_neg (ne_true_of_eq_false (congrArg not hm))).trans (if_pos (congrArg not hl)))), findCmd_complete .., ?_, ?_, ?_⟩
    · rw [complete_bst]
      rfl
    · rw [complete_bst]
      exact not_some_of_not fun h => hb (.inl h)
    · rw [complete_cores]
      rfl
  · exact ⟨_, (hfree hb).trans (congrArg Host.Outcome.next
      ((if_neg (ne_true_of_eq_false (congrArg not hm))).trans (if_neg (ne_true_of_eq_false (congrArg not hl))))), rfl, rfl⟩

/-- A write to BST_CTL that is looked at: from a master that may ask for it, in a state that permits tests, with the key (R552). -/
def bstMay (s : State) (mid : Nat) (v : Word) : Bool :=
  (mid == 2 || mid == 4) && bistFull s.nv.lcState && reaches s mid (bstAddr 4) && fld v 31 24 == 0x6B

theorem exec_bstCtlGo (mid : Nat) (v : Word) :
    exec (.bstCtlGo mid v) s = .next
      (if bstMay s mid v = false ∨ s.bst.running.isSome = true then clogBar s mid (bstAddr 4) stAccess
      else if !bit v 23 || s.pwr.target.isSome || !bistMay s (fld v 21 20) (bit v 22) (fld v 9 0) then s
      else if !inLimits s then bistOutside s (fld v 21 20)
      else bistStart s (fld v 21 20) (bit v 22) (fld v 9 0) none) := by
  have hc : (!(mid == 2 || mid == 4) || !bistFull s.nv.lcState || !reaches s mid (bstAddr 4) || fld v 31 24 != 0x6B ||
      s.bst.running.isSome) = (!bstMay s mid v || s.bst.running.isSome) := by
    simp only [bstMay, Bool.not_and, bne]
  refine congrArg Host.Outcome.next ?_
  by_cases hm : bstMay s mid v = false ∨ s.bst.running.isSome = true
  · rw [if_pos hm]
    exact if_pos (by rw [hc, Bool.or_eq_true, Bool.not_eq_true']; exact hm)
  · rw [if_neg hm]
    exact if_neg (by rw [hc, Bool.or_eq_true, Bool.not_eq_true']; exact hm)

/-- The clause of O47 about a GO in BST_CTL. -/
theorem bstCtlGo_holds (mid : Nat) (v : Word) :
    (bstMay s mid v = false ∨ s.bst.running.isSome = true → exec (.bstCtlGo mid v) s = .next (clogBar s mid (bstAddr 4) stAccess)) ∧
    (bstMay s mid v = true → s.bst.running = none →
      bit v 23 = false ∨ s.pwr.target.isSome = true ∨ bistMay s (fld v 21 20) (bit v 22) (fld v 9 0) = false →
      exec (.bstCtlGo mid v) s = .next s) ∧
    (bstMay s mid v = true → s.bst.running = none → bit v 23 = true → s.pwr.target = none →
      bistMay s (fld v 21 20) (bit v 22) (fld v 9 0) = true → inLimits s = false → ∃ t, exec (.bstCtlGo mid v) s = .next t ∧
        t = { s with bst := t.bst } ∧ t.bst.status = stBistLimit ∧ t.bst.running = none) ∧
    (bstMay s mid v = true → s.bst.running = none → bit v 23 = true → s.pwr.target = none →
      bistMay s (fld v 21 20) (bit v 22) (fld v 9 0) = true → inLimits s = true → ∃ t, exec (.bstCtlGo mid v) s = .next t ∧
        t = { s with bst := t.bst } ∧ t.bst.running = some (bistBegun s (fld v 21 20) (bit v 22) (fld v 9 0) none)) := by
  have he := exec_bstCtlGo (s := s) mid v
  have hlooked (hm : bstMay s mid v = true) (hn : s.bst.running = none) :=
    he.trans (congrArg Host.Outcome.next (if_neg (by rw [hm, hn]; decide)))
  have hgoes (hm : bstMay s mid v = true) (hn : s.bst.running = none) (hg : bit v 23 = true) (ht : s.pwr.target = none)
      (hb : bistMay s (fld v 21 20) (bit v 22) (fld v 9 0) = true) :=
    (hlooked hm hn).trans (congrArg Host.Outcome.next (if_neg (by rw [hg, ht, hb]; decide)))
  refine ⟨fun h => he.trans (congrArg Host.Outcome.next (if_pos h)), fun hm hn h => ?_, fun hm hn hg ht hb hl => ?_,
    fun hm hn hg ht hb hl => ?_⟩
  · exact (hlooked hm hn).trans (congrArg Host.Outcome.next (if_pos (by rcases h with h | h | h <;> simp [h])))
  · exact ⟨_, (hgoes hm hn hg ht hb).trans (congrArg Host.Outcome.next (if_pos (congrArg not hl))), rfl, rfl, hn⟩
  · exact ⟨_, (hgoes hm hn hg ht hb).trans (congrArg Host.Outcome.next (if_neg (ne_true_of_eq_false (congrArg not hl)))), rfl, rfl⟩

/-! ### The end of a test (R553, R556, R557, R559) -/

/-- What the repair of a device's arrays leaves as it is: the map of cores to tiles, the cores and the ones held out. -/
def unrepaired (s : State) : NMap (List Nat) × NMap Core × List Nat := (s.remap, s.cores, s.bst.held)

theorem unrepaired_appendEntry (s : State) (e : BitVec 128) : unrepaired (appendEntry s e) = unrepaired s := by
  unfold appendEntry
  split <;> rfl

/-- The repair of a device's arrays is a row of ledger entries: what none of them changes, it keeps. -/
theorem fixRows_keeps {γ : Type} (p : State → γ) (hp : ∀ s e, p (appendEntry s e) = p s) (s : State) (tile array source : Nat)
    (rows : List Nat) : p (fixRows s tile array source rows) = p s := by
  induction rows generalizing s with
  | nil => rfl
  | cons r rows ih => rw [fixRows, ih, hp]

theorem repairTile_keeps {γ : Type} (p : State → γ) (hp : ∀ s e, p (appendEntry s e) = p s) (s : State) (source tile : Nat)
    (fs : List TestFailure) : p (repairTile s source tile fs) = p s := by
  unfold repairTile
  dsimp only
  split
  · rfl
  · split
    · exact hp ..
    · split
      · exact hp ..
      · exact foldl_keeps p _ (fun s _ => fixRows_keeps p hp s ..) _ s

theorem repairAll_keeps {γ : Type} (p : State → γ) (hp : ∀ s e, p (appendEntry s e) = p s) (s : State) (source : Nat)
    (fs : List TestFailure) : p (repairAll s source fs) = p s :=
  foldl_keeps p _ (fun s _ => repairTile_keeps p hp s ..) _ s

theorem unrepaired_repairAll (source : Nat) (fs : List TestFailure) : unrepaired (repairAll s source fs) = unrepaired s :=
  repairAll_keeps unrepaired unrepaired_appendEntry ..

theorem mem_insNat {k j : Nat} {l : List Nat} : k ∈ insNat j l ↔ k = j ∨ k ∈ l := by
  induction l with
  | nil => simp [insNat]
  | cons x xs ih =>
    rw [insNat]
    split
    · exact List.mem_cons
    · split
      · rename_i hx
        subst hx
        simp
      · rw [List.mem_cons, ih, List.mem_cons]
        exact or_left_comm

/-- The core on the tile of a failure is held out, as the held ones stay. -/
def holdFailed (s : State) (l : List Nat) (f : TestFailure) : List Nat :=
  match coreAt s (f.py * 34 + f.px) with
  | some n => insNat n l
  | none => l

theorem holdCores_held (fs : List TestFailure) : (holdCores s fs).bst.held = fs.foldl (holdFailed s) s.bst.held := rfl

theorem mem_holdFailed {l : List Nat} {n : Nat} (hn : n ∈ l) (f : TestFailure) : n ∈ holdFailed s l f := by
  unfold holdFailed
  split
  · exact mem_insNat.2 (.inr hn)
  · exact hn

theorem mem_foldl_holdFailed {l : List Nat} {n : Nat} (fs : List TestFailure) (hn : n ∈ l) : n ∈ fs.foldl (holdFailed s) l :=
  foldl_inv (n ∈ ·) _ (fun _ f h => mem_holdFailed h f) fs l hn

/-- Every core with a failure on its tile is held out. -/
theorem mem_foldl_holdFailed_of_failed {fs : List TestFailure} {f : TestFailure} (hf : f ∈ fs) {n : Nat}
    (hn : coreAt s (f.py * 34 + f.px) = some n) (l : List Nat) : n ∈ fs.foldl (holdFailed s) l := by
  induction fs generalizing l with
  | nil => exact absurd hf List.not_mem_nil
  | cons g fs ih =>
    rw [List.foldl_cons]
    rcases List.mem_cons.1 hf with rfl | hf
    · refine mem_foldl_holdFailed fs ?_
      rw [holdFailed, hn]
      exact mem_insNat.2 (.inl rfl)
    · exact ih hf _

theorem getCore_zeroTiles {cores : List Nat} {n : Nat} (h : n ∈ cores ∨ getCore s n = zeroCore (getCore s n)) :
    getCore (zeroTiles s cores) n = zeroCore (getCore s n) := by
  unfold zeroTiles
  induction cores generalizing s with
  | nil => exact h.resolve_left List.not_mem_nil
  | cons k cores ih =>
    rw [List.foldl_cons]
    by_cases hk : n = k
    · subst hk
      have hz : getCore (modCore s n zeroCore) n = zeroCore (getCore s n) := by rw [getCore_modCore, if_pos rfl]
      rw [ih (.inr (by rw [hz]; rfl)), hz]
      rfl
    · have hz : getCore (modCore s k zeroCore) n = getCore s n := by rw [getCore_modCore, if_neg hk]
      rw [ih (by rw [hz]; exact h.imp_left fun hm => (List.mem_cons.1 hm).resolve_left hk), hz]

theorem zeroTiles_bst (cores : List Nat) : (zeroTiles s cores).bst = s.bst := foldl_keeps State.bst _ (fun _ _ => by rfl) cores s

/-- The device after the repair: the failing cores held out, the tested tiles zero. -/
def bistCleared (s : State) (r : BistRun) (fs : List TestFailure) : State :=
  zeroTiles (holdCores (repairAll s (if r.test = 3 then 2 else 1) fs) fs) r.cores

/-- The device after the full test or the calibration that a passed test ends with. -/
def bistSettled (s : State) (r : BistRun) (done : List Nat) (stopped : Bool) (fs : List TestFailure) : State :=
  let s2 := bistCleared s r fs
  let s3 := if r.test = 3 then wreckDepot s2 else s2
  if r.test = 3 ∨ stopped ∨ r.partly then s3
  else calibrate s3 s3.pwr.pl.toNat (done.filter fun n => !s3.bst.held.contains n)

theorem bistSettled_keeps (r : BistRun) (done : List Nat) (stopped : Bool) (fs : List TestFailure) :
    (bistSettled s r done stopped fs).cores = (bistCleared s r fs).cores ∧
      (bistSettled s r done stopped fs).bst = (bistCleared s r fs).bst := by
  unfold bistSettled
  dsimp only
  split <;> split <;> exact ⟨rfl, rfl⟩

/-- The end of the run in the test unit's registers. -/
def bistClosed (s : State) (r : BistRun) (done : List Nat) (tiles : Nat) (stopped : Bool) (fs : List TestFailure) : State :=
  let s4 := bistSettled s r done stopped fs
  { s4 with bst := { s4.bst with
      running := none, hwstop := stopped, status := bistStatus (!fs.isEmpty) stopped r.partly, tiles := BitVec.ofNat 11 tiles
      fail := fs.head? } }

theorem bistEnd_eq (r : BistRun) (done : List Nat) (tiles : Nat) (stopped : Bool) (failures : List TestFailure) :
    bistEnd s r done tiles stopped failures =
      let fs := ownFailures s r.test done failures
      match r.cmd with
      | some h => complete (bistClosed s r done tiles stopped fs) h (bistStatus (!fs.isEmpty) stopped r.partly) tiles
      | none => bistClosed s r done tiles stopped fs := rfl

/-- An answer to the test's command changes neither the test unit nor a core. -/
theorem bistEnd_bst (r : BistRun) (done : List Nat) (tiles : Nat) (stopped : Bool) (failures : List TestFailure) :
    (bistEnd s r done tiles stopped failures).bst =
        (bistClosed s r done tiles stopped (ownFailures s r.test done failures)).bst ∧
      (bistEnd s r done tiles stopped failures).cores = (bistCleared s r (ownFailures s r.test done failures)).cores := by
  have hc := (bistSettled_keeps (s := s) r done stopped (ownFailures s r.test done failures)).1
  rw [bistEnd_eq]
  dsimp only
  split
  · rw [complete_bst, complete_cores]
    exact ⟨rfl, hc⟩
  · exact ⟨rfl, hc⟩

theorem bistClosed_held (r : BistRun) (done : List Nat) (tiles : Nat) (stopped : Bool) (fs : List TestFailure) :
    (bistClosed s r done tiles stopped fs).bst.held = fs.foldl (holdFailed s) s.bst.held := by
  have hrep := unrepaired_repairAll (s := s) (if r.test = 3 then 2 else 1) fs
  obtain ⟨hmap, -, hheld⟩ : _ ∧ _ ∧ _ := by simpa only [unrepaired, Prod.mk.injEq] using hrep
  have hh : holdFailed (repairAll s (if r.test = 3 then 2 else 1) fs) = holdFailed s := by
    funext l f
    rw [holdFailed, coreAt, hmap]
    rfl
  calc (bistClosed s r done tiles stopped fs).bst.held
      = (bistCleared s r fs).bst.held := congrArg (·.held) (bistSettled_keeps r done stopped fs).2
    _ = (holdCores (repairAll s (if r.test = 3 then 2 else 1) fs) fs).bst.held := by rw [bistCleared, zeroTiles_bst]
    _ = fs.foldl (holdFailed s) s.bst.held := by rw [holdCores_held, hh, hheld]

theorem getCore_bistCleared {r : BistRun} {fs : List TestFailure} {n : Nat} (hn : n ∈ r.cores) :
    getCore (bistCleared s r fs) n = zeroCore (getCore s n) := by
  have hrep := unrepaired_repairAll (s := s) (if r.test = 3 then 2 else 1) fs
  obtain ⟨-, hcores, -⟩ : _ ∧ _ ∧ _ := by simpa only [unrepaired, Prod.mk.injEq] using hrep
  rw [bistCleared, getCore_zeroTiles (.inl hn)]
  exact congrArg (fun m => zeroCore (nget {} m n)) hcores

theorem findCmd_bistEnd {r : BistRun} {h : Nat} (hc : r.cmd = some h) (done : List Nat) (tiles : Nat) (stopped : Bool)
    (failures : List TestFailure) : findCmd (bistEnd s r done tiles stopped failures) h = none := by
  rw [bistEnd_eq, hc]
  exact findCmd_complete ..

/-- What a test's end leaves, whether it was done or stopped. -/
def TestEnded (s t : State) (r : BistRun) (fs : List TestFailure) (done : List Nat) (tiles : Nat) (stopped : Bool) : Prop :=
  t.bst.running = none ∧ t.bst.hwstop = stopped ∧ t.bst.tiles = BitVec.ofNat 11 tiles ∧
  t.bst.fail = (ownFailures s r.test done fs).head? ∧
  (∀ f ∈ ownFailures s r.test done fs, ∀ n, coreAt s (f.py * 34 + f.px) = some n → n ∈ t.bst.held) ∧
  (∀ n ∈ s.bst.held, n ∈ t.bst.held) ∧ (∀ n ∈ r.cores, getCore t n = zeroCore (getCore s n)) ∧
  t.bst.status = bistStatus (!(ownFailures s r.test done fs).isEmpty) stopped r.partly ∧
  ∀ h, r.cmd = some h → findCmd t h = none

theorem testEnded_bistEnd (r : BistRun) (fs : List TestFailure) (done : List Nat) (tiles : Nat) (stopped : Bool) :
    TestEnded s (bistEnd s r done tiles stopped fs) r fs done tiles stopped := by
  obtain ⟨hbst, hcores⟩ := bistEnd_bst (s := s) r done tiles stopped fs
  unfold TestEnded
  rw [hbst, bistClosed_held]
  exact ⟨rfl, rfl, rfl, rfl, fun f hf n hn => mem_foldl_holdFailed_of_failed hf hn _, fun n hn => mem_foldl_holdFailed _ hn,
    fun n hn => (congrArg (fun m => nget ({} : Core) m n) hcores).trans (getCore_bistCleared hn), rfl,
    fun h hc => findCmd_bistEnd hc ..⟩

theorem exec_bistDone_none (hn : s.bst.running = none) (fs : List TestFailure) : exec (.bistDone fs) s = .next s := by
  have he : exec (.bistDone fs) s = execBistDone fs s := rfl
  rw [he, execBistDone, hn]

theorem exec_bistLimitStop_none (hn : s.bst.running = none) (k : Nat) (fs : List TestFailure) :
    exec (.bistLimitStop k fs) s = .next s := by
  have he : exec (.bistLimitStop k fs) s = execBistLimitStop k fs s := rfl
  rw [he, execBistLimitStop, hn]

theorem exec_bistDone {r : BistRun} (hr : s.bst.running = some r) (fs : List TestFailure) :
    exec (.bistDone fs) s = .next (bistEnd s r r.cores (tilesOf r) false fs) := by
  have he : exec (.bistDone fs) s = execBistDone fs s := rfl
  rw [he, execBistDone, hr]

theorem exec_bistLimitStop {r : BistRun} (hr : s.bst.running = some r) (k : Nat) (fs : List TestFailure) :
    exec (.bistLimitStop k fs) s =
      .next (bistEnd s r (r.cores.take (min k (tilesOf r))) (min k (tilesOf r)) true fs) := by
  have he : exec (.bistLimitStop k fs) s = execBistLimitStop k fs s := rfl
  rw [he, execBistLimitStop, hr]

/-- Settles O47: the begin of a test, by command and by register, and its end. -/
theorem bistRunsAndEnds : Obligations.BistRunsAndEnds := by
  unfold Obligations.BistRunsAndEnds
  intro s
  refine ⟨fun h f hr => bistRun_holds hr, fun mid v => bstCtlGo_holds mid v, fun fs => ⟨fun hn =>
    ⟨exec_bistDone_none hn fs, fun k => exec_bistLimitStop_none hn k fs⟩, fun r hr => ?_⟩⟩
  exact ⟨⟨_, exec_bistDone hr fs, testEnded_bistEnd ..⟩, fun k => ⟨_, exec_bistLimitStop hr k fs, testEnded_bistEnd ..⟩⟩

end Sys2Proof.Machine
end

section
/-! SUPPORT. Performance levels, the window that turns with them and the wake-up to S0; for LevelsFollowRequestsAndLimits and
SleepWakeAndBrownOut. -/

namespace Sys2Proof.Machine

variable {s : State}

/-! ### Performance levels (R496, R497) -/

theorem turnCore_touches (s : State) (n : Nat) :
    turnCore s n = { s with cores := (turnCore s n).cores, fab := (turnCore s n).fab } := (onlyTheCore_applyEff s n _).1

/-- A window that turns writes the gates, at the cores and in the fabric. -/
theorem turnWindow_touches : turnWindow s = { s with fab := (turnWindow s).fab, cores := (turnWindow s).cores } := by
  unfold turnWindow
  exact foldl_inv (fun t : State => t = { s with fab := t.fab, cores := t.cores }) turnCore
    (fun t n ht => by rw [turnCore_touches, ht]) _ _ rfl

theorem setDivisor_touches (pl : BitVec 2) :
    setDivisor s pl = { s with fab := (setDivisor s pl).fab, cores := (setDivisor s pl).cores, pwr := { s.pwr with pl := pl } } := by
  unfold setDivisor
  split
  · rename_i h
    rw [← h]
  · rw [turnWindow_touches]

theorem setDivisor_pwr (pl : BitVec 2) : (setDivisor s pl).pwr = { s.pwr with pl := pl } := by rw [setDivisor_touches]

theorem setDivisor_same : setDivisor s s.pwr.pl = s := if_pos rfl

/-- A device that is not in S0, or runs at the level it wants, does not begin a change. -/
theorem startLevel_settled (h : s.pwr.state ≠ .s0 ∨ wantedPl s.pwr = s.pwr.pl) : startLevel s = s := if_pos h

/-- A change to a slower level takes effect at once (R497). -/
theorem startLevel_changes (hs : s.pwr.state = .s0) (hw : wantedPl s.pwr ≠ s.pwr.pl) :
    startLevel s =
      let s1 := if s.pwr.pl.toNat < (wantedPl s.pwr).toNat then setDivisor s (wantedPl s.pwr) else s
      { s1 with pwr := { s1.pwr with changing := true } } := if_neg (not_or.2 ⟨not_not_intro hs, hw⟩)

theorem startLevel_changes_pwr (hs : s.pwr.state = .s0) (hw : wantedPl s.pwr ≠ s.pwr.pl) :
    (startLevel s).pwr = { s.pwr with
      pl := if s.pwr.pl.toNat < (wantedPl s.pwr).toNat then wantedPl s.pwr else s.pwr.pl, changing := true } := by
  rw [startLevel_changes hs hw]
  dsimp only
  split
  · rw [setDivisor_pwr]
  · rfl

/-- A change that begins moves the level and marks that it does; of the device it touches the gates. -/
theorem startLevel_touches :
    startLevel s = { s with
      fab := (startLevel s).fab, cores := (startLevel s).cores
      pwr := { s.pwr with pl := (startLevel s).pwr.pl, changing := (startLevel s).pwr.changing } } := by
  unfold startLevel
  dsimp only
  split
  · rfl
  · split
    · rw [setDivisor_touches]
    · rfl

/-- The gates turn only with the level. -/
theorem startLevel_cores (h : (startLevel s).pwr.pl = s.pwr.pl) : (startLevel s).cores = s.cores := by
  by_cases hq : s.pwr.state ≠ .s0 ∨ wantedPl s.pwr = s.pwr.pl
  · rw [startLevel_settled hq]
  · obtain ⟨hs, hw⟩ := not_or.1 hq
    rw [startLevel_changes_pwr (not_not.1 hs) hw] at h
    rw [startLevel_changes (not_not.1 hs) hw]
    dsimp only at h ⊢
    split
    · rename_i hlt
      rw [if_pos hlt] at h
      exact absurd h hw
    · rfl

theorem setDivisor_cores {pl : BitVec 2} (h : pl = s.pwr.pl) : (setDivisor s pl).cores = s.cores := by
  rw [h, setDivisor_same]

/-! ### The wake-up (R502, R503) -/

theorem atWakePl_pwr : (atWakePl s).pwr.state = .s0 := by
  unfold atWakePl
  rw [setDivisor_pwr]

theorem leaveLpi_pwr : (leaveLpi s).pwr = s.pwr := foldl_keeps State.pwr _ (fun _ _ => by rfl) _ s

theorem bookReach_pwr : (bookReach s).pwr = s.pwr := by
  unfold bookReach
  split <;> rfl

theorem calibrate_state (l : Nat) (cs : List Nat) : (calibrate s l cs).pwr.state = s.pwr.state := rfl

theorem watchAll_pwr : (watchAll s).pwr = s.pwr := by rw [watchAll, syncWatch_touches]

/-- A wake-up ends in S0. -/
theorem wakeNow_state (h : s.pwr.state = .s1 ∨ s.pwr.state = .s2 ∨ s.pwr.state = .s3) : (wakeNow s).pwr.state = .s0 := by
  unfold wakeNow
  rcases h with h | h | h <;> rw [h] <;> dsimp only
  · exact atWakePl_pwr
  · rw [calibrate_state, leaveLpi_pwr, atWakePl_pwr]
  · rw [bookReach_pwr, calibrate_state, watchAll_pwr, atWakePl_pwr]

end Sys2Proof.Machine
end

section
/-! SUPPORT. Requests for a performance level, their end, and the limits; the obligation LevelsFollowRequestsAndLimits. -/

namespace Sys2Proof.Machine

variable {s : State}

/-! ### Requests for a level (R498, R511) -/

theorem exec_powerSetPl {h : Nat} {f : Fetched} (hr : MayRun s h 0x49 f) :
    exec (.powerSetPl h) s = .next
      (if mw f.manifest 0 / 2 ^ 6 % 2 = 0 ∨ powerBusy s then started s h
      else requestPl (wokenFirst (started s h)) f (BitVec.ofNat 2 (mw f.manifest 0 / 2 ^ 4))) :=
  congrArg Host.Outcome.next (withCmd_mayRun s h 0x49 f _ hr)

/-- A request for a level is taken while no change, test or image is under way. -/
theorem exec_powerSetPl_taken {h : Nat} {f : Fetched} (hr : MayRun s h 0x49 f) (hb : mw f.manifest 0 / 2 ^ 6 % 2 = 1)
    (hn : powerBusy s = false) :
    exec (.powerSetPl h) s = .next (requestPl (wokenFirst (started s h)) f (BitVec.ofNat 2 (mw f.manifest 0 / 2 ^ 4))) := by
  rw [exec_powerSetPl hr, if_neg]
  rintro (h0 | h0)
  · omega
  · exact absurd h0 (ne_true_of_eq_false hn)

theorem wokenFirst_awake (h : s.pwr.state = .s0) : wokenFirst s = s := by
  rw [wokenFirst, h]
  rfl

theorem wokenFirst_asleep (h : s.pwr.state = .s1 ∨ s.pwr.state = .s2 ∨ s.pwr.state = .s3) :
    wokenFirst s = wakeNow (wakeFires s 9) := if_pos h

theorem powerBusy_changing (h : powerBusy s = false) : s.pwr.changing = false := by
  simp only [powerBusy, Bool.or_eq_false_iff] at h
  exact h.1.1.1

/-- The device with the level asked for. -/
def asksPl (s : State) (pl : BitVec 2) : State := { s with pwr := { s.pwr with plReq := pl } }

theorem requestPl_capped {f : Fetched} {pl : BitVec 2} (h : s.pwr.capW.toNat < ratedMax pl.toNat) :
    requestPl s f pl = complete s f.handle stPowerLimit := if_pos h

/-- A request within the cap, as the change it may begin answers it. -/
theorem requestPl_taken {f : Fetched} {pl : BitVec 2} (h : ratedMax pl.toNat ≤ s.pwr.capW.toNat) :
    requestPl s f pl =
      let s1 := startLevel (asksPl s pl)
      if s1.pwr.changing then
        let s2 := begun s1 f.handle
        { s2 with pwr := { s2.pwr with plCmds := s2.pwr.plCmds ++ [f.handle] } }
      else complete s1 f.handle stOk := if_neg (Nat.not_lt.2 h)

theorem requestPl_present {f : Fetched} {pl : BitVec 2} (h : ratedMax pl.toNat ≤ s.pwr.capW.toNat) (hc : s.pwr.changing = false)
    (hw : wantedPl (asksPl s pl).pwr = s.pwr.pl) : requestPl s f pl = complete (asksPl s pl) f.handle stOk := by
  rw [requestPl_taken h, startLevel_settled (s := asksPl s pl) (.inr hw)]
  exact if_neg (ne_true_of_eq_false hc)

theorem requestPl_changes {f : Fetched} {pl : BitVec 2} (h : ratedMax pl.toNat ≤ s.pwr.capW.toNat) (hs : s.pwr.state = .s0)
    (hw : wantedPl (asksPl s pl).pwr ≠ s.pwr.pl) :
    requestPl s f pl =
      let s2 := begun (startLevel (asksPl s pl)) f.handle
      { s2 with pwr := { s2.pwr with plCmds := s2.pwr.plCmds ++ [f.handle] } } := by
  have hp := startLevel_changes_pwr (s := asksPl s pl) hs hw
  rw [requestPl_taken h]
  exact if_pos (by rw [hp])

/-- The change that a request begins, and waits for. -/
theorem requestPl_changes_pwr {f : Fetched} {pl : BitVec 2} (h : ratedMax pl.toNat ≤ s.pwr.capW.toNat) (hs : s.pwr.state = .s0)
    (hw : wantedPl (asksPl s pl).pwr ≠ s.pwr.pl) :
    (requestPl s f pl).pwr = { s.pwr with
      plReq := pl, changing := true, plCmds := s.pwr.plCmds ++ [f.handle]
      pl := if s.pwr.pl.toNat < (wantedPl (asksPl s pl).pwr).toNat then wantedPl (asksPl s pl).pwr else s.pwr.pl } := by
  rw [requestPl_changes h hs hw]
  dsimp only
  rw [begun_pwr, startLevel_changes_pwr (s := asksPl s pl) hs hw]
  rfl

theorem requestPl_changes_cores {f : Fetched} {pl : BitVec 2} (h : ratedMax pl.toNat ≤ s.pwr.capW.toNat) (hs : s.pwr.state = .s0)
    (hw : wantedPl (asksPl s pl).pwr ≠ s.pwr.pl) (hp : (requestPl s f pl).pwr.pl = s.pwr.pl) :
    (requestPl s f pl).cores = s.cores := by
  rw [requestPl_changes h hs hw] at hp ⊢
  dsimp only at hp ⊢
  rw [begun_pwr] at hp
  rw [begun_cores]
  exact startLevel_cores (s := asksPl s pl) hp

theorem requestPl_state {f : Fetched} {pl : BitVec 2} : (requestPl s f pl).pwr.state = s.pwr.state := by
  unfold requestPl
  dsimp only
  split
  · rw [complete_pwr]
  · have hp : (startLevel (asksPl s pl)).pwr.state = s.pwr.state := by rw [startLevel_touches]; rfl
    split
    · exact (congrArg Power.state (begun_pwr ..)).trans hp
    · rw [complete_pwr]
      exact hp

/-- The clause of O48 about POWER_SET_PL in S0. -/
theorem powerSetPl_awake {h : Nat} {f : Fetched} (hr : MayRun s h 0x49 f) (hb : mw f.manifest 0 / 2 ^ 6 % 2 = 1)
    (hn : powerBusy s = false) (hs : s.pwr.state = .s0) :
    let u := started s h
    let pl := BitVec.ofNat 2 (mw f.manifest 0 / 2 ^ 4)
    let p := { s.pwr with plReq := pl }
    (s.pwr.capW.toNat < ratedMax pl.toNat → exec (.powerSetPl h) s = .next (complete u f.handle stPowerLimit)) ∧
    (ratedMax pl.toNat ≤ s.pwr.capW.toNat →
      (wantedPl p = s.pwr.pl → ∃ t, exec (.powerSetPl h) s = .next t ∧ findCmd t f.handle = none ∧ t.pwr = p ∧
        OnlyAnswered { s with pwr := p } t) ∧
      (wantedPl p ≠ s.pwr.pl → ∃ t, exec (.powerSetPl h) s = .next t ∧ t.pwr.changing = true ∧ t.pwr.plReq = pl ∧
        t.pwr.plCmds = s.pwr.plCmds ++ [f.handle] ∧ (t.pwr.pl = s.pwr.pl → t.cores = s.cores) ∧
        t.pwr.pl = if s.pwr.pl.toNat < (wantedPl p).toNat then wantedPl p else s.pwr.pl)) := by
  intro u pl p
  have he : exec (.powerSetPl h) s = .next (requestPl u f pl) := by
    rw [exec_powerSetPl_taken hr hb hn, wokenFirst_awake (s := started s h) hs]
  refine ⟨fun hc => he.trans (congrArg _ (requestPl_capped (s := u) hc)), fun hc => ⟨fun hw => ?_, fun hw => ?_⟩⟩
  · refine ⟨_, he.trans (congrArg _ (requestPl_present (s := u) hc (powerBusy_changing hn) hw)), findCmd_complete .., ?_, ?_⟩
    · rw [complete_pwr]
      rfl
    · exact complete_touches (asksPl u pl) ..
  · have hp := requestPl_changes_pwr (s := u) (f := f) hc hs hw
    exact ⟨_, he, by rw [hp], by rw [hp], by rw [hp]; rfl, requestPl_changes_cores (s := u) hc hs hw, by rw [hp]; rfl⟩

/-! ### The end of a change, and the limits (R497, R499, R500) -/

theorem findCmd_endPlCmds {h : Nat} (hh : h ∈ s.pwr.plCmds) : findCmd (endPlCmds s) h = none :=
  findCmd_foldl_complete (.inr hh)

theorem endPlCmds_pwr : (endPlCmds s).pwr = { s.pwr with plCmds := [] } :=
  foldl_keeps State.pwr _ (fun _ _ => complete_pwr ..) _ _

theorem endPlCmds_cores : (endPlCmds s).cores = s.cores := foldl_keeps State.cores _ (fun _ _ => complete_cores ..) _ _

/-- The state at the end of a change of the level. -/
def plChanged (s : State) : State :=
  let s1 := setDivisor s (wantedPl s.pwr)
  { s1 with pwr := { s1.pwr with changing := false } }

theorem plChangeDone_holds (hc : s.pwr.changing = true) :
    ∃ t, exec .plChangeDone s = .next t ∧ t.pwr.pl = wantedPl s.pwr ∧ t.pwr.changing = false ∧ t.pwr.plCmds = [] ∧
      (t.pwr.pl = s.pwr.pl → t.cores = s.cores) ∧ ∀ h ∈ s.pwr.plCmds, findCmd t h = none := by
  have hp : (plChanged s).pwr = { s.pwr with pl := wantedPl s.pwr, changing := false } := by
    rw [plChanged]
    dsimp only
    rw [setDivisor_pwr]
  have he : (endPlCmds (plChanged s)).pwr = { s.pwr with pl := wantedPl s.pwr, changing := false, plCmds := [] } := by
    rw [endPlCmds_pwr, hp]
  refine ⟨endPlCmds (plChanged s), if_pos hc, by rw [he], by rw [he], by rw [he], fun hpl => ?_, fun h hh => findCmd_endPlCmds ?_⟩
  · rw [he] at hpl
    rw [endPlCmds_cores]
    exact setDivisor_cores hpl
  · rw [hp]
    exact hh

/-- One reading of the hottest sensor moves the thermal level as R499 says. -/
theorem throttle_plTherm (p : Power) (hot : Int) :
    ((p.throttleC.toNat : Int) < hot → p.aboveMs = 0 ∨ p.aboveMs = 10 →
      (throttle p hot).plTherm = if p.plTherm = 3 then 3 else p.plTherm + 1) ∧
    ((p.throttleC.toNat : Int) - 5 ≤ hot → hot ≤ p.throttleC.toNat →
      (throttle p hot).plTherm = p.plTherm ∧ (throttle p hot).aboveMs = 0 ∧ (throttle p hot).belowMs = 0) ∧
    ((p.throttleC.toNat : Int) < hot → p.aboveMs ≠ 0 → p.aboveMs ≠ 10 →
      (throttle p hot).plTherm = p.plTherm ∧ (throttle p hot).aboveMs = p.aboveMs + 1) ∧
    (hot < (p.throttleC.toNat : Int) - 5 → p.belowMs ≠ 100 →
      (throttle p hot).plTherm = p.plTherm ∧ (throttle p hot).belowMs = p.belowMs + 1) ∧
    (hot < (p.throttleC.toNat : Int) - 5 → p.belowMs = 100 →
      (throttle p hot).plTherm = if p.plTherm = 0 then 0 else p.plTherm - 1) := by
  unfold throttle
  refine ⟨fun hh ha => ?_, fun hl hh => ?_, fun hh h0 h10 => ?_, fun hc hb => ?_, fun hc hb => ?_⟩
  · rw [if_pos hh, if_pos ha]
  · rw [if_neg (by omega), if_neg (by omega)]
    exact ⟨rfl, rfl, rfl⟩
  · rw [if_pos hh, if_neg (not_or.2 ⟨h0, h10⟩)]
    exact ⟨rfl, rfl⟩
  · rw [if_neg (by omega), if_pos hc, if_neg hb]
    exact ⟨rfl, rfl⟩
  · rw [if_neg (by omega), if_pos hc, if_pos hb]

/-- Of the registers of the part a reading moves the thermal level and its two times alone. -/
theorem throttle_touches (p : Power) (hot : Int) :
    throttle p hot = { p with
      plTherm := (throttle p hot).plTherm, aboveMs := (throttle p hot).aboveMs, belowMs := (throttle p hot).belowMs } := by
  unfold throttle
  dsimp only
  split
  · split <;> rfl
  · split
    · split <;> rfl
    · rfl

/-- The registers as a poll of the sensors leaves them, before a change of the level may begin. -/
def polled (s : State) (hot : Int) : State :=
  let s1 := refreshPower s
  let p := throttle s1.pwr hot
  { s1 with pwr := { p with tj := tjOf hot, tjMax := if p.tjMax.toNat < (tjOf hot).toNat then tjOf hot else p.tjMax } }

theorem exec_thermalPoll (hr : hartRuns s 3 = true) (hot : Int) : exec (.thermalPoll hot) s = .next (startLevel (polled s hot)) :=
  if_neg (ne_true_of_eq_false (congrArg not hr))

theorem polled_tjMax (hot : Int) : (polled s hot).pwr.tjMax.toNat = max s.pwr.tjMax.toNat (tjOf hot).toNat := by
  have ht : (throttle (refreshPower s).pwr hot).tjMax = s.pwr.tjMax := by rw [throttle_touches]; rfl
  unfold polled
  dsimp only
  rw [ht]
  split <;> omega

theorem polled_pl (hot : Int) : (polled s hot).pwr.pl = s.pwr.pl := by
  have ht : (throttle (refreshPower s).pwr hot).pl = s.pwr.pl := by rw [throttle_touches]; rfl
  exact ht

theorem polled_cores (hot : Int) : (polled s hot).cores = s.cores := rfl

/-- The clause of O48 about a poll of the sensors. -/
theorem thermalPoll_holds (hr : hartRuns s 3 = true) (hot : Int) :
    let p := s.pwr
    ∃ t, exec (.thermalPoll hot) s = .next t ∧ t.pwr.tj = tjOf hot ∧ (t.pwr.pl = s.pwr.pl → t.cores = s.cores) ∧
      t.pwr.tjMax.toNat = max p.tjMax.toNat (tjOf hot).toNat ∧
      ((p.throttleC.toNat : Int) < hot → p.aboveMs = 0 ∨ p.aboveMs = 10 → t.pwr.plTherm = if p.plTherm = 3 then 3 else p.plTherm + 1) ∧
      ((p.throttleC.toNat : Int) - 5 ≤ hot → hot ≤ p.throttleC.toNat → t.pwr.plTherm = p.plTherm ∧ t.pwr.aboveMs = 0 ∧ t.pwr.belowMs = 0) ∧
      ((p.throttleC.toNat : Int) < hot → p.aboveMs ≠ 0 → p.aboveMs ≠ 10 → t.pwr.plTherm = p.plTherm ∧ t.pwr.aboveMs = p.aboveMs + 1) ∧
      (hot < (p.throttleC.toNat : Int) - 5 → p.belowMs ≠ 100 → t.pwr.plTherm = p.plTherm ∧ t.pwr.belowMs = p.belowMs + 1) ∧
      (hot < (p.throttleC.toNat : Int) - 5 → p.belowMs = 100 → t.pwr.plTherm = if p.plTherm = 0 then 0 else p.plTherm - 1) := by
  intro p
  have hp : (startLevel (polled s hot)).pwr = { (polled s hot).pwr with
      pl := (startLevel (polled s hot)).pwr.pl, changing := (startLevel (polled s hot)).pwr.changing } := by
    conv => lhs; rw [startLevel_touches]
  refine ⟨_, exec_thermalPoll hr hot, by rw [hp]; rfl, fun hpl => ?_, by rw [hp]; exact polled_tjMax hot, ?_⟩
  · exact (startLevel_cores (hpl.trans (polled_pl hot).symm)).trans (polled_cores hot)
  · rw [hp]
    exact throttle_plTherm (refreshPower s).pwr hot

/-- The device with the hardware limit as given. -/
def limited (s : State) (b : Bool) : State := { s with pwr := { s.pwr with hwlimit := b } }

theorem startLevel_limited (b : Bool) : (startLevel (limited s b)).pwr.hwlimit = b ∧
    (startLevel (limited s b)).pwr.state = s.pwr.state ∧
    ((startLevel (limited s b)).pwr.pl = s.pwr.pl → (startLevel (limited s b)).cores = s.cores) := by
  refine ⟨?_, ?_, fun hpl => startLevel_cores (s := limited s b) hpl⟩ <;>
  · rw [startLevel_touches]
    rfl

/-- Under the hardware limit the device runs at PL3 (R500). -/
theorem startLevel_limited_pl (hs : s.pwr.state = .s0) : (startLevel (limited s true)).pwr.pl = 3 := by
  by_cases hw : s.pwr.pl = 3
  · rw [startLevel_settled (s := limited s true) (.inr hw.symm)]
    exact hw
  · rw [startLevel_changes_pwr (s := limited s true) hs (fun h => hw h.symm)]
    refine if_pos ?_
    have hne : s.pwr.pl.toNat ≠ 3 := fun h => hw (BitVec.eq_of_toNat_eq h)
    have hlt : s.pwr.pl.toNat < 4 := s.pwr.pl.isLt
    show s.pwr.pl.toNat < 3
    omega

/-- Settles O48: a clause for each command and each case of it. -/
theorem levelsFollowRequestsAndLimits : Obligations.LevelsFollowRequestsAndLimits := by
  unfold Obligations.LevelsFollowRequestsAndLimits
  intro s
  refine ⟨fun h f hr => ?_, fun hc => if_neg (ne_true_of_eq_false hc), plChangeDone_holds, fun hot => ?_, ?_, ?_⟩
  · intro u pl p
    refine ⟨fun hb => (exec_powerSetPl hr).trans (congrArg _ (if_pos hb)), fun hb hn hs => powerSetPl_awake hr hb hn hs,
      fun hb hn hs => ?_⟩
    have he : exec (.powerSetPl h) s = .next (requestPl (wakeNow (wakeFires u 9)) f pl) := by
      rw [exec_powerSetPl_taken hr hb hn, wokenFirst_asleep (s := started s h) hs]
    exact ⟨_, he, rfl, requestPl_state.trans (wakeNow_state (s := wakeFires u 9) hs)⟩
  · intro p
    exact ⟨fun hr => if_pos (congrArg not hr), fun hr => thermalPoll_holds hr hot⟩
  · obtain ⟨hhw, -, hcores⟩ := startLevel_limited (s := s) true
    exact ⟨startLevel (limited s true), rfl, hhw, startLevel_limited_pl, hcores⟩
  · obtain ⟨hhw, hst, hcores⟩ := startLevel_limited (s := s) false
    exact ⟨startLevel (limited s false), rfl, hhw, hst, hcores⟩

end Sys2Proof.Machine
end

section
/-! SUPPORT. What a compute reset leaves aside; for SleepWakeAndBrownOut and ResetsLeaveWhatTheyKeep. -/

namespace Sys2Proof.Machine

variable {s : State}

/-! ### What the removal of a context's work leaves aside (R445) -/

/-- Power, security, the boot state and the global registers, which no removal of a context's work touches. -/
def beside (s : State) : Power × Sec × Boot × Glb := (s.pwr, s.sec, s.boot, s.glb)

theorem foldl_beside {α : Type} {f : State → α → State} (hf : ∀ t x, beside (f t x) = beside t) (l : List α) :
    beside (l.foldl f s) = beside s := foldl_keeps beside f hf l s

theorem complete_beside (h : Nat) (st : Status) (r : Nat) (ps : List (BitVec 128)) : beside (complete s h st r ps) = beside s := by
  simp only [beside, complete_pwr, complete_sec, complete_boot, complete_glb]

theorem hubSendAll_beside (ps : List Packet) : beside (hubSendAll s ps) = beside s := by
  simp only [beside, hubSendAll_pwr, hubSendAll_sec, hubSendAll_boot, hubSendAll_glb]

theorem modShardCores_beside (c : Nat) (f : Nat → Core → Core) : beside (modShardCores s c f) = beside s := by
  simp only [beside, modShardCores_pwr, modShardCores_sec, modShardCores_boot, modShardCores_glb]

theorem answerCmd_beside (c : Option Nat) (st : Status) (r p : Nat) : beside (answerCmd s c st r p) = beside s := by
  unfold answerCmd
  split
  · rfl
  · exact complete_beside ..

theorem placeAllHeld_beside (ctx : Nat) : beside (placeAllHeld s ctx) = beside s :=
  foldl_beside (fun _ _ => by exact hubSendAll_beside ..) _

theorem spoilFills_beside (m : Member) (tag : Nat) (rs : List ActionRecord) : beside (spoilFills s m tag rs) = beside s := by
  unfold spoilFills
  split
  · rfl
  · exact foldl_beside (fun _ _ => by rfl) _

theorem setCvy_beside (m : Member) (l : List MemberConvoy) : beside (setCvy s m l) = beside s := by cases m <;> rfl

theorem discardShare_beside (m : Member) (tag : Nat) (late : Bool) : beside (discardShare s m tag late) = beside s := by
  unfold discardShare
  split
  · rfl
  · rename_i x _
    have hspoil : beside (if x.prepared ∨ x.filling then spoilFills s m tag x.records else s) = beside s := by
      split
      · exact spoilFills_beside ..
      · rfl
    dsimp only
    split
    · exact (setCvy_beside ..).trans hspoil
    · exact (placeAllHeld_beside _).trans ((setCvy_beside ..).trans hspoil)

theorem endCommands_beside (ctx : Nat) : beside (endCommands s ctx) = beside s := foldl_beside (fun _ _ => complete_beside ..) _

theorem resetConvoys_beside (ctx : Nat) : beside (resetConvoys s ctx) = beside s := by
  refine (modShardCores_beside ..).trans ((foldl_beside (fun t n => foldl_beside (fun _ _ => discardShare_beside ..) _) _).trans
    (foldl_beside (fun t tag => ?_) _))
  split
  · rfl
  · rename_i c _
    have hans : ∀ u : State, beside (answerCmd (answerCmd (answerCmd u c.preCmd stContextReset 0 0) c.comCmd stContextReset 0 0) c.ownerCmd
        stContextReset 0 0) = beside u := fun u => by simp only [answerCmd_beside]
    show beside (if _ then _ else hubSendAll _ _ : State) = _
    split
    · exact hans _
    · exact (hubSendAll_beside ..).trans (hans _)

theorem stopKeep_beside (ctx : Nat) : beside (stopKeep s ctx) = beside s :=
  foldl_beside (fun _ _ => by exact foldl_beside (fun _ _ => by rfl) _) _

theorem resetStreams_beside (ctx : Nat) : beside (resetStreams s ctx) = beside s := foldl_beside (fun _ _ => by rfl) _

theorem resetResults_beside (ctx : Nat) : beside (resetResults s ctx) = beside s := by
  refine foldl_beside (fun t i => ?_) _
  show beside (if _ then _ else closeResult _ _ : State) = _
  split
  · rfl
  · exact foldl_beside (fun _ _ => by rfl) _

theorem unreserve_beside (p : Packet) : beside (unreserve s p) = beside s := by
  unfold unreserve
  split
  · rfl
  · split <;> rfl

theorem purge_beside (ctx : Nat) : beside (purge s ctx) = beside s := by
  refine foldl_beside (fun t q => ?_) _
  dsimp only
  split
  · rfl
  · exact foldl_beside (fun _ _ => unreserve_beside _) _

theorem resetShard_beside (ctx : Nat) (st : ShardState) : beside (resetShard s ctx st) = beside s := by
  unfold resetShard
  dsimp only
  rw [resetNotices, hubSendAll_beside, purge_beside, modShardCores_beside, resetResults_beside, resetStreams_beside, stopKeep_beside,
    resetConvoys_beside]
  exact endCommands_beside ctx

theorem computeShard_beside (ctx : Nat) : beside (computeShard s ctx) = beside s := by
  unfold computeShard
  dsimp only
  split
  · exact (foldl_beside (fun _ _ => complete_beside ..) _).trans (purge_beside ctx)
  · exact resetShard_beside ..

/-! ### The compute reset (R449) -/

/-- The contexts as a compute reset leaves them. -/
def shardsReset (s : State) : State := (ctxsIn s fun sh => sh.state != .free).foldl computeShard s

theorem shardsReset_beside : beside (shardsReset s) = beside s := foldl_beside (fun _ _ => computeShard_beside _) _

theorem watchAll_touches : watchAll s = { s with cores := (watchAll s).cores } := syncWatch_touches _

theorem computeReset_pwr (cause : BitVec 11) : (computeReset s cause).pwr = s.pwr := by
  rw [computeReset, watchAll_touches]
  exact congrArg (·.1) (shardsReset_beside (s := s))

theorem computeReset_sec (cause : BitVec 11) : (computeReset s cause).sec = s.sec := by
  rw [computeReset, watchAll_touches]
  exact congrArg (·.2.1) (shardsReset_beside (s := s))

theorem computeReset_boot (cause : BitVec 11) : (computeReset s cause).boot = s.boot := by
  rw [computeReset, watchAll_touches]
  exact congrArg (·.2.2.1) (shardsReset_beside (s := s))

theorem computeReset_cause (cause : BitVec 11) : (computeReset s cause).glb.cause = s.glb.cause ||| cause := by
  rw [computeReset, watchAll_touches]
  exact congrArg (fun q => q.2.2.2.cause ||| cause) (shardsReset_beside (s := s))

/-- No timer is left in pace mode, and nothing of the mesh. -/
theorem computeReset_rest (cause : BitVec 11) : (computeReset s cause).hubCvy = [] ∧ (computeReset s cause).fab.lanes = [] ∧
    ∀ q ∈ (computeReset s cause).tmr, q.2.mode ≠ .pace := by
  rw [computeReset, watchAll_touches]
  exact ⟨rfl, rfl, fun q hq => bne_iff_ne.1 (List.mem_filter.1 hq).2⟩

end Sys2Proof.Machine
end

section
/-! SUPPORT. Lower power states, the wake-up from them and a brown-out; the obligation SleepWakeAndBrownOut. -/

namespace Sys2Proof.Machine

variable {s : State}

/-! ### The begin of a lower state (R501, R504) -/

theorem exec_powerSetState {h : Nat} {f : Fetched} (hr : MayRun s h 0x49 f) :
    exec (.powerSetState h) s = .next
      (if mw f.manifest 0 / 2 ^ 6 % 2 = 1 ∨ powerBusy s then started s h
      else
        let s1 := wokenFirst (started s h)
        let st := stateOf (mw f.manifest 0 % 8)
        if st = .s0 then requestPl s1 f (BitVec.ofNat 2 (mw f.manifest 0 / 2 ^ 4))
        else if sleepBad s1 then complete s1 h stBadState
        else
          let s2 := dropToken (begun s1 h)
          let s3 := if st = .s1 then s2 else (unsaved s2).foldl openSave s2
          { s3 with pwr := { s3.pwr with target := some st, entryCmd := some h, latched := 0 } }) :=
  congrArg Host.Outcome.next (withCmd_mayRun s h 0x49 f _ hr)

theorem dropToken_touches : dropToken s = { s with sec := (dropToken s).sec } := by
  unfold dropToken
  split <;> rfl

theorem dropToken_request : (dropToken s).sec.request ≠ .token := by
  unfold dropToken
  split
  · exact SecRequest.noConfusion
  · assumption

/-- An image begun writes the kept slots alone. -/
theorem openSave_touches (s : State) (ctx : Nat) : openSave s ctx = { s with nv := (openSave s ctx).nv } :=
  foldl_inv (fun t : State => t = { s with nv := t.nv }) (fun s n => beginImage s ctx n)
    (fun t n ht => by rw [beginImage, setKeep, ht]) _ _ rfl

theorem foldl_openSave_touches (l : List Nat) (s : State) : l.foldl openSave s = { s with nv := (l.foldl openSave s).nv } :=
  foldl_inv (fun t : State => t = { s with nv := t.nv }) openSave (fun t n ht => by rw [openSave_touches, ht]) l s rfl

/-- The device with the entry of the state `st` begun, from `u`. -/
def entryBegun (u : State) (h : Nat) (st : PowerState) : State :=
  let s2 := dropToken (begun u h)
  let s3 := if st = .s1 then s2 else (unsaved s2).foldl openSave s2
  { s3 with pwr := { s3.pwr with target := some st, entryCmd := some h, latched := 0 } }

theorem entryBegun_touches (u : State) (h : Nat) (st : PowerState) :
    (entryBegun u h st).pwr = { u.pwr with target := some st, entryCmd := some h, latched := 0 } ∧
      (entryBegun u h st).cores = u.cores ∧ (entryBegun u h st).sec.request ≠ .token := by
  have hd := dropToken_touches (s := begun u h)
  have hq := dropToken_request (s := begun u h)
  have hs3 : ∀ v : State, v = { dropToken (begun u h) with nv := v.nv } →
      v.pwr = u.pwr ∧ v.cores = u.cores ∧ v.sec.request ≠ .token := by
    intro v hv
    rw [hv]
    refine ⟨?_, ?_, hq⟩ <;>
    · rw [hd]
      rfl
  unfold entryBegun
  dsimp only
  split
  · obtain ⟨hp, hc, hr⟩ := hs3 (dropToken (begun u h)) rfl
    exact ⟨by rw [hp], hc, hr⟩
  · obtain ⟨hp, hc, hr⟩ := hs3 _ (foldl_openSave_touches _ _)
    exact ⟨by rw [hp], hc, hr⟩

/-- The clause of O49 about POWER_SET_STATE. -/
theorem powerSetState_holds {h : Nat} {f : Fetched} (hr : MayRun s h 0x49 f) :
    let w := mw f.manifest 0
    let u := wokenFirst (started s h)
    (w / 2 ^ 6 % 2 = 1 ∨ powerBusy s = true → exec (.powerSetState h) s = .next (started s h)) ∧
    (w / 2 ^ 6 % 2 = 0 → powerBusy s = false →
      (stateOf (w % 8) = .s0 → exec (.powerSetState h) s = .next (requestPl u f (BitVec.ofNat 2 (w / 2 ^ 4)))) ∧
      (stateOf (w % 8) ≠ .s0 → sleepBad u = true → exec (.powerSetState h) s = .next (complete u h stBadState)) ∧
      (stateOf (w % 8) ≠ .s0 → sleepBad u = false → ∃ t, exec (.powerSetState h) s = .next t ∧ t.pwr.target = some (stateOf (w % 8)) ∧
        t.pwr.entryCmd = some h ∧ t.pwr.latched = 0 ∧ t.pwr.state = u.pwr.state ∧ t.cores = u.cores ∧ t.sec.request ≠ .token)) := by
  intro w u
  refine ⟨fun hb => (exec_powerSetState hr).trans (congrArg Host.Outcome.next (if_pos hb)), fun hb hn => ?_⟩
  have hcond : ¬(w / 2 ^ 6 % 2 = 1 ∨ powerBusy s = true) := by
    rintro (h0 | h0)
    · omega
    · exact absurd h0 (ne_true_of_eq_false hn)
  have he := (exec_powerSetState hr).trans (congrArg Host.Outcome.next (if_neg hcond))
  refine ⟨fun h0 => he.trans (congrArg Host.Outcome.next (if_pos h0)),
    fun h0 hbad => he.trans (congrArg Host.Outcome.next ((if_neg h0).trans (if_pos hbad))), fun h0 hbad => ?_⟩
  obtain ⟨hp, hc, hq⟩ := entryBegun_touches u h (stateOf (w % 8))
  exact ⟨entryBegun u h (stateOf (w % 8)),
    he.trans (congrArg Host.Outcome.next ((if_neg h0).trans (if_neg (ne_true_of_eq_false hbad)))),
    by rw [hp], by rw [hp], by rw [hp], by rw [hp], hc, hq⟩

/-! ### The end of an entry (R502, R505-R507) -/

theorem exec_sleepEntryDone {st : PowerState} {h : Nat} (ht : s.pwr.target = some st) (hc : s.pwr.entryCmd = some h) :
    exec .sleepEntryDone s = .next
      (if s.pwr.latched &&& wakeMask st ≠ 0 then wakeNow (reachState s st h) else reachState s st h) := by
  have he : exec .sleepEntryDone s = execSleepEntryDone s := rfl
  rw [he, execSleepEntryDone, ht, hc]

theorem exec_sleepEntryDone_none (hn : s.pwr.target = none ∨ s.pwr.entryCmd = none) : exec .sleepEntryDone s = .next s := by
  have he : exec .sleepEntryDone s = execSleepEntryDone s := rfl
  rw [he, execSleepEntryDone]
  split
  · rename_i ht hc
    rw [ht, hc] at hn
    exact absurd hn (by simp)
  · rfl

theorem bookReach_touches : bookReach s = { s with fab := (bookReach s).fab } := by
  unfold bookReach
  split <;> rfl

/-- A device that enters link power idle changes its ports and what it may reach. -/
theorem enterLpi_touches : enterLpi s = { s with fab := (enterLpi s).fab, ports := (enterLpi s).ports } := by
  unfold enterLpi
  rw [bookReach_touches]
  dsimp only
  have hf := foldl_inv (fun t : State => t = { s with ports := t.ports })
    (fun s p => modPort s p fun x => if x.state = .active then { sendIdle s { x with ourOff := 0x3F } with state := .lpi } else x)
    (fun t p ht => by rw [modPort, setPort, ht]) (List.range 6) s rfl
  rw [hf]

theorem endFull_touches : endFull s = { s with sec := (endFull s).sec } := by
  unfold endFull
  split <;> rfl

/-- The device with a state reached. -/
def atState (s : State) (st : PowerState) : State := { s with pwr := { s.pwr with state := st, target := none, entryCmd := none } }

theorem findCmd_atState (s : State) (st : PowerState) (h : Nat) : findCmd (atState s st) h = findCmd s h := rfl

theorem atState_ingest (s : State) (st : PowerState) : (atState s st).ingest = s.ingest := rfl
theorem atState_results (s : State) (st : PowerState) : (atState s st).results = s.results := rfl

/-- The device with its images closed and its compute part reset, as it enters S2 or lower. -/
def sleepReset (s : State) : State := computeReset ((unsaved s).foldl closeSave s) 0

theorem reachState_s1 (h : Nat) : reachState s .s1 h = atState (complete (setDivisor s 3) h stOk) .s1 := rfl
theorem reachState_s2 (h : Nat) : reachState s .s2 h = atState (complete (enterLpi (endFull (sleepReset s))) h stOk) .s2 := by
  unfold reachState atState sleepReset
  rfl

/-- What holds of the device once the entry of `st` ends. -/
structure Entered (s t : State) (st : PowerState) (h : Nat) : Prop where
  state : t.pwr.state = st
  target : t.pwr.target = none
  answered : findCmd t h = none
  slow : st = .s1 → t.cores = (setDivisor s 3).cores ∧ t.pwr.pl = 3
  emptied : st ≠ .s1 → t.ingest = [] ∧ t.results = []
  lost : st = .s3 ∨ st = .s4 → t.cores = [] ∧ t.shards = []
  off : st = .s4 → t.boot = .off

theorem entered_s1 (h : Nat) : Entered s (reachState s .s1 h) .s1 h where
  state := rfl
  target := rfl
  answered := findCmd_complete ..
  slow _ := by
    rw [reachState_s1]
    refine ⟨complete_cores .., ?_⟩
    show (complete (setDivisor s 3) h stOk).pwr.pl = 3
    rw [complete_pwr, setDivisor_pwr]
  emptied hn := absurd rfl hn
  lost hn := by rcases hn with hn | hn <;> cases hn
  off hn := by cases hn

/-- The device's compute part is still empty after its ports went idle and the command was answered. -/
theorem sleepReset_emptied (h : Nat) :
    (complete (enterLpi (endFull (sleepReset s))) h stOk).ingest = [] ∧
      (complete (enterLpi (endFull (sleepReset s))) h stOk).results = [] := by
  obtain ⟨-, hin, hres, -⟩ := computeReset_emptied (s := (unsaved s).foldl closeSave s) 0
  rw [complete_ingest, complete_results, enterLpi_touches, endFull_touches]
  exact ⟨hin, hres⟩

theorem entered_s2 (h : Nat) : Entered s (reachState s .s2 h) .s2 h := by
  rw [reachState_s2]
  exact {
    state := rfl
    target := rfl
    answered := (findCmd_atState ..).trans (findCmd_complete ..)
    slow := fun hn => by cases hn
    emptied := fun _ => by
      rw [atState_ingest, atState_results]
      exact sleepReset_emptied h
    lost := fun hn => by rcases hn with hn | hn <;> cases hn
    off := fun hn => by cases hn }

theorem entered_s3 (h : Nat) : Entered s (reachState s .s3 h) .s3 h where
  state := rfl
  target := rfl
  answered := rfl
  slow hn := by cases hn
  emptied _ := ⟨rfl, rfl⟩
  lost _ := ⟨rfl, rfl⟩
  off hn := by cases hn

theorem entered_s4 (h : Nat) : Entered s (reachState s .s4 h) .s4 h where
  state := rfl
  target := rfl
  answered := rfl
  slow hn := by cases hn
  emptied _ := ⟨rfl, rfl⟩
  lost _ := ⟨rfl, rfl⟩
  off _ := rfl

theorem entered_reachState {st : PowerState} (hst : st ≠ .s0) (h : Nat) : Entered s (reachState s st h) st h := by
  cases st with
  | s0 => exact absurd rfl hst
  | s1 => exact entered_s1 h
  | s2 => exact entered_s2 h
  | s3 => exact entered_s3 h
  | s4 => exact entered_s4 h

/-- A state with a wake mask is one that a device is woken from. -/
theorem sleeps_of_wakeMask {st : PowerState} (h : wakeMask st ≠ 0) : st = .s1 ∨ st = .s2 ∨ st = .s3 := by
  cases st with
  | s0 => exact absurd rfl h
  | s1 => exact .inl rfl
  | s2 => exact .inr (.inl rfl)
  | s3 => exact .inr (.inr rfl)
  | s4 => exact absurd rfl h

theorem wakeMask_ne_of_and {x : BitVec 13} {st : PowerState} (h : x &&& wakeMask st ≠ 0) : wakeMask st ≠ 0 :=
  fun h0 => h (by rw [h0]; exact BitVec.and_zero)

theorem wakeMask_ne_of_bit {st : PowerState} {b : Nat} (h : bit (wakeMask st) b = true) : wakeMask st ≠ 0 :=
  fun h0 => by simp [h0, bit] at h

/-! ### The sources of a wake-up (R503) -/

theorem exec_wake_none {src : WakeSource} (h : sourceBit s src = none) : exec (.wake src) s = .next s := by
  have he : exec (.wake src) s = execWake src s := rfl
  rw [he, execWake, h]

theorem exec_wake {src : WakeSource} {b : Nat} (h : sourceBit s src = some b) : exec (.wake src) s = .next (wakeBy s b) := by
  have he : exec (.wake src) s = execWake src s := rfl
  rw [he, execWake, h]

/-- A source that does not leave the state is recorded. -/
theorem wakeBy_recorded {b : Nat} (h : s.pwr.state = .s0 ∨ s.pwr.state = .s4 ∨ s.pwr.target.isSome = true ∨
    bit (wakeMask s.pwr.state) b = false) : wakeBy s b = wakeFires s b := by
  refine if_neg ?_
  rintro ⟨ht, hb⟩
  have hb' : bit (wakeMask s.pwr.state) b = true := hb
  rcases h with h | h | h | h
  · exact wakeMask_ne_of_bit hb' (by rw [h]; rfl)
  · exact wakeMask_ne_of_bit hb' (by rw [h]; rfl)
  · exact absurd (Option.isNone_iff_eq_none.1 ht) (Option.isSome_iff_ne_none.1 h)
  · exact absurd hb' (ne_true_of_eq_false h)

theorem wakeBy_wakes {b : Nat} (ht : s.pwr.target = none) (hb : bit (wakeMask s.pwr.state) b = true) :
    (wakeBy s b).pwr.state = .s0 := by
  have hw : wakeBy s b = wakeNow (wakeFires s b) := if_pos ⟨Option.isNone_iff_eq_none.2 ht, hb⟩
  rw [hw]
  exact wakeNow_state (s := wakeFires s b) (sleeps_of_wakeMask (wakeMask_ne_of_bit hb))

/-! ### A brown-out (R507) -/

/-- The device zeroised and its compute part reset by a brown-out. -/
def brownedOut (s : State) : State := computeReset (tamperMark (zeroise (dropToken s)) [3]) 0x002

/-- The device with the brown-out in its registers, and a transition of the life cycle torn. -/
def brownRegs (s : State) (rail : Nat) : State :=
  let s1 := brownedOut s
  { s1 with
    pwr := { s1.pwr with brownout := true, boRail := BitVec.ofNat 2 rail, plReq := 3, changing := false }
    nv := match s1.sec.request with | .transition _ => { s1.nv with torn := true } | _ => s1.nv
    sec := match s1.sec.request with | .transition _ => { s1.sec with request := .none } | _ => s1.sec }

/-- The device at PL3, where it is awake. -/
def brownSlow (s : State) (rail : Nat) : State :=
  if (brownRegs s rail).pwr.state = .s0 then setDivisor (brownRegs s rail) 3 else brownRegs s rail

theorem exec_brownOut {rail : Nat} (hb : s.boot ≠ .off) (ha : s.pwr.armed = true) (hr : rail < 4) :
    exec (.brownOut rail) s = .next (endPlCmds (brownSlow s rail)) :=
  if_neg (not_or.2 ⟨hb, not_or.2 ⟨ne_true_of_eq_false (congrArg not ha), Nat.not_le.2 hr⟩⟩)

theorem brownedOut_pwr : (brownedOut s).pwr = s.pwr := by
  rw [brownedOut, computeReset_pwr]
  show (dropToken s).pwr = s.pwr
  rw [dropToken_touches]

theorem brownedOut_boot : (brownedOut s).boot = s.boot := by
  rw [brownedOut, computeReset_boot]
  show (dropToken s).boot = s.boot
  rw [dropToken_touches]

theorem brownedOut_zeroised : (brownedOut s).sec.zeroised = true := by
  rw [brownedOut, computeReset_sec]
  rfl

theorem brownRegs_pwr (rail : Nat) : (brownRegs s rail).pwr =
    { s.pwr with brownout := true, boRail := BitVec.ofNat 2 rail, plReq := 3, changing := false } := by
  rw [brownRegs]
  dsimp only
  rw [brownedOut_pwr]

theorem brownRegs_zeroised (rail : Nat) : (brownRegs s rail).sec.zeroised = true := by
  unfold brownRegs
  dsimp only
  split <;> exact brownedOut_zeroised

theorem brownSlow_pwr (rail : Nat) : (brownSlow s rail).pwr =
    { s.pwr with
      brownout := true, boRail := BitVec.ofNat 2 rail, plReq := 3, changing := false
      pl := if s.pwr.state = .s0 then 3 else s.pwr.pl } := by
  have hp := brownRegs_pwr (s := s) rail
  have hst : (brownRegs s rail).pwr.state = s.pwr.state := by rw [hp]
  unfold brownSlow
  rw [hst]
  by_cases h0 : s.pwr.state = .s0
  · rw [if_pos h0, if_pos h0, setDivisor_pwr, hp]
  · rw [if_neg h0, if_neg h0, hp]

/-- Of the rest of the device a slower level turns the gates alone. -/
theorem brownSlow_rest (rail : Nat) : (brownSlow s rail).sec.zeroised = true ∧ (brownSlow s rail).ingest = [] ∧
    (brownSlow s rail).results = [] ∧ (brownSlow s rail).convoys = [] ∧ (brownSlow s rail).boot = s.boot := by
  obtain ⟨hcv, hin, hres, -⟩ := computeReset_emptied (s := tamperMark (zeroise (dropToken s)) [3]) 0x002
  have hz := brownRegs_zeroised (s := s) rail
  unfold brownSlow
  split
  · rw [setDivisor_touches]
    exact ⟨hz, hin, hres, hcv, brownedOut_boot⟩
  · exact ⟨hz, hin, hres, hcv, brownedOut_boot⟩

theorem endPlCmds_touches : endPlCmds s = { s with
    hif := (endPlCmds s).hif, sdio := (endPlCmds s).sdio, mgmt := (endPlCmds s).mgmt, fab := (endPlCmds s).fab
    pwr := { s.pwr with plCmds := [] } } :=
  foldl_inv (fun t : State => t = { s with
      hif := t.hif, sdio := t.sdio, mgmt := t.mgmt, fab := t.fab, pwr := { s.pwr with plCmds := [] } })
    (fun s h => complete s h stOk) (fun t h ht => by rw [complete_touches, ht]) s.pwr.plCmds _ rfl

/-- The clause of O49 about a brown-out. -/
theorem brownOut_holds {rail : Nat} (hb : s.boot ≠ .off) (ha : s.pwr.armed = true) (hr : rail < 4) :
    ∃ t, exec (.brownOut rail) s = .next t ∧ t.pwr.brownout = true ∧
      t.pwr.boRail = BitVec.ofNat 2 rail ∧ t.pwr.plReq = 3 ∧ t.pwr.changing = false ∧ t.pwr.plCmds = [] ∧ t.sec.zeroised = true ∧
      t.ingest = [] ∧ t.results = [] ∧ t.convoys = [] ∧ t.boot = s.boot ∧ (s.pwr.state = .s0 → t.pwr.pl = 3) := by
  obtain ⟨hz, hin, hres, hcv, hboot⟩ := brownSlow_rest (s := s) rail
  have hp := brownSlow_pwr (s := s) rail
  refine ⟨_, exec_brownOut hb ha hr, ?_⟩
  rw [endPlCmds_touches]
  dsimp only
  rw [hp]
  exact ⟨rfl, rfl, rfl, rfl, rfl, hz, hin, hres, hcv, hboot, fun h0 => if_pos h0⟩

/-- Settles O49: a clause for each command and each case of it. -/
theorem sleepWakeAndBrownOut : Obligations.SleepWakeAndBrownOut := by
  unfold Obligations.SleepWakeAndBrownOut
  intro s
  refine ⟨fun h f hr => powerSetState_holds hr, exec_sleepEntryDone_none, fun st h ht hc hst hl => ?_, fun st h ht hc hst hl => ?_,
    fun src => exec_wake_none, fun src b hsrc => ⟨fun hrec => (exec_wake hsrc).trans (congrArg _ (wakeBy_recorded hrec)),
    fun ht hb => ⟨_, exec_wake hsrc, wakeBy_wakes ht hb⟩⟩, fun rail => ⟨fun hno => ?_, brownOut_holds⟩⟩
  · have h := entered_reachState (s := s) hst h
    exact ⟨_, (exec_sleepEntryDone ht hc).trans (congrArg Host.Outcome.next (if_neg (not_not_intro hl))), h.state, h.target, h.answered,
      h.slow, h.emptied, h.lost, h.off⟩
  · have he := entered_reachState (s := s) hst h
    exact ⟨_, (exec_sleepEntryDone ht hc).trans (congrArg Host.Outcome.next (if_pos hl)), rfl,
      wakeNow_state (by rw [he.state]; exact sleeps_of_wakeMask (wakeMask_ne_of_and hl))⟩
  · exact if_pos (hno.imp_right (Or.imp_left (congrArg not)))

end Sys2Proof.Machine
end

section
/-! SUPPORT. The hot-swap output, the warning before power is lost and the PM bus; the obligation HotSwapTurnsTheOutput. -/

namespace Sys2Proof.Machine

variable {s : State}

/-! ### The output of the hot-swap controller (R567, R568) -/

/-- The device with other registers of the power part. -/
def withPwr (s : State) (p : Power) : State := { s with pwr := p }

/-- The output is off and the volatile state is gone. -/
def OutputOff (t : State) : Prop := t.pwr.output = false ∧ t.boot = .off ∧ t.cores = [] ∧ t.shards = []

/-- The output is on, and a cold reset of the device `s` is to come. -/
def OutputOn (s t : State) : Prop :=
  t.pwr.output = true ∧ t.boot = .coldPending ∧ t.cores = [] ∧ t.shards = [] ∧ t.nv = quietKeep s.nv

theorem outputOff_off : OutputOff (outputOff s) := ⟨rfl, rfl, rfl, rfl⟩

theorem outputOn_stays (h : s.pwr.output = true ∨ mayTurnOn s.pwr = false) : outputOn s = s :=
  if_pos (h.imp_right (congrArg not))

theorem outputOn_turns (ho : s.pwr.output = false) (hm : mayTurnOn s.pwr = true) :
    outputOn s = { coldState s 7 with pwr := { (coldState s 7).pwr with output := true, pfail := false } } :=
  if_neg (not_or.2 ⟨ne_true_of_eq_false ho, ne_true_of_eq_false (congrArg not hm)⟩)

theorem outputOn_on (ho : s.pwr.output = false) (hm : mayTurnOn s.pwr = true) :
    OutputOn s (outputOn s) ∧ (outputOn s).pwr = { hotSwap s.pwr with output := true, pfail := false } := by
  rw [outputOn_turns ho hm]
  exact ⟨⟨rfl, rfl, rfl, rfl, rfl⟩, rfl⟩

/-! ### The warning before power is lost (R493) -/

theorem removalActions_again (h : s.pwr.pfail = true) : removalActions s = s := if_pos h

theorem freeSave_beside (ctx : Nat) : beside (freeSave s ctx) = beside s := modShardCores_beside ..

theorem breakKeep_beside (ctx : Nat) (st : Status) : beside (breakKeep s ctx st) = beside s := by
  unfold breakKeep
  dsimp only
  split
  · rfl
  · have hfree : beside (freeSave (stopKeep (modShard s ctx fun x => { x with saving := none, restoring := none }) ctx) ctx) = beside s :=
      (freeSave_beside ctx).trans ((stopKeep_beside ctx).trans rfl)
    split <;> split <;> simp only [complete_beside, hfree]

theorem breakKeeps_beside (st : Status) : beside (breakKeeps s st) = beside s := foldl_beside (fun _ _ => breakKeep_beside ..) _

/-- The device zeroised, its images broken off. -/
def removalBegun (s : State) : State := breakKeeps (zeroise s) stDeviceRemoved

theorem removalActions_first (h : s.pwr.pfail = false) :
    removalActions s =
      { removalBegun s with pwr := { (removalBegun s).pwr with pfail := true, armed := false } } := if_neg (ne_true_of_eq_false h)

theorem removalBegun_beside : (removalBegun s).pwr = s.pwr ∧ (removalBegun s).sec.zeroised = true ∧ (removalBegun s).boot = s.boot := by
  have h := breakKeeps_beside (s := zeroise s) stDeviceRemoved
  exact ⟨congrArg (·.1) h, congrArg (fun q => q.2.1.zeroised) h, congrArg (·.2.2.1) h⟩

/-- A warning zeroises and marks itself; nothing that the output hangs on changes. -/
theorem removalActions_holds (h : s.pwr.pfail = false) :
    (removalActions s).pwr = { s.pwr with pfail := true, armed := false } ∧ (removalActions s).sec.zeroised = true ∧
      (removalActions s).boot = s.boot := by
  obtain ⟨hp, hz, hb⟩ := removalBegun_beside (s := s)
  rw [removalActions_first h]
  exact ⟨congrArg (fun p : Power => { p with pfail := true, armed := false }) hp, hz, hb⟩

theorem removalActions_keeps : (removalActions s).pwr.seated = s.pwr.seated ∧ (removalActions s).pwr.pmOff = s.pwr.pmOff := by
  by_cases h : s.pwr.pfail = true
  · rw [removalActions_again h]
    exact ⟨rfl, rfl⟩
  · rw [(removalActions_holds (Bool.eq_false_of_not_eq_true h)).1]
    exact ⟨rfl, rfl⟩

/-! ### The input, the contacts and the PM bus (R568-R572) -/

/-- The power registers after a look at the input voltage. -/
def inputPwr (p : Power) (v : Nat) (up : Bool) : Power :=
  let uv : Bool := if up then p.lockUv && decide (v ≤ 3900) else p.lockUv || decide (v < 3800)
  let ov : Bool := v > 6200
  { p with lockUv := uv, lockOv := ov, status := p.status ||| BitVec.ofNat 4 (b1 (uv && !p.lockUv) + 2 * b1 (ov && !p.lockOv)) }

theorem exec_inputLockout (v : Nat) (up : Bool) :
    exec (.inputLockout v up) s = .next
      (if (inputPwr s.pwr v up).lockUv = true ∨ (inputPwr s.pwr v up).lockOv = true then
        if s.pwr.output then outputOff (withPwr s (inputPwr s.pwr v up)) else withPwr s (inputPwr s.pwr v up)
      else outputOn (withPwr s (inputPwr s.pwr v up))) := rfl

/-- Whatever the output does, it keeps the lock-outs. -/
theorem outputOn_locks : (outputOn s).pwr.lockUv = s.pwr.lockUv ∧ (outputOn s).pwr.lockOv = s.pwr.lockOv := by
  by_cases h : s.pwr.output = true ∨ mayTurnOn s.pwr = false
  · rw [outputOn_stays h]
    exact ⟨rfl, rfl⟩
  · obtain ⟨ho, hm⟩ := not_or.1 h
    rw [(outputOn_on (Bool.eq_false_of_not_eq_true ho) (Bool.eq_true_of_not_eq_false hm)).2]
    exact ⟨rfl, rfl⟩

/-- The clause of O50 about the input voltage. -/
theorem inputLockout_holds (v : Nat) (up : Bool) :
    let p := s.pwr
    let uv : Bool := if up then p.lockUv && decide (v ≤ 3900) else p.lockUv || decide (v < 3800)
    let ov : Bool := v > 6200
    ∃ t, exec (.inputLockout v up) s = .next t ∧ t.pwr.lockUv = uv ∧ t.pwr.lockOv = ov ∧
      (uv = true ∨ ov = true → p.output = true → OutputOff t) ∧
      (uv = false → ov = false → p.output = true → t.cores = s.cores ∧ t.boot = s.boot) ∧
      (uv = true ∨ ov = true → p.output = false → t = { s with pwr := t.pwr } ∧ t.pwr.output = false) ∧
      (p.output = false → uv = false → ov = false → mayTurnOn { p with lockUv := false, lockOv := false } = true → OutputOn s t) := by
  intro p uv ov
  have he := exec_inputLockout (s := s) v up
  have hno {P : Prop} (h : ¬(uv = true ∨ ov = true)) (hc : uv = true ∨ ov = true) : P := absurd hc h
  by_cases hlock : uv = true ∨ ov = true
  · have hgo {P : Prop} (huv : uv = false) (hov : ov = false) : P := by
      rw [huv, hov] at hlock
      exact absurd hlock (by decide)
    have he' := he.trans (congrArg Host.Outcome.next (if_pos hlock))
    by_cases ho : s.pwr.output = true
    · exact ⟨_, he'.trans (congrArg Host.Outcome.next (if_pos ho)), rfl, rfl, fun _ _ => outputOff_off, fun huv hov _ => hgo huv hov,
        fun _ h0 => absurd ho (ne_true_of_eq_false h0), fun _ huv hov => hgo huv hov⟩
    · exact ⟨_, he'.trans (congrArg Host.Outcome.next (if_neg ho)), rfl, rfl, fun _ h0 => absurd h0 ho, fun huv hov _ => hgo huv hov,
        fun _ h0 => ⟨rfl, h0⟩, fun _ huv hov => hgo huv hov⟩
  · obtain ⟨hku, hko⟩ := outputOn_locks (s := withPwr s (inputPwr s.pwr v up))
    refine ⟨_, he.trans (congrArg Host.Outcome.next (if_neg hlock)), hku, hko, hno hlock, fun _ _ ho => ?_, hno hlock,
      fun ho huv hov hm => (outputOn_on (s := withPwr s (inputPwr s.pwr v up)) ho ?_).1⟩
    · rw [outputOn_stays (s := withPwr s (inputPwr s.pwr v up)) (.inl ho)]
      exact ⟨rfl, rfl⟩
    · have hu : (inputPwr s.pwr v up).lockUv = false := huv
      have hv : (inputPwr s.pwr v up).lockOv = false := hov
      show mayTurnOn (inputPwr s.pwr v up) = true
      rw [mayTurnOn, hu, hv]
      exact hm

theorem exec_presenceOpen {c : Nat} (hc : c < 3) :
    exec (.presenceOpen c) s = .next
      (if s.pwr.output then outputOff (removalActions (withPwr s { s.pwr with seated := setFld s.pwr.seated c c 0 }))
      else withPwr s { s.pwr with seated := setFld s.pwr.seated c c 0 }) := if_neg (Nat.not_le.2 hc)

theorem presenceOpen_holds {c : Nat} (hc : c < 3) :
    ∃ t, exec (.presenceOpen c) s = .next t ∧ t.pwr.seated = setFld s.pwr.seated c c 0 ∧ (s.pwr.output = true → OutputOff t) ∧
      (s.pwr.output = false → t = { s with pwr := t.pwr }) := by
  by_cases ho : s.pwr.output = true
  · exact ⟨_, (exec_presenceOpen hc).trans (congrArg Host.Outcome.next (if_pos ho)), removalActions_keeps.1, fun _ => outputOff_off,
      fun h0 => absurd ho (ne_true_of_eq_false h0)⟩
  · exact ⟨_, (exec_presenceOpen hc).trans (congrArg Host.Outcome.next (if_neg ho)), rfl, fun h0 => absurd h0 ho, fun _ => rfl⟩

/-- OPERATION of the PM bus (R571). -/
theorem exec_pmbusOperation (data : Nat) :
    exec (.pmbusCommand 1 data) s =
      if s.pwr.limitOff then .next s
      else if data = 0x80 then .next (outputOn (withPwr s { s.pwr with pmOff := false }))
      else if data = 0x00 then
        .next (if s.pwr.output then outputOff (removalActions (withPwr s { s.pwr with pmOff := true }))
          else withPwr s { s.pwr with pmOff := true })
      else .next s := rfl

/-- A measurement of the PM bus is a free value of 16 bits (R572). -/
def pmMeasured (s : State) : State :=
  { s with rdata := ((Config.measured s.free).extractLsb' 0 16).setWidth 64, free := s.free + 1 }

theorem exec_pmbusOther {code : Nat} (data : Nat) (h1 : code ≠ 1) (h3 : code ≠ 3) (h79 : code ≠ 0x79) :
    exec (.pmbusCommand code data) s =
      if code = 0x88 ∨ code = 0x89 ∨ code = 0x8D ∨ code = 0x97 then .next (pmMeasured s) else .next s := by
  have he : exec (.pmbusCommand code data) s = execPmbusCommand code data s := rfl
  rw [he]
  unfold execPmbusCommand
  split
  · exact absurd rfl h1
  · exact absurd rfl h3
  · exact absurd rfl h79
  · rfl

theorem pmMeasured_small : (pmMeasured s).rdata.toNat < 2 ^ 16 := by
  have h : ((Config.measured s.free).extractLsb' 0 16).toNat < 2 ^ 16 := BitVec.isLt _
  show (((Config.measured s.free).extractLsb' 0 16).setWidth 64).toNat < 2 ^ 16
  rw [BitVec.toNat_setWidth]
  omega

theorem pmbus_measures {code : Nat} (data : Nat) (hc : code ∈ [0x88, 0x89, 0x8D, 0x97]) :
    exec (.pmbusCommand code data) s = .next (pmMeasured s) := by
  simp only [List.mem_cons, List.not_mem_nil, or_false] at hc
  rw [exec_pmbusOther data (by omega) (by omega) (by omega), if_pos hc]

/-- Settles O50: a clause for each command and each case of it. -/
theorem hotSwapTurnsTheOutput : Obligations.HotSwapTurnsTheOutput := by
  unfold Obligations.HotSwapTurnsTheOutput
  intro s p off on
  refine ⟨fun h => ?_, fun hb hp => ?_, fun ho => if_neg (ne_true_of_eq_false ho), fun ho => ?_,
    fun hl => congrArg Host.Outcome.next (if_neg (ne_true_of_eq_false hl)), fun hl ho hm => ?_, fun hl ho => ?_, fun hl hm => ?_,
    fun v up => inputLockout_holds v up, fun ho => ?_, fun ho hm => ?_, fun ho hm => ?_, fun c hc => if_pos hc,
    fun c hc => presenceOpen_holds hc, fun code data h1 h3 h79 h88 h89 h8D h97 => ?_, fun data => ⟨rfl, rfl, fun code hc => ?_, fun h => ?_⟩,
    fun hl ho => ?_, fun hl h => ?_, fun hl ho => ?_, fun hl ho hm => ?_⟩
  · refine congrArg Host.Outcome.next ?_
    by_cases hb : s.boot = .off
    · exact if_pos hb
    · exact (if_neg hb).trans (removalActions_again (h.resolve_left hb))
  · obtain ⟨hpwr, hz, hboot⟩ := removalActions_holds hp
    exact ⟨_, congrArg Host.Outcome.next (if_neg hb), by rw [hpwr], by rw [hpwr], hz, by rw [hpwr], hboot⟩
  · exact ⟨_, if_pos ho, ⟨rfl, rfl, rfl, rfl⟩, rfl, rfl⟩
  · obtain ⟨hon, hpwr⟩ := outputOn_on (s := withPwr s { p with limitOff := false }) ho hm
    exact ⟨_, congrArg Host.Outcome.next (if_pos hl), hon, congrArg (·.limitOff) hpwr⟩
  · exact congrArg Host.Outcome.next ((if_pos hl).trans (outputOn_stays (s := withPwr s { p with limitOff := false }) (.inl ho)))
  · exact congrArg Host.Outcome.next ((if_pos hl).trans (outputOn_stays (s := withPwr s { p with limitOff := false }) (.inr hm)))
  · exact congrArg Host.Outcome.next (outputOn_stays (s := withPwr s { p with seated := 7 }) (.inl ho))
  · obtain ⟨hon, hpwr⟩ := outputOn_on (s := withPwr s { p with seated := 7 }) ho hm
    exact ⟨_, rfl, hon, congrArg (·.seated) hpwr⟩
  · exact congrArg Host.Outcome.next (outputOn_stays (s := withPwr s { p with seated := 7 }) (.inr hm))
  · rw [exec_pmbusOther data h1 h3 h79, if_neg (by omega)]
  · exact ⟨_, pmbus_measures data hc, rfl, pmMeasured_small⟩
  · rw [exec_pmbusOperation]
    rcases h with h | ⟨h0, h80⟩
    · rw [if_pos h]
    · rw [if_neg h80, if_neg h0, ite_self]
  · rw [exec_pmbusOperation, if_neg (ne_true_of_eq_false hl), if_neg (by decide), if_pos rfl, if_neg (ne_true_of_eq_false ho)]
    rfl
  · rw [exec_pmbusOperation, if_neg (ne_true_of_eq_false hl), if_pos rfl,
      outputOn_stays (s := withPwr s { s.pwr with pmOff := false }) h]
    rfl
  · refine ⟨outputOff (removalActions (withPwr s { s.pwr with pmOff := true })), ?_, outputOff_off, removalActions_keeps.2⟩
    rw [exec_pmbusOperation, if_neg (ne_true_of_eq_false hl), if_neg (by decide), if_pos rfl, if_pos ho]
  · obtain ⟨hon, hpwr⟩ := outputOn_on (s := withPwr s { p with pmOff := false }) ho hm
    refine ⟨_, ?_, hon, congrArg (·.pmOff) hpwr⟩
    rw [exec_pmbusOperation, if_neg (ne_true_of_eq_false hl), if_pos rfl]

end Sys2Proof.Machine
end

section
/-! SUPPORT. The resets and the start sequences; the obligation ResetsLeaveWhatTheyKeep. -/

namespace Sys2Proof.Machine

variable {s : State}

/-! ### Boot verification (R512, R540) -/

/-- What no part of a start touches: the life cycle, the count of cold starts, the commands to come and the reference source. -/
def bootKept (s : State) : BitVec 3 × BitVec 24 × List Instr × Bool := (s.nv.lcState, s.nv.coldCount, s.pending, s.glb.refsrc)

/-- Firmware is loaded, or the device stops in recovery. -/
theorem loadFirmware_boot : ((loadFirmware s).boot = s.boot ∨ (loadFirmware s).boot = .stopped) ∧ (loadFirmware s).nv = s.nv ∧
    bootKept (loadFirmware s) = bootKept s := by
  unfold loadFirmware
  split
  · exact ⟨.inl rfl, rfl, rfl⟩
  · exact ⟨.inr rfl, rfl, rfl⟩

theorem bootKept_boot (s : State) (b : Boot) : bootKept { s with boot := b } = bootKept s := rfl

/-- The boot code stops, or leaves the boot state as it is. -/
theorem bootRom_boot : ((bootRom s).boot = s.boot ∨ (bootRom s).boot = .stopped) ∧ (bootRom s).nv = s.nv ∧
    bootKept (bootRom s) = bootKept s := by
  unfold bootRom
  split
  · exact ⟨.inr rfl, rfl, rfl⟩
  · exact loadFirmware_boot

/-- In BLANK and in SCRAPPED nothing is booted. -/
theorem bootRom_barred (h : s.nv.lcState = 0 ∨ s.nv.lcState = 5) : bootRom s = { s with boot := .stopped } := if_pos h

theorem appendEntry_bootKept (s : State) (e : BitVec 128) : bootKept (appendEntry s e) = bootKept s := by
  unfold appendEntry
  split <;> rfl

theorem repairAll_bootKept (source : Nat) (fs : List TestFailure) : bootKept (repairAll s source fs) = bootKept s :=
  repairAll_keeps bootKept appendEntry_bootKept ..

/-- A measurement of the cores' energy writes the power part alone. -/
theorem calibrate_touches (l : Nat) (cs : List Nat) :
    calibrate s l cs = { s with free := (calibrate s l cs).free, pwr := (calibrate s l cs).pwr } := rfl

theorem interpolateAll_touches (cs : List Nat) :
    interpolateAll s cs = { s with free := (interpolateAll s cs).free, pwr := (interpolateAll s cs).pwr } := rfl

theorem calibrateStart_touches : calibrateStart s = { s with free := (calibrateStart s).free, pwr := (calibrateStart s).pwr } := by
  rw [calibrateStart, interpolateAll_touches, calibrate_touches 3, calibrate_touches 0]

/-- The map of the cores, and the first measurements, leave no core's state. -/
theorem mapAndMeasure_bootKept : bootKept (mapAndMeasure s) = bootKept s ∧ (mapAndMeasure s).cores = [] := by
  rw [mapAndMeasure, calibrateStart_touches]
  dsimp only [bootKept, buildRemap]
  exact ⟨rfl, rfl⟩

theorem burnFuses_bootKept : bootKept (burnFuses s) = bootKept s := by
  unfold burnFuses
  dsimp only
  split <;> rfl

theorem burnFuses_rest : (burnFuses s).boot = s.boot ∧ (burnFuses s).ddrDone = s.ddrDone ∧ (burnFuses s).sdio = s.sdio ∧
    (burnFuses s).cores = s.cores := by
  unfold burnFuses
  dsimp only
  split <;> exact ⟨rfl, rfl, rfl, rfl⟩

/-- A device that becomes Ready changes none of its cores. -/
theorem becomeReady_holds : (becomeReady s).boot = .ready ∧ (becomeReady s).ddrDone = true ∧ (becomeReady s).sdio.ready = true ∧
    (becomeReady s).cores = s.cores ∧ bootKept (becomeReady s) = bootKept s := by
  obtain ⟨hboot, hddr, hsdio, hcores⟩ := burnFuses_rest (s := { s with
    boot := .ready, ddrDone := true, sdio := { s.sdio with ready := true }, fab := { s.fab with rbBuilt := true } })
  have hkept := burnFuses_bootKept (s := { s with
    boot := .ready, ddrDone := true, sdio := { s.sdio with ready := true }, fab := { s.fab with rbBuilt := true } })
  rw [becomeReady, bookReach_touches]
  exact ⟨hboot, hddr, congrArg (·.ready) hsdio, hcores, hkept⟩

/-! ### The start sequences (R540, R542) -/

/-- The device at the begin of a start, its clocks chosen. -/
def clocked (s : State) (refclk : Bool) : State := { s with glb := { s.glb with refsrc := !refclk, pllLock := true } }

/-- The cold start is counted, and its test's failures are repaired. -/
def coldCounted (s : State) (fs : List TestFailure) : State :=
  repairAll (reconcile { s with nv := { s.nv with coldCount := s.nv.coldCount + 1 } }) 0 fs

theorem coldSequence_eq (refclk : Bool) (fs : List TestFailure) :
    coldSequence s refclk fs =
      if (bootRom (clocked s refclk)).boot = .stopped then bootRom (clocked s refclk)
      else if waystationBad (coldCounted (bootRom (clocked s refclk)) fs) fs then
        { coldCounted (bootRom (clocked s refclk)) fs with boot := .defective }
      else { mapAndMeasure (coldCounted (bootRom (clocked s refclk)) fs) with boot := .training } := rfl

theorem warmSequence_eq (refclk : Bool) :
    warmSequence s refclk =
      if (bootRom (clocked s refclk)).boot = .stopped then bootRom (clocked s refclk)
      else if waystationBad (bootRom (clocked s refclk)) [] then { bootRom (clocked s refclk) with boot := .defective }
      else becomeReady (mapAndMeasure (bootRom (clocked s refclk))) := rfl

/-- What a start keeps, and where it may end. -/
structure Booted (s t : State) (refclk : Bool) (goal : Boot) : Prop where
  pending : t.pending = s.pending
  lcState : t.nv.lcState = s.nv.lcState
  boot : t.boot = .stopped ∨ t.boot = .defective ∨ t.boot = goal
  refsrc : t.glb.refsrc = !refclk
  barred : s.nv.lcState = 0 ∨ s.nv.lcState = 5 → t.boot = .stopped ∧ t.nv = s.nv

/-- What is kept of a start's device is kept of the device it starts from. -/
theorem Booted.of_kept {t : State} {refclk : Bool} {goal : Boot}
    (hk : ∃ n, bootKept t = (s.nv.lcState, n, s.pending, !refclk)) (hb : t.boot = .stopped ∨ t.boot = .defective ∨ t.boot = goal)
    (hbar : s.nv.lcState = 0 ∨ s.nv.lcState = 5 → t.boot = .stopped ∧ t.nv = s.nv) : Booted s t refclk goal := by
  obtain ⟨n, hn⟩ := hk
  obtain ⟨hlc, -, hpend, href⟩ : _ ∧ _ ∧ _ ∧ _ := by simpa only [bootKept, Prod.mk.injEq] using hn
  exact ⟨hpend, hlc, hb, href, hbar⟩

theorem bootRom_clocked (refclk : Bool) :
    bootKept (bootRom (clocked s refclk)) = (s.nv.lcState, s.nv.coldCount, s.pending, !refclk) := bootRom_boot.2.2

theorem bootRom_clocked_barred {refclk : Bool} (h : s.nv.lcState = 0 ∨ s.nv.lcState = 5) :
    (bootRom (clocked s refclk)).boot = .stopped ∧ (bootRom (clocked s refclk)).nv = s.nv := by
  rw [bootRom_barred (s := clocked s refclk) h]
  exact ⟨rfl, rfl⟩

theorem coldCounted_bootKept (fs : List TestFailure) :
    bootKept (coldCounted s fs) = (s.nv.lcState, s.nv.coldCount + 1, s.pending, s.glb.refsrc) := repairAll_bootKept ..

theorem coldCounted_clocked (refclk : Bool) (fs : List TestFailure) :
    bootKept (coldCounted (bootRom (clocked s refclk)) fs) = (s.nv.lcState, s.nv.coldCount + 1, s.pending, !refclk) := by
  obtain ⟨hlc, hcnt, hpend, href⟩ : _ ∧ _ ∧ _ ∧ _ := by
    simpa only [bootKept, Prod.mk.injEq] using bootRom_clocked (s := s) refclk
  rw [coldCounted_bootKept, hlc, hcnt, hpend, href]

/-- A cold start ends in training, defective or stopped; in training it was counted and no core holds anything. -/
theorem coldSequence_booted (refclk : Bool) (fs : List TestFailure) :
    Booted s (coldSequence s refclk fs) refclk .training ∧
      ((coldSequence s refclk fs).boot = .training →
        (coldSequence s refclk fs).nv.coldCount = s.nv.coldCount + 1 ∧ (coldSequence s refclk fs).cores = []) := by
  have hkept := coldCounted_clocked (s := s) refclk fs
  obtain ⟨hmap, hcores⟩ := mapAndMeasure_bootKept (s := coldCounted (bootRom (clocked s refclk)) fs)
  obtain ⟨-, hcount, -⟩ : _ ∧ _ ∧ _ := by simpa only [bootKept, Prod.mk.injEq] using hmap.trans hkept
  rw [coldSequence_eq]
  by_cases h : (bootRom (clocked s refclk)).boot = .stopped
  · rw [if_pos h]
    refine ⟨.of_kept ⟨_, bootRom_clocked refclk⟩ (.inl h) bootRom_clocked_barred, fun ht => ?_⟩
    rw [h] at ht
    cases ht
  · have hlive : ∀ {P : Prop}, s.nv.lcState = 0 ∨ s.nv.lcState = 5 → P := fun hl => absurd (bootRom_clocked_barred hl).1 h
    rw [if_neg h]
    split
    · exact ⟨.of_kept ⟨_, hkept⟩ (.inr (.inl rfl)) hlive, fun ht => by cases ht⟩
    · generalize mapAndMeasure (coldCounted (bootRom (clocked s refclk)) fs) = m at hmap hcores hcount ⊢
      exact ⟨.of_kept ⟨_, (bootKept_boot ..).trans (hmap.trans hkept)⟩ (.inr (.inr rfl)) hlive, fun _ => ⟨hcount, hcores⟩⟩

/-- A warm start ends Ready, defective or stopped. -/
theorem warmSequence_booted (refclk : Bool) : Booted s (warmSequence s refclk) refclk .ready := by
  have hkept := bootRom_clocked (s := s) refclk
  rw [warmSequence_eq]
  by_cases h : (bootRom (clocked s refclk)).boot = .stopped
  · rw [if_pos h]
    exact .of_kept ⟨_, hkept⟩ (.inl h) bootRom_clocked_barred
  · have hlive : ∀ {P : Prop}, s.nv.lcState = 0 ∨ s.nv.lcState = 5 → P := fun hl => absurd (bootRom_clocked_barred hl).1 h
    rw [if_neg h]
    split
    · exact .of_kept ⟨_, hkept⟩ (.inr (.inl rfl)) hlive
    · obtain ⟨hboot, -, -, -, hready⟩ := becomeReady_holds (s := mapAndMeasure (bootRom (clocked s refclk)))
      exact .of_kept ⟨_, hready.trans (mapAndMeasure_bootKept.1.trans hkept)⟩ (.inr (.inr hboot)) hlive

/-! ### The reset commands (R448, R449) -/

theorem exec_coldReset (hb : s.boot ≠ .off) (ref : Bool) (fs : List TestFailure) :
    exec (.coldReset ref fs) s = .next (coldSequence (if s.boot = .coldPending then s else coldState s 7) ref fs) := if_neg hb

/-- The clause of O51 about a cold reset. -/
theorem coldReset_holds (hb : s.boot ≠ .off) (ref : Bool) (fs : List TestFailure) :
    ∃ t, exec (.coldReset ref fs) s = .next t ∧ t.pending = s.pending ∧ t.nv.lcState = s.nv.lcState ∧
      (t.boot = .stopped ∨ t.boot = .defective ∨ t.boot = .training) ∧ t.glb.refsrc = !ref ∧
      (s.nv.lcState = 0 ∨ s.nv.lcState = 5 → t.boot = .stopped ∧ t.nv = (if s.boot = .coldPending then s.nv else quietKeep s.nv)) ∧
      (t.boot = .training → t.nv.coldCount = s.nv.coldCount + 1 ∧ t.cores = []) := by
  refine ⟨_, exec_coldReset hb ref fs, ?_⟩
  by_cases hc : s.boot = .coldPending
  · obtain ⟨h, htrain⟩ := coldSequence_booted (s := s) ref fs
    rw [if_pos hc, if_pos hc]
    exact ⟨h.pending, h.lcState, h.boot, h.refsrc, h.barred, htrain⟩
  · obtain ⟨h, htrain⟩ := coldSequence_booted (s := coldState s 7) ref fs
    rw [if_neg hc, if_neg hc]
    exact ⟨h.pending, h.lcState, h.boot, h.refsrc, h.barred, htrain⟩

/-- The device that a warm reset starts: the one of a reset that is to come, or the warm reset state. -/
theorem exec_warmReset (hb : s.boot ≠ .off) (hc : s.boot ≠ .coldPending) (c : WarmCause) (ref : Bool) :
    exec (.warmReset c ref) s =
      .next (warmSequence (if s.boot = .warmPending then s else warmState s (warmBit c)) ref) := by
  have he : exec (.warmReset c ref) s = execWarmReset c ref s := rfl
  rw [he]
  unfold execWarmReset
  split
  · exact absurd ‹_› hb
  · exact absurd ‹_› hc
  · rw [if_pos ‹_›]
  · rw [if_neg ‹_›]

/-- No warm reset while the device is off or a cold start is to come. -/
theorem exec_warmReset_none (h : s.boot = .off ∨ s.boot = .coldPending) (c : WarmCause) (ref : Bool) :
    exec (.warmReset c ref) s = .next s := by
  have he : exec (.warmReset c ref) s = execWarmReset c ref s := rfl
  rw [he, execWarmReset]
  rcases h with h | h <;> rw [h]

theorem warmReset_holds (hb : s.boot ≠ .off) (hc : s.boot ≠ .coldPending) (c : WarmCause) (ref : Bool) :
    ∃ t, exec (.warmReset c ref) s = .next t ∧ t.pending = s.pending ∧ t.nv.lcState = s.nv.lcState ∧
      (t.boot = .stopped ∨ t.boot = .defective ∨ t.boot = .ready) ∧ (s.nv.lcState = 0 ∨ s.nv.lcState = 5 → t.boot = .stopped) := by
  refine ⟨_, exec_warmReset hb hc c ref, ?_⟩
  split
  · have h := warmSequence_booted (s := s) ref
    exact ⟨h.pending, h.lcState, h.boot, fun hl => (h.barred hl).1⟩
  · have h := warmSequence_booted (s := warmState s (warmBit c)) ref
    exact ⟨h.pending, h.lcState, h.boot, fun hl => (h.barred hl).1⟩

theorem computeReset_holds (cause : BitVec 11) :
    let t := computeReset s cause
    t.convoys = [] ∧ t.hubCvy = [] ∧ t.ingest = [] ∧ t.results = [] ∧ t.fab.buf = [] ∧ t.fab.lanes = [] ∧
      (∀ q ∈ t.tmr, q.2.mode ≠ .pace) ∧ t.boot = s.boot ∧ t.glb.cause = s.glb.cause ||| cause := by
  obtain ⟨hcv, hin, hres, hbuf⟩ := computeReset_emptied (s := s) cause
  obtain ⟨hhub, hlanes, htmr⟩ := computeReset_rest (s := s) cause
  exact ⟨hcv, hhub, hin, hres, hbuf, hlanes, htmr, computeReset_boot _, computeReset_cause _⟩

/-- Settles O51: a clause for each reset. -/
theorem resetsLeaveWhatTheyKeep : Obligations.ResetsLeaveWhatTheyKeep := by
  unfold Obligations.ResetsLeaveWhatTheyKeep
  intro s
  refine ⟨fun hb hs => congrArg Host.Outcome.next (if_pos ⟨hb, hs⟩), fun h => ?_, fun ref fs => ⟨fun hb => if_pos hb, fun hb =>
    coldReset_holds hb ref fs⟩, fun b hb => if_neg hb, fun hb => ⟨if_pos hb, ?_⟩, fun c ref => ⟨fun h => exec_warmReset_none h c ref,
    fun hb hc => warmReset_holds hb hc c ref⟩, fun c => ?_⟩
  · have hn : ¬(s.boot = .off ∧ s.pwr.state ≠ .s4) := fun hc => h.elim (absurd hc.1) hc.2
    exact ⟨coldState s 6, congrArg Host.Outcome.next (if_neg hn), rfl, rfl, rfl, rfl, rfl, rfl, rfl⟩
  · obtain ⟨hboot, hddr, hready, hcores, -⟩ := becomeReady_holds (s := s)
    exact ⟨becomeReady s, if_pos hb, hboot, hddr, hready, hcores⟩
  · exact ⟨_, rfl, computeReset_holds _⟩

end Sys2Proof.Machine
end

section
/-! SUPPORT. Restarts of management, their end and the failures that are counted; the obligation ManagementRestartsAndCounts. -/

namespace Sys2Proof.Machine

variable {s : State}

/-! ### The counters of management across completions (R461, R464) -/

/-- What a completion leaves of the management part, with the cause of the last reset. -/
def mgmtAside (s : State) : BitVec 16 × BitVec 8 × BitVec 4 × BitVec 4 × BitVec 8 × Bool × BitVec 11 :=
  (s.mgmt.ce, s.mgmt.ue, s.mgmt.parity, s.mgmt.selfchk, s.mgmt.restarts, s.mgmt.restarting, s.glb.cause)

theorem complete_mgmtAside (h : Nat) (st : Status) (r : Nat) (ps : List (BitVec 128)) :
    mgmtAside (complete s h st r ps) = mgmtAside s := by
  unfold complete
  split
  · rfl
  · split
    · rfl
    · rw [mgmtAside, answer_mgmt, answer_glb]
      rfl

theorem foldl_mgmtAside {α : Type} {f : State → α → State} (hf : ∀ t x, mgmtAside (f t x) = mgmtAside t) (l : List α) :
    mgmtAside (l.foldl f s) = mgmtAside s := foldl_keeps mgmtAside f hf l s

theorem modShardCores_mgmtAside (c : Nat) (f : Nat → Core → Core) : mgmtAside (modShardCores s c f) = mgmtAside s := by
  rw [modShardCores_touches]
  rfl

theorem stopKeep_mgmtAside (ctx : Nat) : mgmtAside (stopKeep s ctx) = mgmtAside s :=
  foldl_mgmtAside (fun _ _ => by exact foldl_mgmtAside (fun _ _ => by rfl) _) _

theorem breakKeep_mgmtAside (ctx : Nat) (st : Status) : mgmtAside (breakKeep s ctx st) = mgmtAside s := by
  unfold breakKeep
  dsimp only
  split
  · rfl
  · have hfree : mgmtAside (freeSave (stopKeep (modShard s ctx fun x => { x with saving := none, restoring := none }) ctx) ctx) =
        mgmtAside s := (modShardCores_mgmtAside ..).trans ((stopKeep_mgmtAside ctx).trans rfl)
    split <;> split <;> simp only [complete_mgmtAside, hfree]

theorem breakKeeps_mgmtAside (st : Status) : mgmtAside (breakKeeps s st) = mgmtAside s :=
  foldl_mgmtAside (fun _ _ => breakKeep_mgmtAside ..) _

/-! ### A restart (R461, R462) -/

/-- The device whose harts lose their commands, and whose images are broken off. -/
def restartBegun (s : State) : State :=
  breakKeeps ((s.mgmt.hart0.toList ++ s.mgmt.hart1.toList).foldl (fun s h => complete s h stTimeout) s) stTimeout

theorem restartBegun_mgmtAside : mgmtAside (restartBegun s) = mgmtAside s :=
  (breakKeeps_mgmtAside _).trans (foldl_mgmtAside (fun _ _ => complete_mgmtAside ..) _)

/-- A restart of the hart `n` for the cause given, from `s`. -/
structure Restarted (s t : State) (n : Nat) (cause : RestartCause) : Prop where
  restarting : t.mgmt.restarting = true
  harts : t.mgmt.hart0 = none ∧ t.mgmt.hart1 = none
  code : t.mgmt.cause = BitVec.ofNat 4 (rcauseCode cause)
  hart : t.mgmt.hart = BitVec.ofNat 2 n
  restarts : t.mgmt.restarts = satAdd s.mgmt.restarts 1
  ce : t.mgmt.ce = s.mgmt.ce
  ue : t.mgmt.ue = s.mgmt.ue
  parity : t.mgmt.parity = s.mgmt.parity
  selfchk : t.mgmt.selfchk = s.mgmt.selfchk
  reset : t.glb.cause = if cause = .watchdog ∨ cause = .register then s.glb.cause ||| 1 else s.glb.cause

theorem startRestart_eq (n : Nat) (cause : RestartCause) :
    startRestart s n cause = { restartBegun s with
      mgmt := { (restartBegun s).mgmt with
        restarting := true, hart0 := none, hart1 := none, restarts := satAdd (restartBegun s).mgmt.restarts 1
        hart := BitVec.ofNat 2 n, cause := BitVec.ofNat 4 (rcauseCode cause) }
      glb := { (restartBegun s).glb with
        cause := if cause = .watchdog ∨ cause = .register then (restartBegun s).glb.cause ||| 1 else (restartBegun s).glb.cause } } := rfl

theorem restarted_startRestart (n : Nat) (cause : RestartCause) : Restarted s (startRestart s n cause) n cause := by
  obtain ⟨hce, hue, hpar, hself, hrest, -, hreset⟩ : _ ∧ _ ∧ _ ∧ _ ∧ _ ∧ _ ∧ _ := by
    simpa only [mgmtAside, Prod.mk.injEq] using restartBegun_mgmtAside (s := s)
  rw [startRestart_eq, hrest, hreset]
  exact ⟨rfl, ⟨rfl, rfl⟩, rfl, rfl, rfl, hce, hue, hpar, hself, rfl⟩

/-! ### The end of a restart (R463) -/

theorem flushNotices_mgmt (ctx : Nat) : (flushNotices s ctx).mgmt = s.mgmt :=
  foldl_keeps State.mgmt _ (fun _ _ => notice_mgmt ..) _ _

theorem ownNotice_mgmt (p : Packet) (st : Status) (r : Nat) (pay : BitVec 96) : (ownNotice s p st r pay).mgmt = s.mgmt := by
  unfold ownNotice
  split
  · exact notice_mgmt ..
  · rfl

theorem markLosses_mgmt (ctx : Nat) (step : Word) : (markLosses s ctx step).mgmt = s.mgmt := by
  refine foldl_keeps State.mgmt _ (fun t i => ?_) _ _
  dsimp only
  repeat' split
  all_goals rfl

theorem lossNotice_mgmt (p : Packet) : (lossNotice s p).mgmt = s.mgmt := by
  unfold lossNotice
  dsimp only
  split
  · rw [markLosses_mgmt, ownNotice_mgmt]
  · exact ownNotice_mgmt ..

theorem ueNotice_mgmt (p : Packet) : (ueNotice s p).mgmt = s.mgmt := foldl_keeps State.mgmt _ (fun _ _ => notice_mgmt ..) _ _

theorem peerNotice_mgmt (p : Packet) : (peerNotice s p).mgmt = s.mgmt := by
  unfold peerNotice
  dsimp only
  split
  · rfl
  · exact notice_mgmt ..

/-- A notice that firmware takes leaves the management part. -/
theorem anyNotice_mgmt (p : Packet) : (anyNotice s p).mgmt = s.mgmt := by
  unfold anyNotice
  split
  · exact peerNotice_mgmt p
  · split
    · exact ownNotice_mgmt ..
    · exact lossNotice_mgmt p
    · exact ueNotice_mgmt p
    · exact ownNotice_mgmt ..
    · exact ownNotice_mgmt ..
    · rfl

theorem loadFirmware_mgmt : (loadFirmware s).mgmt = { s.mgmt with running := true } := by
  unfold loadFirmware
  split <;> rfl

/-- The state at the end of a restart, before the notices that waited are told. -/
def restartLoaded (s : State) (b : Bool) : State :=
  if b then { s with mgmt := { s.mgmt with restarting := false, flashReload := !b, notices := [] } }
  else loadFirmware { s with mgmt := { s.mgmt with restarting := false, flashReload := !b, notices := [] } }

theorem endRestart_mgmt (b : Bool) : (endRestart s b).mgmt = (restartLoaded s b).mgmt :=
  (foldl_keeps State.mgmt _ (fun _ _ => flushNotices_mgmt _) _ _).trans (foldl_keeps State.mgmt _ (fun _ _ => anyNotice_mgmt _) _ _)

/-- The recorded code runs again, or is reloaded from flash. -/
theorem endRestart_holds (b : Bool) : (endRestart s b).mgmt.restarting = false ∧ (endRestart s b).mgmt.flashReload = !b := by
  rw [endRestart_mgmt]
  unfold restartLoaded
  split
  · exact ⟨rfl, rfl⟩
  · rw [loadFirmware_mgmt]
    exact ⟨rfl, rfl⟩

/-! ### The failures that are counted (R464, R465) -/

/-- The state with other counters of management. -/
def withMgmt (s : State) (m : Mgmt) : State := { s with mgmt := m }

/-- A failure that restarts management, unless a restart is under way. -/
theorem restart_unless {n : Nat} {cause : RestartCause} :
    ∃ t, t = (if s.mgmt.restarting then s else startRestart s n cause) ∧ t.mgmt.restarting = true ∧
      (t.mgmt.ce = s.mgmt.ce ∧ t.mgmt.ue = s.mgmt.ue ∧ t.mgmt.parity = s.mgmt.parity) ∧
      (s.mgmt.restarting = false → Restarted s t n cause) := by
  have h := restarted_startRestart (s := s) n cause
  by_cases hr : s.mgmt.restarting = true
  · rw [if_pos hr]
    exact ⟨s, rfl, hr, ⟨rfl, rfl, rfl⟩, fun h0 => absurd hr (ne_true_of_eq_false h0)⟩
  · rw [if_neg hr]
    exact ⟨_, rfl, h.restarting, ⟨h.ce, h.ue, h.parity⟩, fun _ => h⟩

/-- What the statement says of a restart. -/
theorem Restarted.stated {t : State} {n : Nat} {cause : RestartCause} (h : Restarted s t n cause) :
    t.mgmt.restarting = true ∧ t.mgmt.hart0 = none ∧ t.mgmt.hart1 = none ∧ t.mgmt.cause = BitVec.ofNat 4 (rcauseCode cause) ∧
      t.mgmt.hart = BitVec.ofNat 2 n ∧ t.mgmt.restarts = satAdd s.mgmt.restarts 1 :=
  ⟨h.restarting, h.harts.1, h.harts.2, h.code, h.hart, h.restarts⟩

/-- Parity on a queue entry ends that command, and restarts nothing. -/
theorem parity_complete (h : Nat) {m : Mgmt} (hm : m = { s.mgmt with parity := satAdd s.mgmt.parity 1 }) :
    (complete (withMgmt s m) h stUncorrectable).mgmt.parity = satAdd s.mgmt.parity 1 ∧
      (complete (withMgmt s m) h stUncorrectable).mgmt.restarting = s.mgmt.restarting ∧
      OnlyAnswered s (complete (withMgmt s m) h stUncorrectable) := by
  subst hm
  obtain ⟨-, -, hpar, -, -, hrest, -⟩ : _ ∧ _ ∧ _ ∧ _ ∧ _ ∧ _ ∧ _ := by
    simpa only [mgmtAside, Prod.mk.injEq] using
      complete_mgmtAside (s := withMgmt s { s.mgmt with parity := satAdd s.mgmt.parity 1 }) h stUncorrectable 0 [0]
  exact ⟨hpar, hrest, complete_touches ..⟩

/-- Settles O52: a clause for each failure, the end of a restart and the heartbeat. -/
theorem managementRestartsAndCounts : Obligations.ManagementRestartsAndCounts := by
  unfold Obligations.ManagementRestartsAndCounts
  intro s n restarted
  refine ⟨fun c b hr => if_neg (ne_true_of_eq_false hr), fun c b hr => ⟨_, if_pos hr, endRestart_holds b⟩, fun hn hb hr => ?_,
    fun h => if_neg ?_, fun k => ⟨rfl, ?_⟩, fun b h => if_pos (h.imp_right (congrArg not)), fun hr => ?_, ?_, fun h hq => ?_, fun h hq => ?_,
    fun hr => congrArg Host.Outcome.next (if_pos hr), fun hr => congrArg Host.Outcome.next (if_neg (ne_true_of_eq_false hr))⟩
  · have h := restarted_startRestart (s := s) n .watchdog
    exact ⟨_, if_pos ⟨hn, hb, hr⟩, h.stated, h.reset⟩
  · rintro ⟨hn, hb, hr⟩
    rcases h with h | h | h
    · omega
    · exact h hb
    · exact absurd hr (ne_true_of_eq_false h)
  · obtain ⟨t, ht, hrest, ⟨hce, hue, -⟩, hfirst⟩ := restart_unless (n := n) (cause := .sramError)
      (s := withMgmt s { s.mgmt with ce := satAdd s.mgmt.ce k, ue := satAdd s.mgmt.ue 1 })
    exact ⟨t, congrArg Host.Outcome.next ht.symm, hce, hue, hrest, fun h0 => (hfirst h0).stated⟩
  · have h := restarted_startRestart (s := withMgmt s { s.mgmt with selfchk := satAdd s.mgmt.selfchk 1 }) n .selfCheck
    exact ⟨_, if_neg (by rw [hr]; decide), h.stated, h.selfchk⟩
  · obtain ⟨t, ht, hrest, ⟨-, -, hpar⟩, hfirst⟩ := restart_unless (n := n) (cause := .parity)
      (s := withMgmt s { s.mgmt with parity := satAdd s.mgmt.parity 1 })
    exact ⟨t, congrArg Host.Outcome.next ht.symm, hpar, hrest, fun h0 => (hfirst h0).stated⟩
  · obtain ⟨hpar, hrest, honly⟩ := parity_complete (s := s) h rfl
    exact ⟨_, congrArg Host.Outcome.next (if_pos hq), findCmd_complete .., honly, hpar, hrest⟩
  · exact congrArg Host.Outcome.next (if_neg (ne_true_of_eq_false hq))

end Sys2Proof.Machine
end

section
/-! SUPPORT. Words of a tile's gates and the boundary of the window; for GatesPortsAndTileRegisters. -/

namespace Sys2Proof.Machine

variable {s : State}

/-! ### Words of a tile's gates (R363) -/

/-- A gate's word, and the gate that it is of. -/
theorem isGateWord_iff {core off : Nat} : isGateWord s core off = true ↔
    0x400 ≤ off ∧ off < 0x490 ∧ (off % 16 = 0 ∨ off % 16 = 4) ∧ gateExists s core ((off - 0x400) / 16) = true := by
  simp only [isGateWord, Bool.and_eq_true, Bool.or_eq_true, beq_iff_eq, decide_eq_true_eq, and_assoc]

/-- Every gate's word is a declared register. -/
theorem tileDeclared_gate {off : Nat} (hl : 0x400 ≤ off) (hh : off < 0x490) : tileDeclared off = true := by
  simp only [tileDeclared, Bool.or_eq_true, Bool.and_eq_true, decide_eq_true_eq]
  omega

/-- The command and the convoy unit write no gate. -/
theorem tileRefuses_high {mid core off : Nat} (v : Word) (hg : isGateWord s core off = true) (hm : 0xC ≤ mid) :
    tileRefuses s core mid off v = some stAccess := by
  obtain ⟨hl, -, -, -⟩ := isGateWord_iff.1 hg
  refine if_pos ?_
  rcases Nat.eq_or_lt_of_le hm with h | h
  · exact .inr (.inl ⟨h.symm, by omega, by omega⟩)
  · exact .inl h

/-- A gate's word is refused by the lock, but to MID 0x2 and 0x6, and by the gate's rules. -/
theorem tileRefuses_gate {mid core off : Nat} (v : Word) (hg : isGateWord s core off = true) (hm : mid < 0xC) :
    tileRefuses s core mid off v =
      if s.glb.locked && !(mid == 2 || mid == 6) then some stLocked
      else if gateWriteOk s core ((off - 0x400) / 16) (off % 16 == 4) v then none else some stAccess := by
  obtain ⟨hl, hh, -, -⟩ := isGateWord_iff.1 hg
  have hno : ¬(mid ≥ 0xD ∨ (mid = 0xC ∧ off ≠ 0x104 ∧ off ≠ 0x114) ∨ (!tileDeclared off) = true) := by
    rw [tileDeclared_gate hl hh]
    rintro (h | ⟨h, -⟩ | h)
    · omega
    · omega
    · exact absurd h (by decide)
  exact (if_neg hno).trans (if_pos hg)

theorem tileWriteBy_refused {mid core off : Nat} {v : Word} {st : Status} (h : tileRefuses s core mid off v = some st) :
    tileWriteBy s core mid off v = violTile s core mid (devNo s) 0 st (tileAddr core off) := by
  rw [tileWriteBy, h]

/-- A gate's word that is taken waits in the gate. -/
theorem tileWriteBy_gate {mid core off : Nat} {v : Word} (hg : isGateWord s core off = true) (hm : mid < 0xC)
    (h : tileRefuses s core mid off v = none) :
    tileWriteBy s core mid off v =
      let x := tileGate s core ((off - 0x400) / 16)
      setTileGate s core ((off - 0x400) / 16) (if off % 16 = 4 then { x with pendB := some v } else { x with pendA := some v }) := by
  obtain ⟨hl, hh, hword, hex⟩ := isGateWord_iff.1 hg
  rw [tileWriteBy, h]
  dsimp only
  rw [if_neg (by omega), tileWrite, if_pos ⟨hl, hh⟩, if_pos hword, gateWrite, hex]
  by_cases h4 : off % 16 = 4
  · rw [if_pos h4, decide_eq_true h4]
    rfl
  · rw [if_neg h4, decide_eq_false h4]
    rfl

theorem tileGate_setTileGate (core g : Nat) (x : Gate) : tileGate (setTileGate s core g x) core g = x :=
  (nget_nset ..).trans (if_pos rfl)

theorem exec_tileTollWrite {core off : Nat} (hg : isGateWord s core off = true) (mid : Nat) (v : Word) :
    exec (.tileTollWrite mid core off v) s = .next (tileWriteBy s core mid off v) := congrArg Host.Outcome.next (if_pos hg)

/-- The clause of O54 about a gate's word. -/
theorem tileTollWrite_holds {core off : Nat} (hg : isGateWord s core off = true) (mid : Nat) (v : Word) :
    let g := (off - 0x400) / 16
    let x := tileGate s core g
    (0xC ≤ mid → exec (.tileTollWrite mid core off v) s =
      .next (violTile s core mid (devNo s) 0 stAccess (tileAddr core off))) ∧
    (s.glb.locked = true → mid < 0xC → mid ≠ 2 → mid ≠ 6 → exec (.tileTollWrite mid core off v) s =
      .next (violTile s core mid (devNo s) 0 stLocked (tileAddr core off))) ∧
    (mid < 0xC → s.glb.locked = false ∨ mid = 2 ∨ mid = 6 →
      (gateWriteOk s core g (off % 16 == 4) v = false → exec (.tileTollWrite mid core off v) s =
        .next (violTile s core mid (devNo s) 0 stAccess (tileAddr core off))) ∧
      (gateWriteOk s core g (off % 16 == 4) v = true → ∃ t, exec (.tileTollWrite mid core off v) s = .next t ∧
        (tileGate t core g).a = x.a ∧ (tileGate t core g).b = x.b ∧ (tileGate t core g).used = x.used ∧
        (off % 16 = 0 → (tileGate t core g).pendA = some v) ∧ (off % 16 = 4 → (tileGate t core g).pendB = some v) ∧
        t = { s with fab := { s.fab with gates := t.fab.gates } })) := by
  intro g x
  have he := exec_tileTollWrite (s := s) hg mid v
  have hviol {st : Status} (h : tileRefuses s core mid off v = some st) := he.trans (congrArg Host.Outcome.next (tileWriteBy_refused h))
  refine ⟨fun hm => hviol (tileRefuses_high v hg hm), fun hl hm h2 h6 => hviol ((tileRefuses_gate v hg hm).trans (if_pos ?_)),
    fun hm hl => ?_⟩
  · simp [hl, h2, h6]
  · have hopen : ¬(s.glb.locked && !(mid == 2 || mid == 6)) = true := by
      rcases hl with hl | hl | hl <;> simp [hl]
    have hr := (tileRefuses_gate v hg hm).trans (if_neg hopen)
    refine ⟨fun hok => hviol (hr.trans (if_neg (ne_true_of_eq_false hok))), fun hok => ?_⟩
    refine ⟨_, he.trans (congrArg Host.Outcome.next (tileWriteBy_gate hg hm (hr.trans (if_pos hok)))), ?_⟩
    dsimp only
    rw [tileGate_setTileGate]
    by_cases h4 : off % 16 = 4
    · rw [if_pos h4]
      exact ⟨rfl, rfl, rfl, fun h0 => by omega, fun _ => rfl, rfl⟩
    · rw [if_neg h4]
      exact ⟨rfl, rfl, rfl, fun _ => rfl, fun h => absurd h h4, rfl⟩

/-! ### The boundary of the window (R366, R371) -/

/-- The parts of the fabric that a packet of a core does not touch. -/
def gatesAside (s : State) : NMap Gate × NMap Gate × Gate × Gate × Word × List Packet :=
  (s.fab.gates, s.fab.ddr, s.fab.cmd, s.fab.cvy, s.fab.win, s.fab.hub)

theorem coreSend_gatesAside (n : Nat) (p : Packet) : gatesAside (coreSend s n p) = gatesAside s := by
  unfold coreSend
  split <;> rfl

theorem turnCore_gatesAside (s : State) (n : Nat) : gatesAside (turnCore s n) = gatesAside s :=
  (foldl_keeps gatesAside _ (fun _ _ => coreSend_gatesAside _ _) _ _).trans rfl

/-- A memory channel's gate at the boundary: the words that wait are in force, and its share is carried over. -/
def ddrTurn (pl : Nat) (g : Gate) : Gate := { g.turn with carry := ddrCarry pl g }

/-- The gates of the sixteen memory channels at the boundary. -/
def ddrTurned (pl : Nat) (m : NMap Gate) : NMap Gate :=
  (List.range 16).foldl (fun m c => nset gateDdr m c (ddrTurn pl (nget gateDdr m c))) m

/-- The fabric's gates with the waiting words in force and nothing used. -/
def gatesTurned (s : State) : State :=
  { s with fab := { s.fab with
    gates := turnGates (fun k => gateReset (k % 16)) Gate.turn s.fab.gates
    ddr := ddrTurned s.pwr.pl.toNat s.fab.ddr
    cmd := s.fab.cmd.turn, cvy := s.fab.cvy.turn, win := s.fab.win + 1 } }

theorem turnWindow_eq : turnWindow s = (s.cores.map Prod.fst).foldl turnCore (gatesTurned s) := rfl

theorem turnWindow_gatesAside : gatesAside (turnWindow s) = gatesAside (gatesTurned s) := by
  rw [turnWindow_eq]
  exact foldl_keeps gatesAside turnCore turnCore_gatesAside _ _

/-- Learning that does not go on uses nothing of the core's gates. -/
theorem learnGo_idle (v : Env) (w : Word) (n : Nat) {e : Eff} (h : e.core.lrn.work = none) : learnGo v w n e = e := by
  cases n with
  | zero => rfl
  | succ n => rw [learnGo, h]

/-- A core with nothing used of its two gates. -/
def GatesFresh (c : Core) : Prop := c.ports.dp = [] ∧ c.ports.mem = []

theorem getCore_turnCore_self {n : Nat} (h : (getCore s n).lrn.work = none) :
    GatesFresh (getCore (turnCore s n) n) ∧ (getCore (turnCore s n) n).lrn.work = none := by
  rw [turnCore]
  dsimp only
  rw [getCore_applyEff, learnResume, learnGo_idle _ _ _ (by exact h), wakeWord_touches]
  exact ⟨⟨rfl, rfl⟩, h⟩

theorem getCore_turnCore_other {n k : Nat} (hk : k ≠ n) : getCore (turnCore s n) k = getCore s k := otherCores_applyEff _ k hk

theorem getCore_foldl_turnCore {l : List Nat} {n : Nat} (h : (getCore s n).lrn.work = none) (hn : n ∈ l ∨ GatesFresh (getCore s n)) :
    GatesFresh (getCore (l.foldl turnCore s) n) := by
  induction l generalizing s with
  | nil => exact hn.resolve_left List.not_mem_nil
  | cons k l ih =>
    rw [List.foldl_cons]
    by_cases hk : n = k
    · subst hk
      obtain ⟨hfresh, hwork⟩ := getCore_turnCore_self h
      exact ih hwork (.inr hfresh)
    · have ho := getCore_turnCore_other (s := s) hk
      refine ih (by rw [ho]; exact h) ?_
      rw [ho]
      exact hn.imp_left fun hm => (List.mem_cons.1 hm).resolve_left hk

theorem getCore_turnWindow {n : Nat} (h : (getCore s n).lrn.work = none) : GatesFresh (getCore (turnWindow s) n) := by
  rw [turnWindow_eq]
  refine getCore_foldl_turnCore (s := gatesTurned s) h ?_
  rcases nget_mem ({} : Core) s.cores n with hd | hm
  · refine .inr ?_
    have hc : getCore (gatesTurned s) n = {} := hd
    rw [hc]
    exact ⟨rfl, rfl⟩
  · exact .inl (List.mem_map.2 ⟨_, hm, rfl⟩)

/-- A map whose entries are rewritten one after another, each once. -/
theorem nget_foldl_nset {α : Type} [DecidableEq α] (d : α) (f : α → α) {l : List Nat} (hl : l.Nodup) (m : NMap α) (c : Nat) :
    nget d (l.foldl (fun m c => nset d m c (f (nget d m c))) m) c = if c ∈ l then f (nget d m c) else nget d m c := by
  induction l generalizing m with
  | nil => rfl
  | cons k l ih =>
    obtain ⟨hk, hl⟩ := List.nodup_cons.1 hl
    rw [List.foldl_cons, ih hl, nget_nset]
    by_cases hc : c = k
    · subst hc
      rw [if_neg hk, if_pos rfl, if_pos List.mem_cons_self]
    · rw [if_neg hc]
      simp only [List.mem_cons, hc, false_or]

theorem nget_ddrTurned (pl : Nat) (m : NMap Gate) {c : Nat} (hc : c < 16) :
    nget gateDdr (ddrTurned pl m) c = ddrTurn pl (nget gateDdr m c) :=
  (nget_foldl_nset gateDdr (ddrTurn pl) List.nodup_range m c).trans (if_pos (List.mem_range.2 hc))

/-- The gates of the fabric at the boundary. -/
theorem turnWindow_fab : (turnWindow s).fab.gates = turnGates (fun k => gateReset (k % 16)) Gate.turn s.fab.gates ∧
    (turnWindow s).fab.ddr = ddrTurned s.pwr.pl.toNat s.fab.ddr ∧ (turnWindow s).fab.cmd = s.fab.cmd.turn ∧
    (turnWindow s).fab.cvy = s.fab.cvy.turn ∧ (turnWindow s).fab.win = s.fab.win + 1 ∧ (turnWindow s).fab.hub = s.fab.hub := by
  simpa only [gatesAside, gatesTurned, Prod.mk.injEq] using turnWindow_gatesAside (s := s)

theorem ddrGate_turnWindow {c : Nat} (hc : c < 16) : ddrGate (turnWindow s) c = ddrTurn s.pwr.pl.toNat (ddrGate s c) := by
  rw [ddrGate, turnWindow_fab.2.1]
  exact nget_ddrTurned _ _ hc

theorem nget_of_not_key {α : Type} (d : α) {m : NMap α} {k : Nat} (h : k ∉ m.map Prod.fst) : nget d m k = d :=
  (nget_mem d m k).resolve_right fun hm => h (List.mem_map.2 ⟨_, hm, rfl⟩)

/-- A gate turns by itself, whether the map holds it or its reset value. -/
theorem nget_turnGates (d : Nat → Gate) (f : Gate → Gate) {m : NMap Gate} (hm : (m.map Prod.fst).Nodup) (k : Nat) (hd : f (d k) = d k) :
    nget (d k) (turnGates d f m) k = f (nget (d k) m k) := by
  induction m with
  | nil => exact hd.symm
  | cons p m ih =>
    obtain ⟨q, v⟩ := p
    obtain ⟨hq, hm⟩ := List.nodup_cons.1 hm
    have hih := ih hm
    have hcons : turnGates d f ((q, v) :: m) = if f v ≠ d q then (q, f v) :: turnGates d f m else turnGates d f m := by
      simp only [turnGates, List.map_cons, List.filter_cons, decide_eq_true_eq]
    rw [hcons]
    by_cases hk : q = k
    · subst hk
      have hv : nget (d q) ((q, v) :: m) q = v := if_pos rfl
      rw [hv]
      by_cases hne : f v ≠ d q
      · rw [if_pos hne]
        exact if_pos rfl
      · rw [if_neg hne, hih, nget_of_not_key _ hq, hd]
        exact (not_not.1 hne).symm
    · have hv : nget (d k) ((q, v) :: m) k = nget (d k) m k := if_neg hk
      rw [hv, ← hih]
      split
      · exact if_neg hk
      · rfl

/-- A gate at its reset values has no word that waits. -/
theorem turn_gateReset (g : Nat) : (gateReset g).turn = gateReset g := by
  unfold gateReset
  split <;> rfl

theorem tileGate_turnWindow (hw : nwf (fun k => gateReset (k % 16)) s.fab.gates = true) (core : Nat) {g : Nat} (hg : g < 9) :
    tileGate (turnWindow s) core g = (tileGate s core g).turn := by
  have hk : (core * 16 + g) % 16 = g := by omega
  have h := nget_turnGates (fun k => gateReset (k % 16)) Gate.turn (nodup_keys _ _ hw) (core * 16 + g) (turn_gateReset _)
  rw [hk] at h
  rw [tileGate, turnWindow_fab.1]
  exact h

/-- The clause of O54 about the boundary of the window. -/
theorem tollWindowBoundary_holds (core : Nat) :
    ∃ t, exec .tollWindowBoundary s = .next t ∧ t.fab.win = s.fab.win + 1 ∧ t = { s with fab := t.fab, cores := t.cores } ∧
      t.fab.hub = s.fab.hub ∧ t.fab.cmd.used = [] ∧ t.fab.cvy.used = [] ∧
      (∀ n, (getCore s n).lrn.work = none → (getCore t n).ports.dp = [] ∧ (getCore t n).ports.mem = []) ∧
      t.fab.cmd.a = s.fab.cmd.pendA.getD s.fab.cmd.a ∧ t.fab.cvy.b = s.fab.cvy.pendB.getD s.fab.cvy.b ∧
      (∀ c, c < 16 → (ddrGate t c).used = [] ∧ (ddrGate t c).a = (ddrGate s c).pendA.getD (ddrGate s c).a) ∧
      (nwf (fun k => gateReset (k % 16)) s.fab.gates = true → ∀ g, g < 9 → (tileGate t core g).used = [] ∧
        (tileGate t core g).pendA = none ∧ (tileGate t core g).a = (tileGate s core g).pendA.getD (tileGate s core g).a ∧
        (tileGate t core g).b = (tileGate s core g).pendB.getD (tileGate s core g).b) := by
  obtain ⟨-, -, hcmd, hcvy, hwin, hhub⟩ := turnWindow_fab (s := s)
  refine ⟨turnWindow s, rfl, hwin, turnWindow_touches, hhub, by rw [hcmd]; rfl, by rw [hcvy]; rfl, fun n hn => getCore_turnWindow hn,
    by rw [hcmd]; rfl, by rw [hcvy]; rfl, fun c hc => ?_, fun hw g hg => ?_⟩
  · rw [ddrGate_turnWindow hc]
    exact ⟨rfl, rfl⟩
  · rw [tileGate_turnWindow hw core hg]
    exact ⟨rfl, rfl, rfl, rfl⟩

end Sys2Proof.Machine
end

section
/-! SUPPORT. The link shape, the control register of a port and a tile's registers over the mesh; the obligation
GatesPortsAndTileRegisters. -/

namespace Sys2Proof.Machine

variable {s : State} {p : Nat}

/-! ### The shape and the control register of a port (R382, R384, R388) -/

theorem shapeWrite_legal {mid : Nat} {v : Word} (hm : mid ≤ 2) (hl : s.glb.locked = false) (hv : shapeLegal v = true) :
    shapeWrite s mid v = bookReach { s with shape := v &&& 0x1FFFFFFF } :=
  (if_neg (Nat.not_lt.2 hm)).trans ((if_neg (ne_true_of_eq_false hl)).trans (if_neg (ne_true_of_eq_false (congrArg not hv))))

/-- The clauses of O54 about the shape. -/
theorem linkShapeWrite_holds (mid : Nat) (v : Word) :
    (mid ≤ 2 → s.glb.locked = true → exec (.linkShapeWrite mid v) s = .next (clogBar s mid 0x300000 stLocked)) ∧
    (mid ≤ 2 → s.glb.locked = false → shapeLegal v = false → exec (.linkShapeWrite mid v) s = .next (clogBar s mid 0x300000 stAccess)) ∧
    (2 < mid → exec (.linkShapeWrite mid v) s = .next (clogBar s mid 0x300000 stAccess)) ∧
    (mid ≤ 2 → s.glb.locked = false → shapeLegal v = true → ∃ t, exec (.linkShapeWrite mid v) s = .next t ∧
      t.shape = v &&& 0x1FFFFFFF ∧ t.cores = s.cores ∧ t.ports = s.ports) := by
  refine ⟨fun hm hl => congrArg Host.Outcome.next ((if_neg (Nat.not_lt.2 hm)).trans (if_pos hl)), fun hm hl hv => ?_,
    fun hm => congrArg Host.Outcome.next (if_pos hm), fun hm hl hv => ?_⟩
  · exact congrArg Host.Outcome.next ((if_neg (Nat.not_lt.2 hm)).trans
      ((if_neg (ne_true_of_eq_false hl)).trans (if_pos (congrArg not hv))))
  · refine ⟨_, congrArg Host.Outcome.next (shapeWrite_legal hm hl hv), ?_⟩
    rw [bookReach_touches]
    exact ⟨rfl, rfl, rfl⟩

/-- Where the control register is locked, or not the master's to write: the status of the report. -/
theorem ctlLocked_refused {mid : Nat} (h : 2 < mid ∨ s.glb.locked = true) (v : Word) :
    ctlLocked s mid p v = clogBar s mid (portAddr p 0) (if 2 < mid then stAccess else stLocked) := by
  unfold ctlLocked
  dsimp only
  by_cases hm : 2 < mid
  · rw [if_pos hm, if_pos hm]
  · rw [if_neg hm, if_neg hm, if_pos (h.resolve_left hm)]

theorem ctlLocked_open {mid : Nat} (hm : mid ≤ 2) (hl : s.glb.locked = false) (v : Word) :
    ctlLocked s mid p v = setEn (setPort s p { getPort s p with fe := bit v 30, fedev := BitVec.ofNat 9 (fld v 29 21) }) p (bit v 31) :=
  (if_neg (Nat.not_lt.2 hm)).trans (if_neg (ne_true_of_eq_false hl))

/-- A port that is enabled already stays as it is; one that was DISABLED begins to look for its peer. -/
theorem getPort_setEn_true (hp : p < 6) : getPort (setEn s p true) p = { getPort s p with
    en := true, state := if (getPort s p).state = .disabled then .detect else (getPort s p).state } := by
  have hself : getPort (modPort s p fun x => { x with en := true }) p = { getPort s p with en := true } := getPort_modPort_self _
  unfold setEn
  dsimp only
  rw [if_pos rfl, portStep, hself]
  by_cases hd : (getPort s p).state = .disabled
  · rw [if_pos ⟨hp, hd⟩, if_pos hd, getPort_modPort_self, hself]
  · rw [if_neg fun h => hd h.2, if_neg hd, hself]

theorem getPort_setEn_true_other {q : Nat} (hq : q ≠ p) : getPort (setEn s p true) q = getPort s q := by
  unfold setEn portStep
  dsimp only
  rw [if_pos rfl]
  split
  · rw [getPort_modPort_other hq, getPort_modPort_other hq]
  · exact getPort_modPort_other hq _

theorem getPort_setEn_false (hd : (getPort s p).state = .disabled) : getPort (setEn s p false) p = { getPort s p with en := false } := by
  have hself : getPort (modPort s p fun x => { x with en := false }) p = { getPort s p with en := false } := getPort_modPort_self _
  unfold setEn
  dsimp only
  rw [if_neg (by decide), hself, if_pos hd, hself]

/-- A write that leaves EN as it is leaves the state of a port that is enabled exactly when it is not DISABLED. -/
theorem getPort_ctlLocked_state {mid : Nat} {v : Word} (hp : p < 6) (hv : bit v 31 = (getPort s p).en)
    (hen : (getPort s p).en = true ↔ (getPort s p).state ≠ .disabled) :
    (getPort (ctlLocked s mid p v) p).state = (getPort s p).state := by
  by_cases hr : 2 < mid ∨ s.glb.locked = true
  · rw [ctlLocked_refused hr, getPort_clogBar]
  · obtain ⟨hm, hl⟩ := not_or.1 hr
    rw [ctlLocked_open (Nat.not_lt.1 hm) (Bool.eq_false_of_not_eq_true hl), hv]
    cases he : (getPort s p).en with
    | true =>
      rw [getPort_setEn_true hp, getPort_setPort_self]
      exact if_neg (hen.1 he)
    | false =>
      have hd : (getPort s p).state = .disabled := by
        by_contra hd
        rw [hen.2 hd] at he
        cases he
      rw [getPort_setEn_false (by rw [getPort_setPort_self]; exact hd), getPort_setPort_self]

/-- The write of a port's control register, before RETRAIN is looked at. -/
def ctlWritten (s : State) (mid p : Nat) (v : Word) : State := modPort (ctlLocked s mid p v) p fun x => { x with wakeEn := bit v 16 }

theorem portCtl_eq (mid : Nat) (v : Word) : portCtl s mid p v =
    if bit v 15 ∧ (getPort (ctlWritten s mid p v) p).state = .active then toRetrain (ctlWritten s mid p v) p
    else ctlWritten s mid p v := rfl

theorem getPort_ctlWritten (mid : Nat) (v : Word) :
    getPort (ctlWritten s mid p v) p = { getPort (ctlLocked s mid p v) p with wakeEn := bit v 16 } := getPort_modPort_self _

/-- The word that RETRAIN is written with: the register as it stands, and bit 15. -/
def retrainWord (x : Port) : Word := BitVec.ofNat 32 (ctlFields x + b1 x.wakeEn * 2 ^ 16 + 2 ^ 15)

theorem bit_retrainWord (x : Port) : bit (retrainWord x) 15 = true ∧ bit (retrainWord x) 31 = x.en := by
  have hdev := x.fedev.isLt
  have hen : b1 x.en ≤ 1 := by cases x.en <;> decide
  have hfe : b1 x.fe ≤ 1 := by cases x.fe <;> decide
  have hwk : b1 x.wakeEn ≤ 1 := by cases x.wakeEn <;> decide
  have hb : ∀ i, i < 32 → bit (retrainWord x) i = decide ((ctlFields x + b1 x.wakeEn * 2 ^ 16 + 2 ^ 15) / 2 ^ i % 2 = 1) := by
    intro i hi
    rw [retrainWord, bit, BitVec.getLsbD_ofNat, decide_eq_true hi, Bool.true_and, Nat.testBit_eq_decide_div_mod_eq]
  rw [hb 15 (by omega), hb 31 (by omega), ctlFields]
  refine ⟨decide_eq_true (by omega), ?_⟩
  cases he : x.en with
  | true => exact decide_eq_true (by rw [show b1 true = 1 from rfl]; omega)
  | false => exact decide_eq_false (by rw [show b1 false = 0 from rfl]; omega)

theorem exec_portEnable (hp : p < 6) (mid : Nat) (v : Word) : exec (.portEnable mid p v) s = .next (portCtl s mid p v) := if_pos hp

theorem exec_portRetrainRequest (hp : p < 6) (mid : Nat) :
    exec (.portRetrainRequest mid p) s = .next (portCtl s mid p (retrainWord (getPort s p))) := if_pos hp

theorem bit31_of_fld {v : Word} (h : fld v 31 31 = 1) : bit v 31 = true := by
  have hlt := v.isLt
  have ht : v.toNat.testBit 31 = true := by
    rw [Nat.testBit_eq_decide_div_mod_eq]
    exact decide_eq_true h
  exact ht

/-- A port enabled from DISABLED looks for its peer, and no other port changes. -/
theorem portEnable_detects (hp : p < 6) {mid : Nat} {v : Word} (hm : mid ≤ 2) (hl : s.glb.locked = false)
    (hd : (getPort s p).state = .disabled) (hv : fld v 31 31 = 1) :
    ∃ t, exec (.portEnable mid p v) s = .next t ∧ (getPort t p).state = .detect ∧ (getPort t p).en = true ∧
      (getPort t p).wakeEn = bit v 16 ∧ ∀ q, q ≠ p → getPort t q = getPort s q := by
  have hself : getPort (ctlLocked s mid p v) p = { getPort s p with
      en := true, state := .detect, fe := bit v 30, fedev := BitVec.ofNat 9 (fld v 29 21) } := by
    rw [ctlLocked_open hm hl, bit31_of_fld hv, getPort_setEn_true hp, getPort_setPort_self]
    dsimp only
    rw [if_pos hd]
  have hc : portCtl s mid p v = ctlWritten s mid p v := by
    rw [portCtl_eq, getPort_ctlWritten, hself]
    exact if_neg fun h => PortState.noConfusion h.2
  refine ⟨_, exec_portEnable hp mid v, ?_⟩
  rw [hc, getPort_ctlWritten, hself]
  refine ⟨rfl, rfl, rfl, fun q hq => ?_⟩
  rw [ctlWritten, getPort_modPort_other hq, ctlLocked_open hm hl, bit31_of_fld hv, getPort_setEn_true_other hq, getPort_setPort]
  exact if_neg hq

/-- A locked register takes the wake enable alone, and reports the write. -/
theorem portEnable_refused (hp : p < 6) {mid : Nat} {v : Word} (hr : 2 < mid ∨ s.glb.locked = true) (hb : bit v 15 = false) :
    ∃ t, exec (.portEnable mid p v) s = .next t ∧ getPort t p = { getPort s p with wakeEn := bit v 16 } ∧
      t.fab = (clogBar s mid (portAddr p 0) (if 2 < mid then stAccess else stLocked)).fab := by
  have hc : portCtl s mid p v = ctlWritten s mid p v := by
    rw [portCtl_eq]
    exact if_neg fun h => absurd h.1 (ne_true_of_eq_false hb)
  refine ⟨_, exec_portEnable hp mid v, ?_⟩
  rw [hc, getPort_ctlWritten, ctlWritten, ctlLocked_refused hr, getPort_clogBar]
  exact ⟨rfl, rfl⟩

theorem portRetrainRequest_active (hp : p < 6) (mid : Nat) (he : (getPort s p).en = true) (ha : (getPort s p).state = .active) :
    ∃ t, exec (.portRetrainRequest mid p) s = .next t ∧ (getPort t p).state = .retrain := by
  obtain ⟨h15, h31⟩ := bit_retrainWord (getPort s p)
  have hst : (getPort (ctlLocked s mid p (retrainWord (getPort s p))) p).state = .active :=
    (getPort_ctlLocked_state hp h31 ⟨fun _ h => PortState.noConfusion (ha.symm.trans h), fun _ => he⟩).trans ha
  refine ⟨_, exec_portRetrainRequest hp mid, ?_⟩
  rw [portCtl_eq, if_pos ⟨h15, by rw [getPort_ctlWritten]; exact hst⟩, toRetrain_self]

theorem portRetrainRequest_other (hp : p < 6) (mid : Nat) (hen : (getPort s p).en = true ↔ (getPort s p).state ≠ .disabled)
    (ha : (getPort s p).state ≠ .active) :
    ∃ t, exec (.portRetrainRequest mid p) s = .next t ∧ (getPort t p).state = (getPort s p).state := by
  obtain ⟨-, h31⟩ := bit_retrainWord (getPort s p)
  have hst : (getPort (ctlWritten s mid p (retrainWord (getPort s p))) p).state = (getPort s p).state := by
    rw [getPort_ctlWritten]
    exact getPort_ctlLocked_state hp h31 hen
  refine ⟨_, exec_portRetrainRequest hp mid, ?_⟩
  rw [portCtl_eq, if_neg fun h => ha (hst.symm.trans h.2), hst]

/-! ### A tile's registers over the mesh (R362) -/

theorem regRsp_touches (u : State) (n : Nat) (pkt : Packet) (d : Bool) (v : Word) :
    regRsp u n pkt d v = { u with fab := (regRsp u n pkt d v).fab } := coreSend_touches ..

/-- The answer of a read is the register's word; what is read may be cleared, in the core or at its gates. -/
theorem tileReadBy_touches (u : State) (n mid off : Nat) :
    (tileReadBy u n mid off).2 = { u with cores := (tileReadBy u n mid off).2.cores, fab := (tileReadBy u n mid off).2.fab } := by
  unfold tileReadBy
  split
  · exact violTile_touches ..
  · show tileReadClear u n off = _
    unfold tileReadClear clearHeld
    split
    · rfl
    · split
      · split <;> rfl
      · split <;> rfl

theorem tileReadBy_word {u : State} {n mid off : Nat} (h : tileReadRefused mid off = false) :
    (tileReadBy u n mid off).1 = tileRead u n off := congrArg Prod.fst (if_neg (ne_true_of_eq_false h))

theorem otherCores_violTile (u : State) (n mid d sc : Nat) (st : Status) (a : Nat) : OtherCores n u (violTile u n mid d sc st a) := by
  intro k hk
  rw [violTile, clogTile, getCore_coreSendAll, getCore_modCore, if_neg hk]

theorem tileWrite_touches (u : State) (n off : Nat) (v : Word) :
    tileWrite u n off v = { u with cores := (tileWrite u n off v).cores, fab := (tileWrite u n off v).fab } := by
  unfold tileWrite gateWrite
  split
  · split
    · split <;> rfl
    · rfl
  · rfl

/-- A write to a tile is that core's alone. -/
theorem onlyTheCore_tileWriteBy (u : State) (n mid off : Nat) (v : Word) : OnlyTheCore u (tileWriteBy u n mid off v) n := by
  unfold tileWriteBy
  split
  · exact ⟨violTile_touches .., fun k hk => otherCores_violTile _ _ _ _ _ _ _ k hk⟩
  · split
    · exact ⟨rfl, otherCores_modCore _⟩
    · exact ⟨tileWrite_touches .., otherCores_tileWrite off v⟩

theorem exec_regRd (n : Nat) (pkt : Packet) :
    exec (.regRd n pkt) s = .next (regRsp (tileReadBy (portDone s n pkt) n (fld pkt.head 67 64) (stamp pkt % 2 ^ 14)).2 n pkt
      (tileReadRefused (fld pkt.head 67 64) (stamp pkt % 2 ^ 14))
      (tileReadBy (portDone s n pkt) n (fld pkt.head 67 64) (stamp pkt % 2 ^ 14)).1) := rfl

/-- The clause of O54 about REG_RD. -/
theorem regRd_holds (n : Nat) (pkt : Packet) :
    let o := stamp pkt % 2 ^ 14
    let by_ := fld pkt.head 67 64
    let u := portDone s n pkt
    ∃ t, exec (.regRd n pkt) s = .next t ∧
      t = regRsp (tileReadBy u n by_ o).2 n pkt (tileReadRefused by_ o) (tileReadBy u n by_ o).1 ∧ t.rdata = s.rdata ∧ t.hif = s.hif ∧
      (tileReadRefused by_ o = false → (tileReadBy u n by_ o).1 = tileRead u n o) := by
  intro o by_ u
  refine ⟨_, exec_regRd n pkt, rfl, ?_, ?_, tileReadBy_word⟩ <;>
  · rw [regRsp_touches, tileReadBy_touches]
    rfl

/-- The clause of O54 about REG_WR. -/
theorem regWr_holds (n : Nat) (pkt : Packet) :
    let o := stamp pkt % 2 ^ 14
    let by_ := fld pkt.head 67 64
    let u := portDone s n pkt
    ∃ t, exec (.regWr n pkt) s = .next t ∧
      t = regRsp (tileWriteBy u n by_ o (BitVec.ofNat 32 (payload pkt))) n pkt
        (tileRefuses u n by_ o (BitVec.ofNat 32 (payload pkt))).isSome (BitVec.ofNat 32 (payload pkt)) ∧
      t.hif = s.hif ∧ t.shape = s.shape ∧ ∀ k, k ≠ n → getCore t k = getCore s k := by
  intro o by_ u
  obtain ⟨hrest, hother⟩ := (onlyTheCore_portDone (s := s) (pkt := pkt) (n := n)).trans
    (onlyTheCore_tileWriteBy (portDone s n pkt) n by_ o (BitVec.ofNat 32 (payload pkt)))
  refine ⟨_, rfl, rfl, ?_, ?_, fun k hk => (getCore_coreSend ..).trans (hother k hk)⟩ <;>
  · rw [regRsp_touches]
    dsimp only
    rw [hrest]

/-- The oldest request to the tile that answers gets its bytes. -/
theorem exec_regRsp_none {pkt : Packet} (h : s.asked.find? (fun r => r.core == srcCore pkt) = none) :
    exec (.regRsp pkt) s = .next (hubDone s pkt) := by
  have he : exec (.regRsp pkt) s = execRegRsp pkt s := rfl
  rw [he, execRegRsp, h]

theorem exec_regRsp_some {pkt : Packet} {r : TileAsk} (h : s.asked.find? (fun r => r.core == srcCore pkt) = some r) :
    exec (.regRsp pkt) s = .next { hubDone s pkt with
      asked := s.asked.erase r, rdata := putBytes s.rdata (BitVec.ofNat 32 (payload pkt)) r.lo r.n r.at_ } := by
  have he : exec (.regRsp pkt) s = execRegRsp pkt s := rfl
  rw [he, execRegRsp, h]

/-- Settles O54: a clause for each write, the boundary and the registers over the mesh. -/
theorem gatesPortsAndTileRegisters : Obligations.GatesPortsAndTileRegisters := by
  unfold Obligations.GatesPortsAndTileRegisters
  intro s mid core off v
  obtain ⟨hlocked, hillegal, hother, hlegal⟩ := linkShapeWrite_holds (s := s) mid v
  refine ⟨fun hg => tileTollWrite_holds hg mid v, fun hg => congrArg Host.Outcome.next (if_neg (ne_true_of_eq_false hg)),
    tollWindowBoundary_holds core, hlocked, hillegal, hother, hlegal, fun p hp => ⟨fun hm hl _ hd hv => portEnable_detects hp hm hl hd hv,
    fun hm hl hb => ?_, fun hm hb => ?_, portRetrainRequest_active hp mid, portRetrainRequest_other hp mid⟩,
    fun p hp => ⟨if_neg (Nat.not_lt.2 hp), if_neg (Nat.not_lt.2 hp)⟩,
    fun pkt => ⟨regRd_holds core pkt, regWr_holds core pkt, exec_regRsp_none, fun r hr => exec_regRsp_some hr⟩⟩
  · have h := portEnable_refused hp (.inr hl) hb (mid := mid)
    rwa [if_neg (Nat.not_lt.2 hm)] at h
  · have h := portEnable_refused (s := s) hp (.inl hm) hb
    rwa [if_pos hm] at h

end Sys2Proof.Machine
end
